-- ==== Sys2Proof/Word.lean ====
section
/-! DEFINITION. The word types of the RX960 and their plainest arithmetic (spec/00_scope.md R2, R3, R7). -/

namespace Sys2Proof

/-- A byte (Table 0-2). -/
abbrev Byte := BitVec 8
/-- A dword: one scalar register (Table 0-2). -/
abbrev Word := BitVec 64
/-- A 32-bit instruction word (Table 0-2). -/
abbrev IWord := BitVec 32
/-- A vector register (Table 0-2). -/
abbrev Vec := BitVec 512
/-- The program counter: a tile-memory byte offset (R190). -/
abbrev PC := BitVec 18

end Sys2Proof
end

