-- ==== Sys2Proof/Syntax.lean ====
section
/-! DEFINITION. The instructions of the RX960: one constructor per row of spec/opcode_table.json. The first 222 are the
32-bit words of spec/07 to spec/11 and spec/16, with their operand fields as the formats of R194 give them; the last 73
are the device's own steps (spec/95_what_each_step_holds.md), which have no bits and name the unit that takes them:
`th` is 4 * tile + slot, `tile` is 64 * y + x, `graph` is 65536 * partition + handle. -/

namespace Sys2Proof

/-- R466: what a request at the bridge asks: bytes to read, bytes to write, or an atomic of Table 10-3 by its code, with its operands. -/
inductive HostReq where
  | read (n : Nat)
  | write (bytes : List Byte)
  | amo (op : Nat) (cmp val : Word)
  deriving DecidableEq, Repr

/-- R203, R239 to R477: every instruction word and every device step. -/
inductive Instr where
  /-- R239. Does nothing inside the open bight. -/
  | nop
  /-- R241. Commits the bight and waits for the thread's engine commands to retire. The slot then stops, its token FIFOs are cleared and the thread counts as halted. -/
  | halt
  /-- R240. Commits the open bight and opens a new one; it acts as KNOT.W when a wave is pending for the thread. -/
  | knot
  /-- R52. Commits the open bight, waits for any incomplete previous wave, then advances the thread's wave number, writes its checkpoint and emits marker beats on every strand it produces. -/
  | knotW
  /-- R242. Waits until the wave the thread last checkpointed is complete, then writes the graph's last complete wave to sD. -/
  | kwait (d : BitVec 5)
  /-- R243. Writes the tile's 64-bit time counter to sD. -/
  | time (d : BitVec 5)
  /-- R244. Writes the thread's shape, slot, logical thread number and logical tile coordinates to sD. -/
  | tid (d : BitVec 5)
  /-- R239. Passes the slot over for up to three cycles in which another slot is ready. -/
  | yield
  /-- R221. sD := a + b modulo 2^64. -/
  | add (d : BitVec 5) (a : BitVec 5) (b : BitVec 5)
  /-- R221. sD := a - b modulo 2^64. -/
  | sub (d : BitVec 5) (a : BitVec 5) (b : BitVec 5)
  /-- R221. sD := a AND b. -/
  | and (d : BitVec 5) (a : BitVec 5) (b : BitVec 5)
  /-- R221. sD := a OR b. -/
  | or (d : BitVec 5) (a : BitVec 5) (b : BitVec 5)
  /-- R221. sD := a XOR b. -/
  | xor (d : BitVec 5) (a : BitVec 5) (b : BitVec 5)
  /-- R221. sD := a AND NOT b. -/
  | andn (d : BitVec 5) (a : BitVec 5) (b : BitVec 5)
  /-- R221. Shifts a left by b[5:0]. -/
  | shl (d : BitVec 5) (a : BitVec 5) (b : BitVec 5)
  /-- R221. Shifts a right logically by b[5:0]. -/
  | shr (d : BitVec 5) (a : BitVec 5) (b : BitVec 5)
  /-- R221. Shifts a right arithmetically by b[5:0]. -/
  | sra (d : BitVec 5) (a : BitVec 5) (b : BitVec 5)
  /-- R221. Rotates a left by b[5:0]. -/
  | rotl (d : BitVec 5) (a : BitVec 5) (b : BitVec 5)
  /-- R221. sD := the signed minimum of a and b. -/
  | min (d : BitVec 5) (a : BitVec 5) (b : BitVec 5)
  /-- R221. sD := the signed maximum of a and b. -/
  | max (d : BitVec 5) (a : BitVec 5) (b : BitVec 5)
  /-- R221. sD := the unsigned minimum of a and b. -/
  | minu (d : BitVec 5) (a : BitVec 5) (b : BitVec 5)
  /-- R221. sD := the unsigned maximum of a and b. -/
  | maxu (d : BitVec 5) (a : BitVec 5) (b : BitVec 5)
  /-- R221. sD := a if pN[0] = 1, else b. -/
  | sel (d : BitVec 5) (a : BitVec 5) (b : BitVec 5) (n : BitVec 3)
  /-- R222. sD := the low 64 bits of the product. -/
  | mul (d : BitVec 5) (a : BitVec 5) (b : BitVec 5)
  /-- R222. sD := the high 64 bits of the signed product. -/
  | mulh (d : BitVec 5) (a : BitVec 5) (b : BitVec 5)
  /-- R222. sD := the high 64 bits of the unsigned product. -/
  | mulhu (d : BitVec 5) (a : BitVec 5) (b : BitVec 5)
  /-- R222. Signed division truncated toward zero, with fixed results for division by zero and overflow and no trap. -/
  | div (d : BitVec 5) (a : BitVec 5) (b : BitVec 5)
  /-- R222. Unsigned division, with all ones for division by zero. -/
  | divu (d : BitVec 5) (a : BitVec 5) (b : BitVec 5)
  /-- R222. Signed remainder, which takes the sign of the dividend. -/
  | rem (d : BitVec 5) (a : BitVec 5) (b : BitVec 5)
  /-- R222. Unsigned remainder. -/
  | remu (d : BitVec 5) (a : BitVec 5) (b : BitVec 5)
  /-- R223. Counts the leading zero bits of a. -/
  | clz (d : BitVec 5) (a : BitVec 5)
  /-- R223. Counts the trailing zero bits of a. -/
  | ctz (d : BitVec 5) (a : BitVec 5)
  /-- R223. Counts the set bits of a. -/
  | popc (d : BitVec 5) (a : BitVec 5)
  /-- R223. Sign-extends the low byte of a. -/
  | sextb (d : BitVec 5) (a : BitVec 5)
  /-- R223. Sign-extends the low half of a. -/
  | sexth (d : BitVec 5) (a : BitVec 5)
  /-- R223. Sign-extends the low word of a. -/
  | sextw (d : BitVec 5) (a : BitVec 5)
  /-- R228. Writes all ones to pD when a = b, and all zeros otherwise. -/
  | cmpeq (d : BitVec 3) (a : BitVec 5) (b : BitVec 5)
  /-- R228. Writes all ones to pD when a ≠ b, and all zeros otherwise. -/
  | cmpne (d : BitVec 3) (a : BitVec 5) (b : BitVec 5)
  /-- R228. Signed less-than compare into a predicate. -/
  | cmplt (d : BitVec 3) (a : BitVec 5) (b : BitVec 5)
  /-- R228. Signed less-or-equal compare into a predicate. -/
  | cmple (d : BitVec 3) (a : BitVec 5) (b : BitVec 5)
  /-- R228. Unsigned less-than compare into a predicate. -/
  | cmpltu (d : BitVec 3) (a : BitVec 5) (b : BitVec 5)
  /-- R228. Unsigned less-or-equal compare into a predicate. -/
  | cmpleu (d : BitVec 3) (a : BitVec 5) (b : BitVec 5)
  /-- R228. pD := pA AND pB. -/
  | pand (d : BitVec 3) (a : BitVec 3) (b : BitVec 3)
  /-- R228. pD := pA OR pB. -/
  | por (d : BitVec 3) (a : BitVec 3) (b : BitVec 3)
  /-- R228. pD := pA XOR pB. -/
  | pxor (d : BitVec 3) (a : BitVec 3) (b : BitVec 3)
  /-- R228. pD := NOT pA. -/
  | pnot (d : BitVec 3) (a : BitVec 3)
  /-- R228. Copies the 64 bits of sA into pD. -/
  | pset (d : BitVec 3) (a : BitVec 5)
  /-- R228. Copies the 64 bits of pA into sD. -/
  | pget (d : BitVec 5) (a : BitVec 3)
  /-- R224. Adds a sign-extended immediate. -/
  | addi (d : BitVec 5) (a : BitVec 5) (i : BitVec 16)
  /-- R224. ANDs with a sign-extended immediate. -/
  | andi (d : BitVec 5) (a : BitVec 5) (i : BitVec 16)
  /-- R224. ORs with a zero-extended immediate. -/
  | ori (d : BitVec 5) (a : BitVec 5) (i : BitVec 16)
  /-- R224. XORs with a zero-extended immediate. -/
  | xori (d : BitVec 5) (a : BitVec 5) (i : BitVec 16)
  /-- R225. Shifts left by an immediate k. -/
  | shli (d : BitVec 5) (a : BitVec 5) (k : BitVec 6)
  /-- R225. Shifts right logically by an immediate k. -/
  | shri (d : BitVec 5) (a : BitVec 5) (k : BitVec 6)
  /-- R225. Shifts right arithmetically by an immediate k. -/
  | srai (d : BitVec 5) (a : BitVec 5) (k : BitVec 6)
  /-- R226. Loads a sign-extended 21-bit immediate. -/
  | li (d : BitVec 5) (i : BitVec 21)
  /-- R227. Inserts a 16-bit immediate into halfword k of sD. -/
  | lis (d : BitVec 5) (k : BitVec 2) (i : BitVec 16)
  /-- R237. Decrements a loop counter and branches while it is non-zero, reloading chained counters as it falls through. -/
  | loop (n : BitVec 2) (o : BitVec 13)
  /-- R235. Sets COUNT and START of a loop counter from a register, saturating at 2^32 − 1. -/
  | lcsetReg (n : BitVec 2) (b : BitVec 5)
  /-- R235. Sets COUNT and START of a loop counter from a 13-bit immediate. -/
  | lcsetImm (n : BitVec 2) (i : BitVec 13)
  /-- R236. Chains loop counter N to a higher-numbered outer counter M. -/
  | lcchain (n : BitVec 2) (m : BitVec 2)
  /-- R236. Unchains loop counter N. -/
  | lcchainNone (n : BitVec 2)
  /-- R247. Reads a system register into sD after the class check. -/
  | mfs (d : BitVec 5) (r : BitVec 12)
  /-- R248. After the class and ownership checks, commits the bight, waits for earlier engine commands to start and writes a system register. -/
  | mts (a : BitVec 5) (r : BitVec 12)
  /-- R229. Branches when a = b. -/
  | beq (a : BitVec 5) (b : BitVec 5) (o : BitVec 13)
  /-- R229. Branches when a ≠ b. -/
  | bne (a : BitVec 5) (b : BitVec 5) (o : BitVec 13)
  /-- R229. Branches when a < b, signed. -/
  | blt (a : BitVec 5) (b : BitVec 5) (o : BitVec 13)
  /-- R229. Branches when a ≥ b, signed. -/
  | bge (a : BitVec 5) (b : BitVec 5) (o : BitVec 13)
  /-- R229. Branches when a < b, unsigned. -/
  | bltu (a : BitVec 5) (b : BitVec 5) (o : BitVec 13)
  /-- R229. Branches when a ≥ b, unsigned. -/
  | bgeu (a : BitVec 5) (b : BitVec 5) (o : BitVec 13)
  /-- R230. Branches when bit 0 of pN is 1. -/
  | bp (n : BitVec 3) (o : BitVec 13)
  /-- R230. Branches when pN is non-zero. -/
  | bpAny (n : BitVec 3) (o : BitVec 13)
  /-- R230. Branches when pN is all ones. -/
  | bpAll (n : BitVec 3) (o : BitVec 13)
  /-- R230. Branches when bit 0 of pN is 0. -/
  | bnp (n : BitVec 3) (o : BitVec 13)
  /-- R230. Branches when pN is zero. -/
  | bnpAny (n : BitVec 3) (o : BitVec 13)
  /-- R230. Branches when pN is not all ones. -/
  | bnpAll (n : BitVec 3) (o : BitVec 13)
  /-- R231. Jumps PC-relative. -/
  | j (o : BitVec 25)
  /-- R231. Jumps PC-relative and writes the return address to s31. -/
  | call (o : BitVec 25)
  /-- R232. Jumps to the address in sA after the ADDRESS and ALIGN checks. -/
  | jr (a : BitVec 5)
  /-- R232. Jumps to the address in sA and writes the return address to s31. -/
  | callr (a : BitVec 5)
  /-- R287. Loads a sign-extended byte. -/
  | ldb (d : BitVec 5) (a : BitVec 5) (o : BitVec 13)
  /-- R287. Loads a zero-extended byte. -/
  | ldbu (d : BitVec 5) (a : BitVec 5) (o : BitVec 13)
  /-- R287. Loads a sign-extended half. -/
  | ldh (d : BitVec 5) (a : BitVec 5) (o : BitVec 13)
  /-- R287. Loads a zero-extended half. -/
  | ldhu (d : BitVec 5) (a : BitVec 5) (o : BitVec 13)
  /-- R287. Loads a sign-extended word. -/
  | ldw (d : BitVec 5) (a : BitVec 5) (o : BitVec 13)
  /-- R287. Loads a zero-extended word. -/
  | ldwu (d : BitVec 5) (a : BitVec 5) (o : BitVec 13)
  /-- R287. Loads a dword. -/
  | ldd (d : BitVec 5) (a : BitVec 5) (o : BitVec 13)
  /-- R288. Buffers a byte store. -/
  | stb (d : BitVec 5) (a : BitVec 5) (o : BitVec 13)
  /-- R288. Buffers a half store. -/
  | sth (d : BitVec 5) (a : BitVec 5) (o : BitVec 13)
  /-- R288. Buffers a word store. -/
  | stw (d : BitVec 5) (a : BitVec 5) (o : BitVec 13)
  /-- R288. Buffers a dword store. -/
  | std (d : BitVec 5) (a : BitVec 5) (o : BitVec 13)
  /-- R289. Loads with a base plus shifted-index address, in the form given by the form code. -/
  | indexedLoad (d : BitVec 5) (a : BitVec 5) (b : BitVec 5) (f : BitVec 3) (k : BitVec 2)
  /-- R289. Stores with a base plus shifted-index address, in the form given by the form code. -/
  | indexedStore (d : BitVec 5) (a : BitVec 5) (b : BitVec 5) (f : BitVec 3) (k : BitVec 2)
  /-- R290. Loads a dword as an acquire at scope S. -/
  | ldacq (d : BitVec 5) (a : BitVec 5) (s : BitVec 4)
  /-- R290. Buffers a dword store that is released at commit at scope S. -/
  | strel (d : BitVec 5) (a : BitVec 5) (s : BitVec 4)
  /-- R258. Elementwise addition under the governing predicate. -/
  | vadd (d : BitVec 5) (a : BitVec 5) (b : BitVec 5) (t : BitVec 4) (g : BitVec 3)
  /-- R258. Elementwise subtraction. -/
  | vsub (d : BitVec 5) (a : BitVec 5) (b : BitVec 5) (t : BitVec 4) (g : BitVec 3)
  /-- R258. Elementwise multiplication. -/
  | vmul (d : BitVec 5) (a : BitVec 5) (b : BitVec 5) (t : BitVec 4) (g : BitVec 3)
  /-- R258. Elementwise minimum. -/
  | vmin (d : BitVec 5) (a : BitVec 5) (b : BitVec 5) (t : BitVec 4) (g : BitVec 3)
  /-- R258. Elementwise maximum. -/
  | vmax (d : BitVec 5) (a : BitVec 5) (b : BitVec 5) (t : BitVec 4) (g : BitVec 3)
  /-- R258. Elementwise absolute value. -/
  | vabs (d : BitVec 5) (a : BitVec 5) (t : BitVec 4) (g : BitVec 3)
  /-- R258. Elementwise negation. -/
  | vneg (d : BitVec 5) (a : BitVec 5) (t : BitVec 4) (g : BitVec 3)
  /-- R259. vD := vA·vB + vD, rounded once. -/
  | vfma (d : BitVec 5) (a : BitVec 5) (b : BitVec 5) (t : BitVec 4) (g : BitVec 3)
  /-- R259. vD := vA·vB − vD, rounded once. -/
  | vfms (d : BitVec 5) (a : BitVec 5) (b : BitVec 5) (t : BitVec 4) (g : BitVec 3)
  /-- R259. vD := vD − vA·vB, rounded once. -/
  | vfnma (d : BitVec 5) (a : BitVec 5) (b : BitVec 5) (t : BitVec 4) (g : BitVec 3)
  /-- R260. Elementwise AND. -/
  | vand (d : BitVec 5) (a : BitVec 5) (b : BitVec 5) (t : BitVec 4) (g : BitVec 3)
  /-- R260. Elementwise OR. -/
  | vor (d : BitVec 5) (a : BitVec 5) (b : BitVec 5) (t : BitVec 4) (g : BitVec 3)
  /-- R260. Elementwise XOR. -/
  | vxor (d : BitVec 5) (a : BitVec 5) (b : BitVec 5) (t : BitVec 4) (g : BitVec 3)
  /-- R260. Elementwise left shift. -/
  | vshl (d : BitVec 5) (a : BitVec 5) (b : BitVec 5) (t : BitVec 4) (g : BitVec 3)
  /-- R260. Elementwise logical right shift. -/
  | vshr (d : BitVec 5) (a : BitVec 5) (b : BitVec 5) (t : BitVec 4) (g : BitVec 3)
  /-- R260. Elementwise arithmetic right shift. -/
  | vsra (d : BitVec 5) (a : BitVec 5) (b : BitVec 5) (t : BitVec 4) (g : BitVec 3)
  /-- R262. Elementwise equality compare into a predicate. -/
  | vcmpEq (d : BitVec 3) (a : BitVec 5) (b : BitVec 5) (t : BitVec 4) (g : BitVec 3)
  /-- R262. Elementwise not-equal compare into a predicate. -/
  | vcmpNe (d : BitVec 3) (a : BitVec 5) (b : BitVec 5) (t : BitVec 4) (g : BitVec 3)
  /-- R262. Elementwise less-than compare into a predicate. -/
  | vcmpLt (d : BitVec 3) (a : BitVec 5) (b : BitVec 5) (t : BitVec 4) (g : BitVec 3)
  /-- R262. Elementwise less-or-equal compare into a predicate. -/
  | vcmpLe (d : BitVec 3) (a : BitVec 5) (b : BitVec 5) (t : BitVec 4) (g : BitVec 3)
  /-- R262. Elementwise unordered compare into a predicate. -/
  | vcmpUn (d : BitVec 3) (a : BitVec 5) (b : BitVec 5) (t : BitVec 4) (g : BitVec 3)
  /-- R263. Selects each element from vA or vB by pN. -/
  | vsel (d : BitVec 5) (a : BitVec 5) (b : BitVec 5) (t : BitVec 4) (n : BitVec 3)
  /-- R264. Copies vA to vD in the active elements. -/
  | vmov (d : BitVec 5) (a : BitVec 5) (t : BitVec 4) (g : BitVec 3)
  /-- R264. Broadcasts the low bits of sA into the active elements. -/
  | vbcast (d : BitVec 5) (a : BitVec 5) (t : BitVec 4) (g : BitVec 3)
  /-- R265. Extracts element sB of vA into sD. -/
  | vext (d : BitVec 5) (a : BitVec 5) (b : BitVec 5) (t : BitVec 4)
  /-- R265. Inserts sA into element sB of vD. -/
  | vins (d : BitVec 5) (a : BitVec 5) (b : BitVec 5) (t : BitVec 4)
  /-- R266. Permutes the elements of vA by the indices in vB. -/
  | vperm (d : BitVec 5) (a : BitVec 5) (b : BitVec 5) (t : BitVec 4) (g : BitVec 3)
  /-- R266. Interleaves the low halves of vA and vB. -/
  | vshufLo (d : BitVec 5) (a : BitVec 5) (b : BitVec 5) (t : BitVec 4) (g : BitVec 3)
  /-- R266. Interleaves the high halves of vA and vB. -/
  | vshufHi (d : BitVec 5) (a : BitVec 5) (b : BitVec 5) (t : BitVec 4) (g : BitVec 3)
  /-- R266. Gathers the even elements of vA and vB. -/
  | vshufEven (d : BitVec 5) (a : BitVec 5) (b : BitVec 5) (t : BitVec 4) (g : BitVec 3)
  /-- R266. Gathers the odd elements of vA and vB. -/
  | vshufOdd (d : BitVec 5) (a : BitVec 5) (b : BitVec 5) (t : BitVec 4) (g : BitVec 3)
  /-- R266. Slides the elements up by sB, filling with zero. -/
  | vslideUp (d : BitVec 5) (a : BitVec 5) (b : BitVec 5) (t : BitVec 4) (g : BitVec 3)
  /-- R266. Slides the elements down by sB, filling with zero. -/
  | vslideDn (d : BitVec 5) (a : BitVec 5) (b : BitVec 5) (t : BitVec 4) (g : BitVec 3)
  /-- R268. Tree sum of the active elements into element 0. -/
  | vredsum (d : BitVec 5) (a : BitVec 5) (r : BitVec 3) (t : BitVec 4) (g : BitVec 3)
  /-- R268. Tree maximum of the active elements into element 0. -/
  | vredmax (d : BitVec 5) (a : BitVec 5) (t : BitVec 4) (g : BitVec 3)
  /-- R268. Tree minimum of the active elements into element 0. -/
  | vredmin (d : BitVec 5) (a : BitVec 5) (t : BitVec 4) (g : BitVec 3)
  /-- R269. Inclusive prefix sum over the active elements. -/
  | vscan (d : BitVec 5) (a : BitVec 5) (r : BitVec 3) (t : BitVec 4) (g : BitVec 3)
  /-- R270. Widening dot product accumulated into 32-bit elements. -/
  | vdot (d : BitVec 5) (a : BitVec 5) (b : BitVec 5) (t : BitVec 4) (g : BitVec 3)
  /-- R271. Correctly rounded division on the shared divider. -/
  | vdiv (d : BitVec 5) (a : BitVec 5) (b : BitVec 5) (t : BitVec 4) (g : BitVec 3)
  /-- R271. Correctly rounded square root on the shared divider. -/
  | vsqrt (d : BitVec 5) (a : BitVec 5) (r : BitVec 3) (t : BitVec 4) (g : BitVec 3)
  /-- R272. Approximate reciprocal. -/
  | vrcp (d : BitVec 5) (a : BitVec 5) (t : BitVec 4) (g : BitVec 3)
  /-- R272. Approximate reciprocal square root. -/
  | vrsq (d : BitVec 5) (a : BitVec 5) (t : BitVec 4) (g : BitVec 3)
  /-- R272. Approximate power of two. -/
  | vexp2 (d : BitVec 5) (a : BitVec 5) (t : BitVec 4) (g : BitVec 3)
  /-- R272. Approximate base-2 logarithm. -/
  | vlog2 (d : BitVec 5) (a : BitVec 5) (t : BitVec 4) (g : BitVec 3)
  /-- R291. Loads a vector from memory under a predicate. -/
  | vld (d : BitVec 5) (a : BitVec 5) (g : BitVec 3) (w : BitVec 2) (o : BitVec 10)
  /-- R291. Buffers a vector store under a predicate. -/
  | vst (d : BitVec 5) (a : BitVec 5) (g : BitVec 3) (w : BitVec 2) (o : BitVec 10)
  /-- R292. Strided vector load. -/
  | vlds (d : BitVec 5) (a : BitVec 5) (b : BitVec 5) (t : BitVec 4) (g : BitVec 3)
  /-- R292. Strided vector store. -/
  | vsts (d : BitVec 5) (a : BitVec 5) (b : BitVec 5) (t : BitVec 4) (g : BitVec 3)
  /-- R293. Gathers elements by vector indices. -/
  | vgath (d : BitVec 5) (a : BitVec 5) (b : BitVec 5) (t : BitVec 4) (x : Bool) (g : BitVec 3)
  /-- R293. Scatters elements by vector indices as buffered stores. -/
  | vscat (d : BitVec 5) (a : BitVec 5) (b : BitVec 5) (t : BitVec 4) (x : Bool) (g : BitVec 3)
  /-- R274. Converts part k of the elements between two types. -/
  | vcvt (d : BitVec 5) (a : BitVec 5) (s : BitVec 4) (t : BitVec 4) (r : BitVec 3) (k : BitVec 3)
  /-- R277. Applies the butterfly, scales and quantises a register group to 8-bit values. -/
  | vqcvt (d : BitVec 5) (a : BitVec 5) (n : BitVec 5) (q : BitVec 4) (w : Bool) (r : BitVec 3) (h : BitVec 2)
  /-- R278. Dequantises 8-bit values with a scale and the butterfly into a register group. -/
  | vdqcvt (d : BitVec 5) (a : BitVec 5) (n : BitVec 5) (q : BitVec 4) (w : Bool) (r : BitVec 3) (h : BitVec 2)
  /-- R281. Packs the selected elements to the front. -/
  | vpack (d : BitVec 5) (a : BitVec 5) (t : BitVec 4) (n : BitVec 3)
  /-- R281. Spreads elements into the selected positions. -/
  | vunpack (d : BitVec 5) (a : BitVec 5) (t : BitVec 4) (n : BitVec 3)
  /-- R282. Builds an n-of-12 keep mask per group into a predicate. -/
  | vmask12 (d : BitVec 3) (a : BitVec 5) (n : BitVec 5) (t : BitVec 4)
  /-- R297. Deferred atomic performed at commit; it returns nothing. -/
  | amo (a : BitVec 5) (b : BitVec 5) (o : BitVec 5) (k : BitVec 2) (s : BitVec 4)
  /-- R298. Irrevocable atomic that returns the old value in sD. -/
  | amor (d : BitVec 5) (a : BitVec 5) (b : BitVec 5) (o : BitVec 5) (k : BitVec 2) (s : BitVec 4)
  /-- R295. Irrevocable compare-and-swap against sD that returns the old value. -/
  | amocas (d : BitVec 5) (a : BitVec 5) (b : BitVec 5) (o : BitVec 5) (k : BitVec 2) (s : BitVec 4)
  /-- R179. Commits the bight and waits as its kind and scope require. -/
  | fence (k : BitVec 2) (s : BitVec 4)
  /-- R302. Deferred initialisation of a cleat's phase, counts and arrivals. -/
  | cleatInit (a : BitVec 5) (b : BitVec 5)
  /-- R302. Deferred addition of expected bytes to the current phase. -/
  | cleatExp (a : BitVec 5) (b : BitVec 5)
  /-- R302. Deferred arrival on a cleat, optionally a release. -/
  | cleatArv (a : BitVec 5) (k : BitVec 2) (s : BitVec 4)
  /-- R303. Waits until phase sB has flipped, optionally as an acquire. -/
  | cleatWait (a : BitVec 5) (b : BitVec 5) (k : BitVec 2) (s : BitVec 4)
  /-- R303. Tests once whether phase sB has flipped. -/
  | cleatTest (d : BitVec 5) (a : BitVec 5) (b : BitVec 5) (k : BitVec 2) (s : BitVec 4)
  /-- R307. Joins a group from the next generation and returns a ticket. -/
  | join (d : BitVec 5) (a : BitVec 5)
  /-- R307. Leaves a group, counting as an arrival for a member. -/
  | leave (a : BitVec 5) (b : BitVec 5) (k : BitVec 2) (s : BitVec 4)
  /-- R307. Arrives at a group barrier and waits for the generation to complete. -/
  | gbar (a : BitVec 5) (b : BitVec 5) (k : BitVec 2) (s : BitVec 4)
  /-- R309. Waits for room, then gives a token from queue V to queue Q. -/
  | tgive (q : BitVec 5)
  /-- R309. Waits for a token from queue Q to queue V and takes it. -/
  | ttake (q : BitVec 5)
  /-- R310. Finds the lowest valid tag-table slot that matches an address. -/
  | lookup (d : BitVec 5) (a : BitVec 5)
  /-- R310. Buffered write of a tag-table entry. -/
  | tagset (a : BitVec 5) (b : BitVec 5)
  /-- R310. Buffered invalidation of a tag-table entry. -/
  | tagclr (a : BitVec 5)
  /-- R310. Reads a tag-table entry. -/
  | tagread (d : BitVec 5) (a : BitVec 5)
  /-- R312. Copies bytes between ranges, or out to a strand endpoint in mode 1, with an optional completion cleat. -/
  | copy (a : BitVec 5) (b : BitVec 5) (c : BitVec 5) (m : Bool) (x : BitVec 3) (y : BitVec 3)
  /-- R313. Copies a 2-D block described by a descriptor. -/
  | copy2 (a : BitVec 5) (b : BitVec 5) (c : BitVec 5) (x : BitVec 3) (y : BitVec 3)
  /-- R314. Copies, then enters an MRUN into the M queue. -/
  | copym (a : BitVec 5) (b : BitVec 5) (c : BitVec 5) (k : Bool) (x : BitVec 3) (y : BitVec 3)
  /-- R322. Opens a vault row, in the tile form or the region form. -/
  | rowact (a : BitVec 5) (r : Bool) (x : BitVec 3) (y : BitVec 3)
  /-- R322. Moves an open row into the weights of plane k. -/
  | rowtakePl (a : BitVec 5) (r : Bool) (x : BitVec 3) (y : BitVec 3)
  /-- R322. Moves an open row into the slice masks of plane k. -/
  | rowtakeMk (a : BitVec 5) (r : Bool) (x : BitVec 3) (y : BitVec 3)
  /-- R322. Moves an open row into a 3 KiB tile-memory window. -/
  | rowtakeTm (a : BitVec 5) (b : BitVec 5) (r : Bool) (x : BitVec 3) (y : BitVec 3)
  /-- R322. Writes a tile-memory window into an open row. -/
  | rowput (a : BitVec 5) (b : BitVec 5) (r : Bool) (x : BitVec 3) (y : BitVec 3)
  /-- R322. Closes an open row. -/
  | rowclose (a : BitVec 5) (r : Bool) (x : BitVec 3) (y : BitVec 3)
  /-- R324. Returns the state of a vault bank. -/
  | rowstat (a : BitVec 5) (b : BitVec 5) (x : BitVec 3) (y : BitVec 3)
  /-- R325. Sets the descriptor of plane k. -/
  | plane (a : BitVec 5) (r : Bool) (x : BitVec 3) (y : BitVec 3)
  /-- R325. Fills the weights of plane k from a tile-memory window. -/
  | planeld (a : BitVec 5) (r : Bool) (x : BitVec 3) (y : BitVec 3)
  /-- R325. Fills the slice masks of plane k from a tile-memory window. -/
  | planeldMk (a : BitVec 5) (r : Bool) (x : BitVec 3) (y : BitVec 3)
  /-- R325. Clears VALID and LIVE of plane k. -/
  | planeinv (r : Bool) (x : BitVec 3) (y : BitVec 3)
  /-- R328. Fuses a region in context k and returns its shape. -/
  | configure (a : BitVec 5) (b : BitVec 5) (c : BitVec 5) (x : BitVec 3) (y : BitVec 3)
  /-- R329. Removes the region of context k once its vectors are written. -/
  | unfuse (x : BitVec 3) (y : BitVec 3)
  /-- R331. Loads the frame records of a logical context. -/
  | ctxload (a : BitVec 5) (b : BitVec 5) (c : BitVec 5) (x : BitVec 3) (y : BitVec 3)
  /-- R330. Sets the enabled context set of the region's rectangle. -/
  | ctxsel (a : BitVec 5) (x : BitVec 3) (y : BitVec 3)
  /-- R332. Returns the state of a logical context on the tile. -/
  | ctxstat (a : BitVec 5) (b : BitVec 5) (x : BitVec 3) (y : BitVec 3)
  /-- R333. Returns and clears the discarded mask. -/
  | tstdisc (a : BitVec 5) (x : BitVec 3) (y : BitVec 3)
  /-- R338. Runs n vectors of context k through the array and overwrites accumulator rows. -/
  | mrun (a : BitVec 5) (b : BitVec 5) (c : BitVec 5) (x : BitVec 3) (y : BitVec 3)
  /-- R338. Runs n vectors and accumulates into the accumulator rows. -/
  | mrunAcc (a : BitVec 5) (b : BitVec 5) (c : BitVec 5) (x : BitVec 3) (y : BitVec 3)
  /-- R339. Zeroes accumulator rows. -/
  | mzero (a : BitVec 5) (x : BitVec 3) (y : BitVec 3)
  /-- R341. Converts accumulator rows and delivers them to memory or the drain strand. -/
  | mdrain (a : BitVec 5) (b : BitVec 5) (c : BitVec 5) (x : BitVec 3) (y : BitVec 3)
  /-- R342. Returns the region or drain status named by a selector. -/
  | mstat (a : BitVec 5) (b : BitVec 5) (x : BitVec 3) (y : BitVec 3)
  /-- R344. Copies and checks an SCB into stream engine e. -/
  | sopen (e : BitVec 3) (b : BitVec 5) (x : BitVec 3) (y : BitVec 3)
  /-- R345. Starts the opened stream. -/
  | sstart (e : BitVec 3) (x : BitVec 3) (y : BitVec 3)
  /-- R345. Ends the stream, flushing lines and sending the owner token. -/
  | sstop (e : BitVec 3) (x : BitVec 3) (y : BitVec 3)
  /-- R347. Sends the engine's partial beat or coalescing lines now. -/
  | sknot (e : BitVec 3) (x : BitVec 3) (y : BitVec 3)
  /-- R348. Changes the coil settings of a data input endpoint. -/
  | coilset (e : BitVec 5) (b : BitVec 5) (x : BitVec 3) (y : BitVec 3)
  /-- R348. Changes the coil settings of a multicast node. -/
  | coilsetNd (n : BitVec 3) (b : BitVec 5) (x : BitVec 3) (y : BitVec 3)
  /-- R350. Buffers one data beat from half h of vB. -/
  | spush (e : BitVec 5) (b : BitVec 5) (h : Bool) (n : BitVec 3)
  /-- R350. Buffers one control token. -/
  | spushC (e : BitVec 3) (b : BitVec 5)
  /-- R351. Waits for and pops a data beat into vB. -/
  | spop (e : BitVec 5) (b : BitVec 5) (n : BitVec 3)
  /-- R351. Waits for and pops a control token into sB. -/
  | spopC (e : BitVec 3) (b : BitVec 5) (n : BitVec 3)
  /-- R351. Pops a data beat if present, or reports empty. -/
  | speek (e : BitVec 5) (b : BitVec 5) (n : BitVec 3)
  /-- R351. Pops a control token if present, or reports empty. -/
  | speekC (e : BitVec 3) (b : BitVec 5) (n : BitVec 3)
  /-- R352. Reads a launch record and enqueues it on a dispatcher queue. -/
  | launch (a : BitVec 5) (b : BitVec 5) (c : BitVec 5) (x : BitVec 3) (y : BitVec 3)
  /-- R374. Commits the bight and delivers cause TRAP to the supervisor. -/
  | trap (n : BitVec 16)
  /-- R375. Commits the handler bight and returns to U, resuming any suspended bight. -/
  | sysret
  /-- R375. Returns to U, discarding and re-entering the suspended bight. -/
  | sysretRe
  /-- R377. Drops the translations of one page across the partition. -/
  | tlbinv (a : BitVec 5)
  /-- R377. Drops every translation of the partition. -/
  | tlbinva
  /-- R378. Walks the page tables without faulting and reports the result. -/
  | probe (d : BitVec 5) (a : BitVec 5)
  /-- R379. Opens a forced wave on a graph. -/
  | wavereq (d : BitVec 5) (a : BitVec 5)
  /-- R381. Encodes dirty decoded blocks of a range and drops them. -/
  | codecinv (a : BitVec 5) (b : BitVec 5)
  /-- R381. Encodes and drops the blocks of one descriptor and drops every copy of that descriptor. -/
  | codecinvDesc (a : BitVec 5)
  /-- R383. Stops every element and slot of a graph. -/
  | freeze (d : BitVec 5) (a : BitVec 5)
  /-- R383. Resumes a frozen graph. -/
  | freezeOff (d : BitVec 5) (a : BitVec 5)
  /-- R384. Returns a graph's status word. -/
  | graphctlStat (d : BitVec 5) (a : BitVec 5)
  /-- R384. Returns the stall register of a named element. -/
  | graphctlStall (d : BitVec 5) (a : BitVec 5) (b : BitVec 5)
  /-- R384. Returns the slot word of a named thread. -/
  | graphctlSlot (d : BitVec 5) (a : BitVec 5) (b : BitVec 5)
  /-- R384. Terminates a graph and releases its resources. -/
  | graphctlTerm (d : BitVec 5) (a : BitVec 5)
  /-- R203. A fetched word that is not an instruction raises ILLEGAL precisely. -/
  | illegalWord (w : IWord)
  /-- R193. A fetched word delivered as poison raises POISON at its PC. -/
  | poisonedFetch (pc : PC)
  /-- R318. A trap found at start or while performing cancels the thread's unstarted commands and is raised at its next instruction. -/
  | engineTrapPoint (th : Nat)
  /-- R433. A page fault met by an engine or a stream element holds it and raises PAGE to its thread. -/
  | heldFault (th : Nat)
  /-- R433. After the thread's SYSRET, every engine holding a fault of that thread retries. -/
  | heldFaultRetry (th : Nat)
  /-- R434. A spilled stream element is retried and performed. -/
  | spillQueueRetry (tile : Nat) (e : Nat)
  /-- R167. A tile captures a configuration frame from its column scan chain and checks it. -/
  | frameCapture (tile : Nat) (addr : BitVec 32) (frame : BitVec 256)
  /-- R30. When every tile has captured its frames or finished restoring, the graph enters Running. -/
  | loadingComplete (graph : Nat)
  /-- R56. The first marker n at an element's input makes it take its snapshot and forward the marker. -/
  | markerArrival (tile : Nat) (kind : Nat) (unit : Nat)
  /-- R419. Stops the graph, drops held egress, applies undo entries in reverse and restores every tile from wave n. -/
  | rollback (graph : Nat) (cause : Nat)
  /-- R450. A fabric element meets a fault condition, stops firing and writes a record, which triggers rollback. -/
  | elementFault (tile : Nat) (kind : Nat) (unit : Nat) (code : Nat)
  /-- R392. The dispatcher ranks the candidates and admits at most one that fits, counting bypasses and reserving. -/
  | dispatchEvaluation (part : Nat)
  /-- R30. When all threads have halted and all strands are empty, the graph retires and its resources are released. -/
  | graphRetire (graph : Nat)
  /-- R396. Once every graph of the outgoing context is cut, retired or frozen, the next entry becomes active. -/
  | contextSwitch (part : Nat)
  /-- R58. When every thread, sink and snapshot has finished, the dispatcher records the wave as complete. -/
  | waveComplete (graph : Nat)
  /-- R401. The hang counter reaches 2^k, and the graph is frozen, mapped, recorded and HANG is raised. -/
  | hangDetect (graph : Nat)
  /-- R131. A beat reaches its consumer input endpoint's queue. -/
  | beatArrival (n : Nat)
  /-- R465. On a retry request the sender replays from the named flit. -/
  | flitReplay (port : Nat) (seq : BitVec 16)
  /-- R465. An exhausted replay buffer takes the port down. -/
  | portDown (port : Nat)
  /-- R441. A far stream port writes an arriving beat into its window or sends read beats. -/
  | farPortBeat (port : Nat) (data : BitVec 256) (pred : BitVec 8)
  /-- R456. A retired row is copied into a spare row, holding the bank for 192 cycles. -/
  | rowRemap (tile : Nat) (bank : Nat) (row : Nat)
  /-- R386. A write to a queue descriptor line signals the dispatcher, which reads TAIL. -/
  | queueTailWrite (q : Nat)
  /-- R44. Once every pushed strand has room, the knot releases the buffered stores, AMOs and pushes in order and advances the tentative pops. -/
  | commit (th : Nat)
  /-- R44. The knot retires when every home has accepted the released stores and AMOs. -/
  | knotRetire (th : Nat)
  /-- R316. An engine command leaves the head of its queue after taking any take token and makes its start checks. -/
  | engineCommandStart (th : Nat) (q : Nat)
  /-- R182. An engine command retires, delivers its give token and writes its result register. -/
  | engineCommandRetire (th : Nat) (q : Nat)
  /-- R396. The active context's time slice expires, and a switch to another entry with work is decided. -/
  | sliceEnd (part : Nat)
  /-- R55. Threads still inside a bight when the limit expires are discarded and checkpoint at the bight start. -/
  | latencyLimitExpiry (graph : Nat)
  /-- R60. The row engine writes a latched snapshot row to the shadow slot, one activate per row. -/
  | snapshotRowSave (tile : Nat)
  /-- R417. An egress buffer at 75% opens forced waves on its contained graphs. -/
  | egressThreshold (port : Nat)
  /-- R171. A home performs an accepted access to a line in its coherence order. -/
  | homePerform (n : Nat)
  /-- R130. An output endpoint with a waiting beat and a permit sends one beat into the mesh. -/
  | outputEndpointFire (tile : Nat) (e : Nat)
  /-- R134. Each link direction arbitrates up to two waiting beats by round robin over its edges. -/
  | meshHop (n : Nat)
  /-- R131. A freed slot's permit returns to the producer after the edge latency. -/
  | permitReturn (n : Nat)
  /-- R144. When occupancy falls to LO, coil beats move on-die one per cycle. -/
  | coilRefill (tile : Nat) (e : Nat)
  /-- R136. A steer node sends its head beat down the chosen path. -/
  | steerNodeFire (tile : Nat) (n : Nat)
  /-- R137. An arrival merge takes one head by round robin and sends it. -/
  | mergeByArrivalFire (tile : Nat) (n : Nat)
  /-- R138. A tag merge accepts beats within its window and sends the beat tagged next. -/
  | mergeByTagFire (tile : Nat) (n : Nat)
  /-- R357. A multicast node takes a beat if every window admits it, and branches holding permits accept held beats. -/
  | multicastFire (tile : Nat) (n : Nat)
  /-- R141. A replicate node turns a token into one beat. -/
  | replicateFire (tile : Nat) (n : Nat)
  /-- R142. A path, branch or edge idle for 256 cycles is clock-gated. -/
  | clockGate (tile : Nat) (e : Nat)
  /-- R356. A feeder moves the head beat of a context's input queue into its record buffer. -/
  | feedBeatMove (tile : Nat) (ctx : Nat)
  /-- R38. The context counter picks the next qualifying enabled context, which enters one vector. -/
  | vectorEntry (rect : Nat)
  /-- R338. LAT cycles after entry, a vector's column results are written into the accumulator rows of every drainer. -/
  | vectorWrite (rect : Nat)
  /-- R99. A waiting plane fill is applied whole between two vectors. -/
  | planeFillApply (th : Nat)
  /-- R322. Once every tile holds its bank, a region-form row transfer runs in all tiles in one cycle. -/
  | regionTransfer (th : Nat)
  /-- R151. A stream engine visits its next element, reading or writing it. -/
  | streamElement (tile : Nat) (e : Nat)
  /-- R158. An owner token with the awaited WINID lets a waiting write stream begin writing. -/
  | ownerTokenArrival (tile : Nat) (e : Nat)
  /-- R158. After every write is accepted, the stream pushes its owner token. -/
  | ownerTokenSend (tile : Nat) (e : Nat)
  /-- R156. A coalescing line with no element for 64 cycles is sent. -/
  | coalesceTimeout (tile : Nat) (e : Nat)
  /-- R312. The copy engine reads and writes the next 64-byte unit. -/
  | copyLine (th : Nat)
  /-- R341. The drain unit converts and delivers the next slot as a line write or beat. -/
  | drainDeliver (th : Nat)
  /-- R111. A row open for T_OPEN cycles is closed by the controller. -/
  | rowOpenTimeout (tile : Nat) (bank : Nat)
  /-- R114. A refresh falls due on a bank every T_REFI cycles and is performed or owed. -/
  | refreshDue (tile : Nat) (bank : Nat)
  /-- R114. An owed refresh is performed while the bank is closed and idle. -/
  | owedRefresh (tile : Nat) (bank : Nat)
  /-- R113. A home, coil or snapshot save takes a free activate slot. -/
  | backgroundActivate (tile : Nat) (bank : Nat)
  /-- R452. A router answers an access to a retired home with poison or a drop. -/
  | deadHomeAnswer (n : Nat)
  /-- R466. The host reads or writes device memory through the bridge, or another device `dev` of the group host memory. -/
  | hostAccess (port : Nat) (dev : Option Nat) (part : Nat) (va : Word) (req : HostReq)
  /-- R464. A port receives a 256-byte flit and delivers its beats. -/
  | flitReceive (port : Nat) (flit : BitVec 2048)
  /-- R465. Retraining brings a port back into service. -/
  | portUp (port : Nat) (lanes : Nat)
  /-- R461. On input power the management core verifies firmware, self-tests, trains lanes, synchronises time and creates partitions. -/
  | powerUp
  /-- R462. Answers a nonce with a signed attestation report. -/
  | attestationRequest (nonce : BitVec 384)
  /-- R461. A firmware image arrives through PLDM and is checked at the next power-up. -/
  | firmwareUpdate (image : List Byte)
  /-- R473. A sensor read over PLDM returns temperatures, flows, power or port counts. -/
  | pldmMonitorRead (sensor : Nat)
  /-- R468. Every 10 µs the microcontroller reads each zone's temperature and sets its valve. -/
  | thermalSample (zone : Nat) (temp : Nat)
  /-- R469. At the deadline, a zone still above CLEAR makes the clock stretch. -/
  | thermalDeadline (zone : Nat)
  /-- R469. Every 50 µs above CLEAR one more edge in 8 is swallowed, or one step is released below CLEAR. -/
  | stretchStep (zone : Nat)
  /-- R470. Busbar draw over the limit stretches the clock. -/
  | powerLimitStep (watts : Nat)
  /-- R472. The FREEZE signal stops every clock for scan read-out. -/
  | deviceFreeze
  /-- R472. Releases the clocks, resynchronises time and writes event 0x37. -/
  | deviceFreezeRelease (cycles : Nat)
  /-- R371. Management firmware creates or changes a partition's rectangle, banks, ports and queues, applied only when the partition holds no Running, Loading or Cut graph. -/
  | partitionChange (part : Nat) (x : Nat) (y : Nat) (wd : Nat) (ht : Nat) (bankmap : Word) (ports : BitVec 128) (queues : BitVec 256)
  /-- R455. Management firmware retires a tile (kind 5), after which its home is answered as dead and a Running graph on it rolls back or is terminated. -/
  | tileRetirementByFirmware (tile : Nat)
  /-- R464. A signal pair of a running fabric lane loses its alignment, which takes the whole lane out of service so the port runs on its other lane. -/
  | pairLosesAlignment (port : Nat) (lane : Nat) (pair : Nat)
  deriving DecidableEq, Repr

end Sys2Proof
end

