-- ==== Sys2Proof/WellFormed.lean ====
section
/-! DEFINITION. Which operand values make an instruction: the words R203 (Table 7-7) calls ILLEGAL although their opcode
and must-be-zero bits are right. Each check cites the rule that names the refused values. -/

namespace Sys2Proof.WellFormed

/-- R196, Table 7-3: type codes 14 and 15 are reserved. -/
def typeOk (t : BitVec 4) : Bool := decide (t.toNat ≤ 13)
/-- Table 7-3: the floating types are 0 to 5. -/
def floatType (t : BitVec 4) : Bool := decide (t.toNat ≤ 5)
/-- Table 7-3: the integer types are 6 to 13. -/
def intType (t : BitVec 4) : Bool := decide (6 ≤ t.toNat ∧ t.toNat ≤ 13)
/-- R258: VABS and VNEG refuse the unsigned types 10 to 13. -/
def signedOrFloat (t : BitVec 4) : Bool := decide (t.toNat ≤ 9)
/-- Table 9-7: the source types of VDOT. -/
def dotType (t : BitVec 4) : Bool :=
  t == 2 || t == 3 || t == 4 || t == 5 || t == 8 || t == 9 || t == 12 || t == 13
/-- R271: major 0x1E accepts types 0 to 3. -/
def divType (t : BitVec 4) : Bool := decide (t.toNat ≤ 3)
/-- R275: the 8-bit side of a quantisation. -/
def quantType (t : BitVec 4) : Bool := t == 4 || t == 5 || t == 9 || t == 13
/-- R280: VMASK12 accepts types 1 to 5, 7 to 9 and 11 to 13. -/
def maskType (t : BitVec 4) : Bool := decide (t.toNat ≤ 13) && t != 0 && t != 6 && t != 10
/-- R198: rounding codes 5 to 7 are reserved. -/
def roundOk (r : BitVec 3) : Bool := decide (r.toNat ≤ 4)
/-- Table 9-1: log2 of the width in bytes of a type code. -/
def typeLog (t : BitVec 4) : Nat :=
  match t.toNat with
  | 0 | 6 | 10 => 3
  | 1 | 7 | 11 => 2
  | 2 | 3 | 8 | 12 => 1
  | _ => 0
/-- R274: the part k runs from 0 to max(Ls, Ld)/min(Ls, Ld) - 1. -/
def cvtPartOk (s t : BitVec 4) (k : BitVec 3) : Bool :=
  decide (k.toNat < 2 ^ (max (typeLog s) (typeLog t) - min (typeLog s) (typeLog t)))
/-- R276: the base of a register group is a multiple of 4 (FP32) or 2 (BF16, `w` set). -/
def groupBase (w : Bool) (r : BitVec 5) : Bool := if w then r.toNat % 2 == 0 else r.toNat % 4 == 0
/-- R197, Table 6-2: an ordered form carries a scope from 1 to 9. -/
def scopeOk (s : BitVec 4) : Bool := decide (1 ≤ s.toNat ∧ s.toNat ≤ 9)
/-- R197: kind 0 with scope 0, or a kind with a scope from 1 to 9. -/
def orderOk (k : BitVec 2) (s : BitVec 4) : Bool := (k == 0 && s == 0) || (k != 0 && scopeOk s)
/-- R302, R306: plain, or the one ordering kind the form accepts with a scope. -/
def plainOr (want : BitVec 2) (k : BitVec 2) (s : BitVec 4) : Bool :=
  (k == 0 && s == 0) || (k == want && scopeOk s)
/-- R201: take and give are neither 6 nor 7 nor the command's own queue. -/
def tokensOk (own : Nat) (x y : BitVec 3) : Bool :=
  decide (x.toNat ≤ 5) && decide (y.toNat ≤ 5) && decide (x.toNat ≠ own) && decide (y.toNat ≠ own)
/-- R245, Table 16-1: the allocated system register numbers. -/
def sysregOk (r : BitVec 12) : Bool :=
  let n := r.toNat
  n == 0x001 || n == 0x010 || n == 0x011 || (decide (0x100 ≤ n) && decide (n ≤ 0x13F)) ||
  (decide (0x200 ≤ n) && decide (n ≤ 0x208)) || (decide (0x300 ≤ n) && decide (n ≤ 0x30B)) ||
  (decide (0x380 ≤ n) && decide (n ≤ 0x387)) || decide (0x800 ≤ n)

end Sys2Proof.WellFormed

namespace Sys2Proof

open WellFormed

/-- R203: the operand checks of every instruction. A device step has no word and so no check. -/
def Instr.wellFormed (i : Instr) : Bool :=
  match i with
  | .nop => true
  | .halt => true
  | .knot => true
  | .knotW => true
  | .kwait _ => true
  | .time _ => true
  | .tid _ => true
  | .yield => true
  | .add _ _ _ => true
  | .sub _ _ _ => true
  | .and _ _ _ => true
  | .or _ _ _ => true
  | .xor _ _ _ => true
  | .andn _ _ _ => true
  | .shl _ _ _ => true
  | .shr _ _ _ => true
  | .sra _ _ _ => true
  | .rotl _ _ _ => true
  | .min _ _ _ => true
  | .max _ _ _ => true
  | .minu _ _ _ => true
  | .maxu _ _ _ => true
  | .sel _ _ _ _ => true
  | .mul _ _ _ => true
  | .mulh _ _ _ => true
  | .mulhu _ _ _ => true
  | .div _ _ _ => true
  | .divu _ _ _ => true
  | .rem _ _ _ => true
  | .remu _ _ _ => true
  | .clz _ _ => true
  | .ctz _ _ => true
  | .popc _ _ => true
  | .sextb _ _ => true
  | .sexth _ _ => true
  | .sextw _ _ => true
  | .cmpeq _ _ _ => true
  | .cmpne _ _ _ => true
  | .cmplt _ _ _ => true
  | .cmple _ _ _ => true
  | .cmpltu _ _ _ => true
  | .cmpleu _ _ _ => true
  | .pand _ _ _ => true
  | .por _ _ _ => true
  | .pxor _ _ _ => true
  | .pnot _ _ => true
  | .pset _ _ => true
  | .pget _ _ => true
  | .addi _ _ _ => true
  | .andi _ _ _ => true
  | .ori _ _ _ => true
  | .xori _ _ _ => true
  | .shli _ _ _ => true
  | .shri _ _ _ => true
  | .srai _ _ _ => true
  | .li _ _ => true
  | .lis _ _ _ => true
  | .loop _ _ => true
  | .lcsetReg _ _ => true
  | .lcsetImm _ _ => true
  | .lcchain n m => decide (n.toNat < m.toNat)
  | .lcchainNone _ => true
  | .mfs _ r => sysregOk r
  | .mts _ r => sysregOk r
  | .beq _ _ _ => true
  | .bne _ _ _ => true
  | .blt _ _ _ => true
  | .bge _ _ _ => true
  | .bltu _ _ _ => true
  | .bgeu _ _ _ => true
  | .bp _ _ => true
  | .bpAny _ _ => true
  | .bpAll _ _ => true
  | .bnp _ _ => true
  | .bnpAny _ _ => true
  | .bnpAll _ _ => true
  | .j _ => true
  | .call _ => true
  | .jr _ => true
  | .callr _ => true
  | .ldb _ _ _ => true
  | .ldbu _ _ _ => true
  | .ldh _ _ _ => true
  | .ldhu _ _ _ => true
  | .ldw _ _ _ => true
  | .ldwu _ _ _ => true
  | .ldd _ _ _ => true
  | .stb _ _ _ => true
  | .sth _ _ _ => true
  | .stw _ _ _ => true
  | .std _ _ _ => true
  | .indexedLoad _ _ _ f _ => decide (f.toNat ≤ 6)
  | .indexedStore _ _ _ f _ => decide (f.toNat ≤ 3)
  | .ldacq _ _ s => scopeOk s
  | .strel _ _ s => scopeOk s
  | .vadd _ _ _ t _ => typeOk t
  | .vsub _ _ _ t _ => typeOk t
  | .vmul _ _ _ t _ => typeOk t
  | .vmin _ _ _ t _ => typeOk t
  | .vmax _ _ _ t _ => typeOk t
  | .vabs _ _ t _ => signedOrFloat t
  | .vneg _ _ t _ => signedOrFloat t
  | .vfma _ _ _ t _ => floatType t
  | .vfms _ _ _ t _ => floatType t
  | .vfnma _ _ _ t _ => floatType t
  | .vand _ _ _ t _ => typeOk t
  | .vor _ _ _ t _ => typeOk t
  | .vxor _ _ _ t _ => typeOk t
  | .vshl _ _ _ t _ => intType t
  | .vshr _ _ _ t _ => intType t
  | .vsra _ _ _ t _ => intType t
  | .vcmpEq _ _ _ t _ => typeOk t
  | .vcmpNe _ _ _ t _ => typeOk t
  | .vcmpLt _ _ _ t _ => typeOk t
  | .vcmpLe _ _ _ t _ => typeOk t
  | .vcmpUn _ _ _ t _ => floatType t
  | .vsel _ _ _ t _ => typeOk t
  | .vmov _ _ t _ => typeOk t
  | .vbcast _ _ t _ => typeOk t
  | .vext _ _ _ t => typeOk t
  | .vins _ _ _ t => typeOk t
  | .vperm _ _ _ t _ => intType t
  | .vshufLo _ _ _ t _ => typeOk t
  | .vshufHi _ _ _ t _ => typeOk t
  | .vshufEven _ _ _ t _ => typeOk t
  | .vshufOdd _ _ _ t _ => typeOk t
  | .vslideUp _ _ _ t _ => typeOk t
  | .vslideDn _ _ _ t _ => typeOk t
  | .vredsum _ _ r t _ => typeOk t && roundOk r && (floatType t || r == 0)
  | .vredmax _ _ t _ => typeOk t
  | .vredmin _ _ t _ => typeOk t
  | .vscan _ _ r t _ => typeOk t && roundOk r && (floatType t || r == 0)
  | .vdot _ _ _ t _ => dotType t
  | .vdiv _ _ _ t _ => divType t
  | .vsqrt _ _ r t _ => divType t && roundOk r
  | .vrcp _ _ t _ => divType t
  | .vrsq _ _ t _ => divType t
  | .vexp2 _ _ t _ => divType t
  | .vlog2 _ _ t _ => divType t
  | .vld _ _ _ _ _ => true
  | .vst _ _ _ _ _ => true
  | .vlds _ _ _ t _ => typeOk t
  | .vsts _ _ _ t _ => typeOk t
  | .vgath _ _ _ t _ _ => typeOk t
  | .vscat _ _ _ t _ _ => typeOk t
  | .vcvt _ _ s t r k => typeOk s && typeOk t && s != t && roundOk r && cvtPartOk s t k
  | .vqcvt _ a _ q w r _ => quantType q && roundOk r && groupBase w a
  | .vdqcvt d _ _ q w r _ => quantType q && roundOk r && groupBase w d
  | .vpack _ _ t _ => typeOk t
  | .vunpack _ _ t _ => typeOk t
  | .vmask12 _ _ n t => maskType t && (n == 4 || n == 6)
  | .amo _ _ o k s => decide (o.toNat ≤ 22) && orderOk k s
  | .amor d _ _ o k s => decide (o.toNat ≤ 22) && d != 0 && orderOk k s
  | .amocas _ _ _ o k s => (o == 23 || o == 24) && orderOk k s
  | .fence k s => k != 0 && scopeOk s
  | .cleatInit _ _ => true
  | .cleatExp _ _ => true
  | .cleatArv _ k s => plainOr 2 k s
  | .cleatWait _ _ k s => plainOr 1 k s
  | .cleatTest _ _ _ k s => plainOr 1 k s
  | .join _ _ => true
  | .leave _ _ k s => plainOr 2 k s
  | .gbar _ _ k s => plainOr 3 k s
  | .tgive q => decide (2 ≤ q.toNat ∧ q.toNat ≤ 5)
  | .ttake q => decide (2 ≤ q.toNat ∧ q.toNat ≤ 5)
  | .lookup _ _ => true
  | .tagset _ _ => true
  | .tagclr _ => true
  | .tagread _ _ => true
  | .copy _ _ c _ x y => decide (1 ≤ c.toNat ∧ c.toNat ≤ 30) && tokensOk 3 x y
  | .copy2 _ _ _ x y => tokensOk 3 x y
  | .copym _ _ c _ x y => decide (1 ≤ c.toNat ∧ c.toNat ≤ 29) && tokensOk 3 x y
  | .rowact _ _ x y => tokensOk 4 x y
  | .rowtakePl _ _ x y => tokensOk 4 x y
  | .rowtakeMk _ _ x y => tokensOk 4 x y
  | .rowtakeTm _ _ _ x y => tokensOk 4 x y
  | .rowput _ _ _ x y => tokensOk 4 x y
  | .rowclose _ _ x y => tokensOk 4 x y
  | .rowstat _ _ x y => tokensOk 4 x y
  | .plane _ _ x y => tokensOk 4 x y
  | .planeld _ _ x y => tokensOk 4 x y
  | .planeldMk _ _ x y => tokensOk 4 x y
  | .planeinv _ x y => tokensOk 4 x y
  | .configure _ _ _ x y => tokensOk 5 x y
  | .unfuse x y => tokensOk 5 x y
  | .ctxload _ _ _ x y => tokensOk 5 x y
  | .ctxsel _ x y => tokensOk 5 x y
  | .ctxstat _ _ x y => tokensOk 5 x y
  | .tstdisc _ x y => tokensOk 5 x y
  | .mrun _ _ _ x y => tokensOk 5 x y
  | .mrunAcc _ _ _ x y => tokensOk 5 x y
  | .mzero _ x y => tokensOk 5 x y
  | .mdrain _ _ _ x y => tokensOk 5 x y
  | .mstat _ _ x y => tokensOk 5 x y
  | .sopen _ _ x y => tokensOk 2 x y
  | .sstart _ x y => tokensOk 2 x y
  | .sstop _ x y => tokensOk 2 x y
  | .sknot _ x y => tokensOk 2 x y
  | .coilset _ _ x y => tokensOk 2 x y
  | .coilsetNd _ _ x y => tokensOk 2 x y
  | .spush _ _ _ _ => true
  | .spushC _ _ => true
  | .spop _ _ _ => true
  | .spopC _ _ _ => true
  | .speek _ _ _ => true
  | .speekC _ _ _ => true
  | .launch _ _ _ x y => tokensOk 3 x y
  | .trap _ => true
  | .sysret => true
  | .sysretRe => true
  | .tlbinv _ => true
  | .tlbinva => true
  | .probe _ _ => true
  | .wavereq _ _ => true
  | .codecinv _ _ => true
  | .codecinvDesc _ => true
  | .freeze _ _ => true
  | .freezeOff _ _ => true
  | .graphctlStat _ _ => true
  | .graphctlStall _ _ _ => true
  | .graphctlSlot _ _ _ => true
  | .graphctlTerm _ _ => true
  | .illegalWord _ => true
  | .poisonedFetch _ => true
  | .engineTrapPoint _ => true
  | .heldFault _ => true
  | .heldFaultRetry _ => true
  | .spillQueueRetry _ _ => true
  | .frameCapture _ _ _ => true
  | .loadingComplete _ => true
  | .markerArrival _ _ _ => true
  | .rollback _ _ => true
  | .elementFault _ _ _ _ => true
  | .dispatchEvaluation _ => true
  | .graphRetire _ => true
  | .contextSwitch _ => true
  | .waveComplete _ => true
  | .hangDetect _ => true
  | .beatArrival _ => true
  | .flitReplay _ _ => true
  | .portDown _ => true
  | .farPortBeat _ _ _ => true
  | .rowRemap _ _ _ => true
  | .queueTailWrite _ => true
  | .commit _ => true
  | .knotRetire _ => true
  | .engineCommandStart _ _ => true
  | .engineCommandRetire _ _ => true
  | .sliceEnd _ => true
  | .latencyLimitExpiry _ => true
  | .snapshotRowSave _ => true
  | .egressThreshold _ => true
  | .homePerform _ => true
  | .outputEndpointFire _ _ => true
  | .meshHop _ => true
  | .permitReturn _ => true
  | .coilRefill _ _ => true
  | .steerNodeFire _ _ => true
  | .mergeByArrivalFire _ _ => true
  | .mergeByTagFire _ _ => true
  | .multicastFire _ _ => true
  | .replicateFire _ _ => true
  | .clockGate _ _ => true
  | .feedBeatMove _ _ => true
  | .vectorEntry _ => true
  | .vectorWrite _ => true
  | .planeFillApply _ => true
  | .regionTransfer _ => true
  | .streamElement _ _ => true
  | .ownerTokenArrival _ _ => true
  | .ownerTokenSend _ _ => true
  | .coalesceTimeout _ _ => true
  | .copyLine _ => true
  | .drainDeliver _ => true
  | .rowOpenTimeout _ _ => true
  | .refreshDue _ _ => true
  | .owedRefresh _ _ => true
  | .backgroundActivate _ _ => true
  | .deadHomeAnswer _ => true
  | .hostAccess _ _ _ _ _ => true
  | .flitReceive _ _ => true
  | .portUp _ _ => true
  | .powerUp => true
  | .attestationRequest _ => true
  | .firmwareUpdate _ => true
  | .pldmMonitorRead _ => true
  | .thermalSample _ _ => true
  | .thermalDeadline _ => true
  | .stretchStep _ => true
  | .powerLimitStep _ => true
  | .deviceFreeze => true
  | .deviceFreezeRelease _ => true
  | .partitionChange _ _ _ _ _ _ _ _ => true
  | .tileRetirementByFirmware _ => true
  | .pairLosesAlignment _ _ _ => true

end Sys2Proof
end

