-- ==== Sys2Proof/Decode.lean ====
section
/-! DEFINITION. The decoder, total on any bytes, and the encoder after it, both written from the encoding tables of the
spec (formats R194, opcode map R202, the chapters' function-code tables). A word that no form lists, a non-zero
must-be-zero bit or a refused operand value is no instruction (R203, Table 7-7): the decoder answers none. -/

namespace Sys2Proof.Decode

/-- Bits hi:lo of the word w (R2). -/
def bits (w hi lo : Nat) : Nat := w / 2 ^ lo % 2 ^ (hi + 1 - lo)

/-- Major 0x00 (Table 7-6; R52, R239, R240, R241, R242, R243, R244). -/
def major00 (w : Nat) : Option Instr :=
  if bits w 25 0 = 1 then
    some (.nop)
  else
  if bits w 25 0 = 2 then
    some (.halt)
  else
  if bits w 25 0 = 3 then
    some (.knot)
  else
  if bits w 25 0 = 4 then
    some (.knotW)
  else
  if bits w 20 0 = 5 then
    some (.kwait (.ofNat _ (bits w 25 21)))
  else
  if bits w 20 0 = 6 then
    some (.time (.ofNat _ (bits w 25 21)))
  else
  if bits w 20 0 = 7 then
    some (.tid (.ofNat _ (bits w 25 21)))
  else
  if bits w 25 0 = 8 then
    some (.yield)
  else
  none

/-- Major 0x01 (Table 7-6; R221). -/
def major01 (w : Nat) : Option Instr :=
  if bits w 10 0 = 0 then
    some (.add (.ofNat _ (bits w 25 21)) (.ofNat _ (bits w 20 16)) (.ofNat _ (bits w 15 11)))
  else
  if bits w 10 0 = 1 then
    some (.sub (.ofNat _ (bits w 25 21)) (.ofNat _ (bits w 20 16)) (.ofNat _ (bits w 15 11)))
  else
  if bits w 10 0 = 2 then
    some (.and (.ofNat _ (bits w 25 21)) (.ofNat _ (bits w 20 16)) (.ofNat _ (bits w 15 11)))
  else
  if bits w 10 0 = 3 then
    some (.or (.ofNat _ (bits w 25 21)) (.ofNat _ (bits w 20 16)) (.ofNat _ (bits w 15 11)))
  else
  if bits w 10 0 = 4 then
    some (.xor (.ofNat _ (bits w 25 21)) (.ofNat _ (bits w 20 16)) (.ofNat _ (bits w 15 11)))
  else
  if bits w 10 0 = 5 then
    some (.andn (.ofNat _ (bits w 25 21)) (.ofNat _ (bits w 20 16)) (.ofNat _ (bits w 15 11)))
  else
  if bits w 10 0 = 6 then
    some (.shl (.ofNat _ (bits w 25 21)) (.ofNat _ (bits w 20 16)) (.ofNat _ (bits w 15 11)))
  else
  if bits w 10 0 = 7 then
    some (.shr (.ofNat _ (bits w 25 21)) (.ofNat _ (bits w 20 16)) (.ofNat _ (bits w 15 11)))
  else
  if bits w 10 0 = 8 then
    some (.sra (.ofNat _ (bits w 25 21)) (.ofNat _ (bits w 20 16)) (.ofNat _ (bits w 15 11)))
  else
  if bits w 10 0 = 9 then
    some (.rotl (.ofNat _ (bits w 25 21)) (.ofNat _ (bits w 20 16)) (.ofNat _ (bits w 15 11)))
  else
  if bits w 10 0 = 10 then
    some (.min (.ofNat _ (bits w 25 21)) (.ofNat _ (bits w 20 16)) (.ofNat _ (bits w 15 11)))
  else
  if bits w 10 0 = 11 then
    some (.max (.ofNat _ (bits w 25 21)) (.ofNat _ (bits w 20 16)) (.ofNat _ (bits w 15 11)))
  else
  if bits w 10 0 = 12 then
    some (.minu (.ofNat _ (bits w 25 21)) (.ofNat _ (bits w 20 16)) (.ofNat _ (bits w 15 11)))
  else
  if bits w 10 0 = 13 then
    some (.maxu (.ofNat _ (bits w 25 21)) (.ofNat _ (bits w 20 16)) (.ofNat _ (bits w 15 11)))
  else
  if bits w 10 7 = 0 ∧ bits w 3 0 = 14 then
    some (.sel (.ofNat _ (bits w 25 21)) (.ofNat _ (bits w 20 16)) (.ofNat _ (bits w 15 11)) (.ofNat _ (bits w 6 4)))
  else
  none

/-- Major 0x02 (Table 7-6; R222). -/
def major02 (w : Nat) : Option Instr :=
  if bits w 10 0 = 0 then
    some (.mul (.ofNat _ (bits w 25 21)) (.ofNat _ (bits w 20 16)) (.ofNat _ (bits w 15 11)))
  else
  if bits w 10 0 = 1 then
    some (.mulh (.ofNat _ (bits w 25 21)) (.ofNat _ (bits w 20 16)) (.ofNat _ (bits w 15 11)))
  else
  if bits w 10 0 = 2 then
    some (.mulhu (.ofNat _ (bits w 25 21)) (.ofNat _ (bits w 20 16)) (.ofNat _ (bits w 15 11)))
  else
  if bits w 10 0 = 3 then
    some (.div (.ofNat _ (bits w 25 21)) (.ofNat _ (bits w 20 16)) (.ofNat _ (bits w 15 11)))
  else
  if bits w 10 0 = 4 then
    some (.divu (.ofNat _ (bits w 25 21)) (.ofNat _ (bits w 20 16)) (.ofNat _ (bits w 15 11)))
  else
  if bits w 10 0 = 5 then
    some (.rem (.ofNat _ (bits w 25 21)) (.ofNat _ (bits w 20 16)) (.ofNat _ (bits w 15 11)))
  else
  if bits w 10 0 = 6 then
    some (.remu (.ofNat _ (bits w 25 21)) (.ofNat _ (bits w 20 16)) (.ofNat _ (bits w 15 11)))
  else
  none

/-- Major 0x03 (Table 7-6; R223). -/
def major03 (w : Nat) : Option Instr :=
  if bits w 15 0 = 0 then
    some (.clz (.ofNat _ (bits w 25 21)) (.ofNat _ (bits w 20 16)))
  else
  if bits w 15 0 = 1 then
    some (.ctz (.ofNat _ (bits w 25 21)) (.ofNat _ (bits w 20 16)))
  else
  if bits w 15 0 = 2 then
    some (.popc (.ofNat _ (bits w 25 21)) (.ofNat _ (bits w 20 16)))
  else
  if bits w 15 0 = 3 then
    some (.sextb (.ofNat _ (bits w 25 21)) (.ofNat _ (bits w 20 16)))
  else
  if bits w 15 0 = 4 then
    some (.sexth (.ofNat _ (bits w 25 21)) (.ofNat _ (bits w 20 16)))
  else
  if bits w 15 0 = 5 then
    some (.sextw (.ofNat _ (bits w 25 21)) (.ofNat _ (bits w 20 16)))
  else
  none

/-- Major 0x04 (Table 7-6; R228). -/
def major04 (w : Nat) : Option Instr :=
  if bits w 25 24 = 0 ∧ bits w 10 0 = 0 then
    some (.cmpeq (.ofNat _ (bits w 23 21)) (.ofNat _ (bits w 20 16)) (.ofNat _ (bits w 15 11)))
  else
  if bits w 25 24 = 0 ∧ bits w 10 0 = 1 then
    some (.cmpne (.ofNat _ (bits w 23 21)) (.ofNat _ (bits w 20 16)) (.ofNat _ (bits w 15 11)))
  else
  if bits w 25 24 = 0 ∧ bits w 10 0 = 2 then
    some (.cmplt (.ofNat _ (bits w 23 21)) (.ofNat _ (bits w 20 16)) (.ofNat _ (bits w 15 11)))
  else
  if bits w 25 24 = 0 ∧ bits w 10 0 = 3 then
    some (.cmple (.ofNat _ (bits w 23 21)) (.ofNat _ (bits w 20 16)) (.ofNat _ (bits w 15 11)))
  else
  if bits w 25 24 = 0 ∧ bits w 10 0 = 4 then
    some (.cmpltu (.ofNat _ (bits w 23 21)) (.ofNat _ (bits w 20 16)) (.ofNat _ (bits w 15 11)))
  else
  if bits w 25 24 = 0 ∧ bits w 10 0 = 5 then
    some (.cmpleu (.ofNat _ (bits w 23 21)) (.ofNat _ (bits w 20 16)) (.ofNat _ (bits w 15 11)))
  else
  if bits w 25 24 = 0 ∧ bits w 20 19 = 0 ∧ bits w 15 14 = 0 ∧ bits w 10 0 = 8 then
    some (.pand (.ofNat _ (bits w 23 21)) (.ofNat _ (bits w 18 16)) (.ofNat _ (bits w 13 11)))
  else
  if bits w 25 24 = 0 ∧ bits w 20 19 = 0 ∧ bits w 15 14 = 0 ∧ bits w 10 0 = 9 then
    some (.por (.ofNat _ (bits w 23 21)) (.ofNat _ (bits w 18 16)) (.ofNat _ (bits w 13 11)))
  else
  if bits w 25 24 = 0 ∧ bits w 20 19 = 0 ∧ bits w 15 14 = 0 ∧ bits w 10 0 = 10 then
    some (.pxor (.ofNat _ (bits w 23 21)) (.ofNat _ (bits w 18 16)) (.ofNat _ (bits w 13 11)))
  else
  if bits w 25 24 = 0 ∧ bits w 20 19 = 0 ∧ bits w 15 0 = 11 then
    some (.pnot (.ofNat _ (bits w 23 21)) (.ofNat _ (bits w 18 16)))
  else
  if bits w 25 24 = 0 ∧ bits w 15 0 = 12 then
    some (.pset (.ofNat _ (bits w 23 21)) (.ofNat _ (bits w 20 16)))
  else
  if bits w 20 19 = 0 ∧ bits w 15 0 = 13 then
    some (.pget (.ofNat _ (bits w 25 21)) (.ofNat _ (bits w 18 16)))
  else
  none

/-- Major 0x05 (Table 7-6; R224). -/
def major05 (w : Nat) : Option Instr :=
  some (.addi (.ofNat _ (bits w 25 21)) (.ofNat _ (bits w 20 16)) (.ofNat _ (bits w 15 0)))

/-- Major 0x06 (Table 7-6; R224). -/
def major06 (w : Nat) : Option Instr :=
  some (.andi (.ofNat _ (bits w 25 21)) (.ofNat _ (bits w 20 16)) (.ofNat _ (bits w 15 0)))

/-- Major 0x07 (Table 7-6; R224). -/
def major07 (w : Nat) : Option Instr :=
  some (.ori (.ofNat _ (bits w 25 21)) (.ofNat _ (bits w 20 16)) (.ofNat _ (bits w 15 0)))

/-- Major 0x08 (Table 7-6; R224). -/
def major08 (w : Nat) : Option Instr :=
  some (.xori (.ofNat _ (bits w 25 21)) (.ofNat _ (bits w 20 16)) (.ofNat _ (bits w 15 0)))

/-- Major 0x09 (Table 7-6; R225). -/
def major09 (w : Nat) : Option Instr :=
  if bits w 15 6 = 0 then
    some (.shli (.ofNat _ (bits w 25 21)) (.ofNat _ (bits w 20 16)) (.ofNat _ (bits w 5 0)))
  else
  if bits w 15 6 = 1 then
    some (.shri (.ofNat _ (bits w 25 21)) (.ofNat _ (bits w 20 16)) (.ofNat _ (bits w 5 0)))
  else
  if bits w 15 6 = 2 then
    some (.srai (.ofNat _ (bits w 25 21)) (.ofNat _ (bits w 20 16)) (.ofNat _ (bits w 5 0)))
  else
  none

/-- Major 0x0A (Table 7-6; R226). -/
def major0A (w : Nat) : Option Instr :=
  some (.li (.ofNat _ (bits w 25 21)) (.ofNat _ (bits w 20 0)))

/-- Major 0x0B (Table 7-6; R227). -/
def major0B (w : Nat) : Option Instr :=
  if bits w 20 18 = 0 then
    some (.lis (.ofNat _ (bits w 25 21)) (.ofNat _ (bits w 17 16)) (.ofNat _ (bits w 15 0)))
  else
  none

/-- Major 0x0C (Table 7-6; R235, R236, R237). -/
def major0C (w : Nat) : Option Instr :=
  if bits w 25 20 = 0 ∧ bits w 17 13 = 0 then
    some (.loop (.ofNat _ (bits w 19 18)) (.ofNat _ (bits w 12 0)))
  else
  if bits w 25 20 = 8 ∧ bits w 12 0 = 0 then
    some (.lcsetReg (.ofNat _ (bits w 19 18)) (.ofNat _ (bits w 17 13)))
  else
  if bits w 25 20 = 16 ∧ bits w 17 13 = 0 then
    some (.lcsetImm (.ofNat _ (bits w 19 18)) (.ofNat _ (bits w 12 0)))
  else
  if bits w 25 20 = 24 ∧ bits w 17 15 = 0 ∧ bits w 12 0 = 1 then
    some (.lcchain (.ofNat _ (bits w 19 18)) (.ofNat _ (bits w 14 13)))
  else
  if bits w 25 20 = 24 ∧ bits w 17 0 = 0 then
    some (.lcchainNone (.ofNat _ (bits w 19 18)))
  else
  none

/-- Major 0x0D (Table 7-6; R247, R248). -/
def major0D (w : Nat) : Option Instr :=
  if bits w 20 12 = 0 then
    some (.mfs (.ofNat _ (bits w 25 21)) (.ofNat _ (bits w 11 0)))
  else
  if bits w 25 21 = 0 ∧ bits w 15 12 = 1 then
    some (.mts (.ofNat _ (bits w 20 16)) (.ofNat _ (bits w 11 0)))
  else
  none

/-- Major 0x10 (Table 7-6; R229). -/
def major10 (w : Nat) : Option Instr :=
  if bits w 25 23 = 0 then
    some (.beq (.ofNat _ (bits w 22 18)) (.ofNat _ (bits w 17 13)) (.ofNat _ (bits w 12 0)))
  else
  if bits w 25 23 = 1 then
    some (.bne (.ofNat _ (bits w 22 18)) (.ofNat _ (bits w 17 13)) (.ofNat _ (bits w 12 0)))
  else
  if bits w 25 23 = 2 then
    some (.blt (.ofNat _ (bits w 22 18)) (.ofNat _ (bits w 17 13)) (.ofNat _ (bits w 12 0)))
  else
  if bits w 25 23 = 3 then
    some (.bge (.ofNat _ (bits w 22 18)) (.ofNat _ (bits w 17 13)) (.ofNat _ (bits w 12 0)))
  else
  if bits w 25 23 = 4 then
    some (.bltu (.ofNat _ (bits w 22 18)) (.ofNat _ (bits w 17 13)) (.ofNat _ (bits w 12 0)))
  else
  if bits w 25 23 = 5 then
    some (.bgeu (.ofNat _ (bits w 22 18)) (.ofNat _ (bits w 17 13)) (.ofNat _ (bits w 12 0)))
  else
  none

/-- Major 0x11 (Table 7-6; R230). -/
def major11 (w : Nat) : Option Instr :=
  if bits w 25 21 = 0 ∧ bits w 17 13 = 0 then
    some (.bp (.ofNat _ (bits w 20 18)) (.ofNat _ (bits w 12 0)))
  else
  if bits w 25 21 = 4 ∧ bits w 17 13 = 0 then
    some (.bpAny (.ofNat _ (bits w 20 18)) (.ofNat _ (bits w 12 0)))
  else
  if bits w 25 21 = 8 ∧ bits w 17 13 = 0 then
    some (.bpAll (.ofNat _ (bits w 20 18)) (.ofNat _ (bits w 12 0)))
  else
  if bits w 25 21 = 16 ∧ bits w 17 13 = 0 then
    some (.bnp (.ofNat _ (bits w 20 18)) (.ofNat _ (bits w 12 0)))
  else
  if bits w 25 21 = 20 ∧ bits w 17 13 = 0 then
    some (.bnpAny (.ofNat _ (bits w 20 18)) (.ofNat _ (bits w 12 0)))
  else
  if bits w 25 21 = 24 ∧ bits w 17 13 = 0 then
    some (.bnpAll (.ofNat _ (bits w 20 18)) (.ofNat _ (bits w 12 0)))
  else
  none

/-- Major 0x12 (Table 7-6; R231). -/
def major12 (w : Nat) : Option Instr :=
  if bits w 25 25 = 0 then
    some (.j (.ofNat _ (bits w 24 0)))
  else
  if bits w 25 25 = 1 then
    some (.call (.ofNat _ (bits w 24 0)))
  else
  none

/-- Major 0x13 (Table 7-6; R232). -/
def major13 (w : Nat) : Option Instr :=
  if bits w 25 21 = 0 ∧ bits w 15 0 = 0 then
    some (.jr (.ofNat _ (bits w 20 16)))
  else
  if bits w 25 21 = 0 ∧ bits w 15 0 = 1 then
    some (.callr (.ofNat _ (bits w 20 16)))
  else
  none

/-- Major 0x14 (Table 7-6; R287). -/
def major14 (w : Nat) : Option Instr :=
  if bits w 15 13 = 0 then
    some (.ldb (.ofNat _ (bits w 25 21)) (.ofNat _ (bits w 20 16)) (.ofNat _ (bits w 12 0)))
  else
  if bits w 15 13 = 1 then
    some (.ldbu (.ofNat _ (bits w 25 21)) (.ofNat _ (bits w 20 16)) (.ofNat _ (bits w 12 0)))
  else
  if bits w 15 13 = 2 then
    some (.ldh (.ofNat _ (bits w 25 21)) (.ofNat _ (bits w 20 16)) (.ofNat _ (bits w 12 0)))
  else
  if bits w 15 13 = 3 then
    some (.ldhu (.ofNat _ (bits w 25 21)) (.ofNat _ (bits w 20 16)) (.ofNat _ (bits w 12 0)))
  else
  if bits w 15 13 = 4 then
    some (.ldw (.ofNat _ (bits w 25 21)) (.ofNat _ (bits w 20 16)) (.ofNat _ (bits w 12 0)))
  else
  if bits w 15 13 = 5 then
    some (.ldwu (.ofNat _ (bits w 25 21)) (.ofNat _ (bits w 20 16)) (.ofNat _ (bits w 12 0)))
  else
  if bits w 15 13 = 6 then
    some (.ldd (.ofNat _ (bits w 25 21)) (.ofNat _ (bits w 20 16)) (.ofNat _ (bits w 12 0)))
  else
  none

/-- Major 0x15 (Table 7-6; R288). -/
def major15 (w : Nat) : Option Instr :=
  if bits w 15 13 = 0 then
    some (.stb (.ofNat _ (bits w 25 21)) (.ofNat _ (bits w 20 16)) (.ofNat _ (bits w 12 0)))
  else
  if bits w 15 13 = 1 then
    some (.sth (.ofNat _ (bits w 25 21)) (.ofNat _ (bits w 20 16)) (.ofNat _ (bits w 12 0)))
  else
  if bits w 15 13 = 2 then
    some (.stw (.ofNat _ (bits w 25 21)) (.ofNat _ (bits w 20 16)) (.ofNat _ (bits w 12 0)))
  else
  if bits w 15 13 = 3 then
    some (.std (.ofNat _ (bits w 25 21)) (.ofNat _ (bits w 20 16)) (.ofNat _ (bits w 12 0)))
  else
  none

/-- Major 0x16 (Table 7-6; R289, R290). -/
def major16 (w : Nat) : Option Instr :=
  if bits w 10 8 = 0 ∧ bits w 4 2 = 0 then
    some (.indexedLoad (.ofNat _ (bits w 25 21)) (.ofNat _ (bits w 20 16)) (.ofNat _ (bits w 15 11)) (.ofNat _ (bits w 7 5)) (.ofNat _ (bits w 1 0)))
  else
  if bits w 10 8 = 1 ∧ bits w 4 2 = 0 then
    some (.indexedStore (.ofNat _ (bits w 25 21)) (.ofNat _ (bits w 20 16)) (.ofNat _ (bits w 15 11)) (.ofNat _ (bits w 7 5)) (.ofNat _ (bits w 1 0)))
  else
  if bits w 15 4 = 33 then
    some (.ldacq (.ofNat _ (bits w 25 21)) (.ofNat _ (bits w 20 16)) (.ofNat _ (bits w 3 0)))
  else
  if bits w 15 4 = 50 then
    some (.strel (.ofNat _ (bits w 25 21)) (.ofNat _ (bits w 20 16)) (.ofNat _ (bits w 3 0)))
  else
  none

/-- Major 0x18 (Table 7-6; R258). -/
def major18 (w : Nat) : Option Instr :=
  if bits w 6 6 = 0 ∧ bits w 2 0 = 0 then
    some (.vadd (.ofNat _ (bits w 25 21)) (.ofNat _ (bits w 20 16)) (.ofNat _ (bits w 15 11)) (.ofNat _ (bits w 10 7)) (.ofNat _ (bits w 5 3)))
  else
  if bits w 6 6 = 0 ∧ bits w 2 0 = 1 then
    some (.vsub (.ofNat _ (bits w 25 21)) (.ofNat _ (bits w 20 16)) (.ofNat _ (bits w 15 11)) (.ofNat _ (bits w 10 7)) (.ofNat _ (bits w 5 3)))
  else
  if bits w 6 6 = 0 ∧ bits w 2 0 = 2 then
    some (.vmul (.ofNat _ (bits w 25 21)) (.ofNat _ (bits w 20 16)) (.ofNat _ (bits w 15 11)) (.ofNat _ (bits w 10 7)) (.ofNat _ (bits w 5 3)))
  else
  if bits w 6 6 = 0 ∧ bits w 2 0 = 3 then
    some (.vmin (.ofNat _ (bits w 25 21)) (.ofNat _ (bits w 20 16)) (.ofNat _ (bits w 15 11)) (.ofNat _ (bits w 10 7)) (.ofNat _ (bits w 5 3)))
  else
  if bits w 6 6 = 0 ∧ bits w 2 0 = 4 then
    some (.vmax (.ofNat _ (bits w 25 21)) (.ofNat _ (bits w 20 16)) (.ofNat _ (bits w 15 11)) (.ofNat _ (bits w 10 7)) (.ofNat _ (bits w 5 3)))
  else
  if bits w 15 11 = 0 ∧ bits w 6 6 = 0 ∧ bits w 2 0 = 5 then
    some (.vabs (.ofNat _ (bits w 25 21)) (.ofNat _ (bits w 20 16)) (.ofNat _ (bits w 10 7)) (.ofNat _ (bits w 5 3)))
  else
  if bits w 15 11 = 0 ∧ bits w 6 6 = 0 ∧ bits w 2 0 = 6 then
    some (.vneg (.ofNat _ (bits w 25 21)) (.ofNat _ (bits w 20 16)) (.ofNat _ (bits w 10 7)) (.ofNat _ (bits w 5 3)))
  else
  none

/-- Major 0x19 (Table 7-6; R259). -/
def major19 (w : Nat) : Option Instr :=
  if bits w 6 6 = 0 ∧ bits w 2 0 = 0 then
    some (.vfma (.ofNat _ (bits w 25 21)) (.ofNat _ (bits w 20 16)) (.ofNat _ (bits w 15 11)) (.ofNat _ (bits w 10 7)) (.ofNat _ (bits w 5 3)))
  else
  if bits w 6 6 = 0 ∧ bits w 2 0 = 1 then
    some (.vfms (.ofNat _ (bits w 25 21)) (.ofNat _ (bits w 20 16)) (.ofNat _ (bits w 15 11)) (.ofNat _ (bits w 10 7)) (.ofNat _ (bits w 5 3)))
  else
  if bits w 6 6 = 0 ∧ bits w 2 0 = 2 then
    some (.vfnma (.ofNat _ (bits w 25 21)) (.ofNat _ (bits w 20 16)) (.ofNat _ (bits w 15 11)) (.ofNat _ (bits w 10 7)) (.ofNat _ (bits w 5 3)))
  else
  none

/-- Major 0x1A (Table 7-6; R260). -/
def major1A (w : Nat) : Option Instr :=
  if bits w 6 6 = 0 ∧ bits w 2 0 = 0 then
    some (.vand (.ofNat _ (bits w 25 21)) (.ofNat _ (bits w 20 16)) (.ofNat _ (bits w 15 11)) (.ofNat _ (bits w 10 7)) (.ofNat _ (bits w 5 3)))
  else
  if bits w 6 6 = 0 ∧ bits w 2 0 = 1 then
    some (.vor (.ofNat _ (bits w 25 21)) (.ofNat _ (bits w 20 16)) (.ofNat _ (bits w 15 11)) (.ofNat _ (bits w 10 7)) (.ofNat _ (bits w 5 3)))
  else
  if bits w 6 6 = 0 ∧ bits w 2 0 = 2 then
    some (.vxor (.ofNat _ (bits w 25 21)) (.ofNat _ (bits w 20 16)) (.ofNat _ (bits w 15 11)) (.ofNat _ (bits w 10 7)) (.ofNat _ (bits w 5 3)))
  else
  if bits w 6 6 = 0 ∧ bits w 2 0 = 3 then
    some (.vshl (.ofNat _ (bits w 25 21)) (.ofNat _ (bits w 20 16)) (.ofNat _ (bits w 15 11)) (.ofNat _ (bits w 10 7)) (.ofNat _ (bits w 5 3)))
  else
  if bits w 6 6 = 0 ∧ bits w 2 0 = 4 then
    some (.vshr (.ofNat _ (bits w 25 21)) (.ofNat _ (bits w 20 16)) (.ofNat _ (bits w 15 11)) (.ofNat _ (bits w 10 7)) (.ofNat _ (bits w 5 3)))
  else
  if bits w 6 6 = 0 ∧ bits w 2 0 = 5 then
    some (.vsra (.ofNat _ (bits w 25 21)) (.ofNat _ (bits w 20 16)) (.ofNat _ (bits w 15 11)) (.ofNat _ (bits w 10 7)) (.ofNat _ (bits w 5 3)))
  else
  none

/-- Major 0x1B (Table 7-6; R262, R263, R264, R265). -/
def major1B (w : Nat) : Option Instr :=
  if bits w 25 24 = 0 ∧ bits w 6 6 = 0 ∧ bits w 2 0 = 0 then
    some (.vcmpEq (.ofNat _ (bits w 23 21)) (.ofNat _ (bits w 20 16)) (.ofNat _ (bits w 15 11)) (.ofNat _ (bits w 10 7)) (.ofNat _ (bits w 5 3)))
  else
  if bits w 25 24 = 0 ∧ bits w 6 6 = 0 ∧ bits w 2 0 = 1 then
    some (.vcmpNe (.ofNat _ (bits w 23 21)) (.ofNat _ (bits w 20 16)) (.ofNat _ (bits w 15 11)) (.ofNat _ (bits w 10 7)) (.ofNat _ (bits w 5 3)))
  else
  if bits w 25 24 = 0 ∧ bits w 6 6 = 0 ∧ bits w 2 0 = 2 then
    some (.vcmpLt (.ofNat _ (bits w 23 21)) (.ofNat _ (bits w 20 16)) (.ofNat _ (bits w 15 11)) (.ofNat _ (bits w 10 7)) (.ofNat _ (bits w 5 3)))
  else
  if bits w 25 24 = 0 ∧ bits w 6 6 = 0 ∧ bits w 2 0 = 3 then
    some (.vcmpLe (.ofNat _ (bits w 23 21)) (.ofNat _ (bits w 20 16)) (.ofNat _ (bits w 15 11)) (.ofNat _ (bits w 10 7)) (.ofNat _ (bits w 5 3)))
  else
  if bits w 25 24 = 0 ∧ bits w 6 6 = 0 ∧ bits w 2 0 = 4 then
    some (.vcmpUn (.ofNat _ (bits w 23 21)) (.ofNat _ (bits w 20 16)) (.ofNat _ (bits w 15 11)) (.ofNat _ (bits w 10 7)) (.ofNat _ (bits w 5 3)))
  else
  if bits w 6 6 = 0 ∧ bits w 2 0 = 5 then
    some (.vsel (.ofNat _ (bits w 25 21)) (.ofNat _ (bits w 20 16)) (.ofNat _ (bits w 15 11)) (.ofNat _ (bits w 10 7)) (.ofNat _ (bits w 5 3)))
  else
  if bits w 15 11 = 0 ∧ bits w 6 6 = 0 ∧ bits w 2 0 = 6 then
    some (.vmov (.ofNat _ (bits w 25 21)) (.ofNat _ (bits w 20 16)) (.ofNat _ (bits w 10 7)) (.ofNat _ (bits w 5 3)))
  else
  if bits w 15 11 = 0 ∧ bits w 6 6 = 0 ∧ bits w 2 0 = 7 then
    some (.vbcast (.ofNat _ (bits w 25 21)) (.ofNat _ (bits w 20 16)) (.ofNat _ (bits w 10 7)) (.ofNat _ (bits w 5 3)))
  else
  if bits w 6 0 = 64 then
    some (.vext (.ofNat _ (bits w 25 21)) (.ofNat _ (bits w 20 16)) (.ofNat _ (bits w 15 11)) (.ofNat _ (bits w 10 7)))
  else
  if bits w 6 0 = 65 then
    some (.vins (.ofNat _ (bits w 25 21)) (.ofNat _ (bits w 20 16)) (.ofNat _ (bits w 15 11)) (.ofNat _ (bits w 10 7)))
  else
  none

/-- Major 0x1C (Table 7-6; R266). -/
def major1C (w : Nat) : Option Instr :=
  if bits w 6 6 = 0 ∧ bits w 2 0 = 0 then
    some (.vperm (.ofNat _ (bits w 25 21)) (.ofNat _ (bits w 20 16)) (.ofNat _ (bits w 15 11)) (.ofNat _ (bits w 10 7)) (.ofNat _ (bits w 5 3)))
  else
  if bits w 6 6 = 0 ∧ bits w 2 0 = 1 then
    some (.vshufLo (.ofNat _ (bits w 25 21)) (.ofNat _ (bits w 20 16)) (.ofNat _ (bits w 15 11)) (.ofNat _ (bits w 10 7)) (.ofNat _ (bits w 5 3)))
  else
  if bits w 6 6 = 0 ∧ bits w 2 0 = 2 then
    some (.vshufHi (.ofNat _ (bits w 25 21)) (.ofNat _ (bits w 20 16)) (.ofNat _ (bits w 15 11)) (.ofNat _ (bits w 10 7)) (.ofNat _ (bits w 5 3)))
  else
  if bits w 6 6 = 0 ∧ bits w 2 0 = 3 then
    some (.vshufEven (.ofNat _ (bits w 25 21)) (.ofNat _ (bits w 20 16)) (.ofNat _ (bits w 15 11)) (.ofNat _ (bits w 10 7)) (.ofNat _ (bits w 5 3)))
  else
  if bits w 6 6 = 0 ∧ bits w 2 0 = 4 then
    some (.vshufOdd (.ofNat _ (bits w 25 21)) (.ofNat _ (bits w 20 16)) (.ofNat _ (bits w 15 11)) (.ofNat _ (bits w 10 7)) (.ofNat _ (bits w 5 3)))
  else
  if bits w 6 6 = 0 ∧ bits w 2 0 = 5 then
    some (.vslideUp (.ofNat _ (bits w 25 21)) (.ofNat _ (bits w 20 16)) (.ofNat _ (bits w 15 11)) (.ofNat _ (bits w 10 7)) (.ofNat _ (bits w 5 3)))
  else
  if bits w 6 6 = 0 ∧ bits w 2 0 = 6 then
    some (.vslideDn (.ofNat _ (bits w 25 21)) (.ofNat _ (bits w 20 16)) (.ofNat _ (bits w 15 11)) (.ofNat _ (bits w 10 7)) (.ofNat _ (bits w 5 3)))
  else
  none

/-- Major 0x1D (Table 7-6; R268, R269, R270). -/
def major1D (w : Nat) : Option Instr :=
  if bits w 15 14 = 0 ∧ bits w 6 6 = 0 ∧ bits w 2 0 = 0 then
    some (.vredsum (.ofNat _ (bits w 25 21)) (.ofNat _ (bits w 20 16)) (.ofNat _ (bits w 13 11)) (.ofNat _ (bits w 10 7)) (.ofNat _ (bits w 5 3)))
  else
  if bits w 15 11 = 0 ∧ bits w 6 6 = 0 ∧ bits w 2 0 = 1 then
    some (.vredmax (.ofNat _ (bits w 25 21)) (.ofNat _ (bits w 20 16)) (.ofNat _ (bits w 10 7)) (.ofNat _ (bits w 5 3)))
  else
  if bits w 15 11 = 0 ∧ bits w 6 6 = 0 ∧ bits w 2 0 = 2 then
    some (.vredmin (.ofNat _ (bits w 25 21)) (.ofNat _ (bits w 20 16)) (.ofNat _ (bits w 10 7)) (.ofNat _ (bits w 5 3)))
  else
  if bits w 15 14 = 0 ∧ bits w 6 6 = 0 ∧ bits w 2 0 = 3 then
    some (.vscan (.ofNat _ (bits w 25 21)) (.ofNat _ (bits w 20 16)) (.ofNat _ (bits w 13 11)) (.ofNat _ (bits w 10 7)) (.ofNat _ (bits w 5 3)))
  else
  if bits w 6 6 = 0 ∧ bits w 2 0 = 4 then
    some (.vdot (.ofNat _ (bits w 25 21)) (.ofNat _ (bits w 20 16)) (.ofNat _ (bits w 15 11)) (.ofNat _ (bits w 10 7)) (.ofNat _ (bits w 5 3)))
  else
  none

/-- Major 0x1E (Table 7-6; R271, R272). -/
def major1E (w : Nat) : Option Instr :=
  if bits w 6 6 = 0 ∧ bits w 2 0 = 0 then
    some (.vdiv (.ofNat _ (bits w 25 21)) (.ofNat _ (bits w 20 16)) (.ofNat _ (bits w 15 11)) (.ofNat _ (bits w 10 7)) (.ofNat _ (bits w 5 3)))
  else
  if bits w 15 14 = 0 ∧ bits w 6 6 = 0 ∧ bits w 2 0 = 1 then
    some (.vsqrt (.ofNat _ (bits w 25 21)) (.ofNat _ (bits w 20 16)) (.ofNat _ (bits w 13 11)) (.ofNat _ (bits w 10 7)) (.ofNat _ (bits w 5 3)))
  else
  if bits w 15 11 = 0 ∧ bits w 6 6 = 0 ∧ bits w 2 0 = 2 then
    some (.vrcp (.ofNat _ (bits w 25 21)) (.ofNat _ (bits w 20 16)) (.ofNat _ (bits w 10 7)) (.ofNat _ (bits w 5 3)))
  else
  if bits w 15 11 = 0 ∧ bits w 6 6 = 0 ∧ bits w 2 0 = 3 then
    some (.vrsq (.ofNat _ (bits w 25 21)) (.ofNat _ (bits w 20 16)) (.ofNat _ (bits w 10 7)) (.ofNat _ (bits w 5 3)))
  else
  if bits w 15 11 = 0 ∧ bits w 6 6 = 0 ∧ bits w 2 0 = 4 then
    some (.vexp2 (.ofNat _ (bits w 25 21)) (.ofNat _ (bits w 20 16)) (.ofNat _ (bits w 10 7)) (.ofNat _ (bits w 5 3)))
  else
  if bits w 15 11 = 0 ∧ bits w 6 6 = 0 ∧ bits w 2 0 = 5 then
    some (.vlog2 (.ofNat _ (bits w 25 21)) (.ofNat _ (bits w 20 16)) (.ofNat _ (bits w 10 7)) (.ofNat _ (bits w 5 3)))
  else
  none

/-- Major 0x20 (Table 7-6; R291). -/
def major20 (w : Nat) : Option Instr :=
  if bits w 15 15 = 0 then
    some (.vld (.ofNat _ (bits w 25 21)) (.ofNat _ (bits w 20 16)) (.ofNat _ (bits w 14 12)) (.ofNat _ (bits w 11 10)) (.ofNat _ (bits w 9 0)))
  else
  if bits w 15 15 = 1 then
    some (.vst (.ofNat _ (bits w 25 21)) (.ofNat _ (bits w 20 16)) (.ofNat _ (bits w 14 12)) (.ofNat _ (bits w 11 10)) (.ofNat _ (bits w 9 0)))
  else
  none

/-- Major 0x21 (Table 7-6; R292). -/
def major21 (w : Nat) : Option Instr :=
  if bits w 6 6 = 0 ∧ bits w 2 0 = 0 then
    some (.vlds (.ofNat _ (bits w 25 21)) (.ofNat _ (bits w 20 16)) (.ofNat _ (bits w 15 11)) (.ofNat _ (bits w 10 7)) (.ofNat _ (bits w 5 3)))
  else
  if bits w 6 6 = 0 ∧ bits w 2 0 = 1 then
    some (.vsts (.ofNat _ (bits w 25 21)) (.ofNat _ (bits w 20 16)) (.ofNat _ (bits w 15 11)) (.ofNat _ (bits w 10 7)) (.ofNat _ (bits w 5 3)))
  else
  none

/-- Major 0x22 (Table 7-6; R293). -/
def major22 (w : Nat) : Option Instr :=
  if bits w 2 0 = 0 then
    some (.vgath (.ofNat _ (bits w 25 21)) (.ofNat _ (bits w 20 16)) (.ofNat _ (bits w 15 11)) (.ofNat _ (bits w 10 7)) (decide (bits w 6 6 = 1)) (.ofNat _ (bits w 5 3)))
  else
  if bits w 2 0 = 1 then
    some (.vscat (.ofNat _ (bits w 25 21)) (.ofNat _ (bits w 20 16)) (.ofNat _ (bits w 15 11)) (.ofNat _ (bits w 10 7)) (decide (bits w 6 6 = 1)) (.ofNat _ (bits w 5 3)))
  else
  none

/-- Major 0x24 (Table 7-6; R274). -/
def major24 (w : Nat) : Option Instr :=
  if bits w 15 15 = 0 ∧ bits w 6 6 = 0 then
    some (.vcvt (.ofNat _ (bits w 25 21)) (.ofNat _ (bits w 20 16)) (.ofNat _ (bits w 14 11)) (.ofNat _ (bits w 10 7)) (.ofNat _ (bits w 5 3)) (.ofNat _ (bits w 2 0)))
  else
  none

/-- Major 0x25 (Table 7-6; R277, R278). -/
def major25 (w : Nat) : Option Instr :=
  if bits w 2 2 = 0 then
    some (.vqcvt (.ofNat _ (bits w 25 21)) (.ofNat _ (bits w 20 16)) (.ofNat _ (bits w 15 11)) (.ofNat _ (bits w 10 7)) (decide (bits w 6 6 = 1)) (.ofNat _ (bits w 5 3)) (.ofNat _ (bits w 1 0)))
  else
  if bits w 2 2 = 1 then
    some (.vdqcvt (.ofNat _ (bits w 25 21)) (.ofNat _ (bits w 20 16)) (.ofNat _ (bits w 15 11)) (.ofNat _ (bits w 10 7)) (decide (bits w 6 6 = 1)) (.ofNat _ (bits w 5 3)) (.ofNat _ (bits w 1 0)))
  else
  none

/-- Major 0x26 (Table 7-6; R281, R282). -/
def major26 (w : Nat) : Option Instr :=
  if bits w 15 11 = 0 ∧ bits w 6 6 = 0 ∧ bits w 2 0 = 0 then
    some (.vpack (.ofNat _ (bits w 25 21)) (.ofNat _ (bits w 20 16)) (.ofNat _ (bits w 10 7)) (.ofNat _ (bits w 5 3)))
  else
  if bits w 15 11 = 0 ∧ bits w 6 6 = 0 ∧ bits w 2 0 = 1 then
    some (.vunpack (.ofNat _ (bits w 25 21)) (.ofNat _ (bits w 20 16)) (.ofNat _ (bits w 10 7)) (.ofNat _ (bits w 5 3)))
  else
  if bits w 25 24 = 0 ∧ bits w 6 0 = 2 then
    some (.vmask12 (.ofNat _ (bits w 23 21)) (.ofNat _ (bits w 20 16)) (.ofNat _ (bits w 15 11)) (.ofNat _ (bits w 10 7)))
  else
  none

/-- Major 0x28 (Table 7-6; R295, R297, R298). -/
def major28 (w : Nat) : Option Instr :=
  if bits w 25 21 = 0 ∧ bits w 10 6 < 23 then
    some (.amo (.ofNat _ (bits w 20 16)) (.ofNat _ (bits w 15 11)) (.ofNat _ (bits w 10 6)) (.ofNat _ (bits w 5 4)) (.ofNat _ (bits w 3 0)))
  else
  if bits w 10 6 < 23 then
    some (.amor (.ofNat _ (bits w 25 21)) (.ofNat _ (bits w 20 16)) (.ofNat _ (bits w 15 11)) (.ofNat _ (bits w 10 6)) (.ofNat _ (bits w 5 4)) (.ofNat _ (bits w 3 0)))
  else
  some (.amocas (.ofNat _ (bits w 25 21)) (.ofNat _ (bits w 20 16)) (.ofNat _ (bits w 15 11)) (.ofNat _ (bits w 10 6)) (.ofNat _ (bits w 5 4)) (.ofNat _ (bits w 3 0)))

/-- Major 0x29 (Table 7-6; R179). -/
def major29 (w : Nat) : Option Instr :=
  if bits w 25 6 = 0 then
    some (.fence (.ofNat _ (bits w 5 4)) (.ofNat _ (bits w 3 0)))
  else
  none

/-- Major 0x2A (Table 7-6; R302, R303). -/
def major2A (w : Nat) : Option Instr :=
  if bits w 25 21 = 0 ∧ bits w 10 0 = 0 then
    some (.cleatInit (.ofNat _ (bits w 20 16)) (.ofNat _ (bits w 15 11)))
  else
  if bits w 25 21 = 0 ∧ bits w 10 0 = 256 then
    some (.cleatExp (.ofNat _ (bits w 20 16)) (.ofNat _ (bits w 15 11)))
  else
  if bits w 25 21 = 0 ∧ bits w 15 6 = 8 then
    some (.cleatArv (.ofNat _ (bits w 20 16)) (.ofNat _ (bits w 5 4)) (.ofNat _ (bits w 3 0)))
  else
  if bits w 25 21 = 0 ∧ bits w 10 6 = 12 then
    some (.cleatWait (.ofNat _ (bits w 20 16)) (.ofNat _ (bits w 15 11)) (.ofNat _ (bits w 5 4)) (.ofNat _ (bits w 3 0)))
  else
  if bits w 10 6 = 16 then
    some (.cleatTest (.ofNat _ (bits w 25 21)) (.ofNat _ (bits w 20 16)) (.ofNat _ (bits w 15 11)) (.ofNat _ (bits w 5 4)) (.ofNat _ (bits w 3 0)))
  else
  none

/-- Major 0x2B (Table 7-6; R307, R309). -/
def major2B (w : Nat) : Option Instr :=
  if bits w 15 0 = 0 then
    some (.join (.ofNat _ (bits w 25 21)) (.ofNat _ (bits w 20 16)))
  else
  if bits w 25 21 = 0 ∧ bits w 10 6 = 4 then
    some (.leave (.ofNat _ (bits w 20 16)) (.ofNat _ (bits w 15 11)) (.ofNat _ (bits w 5 4)) (.ofNat _ (bits w 3 0)))
  else
  if bits w 25 21 = 0 ∧ bits w 10 6 = 8 then
    some (.gbar (.ofNat _ (bits w 20 16)) (.ofNat _ (bits w 15 11)) (.ofNat _ (bits w 5 4)) (.ofNat _ (bits w 3 0)))
  else
  if bits w 25 16 = 0 ∧ bits w 10 0 = 768 then
    some (.tgive (.ofNat _ (bits w 15 11)))
  else
  if bits w 25 16 = 0 ∧ bits w 10 0 = 1024 then
    some (.ttake (.ofNat _ (bits w 15 11)))
  else
  none

/-- Major 0x2C (Table 7-6; R310). -/
def major2C (w : Nat) : Option Instr :=
  if bits w 15 0 = 0 then
    some (.lookup (.ofNat _ (bits w 25 21)) (.ofNat _ (bits w 20 16)))
  else
  if bits w 25 21 = 0 ∧ bits w 10 0 = 1 then
    some (.tagset (.ofNat _ (bits w 20 16)) (.ofNat _ (bits w 15 11)))
  else
  if bits w 25 21 = 0 ∧ bits w 15 0 = 2 then
    some (.tagclr (.ofNat _ (bits w 20 16)))
  else
  if bits w 15 0 = 3 then
    some (.tagread (.ofNat _ (bits w 25 21)) (.ofNat _ (bits w 20 16)))
  else
  none

/-- Major 0x30 (Table 7-6; R312, R313, R314). -/
def major30 (w : Nat) : Option Instr :=
  if bits w 10 9 = 0 ∧ bits w 7 6 = 0 then
    some (.copy (.ofNat _ (bits w 25 21)) (.ofNat _ (bits w 20 16)) (.ofNat _ (bits w 15 11)) (decide (bits w 8 8 = 1)) (.ofNat _ (bits w 5 3)) (.ofNat _ (bits w 2 0)))
  else
  if bits w 10 6 = 8 then
    some (.copy2 (.ofNat _ (bits w 25 21)) (.ofNat _ (bits w 20 16)) (.ofNat _ (bits w 15 11)) (.ofNat _ (bits w 5 3)) (.ofNat _ (bits w 2 0)))
  else
  if bits w 10 9 = 2 ∧ bits w 7 6 = 0 then
    some (.copym (.ofNat _ (bits w 25 21)) (.ofNat _ (bits w 20 16)) (.ofNat _ (bits w 15 11)) (decide (bits w 8 8 = 1)) (.ofNat _ (bits w 5 3)) (.ofNat _ (bits w 2 0)))
  else
  none

/-- Major 0x34 (Table 7-6; R322, R324). -/
def major34 (w : Nat) : Option Instr :=
  if bits w 20 11 = 0 ∧ bits w 9 6 = 0 then
    some (.rowact (.ofNat _ (bits w 25 21)) (decide (bits w 10 10 = 1)) (.ofNat _ (bits w 5 3)) (.ofNat _ (bits w 2 0)))
  else
  if bits w 20 11 = 0 ∧ bits w 9 6 = 1 then
    some (.rowtakePl (.ofNat _ (bits w 25 21)) (decide (bits w 10 10 = 1)) (.ofNat _ (bits w 5 3)) (.ofNat _ (bits w 2 0)))
  else
  if bits w 20 11 = 0 ∧ bits w 9 6 = 2 then
    some (.rowtakeMk (.ofNat _ (bits w 25 21)) (decide (bits w 10 10 = 1)) (.ofNat _ (bits w 5 3)) (.ofNat _ (bits w 2 0)))
  else
  if bits w 15 11 = 0 ∧ bits w 9 6 = 3 then
    some (.rowtakeTm (.ofNat _ (bits w 25 21)) (.ofNat _ (bits w 20 16)) (decide (bits w 10 10 = 1)) (.ofNat _ (bits w 5 3)) (.ofNat _ (bits w 2 0)))
  else
  if bits w 15 11 = 0 ∧ bits w 9 6 = 4 then
    some (.rowput (.ofNat _ (bits w 25 21)) (.ofNat _ (bits w 20 16)) (decide (bits w 10 10 = 1)) (.ofNat _ (bits w 5 3)) (.ofNat _ (bits w 2 0)))
  else
  if bits w 20 11 = 0 ∧ bits w 9 6 = 5 then
    some (.rowclose (.ofNat _ (bits w 25 21)) (decide (bits w 10 10 = 1)) (.ofNat _ (bits w 5 3)) (.ofNat _ (bits w 2 0)))
  else
  if bits w 15 6 = 6 then
    some (.rowstat (.ofNat _ (bits w 25 21)) (.ofNat _ (bits w 20 16)) (.ofNat _ (bits w 5 3)) (.ofNat _ (bits w 2 0)))
  else
  none

/-- Major 0x35 (Table 7-6; R325). -/
def major35 (w : Nat) : Option Instr :=
  if bits w 20 11 = 0 ∧ bits w 9 6 = 0 then
    some (.plane (.ofNat _ (bits w 25 21)) (decide (bits w 10 10 = 1)) (.ofNat _ (bits w 5 3)) (.ofNat _ (bits w 2 0)))
  else
  if bits w 20 11 = 0 ∧ bits w 9 6 = 1 then
    some (.planeld (.ofNat _ (bits w 25 21)) (decide (bits w 10 10 = 1)) (.ofNat _ (bits w 5 3)) (.ofNat _ (bits w 2 0)))
  else
  if bits w 20 11 = 0 ∧ bits w 9 6 = 2 then
    some (.planeldMk (.ofNat _ (bits w 25 21)) (decide (bits w 10 10 = 1)) (.ofNat _ (bits w 5 3)) (.ofNat _ (bits w 2 0)))
  else
  if bits w 25 11 = 0 ∧ bits w 9 6 = 3 then
    some (.planeinv (decide (bits w 10 10 = 1)) (.ofNat _ (bits w 5 3)) (.ofNat _ (bits w 2 0)))
  else
  none

/-- Major 0x36 (Table 7-6; R328, R329, R330, R331, R332, R333). -/
def major36 (w : Nat) : Option Instr :=
  if bits w 10 6 = 0 then
    some (.configure (.ofNat _ (bits w 25 21)) (.ofNat _ (bits w 20 16)) (.ofNat _ (bits w 15 11)) (.ofNat _ (bits w 5 3)) (.ofNat _ (bits w 2 0)))
  else
  if bits w 25 6 = 1 then
    some (.unfuse (.ofNat _ (bits w 5 3)) (.ofNat _ (bits w 2 0)))
  else
  if bits w 10 6 = 2 then
    some (.ctxload (.ofNat _ (bits w 25 21)) (.ofNat _ (bits w 20 16)) (.ofNat _ (bits w 15 11)) (.ofNat _ (bits w 5 3)) (.ofNat _ (bits w 2 0)))
  else
  if bits w 20 6 = 3 then
    some (.ctxsel (.ofNat _ (bits w 25 21)) (.ofNat _ (bits w 5 3)) (.ofNat _ (bits w 2 0)))
  else
  if bits w 15 6 = 4 then
    some (.ctxstat (.ofNat _ (bits w 25 21)) (.ofNat _ (bits w 20 16)) (.ofNat _ (bits w 5 3)) (.ofNat _ (bits w 2 0)))
  else
  if bits w 20 6 = 5 then
    some (.tstdisc (.ofNat _ (bits w 25 21)) (.ofNat _ (bits w 5 3)) (.ofNat _ (bits w 2 0)))
  else
  none

/-- Major 0x37 (Table 7-6; R338, R339, R341, R342). -/
def major37 (w : Nat) : Option Instr :=
  if bits w 10 6 = 0 then
    some (.mrun (.ofNat _ (bits w 25 21)) (.ofNat _ (bits w 20 16)) (.ofNat _ (bits w 15 11)) (.ofNat _ (bits w 5 3)) (.ofNat _ (bits w 2 0)))
  else
  if bits w 10 6 = 1 then
    some (.mrunAcc (.ofNat _ (bits w 25 21)) (.ofNat _ (bits w 20 16)) (.ofNat _ (bits w 15 11)) (.ofNat _ (bits w 5 3)) (.ofNat _ (bits w 2 0)))
  else
  if bits w 20 6 = 2 then
    some (.mzero (.ofNat _ (bits w 25 21)) (.ofNat _ (bits w 5 3)) (.ofNat _ (bits w 2 0)))
  else
  if bits w 10 6 = 3 then
    some (.mdrain (.ofNat _ (bits w 25 21)) (.ofNat _ (bits w 20 16)) (.ofNat _ (bits w 15 11)) (.ofNat _ (bits w 5 3)) (.ofNat _ (bits w 2 0)))
  else
  if bits w 15 6 = 4 then
    some (.mstat (.ofNat _ (bits w 25 21)) (.ofNat _ (bits w 20 16)) (.ofNat _ (bits w 5 3)) (.ofNat _ (bits w 2 0)))
  else
  none

/-- Major 0x38 (Table 7-6; R344, R345). -/
def major38 (w : Nat) : Option Instr :=
  if bits w 25 24 = 0 ∧ bits w 15 6 = 0 then
    some (.sopen (.ofNat _ (bits w 23 21)) (.ofNat _ (bits w 20 16)) (.ofNat _ (bits w 5 3)) (.ofNat _ (bits w 2 0)))
  else
  if bits w 25 24 = 0 ∧ bits w 20 6 = 1 then
    some (.sstart (.ofNat _ (bits w 23 21)) (.ofNat _ (bits w 5 3)) (.ofNat _ (bits w 2 0)))
  else
  if bits w 25 24 = 0 ∧ bits w 20 6 = 2 then
    some (.sstop (.ofNat _ (bits w 23 21)) (.ofNat _ (bits w 5 3)) (.ofNat _ (bits w 2 0)))
  else
  none

/-- Major 0x39 (Table 7-6; R347, R348, R350, R351). -/
def major39 (w : Nat) : Option Instr :=
  if bits w 25 24 = 0 ∧ bits w 20 6 = 0 then
    some (.sknot (.ofNat _ (bits w 23 21)) (.ofNat _ (bits w 5 3)) (.ofNat _ (bits w 2 0)))
  else
  if bits w 15 6 = 1 then
    some (.coilset (.ofNat _ (bits w 25 21)) (.ofNat _ (bits w 20 16)) (.ofNat _ (bits w 5 3)) (.ofNat _ (bits w 2 0)))
  else
  if bits w 25 24 = 0 ∧ bits w 15 6 = 8 then
    some (.coilsetNd (.ofNat _ (bits w 23 21)) (.ofNat _ (bits w 20 16)) (.ofNat _ (bits w 5 3)) (.ofNat _ (bits w 2 0)))
  else
  if bits w 15 15 = 0 ∧ bits w 10 0 = 128 then
    some (.spush (.ofNat _ (bits w 25 21)) (.ofNat _ (bits w 20 16)) (decide (bits w 14 14 = 1)) (.ofNat _ (bits w 13 11)))
  else
  if bits w 25 24 = 0 ∧ bits w 15 0 = 192 then
    some (.spushC (.ofNat _ (bits w 23 21)) (.ofNat _ (bits w 20 16)))
  else
  if bits w 15 14 = 0 ∧ bits w 10 0 = 256 then
    some (.spop (.ofNat _ (bits w 25 21)) (.ofNat _ (bits w 20 16)) (.ofNat _ (bits w 13 11)))
  else
  if bits w 25 24 = 0 ∧ bits w 15 14 = 0 ∧ bits w 10 0 = 320 then
    some (.spopC (.ofNat _ (bits w 23 21)) (.ofNat _ (bits w 20 16)) (.ofNat _ (bits w 13 11)))
  else
  if bits w 15 14 = 0 ∧ bits w 10 0 = 384 then
    some (.speek (.ofNat _ (bits w 25 21)) (.ofNat _ (bits w 20 16)) (.ofNat _ (bits w 13 11)))
  else
  if bits w 25 24 = 0 ∧ bits w 15 14 = 0 ∧ bits w 10 0 = 448 then
    some (.speekC (.ofNat _ (bits w 23 21)) (.ofNat _ (bits w 20 16)) (.ofNat _ (bits w 13 11)))
  else
  none

/-- Major 0x3A (Table 7-6; R352). -/
def major3A (w : Nat) : Option Instr :=
  if bits w 10 6 = 0 then
    some (.launch (.ofNat _ (bits w 25 21)) (.ofNat _ (bits w 20 16)) (.ofNat _ (bits w 15 11)) (.ofNat _ (bits w 5 3)) (.ofNat _ (bits w 2 0)))
  else
  none

/-- Major 0x3C (Table 7-6; R374, R375). -/
def major3C (w : Nat) : Option Instr :=
  if bits w 25 16 = 0 then
    some (.trap (.ofNat _ (bits w 15 0)))
  else
  if bits w 25 0 = 65536 then
    some (.sysret)
  else
  if bits w 25 0 = 65537 then
    some (.sysretRe)
  else
  none

/-- Major 0x3D (Table 7-6; R377, R378, R379, R381, R383, R384). -/
def major3D (w : Nat) : Option Instr :=
  if bits w 25 21 = 0 ∧ bits w 15 0 = 0 then
    some (.tlbinv (.ofNat _ (bits w 20 16)))
  else
  if bits w 25 0 = 1 then
    some (.tlbinva)
  else
  if bits w 15 0 = 2 then
    some (.probe (.ofNat _ (bits w 25 21)) (.ofNat _ (bits w 20 16)))
  else
  if bits w 15 0 = 3 then
    some (.wavereq (.ofNat _ (bits w 25 21)) (.ofNat _ (bits w 20 16)))
  else
  if bits w 25 21 = 0 ∧ bits w 10 0 = 4 then
    some (.codecinv (.ofNat _ (bits w 20 16)) (.ofNat _ (bits w 15 11)))
  else
  if bits w 25 21 = 0 ∧ bits w 15 0 = 20 then
    some (.codecinvDesc (.ofNat _ (bits w 20 16)))
  else
  if bits w 15 0 = 5 then
    some (.freeze (.ofNat _ (bits w 25 21)) (.ofNat _ (bits w 20 16)))
  else
  if bits w 15 0 = 21 then
    some (.freezeOff (.ofNat _ (bits w 25 21)) (.ofNat _ (bits w 20 16)))
  else
  if bits w 15 0 = 6 then
    some (.graphctlStat (.ofNat _ (bits w 25 21)) (.ofNat _ (bits w 20 16)))
  else
  if bits w 10 0 = 22 then
    some (.graphctlStall (.ofNat _ (bits w 25 21)) (.ofNat _ (bits w 20 16)) (.ofNat _ (bits w 15 11)))
  else
  if bits w 10 0 = 38 then
    some (.graphctlSlot (.ofNat _ (bits w 25 21)) (.ofNat _ (bits w 20 16)) (.ofNat _ (bits w 15 11)))
  else
  if bits w 15 0 = 54 then
    some (.graphctlTerm (.ofNat _ (bits w 25 21)) (.ofNat _ (bits w 20 16)))
  else
  none

/-- R202, Table 7-6: the major opcode, bits 31:26, chooses the group; a reserved major is no instruction. -/
def candidate (w : Nat) : Option Instr :=
  match w / 2 ^ 26 with
  | 0x00 => major00 w
  | 0x01 => major01 w
  | 0x02 => major02 w
  | 0x03 => major03 w
  | 0x04 => major04 w
  | 0x05 => major05 w
  | 0x06 => major06 w
  | 0x07 => major07 w
  | 0x08 => major08 w
  | 0x09 => major09 w
  | 0x0A => major0A w
  | 0x0B => major0B w
  | 0x0C => major0C w
  | 0x0D => major0D w
  | 0x10 => major10 w
  | 0x11 => major11 w
  | 0x12 => major12 w
  | 0x13 => major13 w
  | 0x14 => major14 w
  | 0x15 => major15 w
  | 0x16 => major16 w
  | 0x18 => major18 w
  | 0x19 => major19 w
  | 0x1A => major1A w
  | 0x1B => major1B w
  | 0x1C => major1C w
  | 0x1D => major1D w
  | 0x1E => major1E w
  | 0x20 => major20 w
  | 0x21 => major21 w
  | 0x22 => major22 w
  | 0x24 => major24 w
  | 0x25 => major25 w
  | 0x26 => major26 w
  | 0x28 => major28 w
  | 0x29 => major29 w
  | 0x2A => major2A w
  | 0x2B => major2B w
  | 0x2C => major2C w
  | 0x30 => major30 w
  | 0x34 => major34 w
  | 0x35 => major35 w
  | 0x36 => major36 w
  | 0x37 => major37 w
  | 0x38 => major38 w
  | 0x39 => major39 w
  | 0x3A => major3A w
  | 0x3C => major3C w
  | 0x3D => major3D w
  | _ => none

end Sys2Proof.Decode

namespace Sys2Proof

/-- R203: the instruction of a 32-bit word, or none where the word is not an instruction. -/
def decodeWord (w : Nat) : Option Instr :=
  match Decode.candidate w with
  | some i => if i.wellFormed then some i else none
  | none => none

/-- R193: the sequencer reads the word at PC little-endian; any four bytes are a word. -/
def decodeBytes (b0 b1 b2 b3 : Byte) : Option Instr :=
  decodeWord (b0.toNat + 2 ^ 8 * b1.toNat + 2 ^ 16 * b2.toNat + 2 ^ 24 * b3.toNat)

/-- The instruction the decoder reads from a row's bits, numbered as spec/opcode_table.json numbers them. Every row with
bits is one 32-bit word; a row of the device's own steps has no bits and no word. -/
def decodeTableWord (nbits w : Nat) : Option Instr :=
  if nbits = 0 then none else if 32 < nbits then none else
  decodeBytes (.ofNat 8 w) (.ofNat 8 (w / 2 ^ 8)) (.ofNat 8 (w / 2 ^ 16)) (.ofNat 8 (w / 2 ^ 24))

/-- R194: a word with a field's value placed from bit lo up. -/
def Decode.put (v lo w : Nat) : Nat := w + v * 2 ^ lo

open Decode in
/-- The word of an instruction (R194 and the chapters' encodings); a device step has none. -/
def encode (i : Instr) : Option Nat :=
  match i with
  | .nop => some 0x00000001
  | .halt => some 0x00000002
  | .knot => some 0x00000003
  | .knotW => some 0x00000004
  | .kwait d => some (put d.toNat 21 0x00000005)
  | .time d => some (put d.toNat 21 0x00000006)
  | .tid d => some (put d.toNat 21 0x00000007)
  | .yield => some 0x00000008
  | .add d a b => some (put b.toNat 11 (put a.toNat 16 (put d.toNat 21 0x04000000)))
  | .sub d a b => some (put b.toNat 11 (put a.toNat 16 (put d.toNat 21 0x04000001)))
  | .and d a b => some (put b.toNat 11 (put a.toNat 16 (put d.toNat 21 0x04000002)))
  | .or d a b => some (put b.toNat 11 (put a.toNat 16 (put d.toNat 21 0x04000003)))
  | .xor d a b => some (put b.toNat 11 (put a.toNat 16 (put d.toNat 21 0x04000004)))
  | .andn d a b => some (put b.toNat 11 (put a.toNat 16 (put d.toNat 21 0x04000005)))
  | .shl d a b => some (put b.toNat 11 (put a.toNat 16 (put d.toNat 21 0x04000006)))
  | .shr d a b => some (put b.toNat 11 (put a.toNat 16 (put d.toNat 21 0x04000007)))
  | .sra d a b => some (put b.toNat 11 (put a.toNat 16 (put d.toNat 21 0x04000008)))
  | .rotl d a b => some (put b.toNat 11 (put a.toNat 16 (put d.toNat 21 0x04000009)))
  | .min d a b => some (put b.toNat 11 (put a.toNat 16 (put d.toNat 21 0x0400000A)))
  | .max d a b => some (put b.toNat 11 (put a.toNat 16 (put d.toNat 21 0x0400000B)))
  | .minu d a b => some (put b.toNat 11 (put a.toNat 16 (put d.toNat 21 0x0400000C)))
  | .maxu d a b => some (put b.toNat 11 (put a.toNat 16 (put d.toNat 21 0x0400000D)))
  | .sel d a b n => some (put n.toNat 4 (put b.toNat 11 (put a.toNat 16 (put d.toNat 21 0x0400000E))))
  | .mul d a b => some (put b.toNat 11 (put a.toNat 16 (put d.toNat 21 0x08000000)))
  | .mulh d a b => some (put b.toNat 11 (put a.toNat 16 (put d.toNat 21 0x08000001)))
  | .mulhu d a b => some (put b.toNat 11 (put a.toNat 16 (put d.toNat 21 0x08000002)))
  | .div d a b => some (put b.toNat 11 (put a.toNat 16 (put d.toNat 21 0x08000003)))
  | .divu d a b => some (put b.toNat 11 (put a.toNat 16 (put d.toNat 21 0x08000004)))
  | .rem d a b => some (put b.toNat 11 (put a.toNat 16 (put d.toNat 21 0x08000005)))
  | .remu d a b => some (put b.toNat 11 (put a.toNat 16 (put d.toNat 21 0x08000006)))
  | .clz d a => some (put a.toNat 16 (put d.toNat 21 0x0C000000))
  | .ctz d a => some (put a.toNat 16 (put d.toNat 21 0x0C000001))
  | .popc d a => some (put a.toNat 16 (put d.toNat 21 0x0C000002))
  | .sextb d a => some (put a.toNat 16 (put d.toNat 21 0x0C000003))
  | .sexth d a => some (put a.toNat 16 (put d.toNat 21 0x0C000004))
  | .sextw d a => some (put a.toNat 16 (put d.toNat 21 0x0C000005))
  | .cmpeq d a b => some (put b.toNat 11 (put a.toNat 16 (put d.toNat 21 0x10000000)))
  | .cmpne d a b => some (put b.toNat 11 (put a.toNat 16 (put d.toNat 21 0x10000001)))
  | .cmplt d a b => some (put b.toNat 11 (put a.toNat 16 (put d.toNat 21 0x10000002)))
  | .cmple d a b => some (put b.toNat 11 (put a.toNat 16 (put d.toNat 21 0x10000003)))
  | .cmpltu d a b => some (put b.toNat 11 (put a.toNat 16 (put d.toNat 21 0x10000004)))
  | .cmpleu d a b => some (put b.toNat 11 (put a.toNat 16 (put d.toNat 21 0x10000005)))
  | .pand d a b => some (put b.toNat 11 (put a.toNat 16 (put d.toNat 21 0x10000008)))
  | .por d a b => some (put b.toNat 11 (put a.toNat 16 (put d.toNat 21 0x10000009)))
  | .pxor d a b => some (put b.toNat 11 (put a.toNat 16 (put d.toNat 21 0x1000000A)))
  | .pnot d a => some (put a.toNat 16 (put d.toNat 21 0x1000000B))
  | .pset d a => some (put a.toNat 16 (put d.toNat 21 0x1000000C))
  | .pget d a => some (put a.toNat 16 (put d.toNat 21 0x1000000D))
  | .addi d a i => some (put i.toNat 0 (put a.toNat 16 (put d.toNat 21 0x14000000)))
  | .andi d a i => some (put i.toNat 0 (put a.toNat 16 (put d.toNat 21 0x18000000)))
  | .ori d a i => some (put i.toNat 0 (put a.toNat 16 (put d.toNat 21 0x1C000000)))
  | .xori d a i => some (put i.toNat 0 (put a.toNat 16 (put d.toNat 21 0x20000000)))
  | .shli d a k => some (put k.toNat 0 (put a.toNat 16 (put d.toNat 21 0x24000000)))
  | .shri d a k => some (put k.toNat 0 (put a.toNat 16 (put d.toNat 21 0x24000040)))
  | .srai d a k => some (put k.toNat 0 (put a.toNat 16 (put d.toNat 21 0x24000080)))
  | .li d i => some (put i.toNat 0 (put d.toNat 21 0x28000000))
  | .lis d k i => some (put i.toNat 0 (put k.toNat 16 (put d.toNat 21 0x2C000000)))
  | .loop n o => some (put o.toNat 0 (put n.toNat 18 0x30000000))
  | .lcsetReg n b => some (put b.toNat 13 (put n.toNat 18 0x30800000))
  | .lcsetImm n i => some (put i.toNat 0 (put n.toNat 18 0x31000000))
  | .lcchain n m => some (put m.toNat 13 (put n.toNat 18 0x31800001))
  | .lcchainNone n => some (put n.toNat 18 0x31800000)
  | .mfs d r => some (put r.toNat 0 (put d.toNat 21 0x34000000))
  | .mts a r => some (put r.toNat 0 (put a.toNat 16 0x34001000))
  | .beq a b o => some (put o.toNat 0 (put b.toNat 13 (put a.toNat 18 0x40000000)))
  | .bne a b o => some (put o.toNat 0 (put b.toNat 13 (put a.toNat 18 0x40800000)))
  | .blt a b o => some (put o.toNat 0 (put b.toNat 13 (put a.toNat 18 0x41000000)))
  | .bge a b o => some (put o.toNat 0 (put b.toNat 13 (put a.toNat 18 0x41800000)))
  | .bltu a b o => some (put o.toNat 0 (put b.toNat 13 (put a.toNat 18 0x42000000)))
  | .bgeu a b o => some (put o.toNat 0 (put b.toNat 13 (put a.toNat 18 0x42800000)))
  | .bp n o => some (put o.toNat 0 (put n.toNat 18 0x44000000))
  | .bpAny n o => some (put o.toNat 0 (put n.toNat 18 0x44800000))
  | .bpAll n o => some (put o.toNat 0 (put n.toNat 18 0x45000000))
  | .bnp n o => some (put o.toNat 0 (put n.toNat 18 0x46000000))
  | .bnpAny n o => some (put o.toNat 0 (put n.toNat 18 0x46800000))
  | .bnpAll n o => some (put o.toNat 0 (put n.toNat 18 0x47000000))
  | .j o => some (put o.toNat 0 0x48000000)
  | .call o => some (put o.toNat 0 0x4A000000)
  | .jr a => some (put a.toNat 16 0x4C000000)
  | .callr a => some (put a.toNat 16 0x4C000001)
  | .ldb d a o => some (put o.toNat 0 (put a.toNat 16 (put d.toNat 21 0x50000000)))
  | .ldbu d a o => some (put o.toNat 0 (put a.toNat 16 (put d.toNat 21 0x50002000)))
  | .ldh d a o => some (put o.toNat 0 (put a.toNat 16 (put d.toNat 21 0x50004000)))
  | .ldhu d a o => some (put o.toNat 0 (put a.toNat 16 (put d.toNat 21 0x50006000)))
  | .ldw d a o => some (put o.toNat 0 (put a.toNat 16 (put d.toNat 21 0x50008000)))
  | .ldwu d a o => some (put o.toNat 0 (put a.toNat 16 (put d.toNat 21 0x5000A000)))
  | .ldd d a o => some (put o.toNat 0 (put a.toNat 16 (put d.toNat 21 0x5000C000)))
  | .stb d a o => some (put o.toNat 0 (put a.toNat 16 (put d.toNat 21 0x54000000)))
  | .sth d a o => some (put o.toNat 0 (put a.toNat 16 (put d.toNat 21 0x54002000)))
  | .stw d a o => some (put o.toNat 0 (put a.toNat 16 (put d.toNat 21 0x54004000)))
  | .std d a o => some (put o.toNat 0 (put a.toNat 16 (put d.toNat 21 0x54006000)))
  | .indexedLoad d a b f k => some (put k.toNat 0 (put f.toNat 5 (put b.toNat 11 (put a.toNat 16 (put d.toNat 21 0x58000000)))))
  | .indexedStore d a b f k => some (put k.toNat 0 (put f.toNat 5 (put b.toNat 11 (put a.toNat 16 (put d.toNat 21 0x58000100)))))
  | .ldacq d a s => some (put s.toNat 0 (put a.toNat 16 (put d.toNat 21 0x58000210)))
  | .strel d a s => some (put s.toNat 0 (put a.toNat 16 (put d.toNat 21 0x58000320)))
  | .vadd d a b t g => some (put g.toNat 3 (put t.toNat 7 (put b.toNat 11 (put a.toNat 16 (put d.toNat 21 0x60000000)))))
  | .vsub d a b t g => some (put g.toNat 3 (put t.toNat 7 (put b.toNat 11 (put a.toNat 16 (put d.toNat 21 0x60000001)))))
  | .vmul d a b t g => some (put g.toNat 3 (put t.toNat 7 (put b.toNat 11 (put a.toNat 16 (put d.toNat 21 0x60000002)))))
  | .vmin d a b t g => some (put g.toNat 3 (put t.toNat 7 (put b.toNat 11 (put a.toNat 16 (put d.toNat 21 0x60000003)))))
  | .vmax d a b t g => some (put g.toNat 3 (put t.toNat 7 (put b.toNat 11 (put a.toNat 16 (put d.toNat 21 0x60000004)))))
  | .vabs d a t g => some (put g.toNat 3 (put t.toNat 7 (put a.toNat 16 (put d.toNat 21 0x60000005))))
  | .vneg d a t g => some (put g.toNat 3 (put t.toNat 7 (put a.toNat 16 (put d.toNat 21 0x60000006))))
  | .vfma d a b t g => some (put g.toNat 3 (put t.toNat 7 (put b.toNat 11 (put a.toNat 16 (put d.toNat 21 0x64000000)))))
  | .vfms d a b t g => some (put g.toNat 3 (put t.toNat 7 (put b.toNat 11 (put a.toNat 16 (put d.toNat 21 0x64000001)))))
  | .vfnma d a b t g => some (put g.toNat 3 (put t.toNat 7 (put b.toNat 11 (put a.toNat 16 (put d.toNat 21 0x64000002)))))
  | .vand d a b t g => some (put g.toNat 3 (put t.toNat 7 (put b.toNat 11 (put a.toNat 16 (put d.toNat 21 0x68000000)))))
  | .vor d a b t g => some (put g.toNat 3 (put t.toNat 7 (put b.toNat 11 (put a.toNat 16 (put d.toNat 21 0x68000001)))))
  | .vxor d a b t g => some (put g.toNat 3 (put t.toNat 7 (put b.toNat 11 (put a.toNat 16 (put d.toNat 21 0x68000002)))))
  | .vshl d a b t g => some (put g.toNat 3 (put t.toNat 7 (put b.toNat 11 (put a.toNat 16 (put d.toNat 21 0x68000003)))))
  | .vshr d a b t g => some (put g.toNat 3 (put t.toNat 7 (put b.toNat 11 (put a.toNat 16 (put d.toNat 21 0x68000004)))))
  | .vsra d a b t g => some (put g.toNat 3 (put t.toNat 7 (put b.toNat 11 (put a.toNat 16 (put d.toNat 21 0x68000005)))))
  | .vcmpEq d a b t g => some (put g.toNat 3 (put t.toNat 7 (put b.toNat 11 (put a.toNat 16 (put d.toNat 21 0x6C000000)))))
  | .vcmpNe d a b t g => some (put g.toNat 3 (put t.toNat 7 (put b.toNat 11 (put a.toNat 16 (put d.toNat 21 0x6C000001)))))
  | .vcmpLt d a b t g => some (put g.toNat 3 (put t.toNat 7 (put b.toNat 11 (put a.toNat 16 (put d.toNat 21 0x6C000002)))))
  | .vcmpLe d a b t g => some (put g.toNat 3 (put t.toNat 7 (put b.toNat 11 (put a.toNat 16 (put d.toNat 21 0x6C000003)))))
  | .vcmpUn d a b t g => some (put g.toNat 3 (put t.toNat 7 (put b.toNat 11 (put a.toNat 16 (put d.toNat 21 0x6C000004)))))
  | .vsel d a b t n => some (put n.toNat 3 (put t.toNat 7 (put b.toNat 11 (put a.toNat 16 (put d.toNat 21 0x6C000005)))))
  | .vmov d a t g => some (put g.toNat 3 (put t.toNat 7 (put a.toNat 16 (put d.toNat 21 0x6C000006))))
  | .vbcast d a t g => some (put g.toNat 3 (put t.toNat 7 (put a.toNat 16 (put d.toNat 21 0x6C000007))))
  | .vext d a b t => some (put t.toNat 7 (put b.toNat 11 (put a.toNat 16 (put d.toNat 21 0x6C000040))))
  | .vins d a b t => some (put t.toNat 7 (put b.toNat 11 (put a.toNat 16 (put d.toNat 21 0x6C000041))))
  | .vperm d a b t g => some (put g.toNat 3 (put t.toNat 7 (put b.toNat 11 (put a.toNat 16 (put d.toNat 21 0x70000000)))))
  | .vshufLo d a b t g => some (put g.toNat 3 (put t.toNat 7 (put b.toNat 11 (put a.toNat 16 (put d.toNat 21 0x70000001)))))
  | .vshufHi d a b t g => some (put g.toNat 3 (put t.toNat 7 (put b.toNat 11 (put a.toNat 16 (put d.toNat 21 0x70000002)))))
  | .vshufEven d a b t g => some (put g.toNat 3 (put t.toNat 7 (put b.toNat 11 (put a.toNat 16 (put d.toNat 21 0x70000003)))))
  | .vshufOdd d a b t g => some (put g.toNat 3 (put t.toNat 7 (put b.toNat 11 (put a.toNat 16 (put d.toNat 21 0x70000004)))))
  | .vslideUp d a b t g => some (put g.toNat 3 (put t.toNat 7 (put b.toNat 11 (put a.toNat 16 (put d.toNat 21 0x70000005)))))
  | .vslideDn d a b t g => some (put g.toNat 3 (put t.toNat 7 (put b.toNat 11 (put a.toNat 16 (put d.toNat 21 0x70000006)))))
  | .vredsum d a r t g => some (put g.toNat 3 (put t.toNat 7 (put r.toNat 11 (put a.toNat 16 (put d.toNat 21 0x74000000)))))
  | .vredmax d a t g => some (put g.toNat 3 (put t.toNat 7 (put a.toNat 16 (put d.toNat 21 0x74000001))))
  | .vredmin d a t g => some (put g.toNat 3 (put t.toNat 7 (put a.toNat 16 (put d.toNat 21 0x74000002))))
  | .vscan d a r t g => some (put g.toNat 3 (put t.toNat 7 (put r.toNat 11 (put a.toNat 16 (put d.toNat 21 0x74000003)))))
  | .vdot d a b t g => some (put g.toNat 3 (put t.toNat 7 (put b.toNat 11 (put a.toNat 16 (put d.toNat 21 0x74000004)))))
  | .vdiv d a b t g => some (put g.toNat 3 (put t.toNat 7 (put b.toNat 11 (put a.toNat 16 (put d.toNat 21 0x78000000)))))
  | .vsqrt d a r t g => some (put g.toNat 3 (put t.toNat 7 (put r.toNat 11 (put a.toNat 16 (put d.toNat 21 0x78000001)))))
  | .vrcp d a t g => some (put g.toNat 3 (put t.toNat 7 (put a.toNat 16 (put d.toNat 21 0x78000002))))
  | .vrsq d a t g => some (put g.toNat 3 (put t.toNat 7 (put a.toNat 16 (put d.toNat 21 0x78000003))))
  | .vexp2 d a t g => some (put g.toNat 3 (put t.toNat 7 (put a.toNat 16 (put d.toNat 21 0x78000004))))
  | .vlog2 d a t g => some (put g.toNat 3 (put t.toNat 7 (put a.toNat 16 (put d.toNat 21 0x78000005))))
  | .vld d a g w o => some (put o.toNat 0 (put w.toNat 10 (put g.toNat 12 (put a.toNat 16 (put d.toNat 21 0x80000000)))))
  | .vst d a g w o => some (put o.toNat 0 (put w.toNat 10 (put g.toNat 12 (put a.toNat 16 (put d.toNat 21 0x80008000)))))
  | .vlds d a b t g => some (put g.toNat 3 (put t.toNat 7 (put b.toNat 11 (put a.toNat 16 (put d.toNat 21 0x84000000)))))
  | .vsts d a b t g => some (put g.toNat 3 (put t.toNat 7 (put b.toNat 11 (put a.toNat 16 (put d.toNat 21 0x84000001)))))
  | .vgath d a b t x g => some (put g.toNat 3 (put x.toNat 6 (put t.toNat 7 (put b.toNat 11 (put a.toNat 16 (put d.toNat 21 0x88000000))))))
  | .vscat d a b t x g => some (put g.toNat 3 (put x.toNat 6 (put t.toNat 7 (put b.toNat 11 (put a.toNat 16 (put d.toNat 21 0x88000001))))))
  | .vcvt d a s t r k => some (put k.toNat 0 (put r.toNat 3 (put t.toNat 7 (put s.toNat 11 (put a.toNat 16 (put d.toNat 21 0x90000000))))))
  | .vqcvt d a n q w r h => some (put h.toNat 0 (put r.toNat 3 (put w.toNat 6 (put q.toNat 7 (put n.toNat 11 (put a.toNat 16 (put d.toNat 21 0x94000000)))))))
  | .vdqcvt d a n q w r h => some (put h.toNat 0 (put r.toNat 3 (put w.toNat 6 (put q.toNat 7 (put n.toNat 11 (put a.toNat 16 (put d.toNat 21 0x94000004)))))))
  | .vpack d a t n => some (put n.toNat 3 (put t.toNat 7 (put a.toNat 16 (put d.toNat 21 0x98000000))))
  | .vunpack d a t n => some (put n.toNat 3 (put t.toNat 7 (put a.toNat 16 (put d.toNat 21 0x98000001))))
  | .vmask12 d a n t => some (put t.toNat 7 (put n.toNat 11 (put a.toNat 16 (put d.toNat 21 0x98000002))))
  | .amo a b o k s => some (put s.toNat 0 (put k.toNat 4 (put o.toNat 6 (put b.toNat 11 (put a.toNat 16 0xA0000000)))))
  | .amor d a b o k s => some (put s.toNat 0 (put k.toNat 4 (put o.toNat 6 (put b.toNat 11 (put a.toNat 16 (put d.toNat 21 0xA0000000))))))
  | .amocas d a b o k s => some (put s.toNat 0 (put k.toNat 4 (put o.toNat 6 (put b.toNat 11 (put a.toNat 16 (put d.toNat 21 0xA0000000))))))
  | .fence k s => some (put s.toNat 0 (put k.toNat 4 0xA4000000))
  | .cleatInit a b => some (put b.toNat 11 (put a.toNat 16 0xA8000000))
  | .cleatExp a b => some (put b.toNat 11 (put a.toNat 16 0xA8000100))
  | .cleatArv a k s => some (put s.toNat 0 (put k.toNat 4 (put a.toNat 16 0xA8000200)))
  | .cleatWait a b k s => some (put s.toNat 0 (put k.toNat 4 (put b.toNat 11 (put a.toNat 16 0xA8000300))))
  | .cleatTest d a b k s => some (put s.toNat 0 (put k.toNat 4 (put b.toNat 11 (put a.toNat 16 (put d.toNat 21 0xA8000400)))))
  | .join d a => some (put a.toNat 16 (put d.toNat 21 0xAC000000))
  | .leave a b k s => some (put s.toNat 0 (put k.toNat 4 (put b.toNat 11 (put a.toNat 16 0xAC000100))))
  | .gbar a b k s => some (put s.toNat 0 (put k.toNat 4 (put b.toNat 11 (put a.toNat 16 0xAC000200))))
  | .tgive q => some (put q.toNat 11 0xAC000300)
  | .ttake q => some (put q.toNat 11 0xAC000400)
  | .lookup d a => some (put a.toNat 16 (put d.toNat 21 0xB0000000))
  | .tagset a b => some (put b.toNat 11 (put a.toNat 16 0xB0000001))
  | .tagclr a => some (put a.toNat 16 0xB0000002)
  | .tagread d a => some (put a.toNat 16 (put d.toNat 21 0xB0000003))
  | .copy a b c m x y => some (put y.toNat 0 (put x.toNat 3 (put m.toNat 8 (put c.toNat 11 (put b.toNat 16 (put a.toNat 21 0xC0000000))))))
  | .copy2 a b c x y => some (put y.toNat 0 (put x.toNat 3 (put c.toNat 11 (put b.toNat 16 (put a.toNat 21 0xC0000200)))))
  | .copym a b c k x y => some (put y.toNat 0 (put x.toNat 3 (put k.toNat 8 (put c.toNat 11 (put b.toNat 16 (put a.toNat 21 0xC0000400))))))
  | .rowact a r x y => some (put y.toNat 0 (put x.toNat 3 (put r.toNat 10 (put a.toNat 21 0xD0000000))))
  | .rowtakePl a r x y => some (put y.toNat 0 (put x.toNat 3 (put r.toNat 10 (put a.toNat 21 0xD0000040))))
  | .rowtakeMk a r x y => some (put y.toNat 0 (put x.toNat 3 (put r.toNat 10 (put a.toNat 21 0xD0000080))))
  | .rowtakeTm a b r x y => some (put y.toNat 0 (put x.toNat 3 (put r.toNat 10 (put b.toNat 16 (put a.toNat 21 0xD00000C0)))))
  | .rowput a b r x y => some (put y.toNat 0 (put x.toNat 3 (put r.toNat 10 (put b.toNat 16 (put a.toNat 21 0xD0000100)))))
  | .rowclose a r x y => some (put y.toNat 0 (put x.toNat 3 (put r.toNat 10 (put a.toNat 21 0xD0000140))))
  | .rowstat a b x y => some (put y.toNat 0 (put x.toNat 3 (put b.toNat 16 (put a.toNat 21 0xD0000180))))
  | .plane a r x y => some (put y.toNat 0 (put x.toNat 3 (put r.toNat 10 (put a.toNat 21 0xD4000000))))
  | .planeld a r x y => some (put y.toNat 0 (put x.toNat 3 (put r.toNat 10 (put a.toNat 21 0xD4000040))))
  | .planeldMk a r x y => some (put y.toNat 0 (put x.toNat 3 (put r.toNat 10 (put a.toNat 21 0xD4000080))))
  | .planeinv r x y => some (put y.toNat 0 (put x.toNat 3 (put r.toNat 10 0xD40000C0)))
  | .configure a b c x y => some (put y.toNat 0 (put x.toNat 3 (put c.toNat 11 (put b.toNat 16 (put a.toNat 21 0xD8000000)))))
  | .unfuse x y => some (put y.toNat 0 (put x.toNat 3 0xD8000040))
  | .ctxload a b c x y => some (put y.toNat 0 (put x.toNat 3 (put c.toNat 11 (put b.toNat 16 (put a.toNat 21 0xD8000080)))))
  | .ctxsel a x y => some (put y.toNat 0 (put x.toNat 3 (put a.toNat 21 0xD80000C0)))
  | .ctxstat a b x y => some (put y.toNat 0 (put x.toNat 3 (put b.toNat 16 (put a.toNat 21 0xD8000100))))
  | .tstdisc a x y => some (put y.toNat 0 (put x.toNat 3 (put a.toNat 21 0xD8000140)))
  | .mrun a b c x y => some (put y.toNat 0 (put x.toNat 3 (put c.toNat 11 (put b.toNat 16 (put a.toNat 21 0xDC000000)))))
  | .mrunAcc a b c x y => some (put y.toNat 0 (put x.toNat 3 (put c.toNat 11 (put b.toNat 16 (put a.toNat 21 0xDC000040)))))
  | .mzero a x y => some (put y.toNat 0 (put x.toNat 3 (put a.toNat 21 0xDC000080)))
  | .mdrain a b c x y => some (put y.toNat 0 (put x.toNat 3 (put c.toNat 11 (put b.toNat 16 (put a.toNat 21 0xDC0000C0)))))
  | .mstat a b x y => some (put y.toNat 0 (put x.toNat 3 (put b.toNat 16 (put a.toNat 21 0xDC000100))))
  | .sopen e b x y => some (put y.toNat 0 (put x.toNat 3 (put b.toNat 16 (put e.toNat 21 0xE0000000))))
  | .sstart e x y => some (put y.toNat 0 (put x.toNat 3 (put e.toNat 21 0xE0000040)))
  | .sstop e x y => some (put y.toNat 0 (put x.toNat 3 (put e.toNat 21 0xE0000080)))
  | .sknot e x y => some (put y.toNat 0 (put x.toNat 3 (put e.toNat 21 0xE4000000)))
  | .coilset e b x y => some (put y.toNat 0 (put x.toNat 3 (put b.toNat 16 (put e.toNat 21 0xE4000040))))
  | .coilsetNd n b x y => some (put y.toNat 0 (put x.toNat 3 (put b.toNat 16 (put n.toNat 21 0xE4000200))))
  | .spush e b h n => some (put n.toNat 11 (put h.toNat 14 (put b.toNat 16 (put e.toNat 21 0xE4000080))))
  | .spushC e b => some (put b.toNat 16 (put e.toNat 21 0xE40000C0))
  | .spop e b n => some (put n.toNat 11 (put b.toNat 16 (put e.toNat 21 0xE4000100)))
  | .spopC e b n => some (put n.toNat 11 (put b.toNat 16 (put e.toNat 21 0xE4000140)))
  | .speek e b n => some (put n.toNat 11 (put b.toNat 16 (put e.toNat 21 0xE4000180)))
  | .speekC e b n => some (put n.toNat 11 (put b.toNat 16 (put e.toNat 21 0xE40001C0)))
  | .launch a b c x y => some (put y.toNat 0 (put x.toNat 3 (put c.toNat 11 (put b.toNat 16 (put a.toNat 21 0xE8000000)))))
  | .trap n => some (put n.toNat 0 0xF0000000)
  | .sysret => some 0xF0010000
  | .sysretRe => some 0xF0010001
  | .tlbinv a => some (put a.toNat 16 0xF4000000)
  | .tlbinva => some 0xF4000001
  | .probe d a => some (put a.toNat 16 (put d.toNat 21 0xF4000002))
  | .wavereq d a => some (put a.toNat 16 (put d.toNat 21 0xF4000003))
  | .codecinv a b => some (put b.toNat 11 (put a.toNat 16 0xF4000004))
  | .codecinvDesc a => some (put a.toNat 16 0xF4000014)
  | .freeze d a => some (put a.toNat 16 (put d.toNat 21 0xF4000005))
  | .freezeOff d a => some (put a.toNat 16 (put d.toNat 21 0xF4000015))
  | .graphctlStat d a => some (put a.toNat 16 (put d.toNat 21 0xF4000006))
  | .graphctlStall d a b => some (put b.toNat 11 (put a.toNat 16 (put d.toNat 21 0xF4000016)))
  | .graphctlSlot d a b => some (put b.toNat 11 (put a.toNat 16 (put d.toNat 21 0xF4000026)))
  | .graphctlTerm d a => some (put a.toNat 16 (put d.toNat 21 0xF4000036))
  | .illegalWord _ => none
  | .poisonedFetch _ => none
  | .engineTrapPoint _ => none
  | .heldFault _ => none
  | .heldFaultRetry _ => none
  | .spillQueueRetry _ _ => none
  | .frameCapture _ _ _ => none
  | .loadingComplete _ => none
  | .markerArrival _ _ _ => none
  | .rollback _ _ => none
  | .elementFault _ _ _ _ => none
  | .dispatchEvaluation _ => none
  | .graphRetire _ => none
  | .contextSwitch _ => none
  | .waveComplete _ => none
  | .hangDetect _ => none
  | .beatArrival _ => none
  | .flitReplay _ _ => none
  | .portDown _ => none
  | .farPortBeat _ _ _ => none
  | .rowRemap _ _ _ => none
  | .queueTailWrite _ => none
  | .commit _ => none
  | .knotRetire _ => none
  | .engineCommandStart _ _ => none
  | .engineCommandRetire _ _ => none
  | .sliceEnd _ => none
  | .latencyLimitExpiry _ => none
  | .snapshotRowSave _ => none
  | .egressThreshold _ => none
  | .homePerform _ => none
  | .outputEndpointFire _ _ => none
  | .meshHop _ => none
  | .permitReturn _ => none
  | .coilRefill _ _ => none
  | .steerNodeFire _ _ => none
  | .mergeByArrivalFire _ _ => none
  | .mergeByTagFire _ _ => none
  | .multicastFire _ _ => none
  | .replicateFire _ _ => none
  | .clockGate _ _ => none
  | .feedBeatMove _ _ => none
  | .vectorEntry _ => none
  | .vectorWrite _ => none
  | .planeFillApply _ => none
  | .regionTransfer _ => none
  | .streamElement _ _ => none
  | .ownerTokenArrival _ _ => none
  | .ownerTokenSend _ _ => none
  | .coalesceTimeout _ _ => none
  | .copyLine _ => none
  | .drainDeliver _ => none
  | .rowOpenTimeout _ _ => none
  | .refreshDue _ _ => none
  | .owedRefresh _ _ => none
  | .backgroundActivate _ _ => none
  | .deadHomeAnswer _ => none
  | .hostAccess _ _ _ _ _ => none
  | .flitReceive _ _ => none
  | .portUp _ _ => none
  | .powerUp => none
  | .attestationRequest _ => none
  | .firmwareUpdate _ => none
  | .pldmMonitorRead _ => none
  | .thermalSample _ _ => none
  | .thermalDeadline _ => none
  | .stretchStep _ => none
  | .powerLimitStep _ => none
  | .deviceFreeze => none
  | .deviceFreezeRelease _ => none
  | .partitionChange _ _ _ _ _ _ _ _ => none
  | .tileRetirementByFirmware _ => none
  | .pairLosesAlignment _ _ _ => none

end Sys2Proof
end

