-- ==== Sys2Proof/Config.lean ====
section
/-! DEFINITION. What an implementation of the RX960 fixes and the free values of the manual. A constant declared
`opaque` has no value any proof can see: a claim about it holds whatever it is. -/

namespace Sys2Proof.Config

/-- Table 4-6, T_ACT: cycles from ROWACT to the first transfer of the row. -/
def tAct : Nat := 32
/-- Table 4-6, T_TAKE: vertical bus occupancy per row transfer. -/
def tTake : Nat := 4
/-- Table 4-6, T_GAP: start to start of two transfers on one bus. -/
def tGap : Nat := 6
/-- Table 4-6, T_CLOSE: ROWCLOSE to the next ROWACT of the bank. -/
def tClose : Nat := 32
/-- Table 4-6, T_OPEN: open time after which the controller closes the row. -/
def tOpen : Nat := 16384
/-- Table 4-6, ACT_WINDOW: at most this many activates ... -/
def actLimit : Nat := 4
/-- ... in any this many consecutive cycles of one vault. -/
def actWindow : Nat := 96
/-- Table 4-6, T_REFI: refresh interval per bank. -/
def tRefi : Nat := 10530
/-- Table 4-6, T_RFC: duration of one bank refresh. -/
def tRfc : Nat := 192
/-- R113: cycles after which a background activate goes ahead of a waiting ROWACT. -/
def backgroundWait : Nat := 384
/-- R1: cycles per microsecond. -/
def cyclesPerUs : Nat := 2700
/-- R456: window of the retirement count, in cycles. -/
def retireWindow : Nat := 1073741824
/-- R413: entries of a home's undo log. -/
def undoEntries : Nat := 25954
/-- R415: entries at which a home opens forced waves. -/
def undoThreshold : Nat := 19466
/-- R417: bytes of an egress buffer. -/
def egressBytes : Nat := 1048576
/-- R120: blocks of a home's decoded cache. -/
def codecBlocks : Nat := 128
/-- R431: entries of a first-level translation cache. -/
def tlb1Entries : Nat := 64
/-- R431: entries of a field's second-level translation cache. -/
def tlb2Entries : Nat := 4096
/-- R465: flits of a port's replay buffer. -/
def replayFlits : Nat := 64

/-- FREE. R272: which of the two bracketing values an approximate function delivers, a fixed function of the form
(0 VRCP, 1 VRSQ, 2 VEXP2, 3 VLOG2), the format code and the input bits. `true`: the upper one. -/
opaque approxUp : Nat → Nat → Nat → Bool
/-- FREE. R104: whether an unfenced fetch returns the new word (`true`) or the old one, for each such fetch. (DEDUCED, A24) -/
opaque fetchNew : Nat → Bool
/-- FREE. R467: a tile's calibrated offset against the synchronising pulse; the skew between two tiles is at most 2,
so the offset is taken modulo 3 where it is used. (DESIGN CHOICE, A4) -/
opaque timeSkew : Nat → Nat
/-- FREE. Table 5-15 gives the contents of an image's region table (name, logical rectangle, minimum logical cell shape)
and no layout: the rectangles (x, y, w, h) and minimum shapes (rows, columns) are a function of the table's bytes. (DESIGN CHOICE, A52) -/
opaque imageRegions : List Byte → List (Nat × Nat × Nat × Nat × Nat × Nat)
/-- FREE. R461, R462: the SHA-384 digest of a byte string. -/
opaque sha384 : List Byte → BitVec 384
/-- FREE. R461: whether a firmware image carries a signature that verifies against the fused root key. -/
opaque firmwareVerifies : List Byte → Bool
/-- FREE. R462: the signature (r then s) made with the die's device identity key over a digest. -/
opaque deviceSignature : BitVec 384 → BitVec 768
/-- FREE. R461 step 2: the cells built-in self test finds defective on a tile, at the power-up of that number. -/
opaque selfTest : Nat → Nat → BitVec 256
/-- FREE. R461 step 3: whether a fabric lane trains, at the power-up of that number. -/
opaque laneTrains : Nat → Nat → Bool
/-- FREE. R461 step 1: the firmware in module flash at the first power-up. -/
opaque flashFirmware : List Byte
/-- FREE. R461 step 2, Table 21-4 kind 5: whether built-in self test retires a tile, at the power-up of that number. -/
opaque selfTestRetires : Nat → Nat → Bool
/-- FREE. R461 step 5: the partitions the management core's configuration names, at the power-up of that number: number,
then x, y, w, h of the rectangle. -/
opaque bootPartitions : Nat → List (Nat × Nat × Nat × Nat × Nat)
/-- FREE. R461 step 5, Table 16-6: BANKMAP, the ports and the queues of a partition that the configuration names, at the power-up of that
number. -/
opaque bootResources : Nat → Nat → BitVec 64 × BitVec 128 × BitVec 256
/-- FREE. R466: the device's number in its group, whether it is the bridge, and its host-facing ports, as management firmware sets them at the
power-up of that number. (DESIGN CHOICE, A109) -/
opaque groupOf : Nat → BitVec 6 × Bool × BitVec 128
/-- FREE. R464: the CRC-64 of a flit's bytes 0 to 247. (DESIGN CHOICE, A59) -/
opaque crc64 : List Byte → BitVec 64
/-- FREE. R464 names what a flit's beat sideband holds and gives no layout: the eight bytes for PRED, KIND, TAG, stream port and edge
permit count. (DESIGN CHOICE, A59) -/
opaque sidebandOf : Nat → Nat → Nat → Nat → Nat → BitVec 64
/-- FREE. R464: a sideband read: PRED, KIND, TAG and stream port; none where the place of the flit holds no beat. (DESIGN CHOICE, A59) -/
opaque sidebandRead : BitVec 64 → Option (Nat × Nat × Nat × Nat)
/-- FREE. R464: the permits that the permit field of a flit header returns to the edges of a stream port. (DESIGN CHOICE, A59) -/
opaque permitsReturned : Nat → Nat → Nat
/-- FREE. R464: the permit field of a flit header that returns permits, by stream port. (DESIGN CHOICE, A59) -/
opaque permitField : List (Nat × Nat) → BitVec 28
/-- FREE. R468: the valve setting for a zone's temperature. -/
opaque valveFor : Nat → Nat → Nat
/-- FREE. R71, Table 3-3: the bits of a conversion between integer types of one width (in bytes) and unlike sign, of a
value outside the common range. (DESIGN CHOICE, A9) -/
opaque cvtSameWidth : Nat → Nat → Nat
/-- FREE. TVAL and TBS of a trap to which the spec gives none (DESIGN CHOICE, A14), and every other 64-bit value it leaves unstated, by
the number of the draw. -/
opaque freeWord : Nat → BitVec 64
/-- FREE. R405, Table 18-2: the 64-bit words of rows 114 to 121 of a shadow slot, of which the table gives no layout, by the number of the draw.
(DESIGN CHOICE, A98) -/
opaque freeRow : Nat → Nat → BitVec 64
/-- FREE. R112: cycles for which a home keeps open a row that it has opened, below 97, by the cycle of its access. (DESIGN CHOICE, A86) -/
opaque homeHolds : Nat → Nat
/-- FREE. R171, R172: whether the home of the n-th accepted access lets it wait in a cycle. (DESIGN CHOICE, A21) -/
opaque homeWaits : Nat → Nat → Bool

end Sys2Proof.Config
end

