-- ==== Sys2Proof/Machine/State.lean ====
section
/-! DEFINITION. The state of the RX960 as plain data: every piece of architectural state the spec names (INVENTORY.md,
'## State'), and the machine right after module reset. -/

namespace Sys2Proof.Machine

/-- Bytes at addresses, in one canonical form: addresses strictly rising, no entry equal to what an unlisted address
reads as (Machine/Memory.lean, `Memory.blank`). -/
abbrev Memory := List Host.Cell

/-- Sparse data by number. -/
abbrev Assoc (α : Type) := List (Nat × α)

/-- R234, Table 8-6: one loop counter. -/
structure LoopCtr where
  count : BitVec 32
  start : BitVec 32
  e     : Bool
  outer : BitVec 2
  deriving DecidableEq, Repr

/-- R45: a set of registers of the three files. -/
structure RegSet where
  s : BitVec 32
  v : BitVec 32
  p : BitVec 8
  deriving DecidableEq, Repr

/-- Table 5-1: a beat, or a token (whose VALUE stands in bits 63:0 of `data`). -/
structure Beat where
  data : BitVec 256
  pred : BitVec 8
  kind : BitVec 2
  tag  : BitVec 6
  deriving DecidableEq, Repr

/-- R301, R302: what a cleat update does. -/
inductive CleatUpd where
  | init (n : Nat)
  | rmw (dbytes : Int) (darv : Nat)
  deriving DecidableEq, Repr

/-- R285: what a bight's store buffer holds, in program order. -/
inductive BufOp where
  | store (ea : Word) (bytes : List Byte) (scope : Nat)
  | amo (ea : Word) (op : Nat) (b : Word) (kind scope : Nat)
  | cleat (ea : Word) (upd : CleatUpd) (scope : Nat)
  | tagset (i : Nat) (v : Word)
  | tagclr (i : Nat)
  deriving DecidableEq, Repr

/-- R40: a buffered push; endpoints 0 to 31 are data, 32 to 39 control. -/
structure Push where
  ep   : Nat
  beat : Beat
  deriving DecidableEq, Repr

/-- R40 to R46: an open (or suspended) bight. -/
structure Bight where
  start   : PC
  lc0     : Vector LoopCtr 4
  fp0     : Word
  live    : RegSet
  written : RegSet
  stores  : List BufOp
  pushes  : List Push
  /-- R43: tentative pops per input endpoint. -/
  pops    : Assoc Nat
  deriving DecidableEq, Repr

/-- Table 16-11, WAIT: what a slot waits for. `release`: the wave of a release that leaves the device (R181); `acquire`: the
engine commands that an acquiring atomic waits for after it is performed (R180). `home`: a home access that waits for its bank (R112),
which WAIT does not show. -/
inductive Wait where
  | none | spop | cleatWait | token | gbar | commit | knotW | haltWait | kwait | fullQueue | release | acquire | home
  deriving DecidableEq, Repr

/-- R30, R241, R368, R402: whether a slot holds a running thread. -/
inductive Run where
  | free | running | halted | cut | dead
  deriving DecidableEq, Repr

/-- R316, R317: an engine command with the values of its register operands, read at issue. -/
structure Cmd where
  i    : Instr
  pc   : PC
  va   : Word
  vb   : Word
  vc   : Word
  vd   : Word
  ve   : Word
  lvl  : Bool
  fz   : Bool
  nan  : Bool
  wave : BitVec 16
  deriving DecidableEq, Repr

/-- The progress of a started engine command. -/
structure Active where
  cmd   : Cmd
  /-- Bytes, vectors or elements done. -/
  pos   : Nat
  row   : Nat
  /-- It has passed its start checks and is being performed. -/
  begun : Bool
  /-- The command has done its work and retires, not before the cycle `due`, once its give token fits (R200). -/
  done  : Bool
  due   : Nat
  value : Word
  /-- R341: the formats (feed, plane) in force as a drain starts, 16 * feed + plane; feed 16 where no MRUN latched one. -/
  mode  : Nat
  /-- R433: the address whose page fault holds the command. -/
  held  : Option Word
  /-- R477: bytes whose completion is held. -/
  owed  : Nat
  /-- R99: the tiles in which a plane fill or descriptor change has yet to be applied, with the bits of a fill. -/
  fill  : List (Nat × BitVec 24576)
  /-- R447: a poison consumption of this command has been recorded. -/
  logged : Bool
  /-- R399: the x, y and context of the region on whose array a migrated MRUN is performed, and the cycle from which it may enter a vector. -/
  guest  : Option (Nat × Nat × Nat) := none
  mayEnter : Nat := 0
  deriving DecidableEq, Repr

/-- R199: one of the queues S, C, W, M. -/
structure Queue where
  waiting : List Cmd
  active  : List Active
  deriving DecidableEq, Repr

/-- R318, R433: an event of an engine that is raised at the thread's next instruction. -/
structure Pend where
  code : Nat
  tval : Word
  q    : Nat
  epc  : PC
  deriving DecidableEq, Repr

/-- Table 2-5 and R320: a thread checkpoint with the unstarted commands of its queues. -/
structure Ckpt where
  s      : Vector Word 32
  v      : Vector Vec 32
  p      : Vector Word 8
  lc     : Vector LoopCtr 4
  fifo   : Vector (BitVec 4) 20
  pc     : PC
  fpctl  : Word
  wave   : BitVec 16
  halted : Bool
  cmds   : Vector Queue 4
  /-- R216: the thread's number on its tile, by which a restore finds its slot. -/
  tno    : BitVec 2
  /-- R50: the discard before it, named by its cause, brought the re-entry counter to its limit. -/
  limit  : Option Nat
  /-- Table 2-5: the re-entry counter. -/
  rcnt   : BitVec 8 := 0
  deriving DecidableEq, Repr

/-- R369: the registers of a thread as they stood when its trap was taken. -/
structure Kept where
  s     : Vector Word 32
  v     : Vector Vec 32
  p     : Vector Word 8
  lc    : Vector LoopCtr 4
  fpctl : Word
  deriving DecidableEq, Repr

/-- Table 7-1, Table 16-1 (thread registers) and what a slot holds beside them. -/
structure Thread where
  s      : Vector Word 32
  v      : Vector Vec 32
  p      : Vector Word 8
  lc     : Vector LoopCtr 4
  fifo   : Vector (BitVec 4) 20
  pc     : PC
  fpctl  : Word
  /-- STATUS.LVL: true at S. -/
  lvl    : Bool
  /-- STATUS.RLIM. -/
  rlim   : BitVec 8
  /-- STATUS.RCNT. -/
  rcnt   : BitVec 8
  tpc    : PC
  tcause : Word
  tval   : Word
  tbs    : PC
  ssave  : Vector Word 4
  bight  : Bight
  /-- R51: the suspended bight; STATUS.SUSP is that one is held. -/
  susp   : Option Bight
  wave   : BitVec 16
  run    : Run
  wait   : Wait
  /-- R239: the cycle up to which a YIELD passes the slot over. -/
  yield  : Nat
  /-- Graph key, 65536 * partition + handle. -/
  graph  : Nat
  lx     : BitVec 8
  ly     : BitVec 8
  lctx   : BitVec 2
  pctx   : BitVec 2
  tno    : BitVec 2
  nthr   : BitVec 2
  /-- Queues S, C, W, M at 0 to 3. -/
  queues : Vector Queue 4
  pend   : Option Pend
  held   : Option Pend
  /-- R42, R297: TAGCHK or POISON of a write dropped after its commit. -/
  late   : Option (Nat × Word)
  /-- R365: graph-level traps held for the report thread. -/
  gtraps : List (Nat × Word)
  /-- R308: address and generation of an arrival that waits. -/
  gbar   : Option (Word × BitVec 32)
  /-- R369, R375: at S, what an expiry of the latency limit puts back. -/
  kept    : Option Kept := none
  /-- R179: output endpoints bound to a fabric port to which a copy of the thread has written. -/
  peerEps : List Nat := []
  /-- Table 16-1, Table 8-10: GRAPHID, and LASTWAVE with the last complete wave it was written over, once S has written them.
  (DESIGN CHOICE, A83) -/
  graphId  : Option (BitVec 16) := none
  lastWave : Option (BitVec 16 × BitVec 16) := none
  deriving DecidableEq, Repr

/-- R97 to R99: one weight plane of a tile with its masks and descriptor. -/
structure Plane where
  w    : BitVec 24576
  m    : BitVec 12288
  desc : BitVec 16
  /-- R98: weights, masks filled since the last PLANE or PLANEINV. -/
  fw   : Bool
  fm   : Bool
  /-- R108, R446: the 64-bit words of the plane (the weights first, the masks from 384 on) that hold an uncorrectable error that no read
  has met; and those that a read has found so, which are poisoned. -/
  bad  : List Nat := []
  poison : List Nat := []
  deriving DecidableEq, Repr

/-- Table 5-4: a stall register. (DEDUCED, A72) -/
structure Stall where
  last    : BitVec 2
  which   : BitVec 3
  inwait  : BitVec 30
  outwait : BitVec 29
  deriving DecidableEq, Repr

/-- What an endpoint holds beside its frame (R131 to R147). -/
structure Endpoint where
  /-- Input: the on-die queue, oldest first. Output: the beats waiting to enter the mesh. -/
  q       : List Beat
  /-- R143: the beats in the coil, oldest first. -/
  coil    : List Beat
  /-- Output: ordinary permits held. Input fed from a peer (R440): the permits that have come with beats and not gone back. -/
  permits : Nat
  /-- R139: beats stamped since load. -/
  stamp   : BitVec 6
  /-- R147: beats counted between two markers. -/
  rate    : BitVec 32
  /-- R161. -/
  beats   : BitVec 32
  errors  : BitVec 32
  /-- R348: the coil settings in force. -/
  spill   : Bool
  hi      : Nat
  lo      : Nat
  climit  : Nat
  /-- R142: the cycle of the last beat; the cycle from which a woken path fires again. -/
  idle    : Nat
  wakeAt  : Nat
  gated   : Bool
  stall   : Stall
  /-- R56: the last wave whose marker passed here, and the beats caught behind a snapshot. -/
  marker  : BitVec 16
  caught  : List Beat
  /-- R145: coil lines consumed since the snapshot of a wave that is not complete. -/
  spent   : Nat
  /-- Table 5-5: the coil is moving on-die, until the queue is at HI or the coil is empty. -/
  refill  : Bool
  /-- R450. -/
  fault   : Bool
  /-- Class 0x08: the wave in which this sink's first error beat was recorded. -/
  errSeen : Option (BitVec 16)
  /-- R143: the lines of its ring that hold the beats of the coil, in their order, and the line that the next one takes. -/
  lines   : List Nat := []
  tail    : Nat := 0
  /-- R157: ordinary beats that have arrived since load, and those of them whose permits are a stream engine's and have not gone back: the
  arrival's number and the engine's. -/
  came    : Nat := 0
  mine    : Assoc Nat := []
  deriving DecidableEq, Repr

/-- R142: the gating of an edge from node to node: the cycle of its last beat, the cycle from which it carries again, and whether it is
gated. -/
structure Gate where
  idle   : Nat
  wakeAt : Nat
  gated  : Bool
  deriving DecidableEq, Repr

/-- What a switch node holds beside its frame (R135 to R141). -/
structure Node where
  /-- Beats taken and not yet delivered (multicast), or held in the tag window. -/
  held    : List Beat
  /-- Beats that reached an input fed by another node of the tile. -/
  inq     : Assoc (List Beat)
  next    : BitVec 6
  taken   : Nat
  /-- R140: beats each branch has accepted. -/
  accepted : Assoc Nat
  /-- R137, R424: the input taken last. -/
  last    : Nat
  /-- R136 COUNT: beats sent on the current run, and the path. -/
  count   : Nat
  path    : Nat
  spill   : Bool
  climit  : Nat
  fault   : Bool
  stall   : Stall
  marker  : BitVec 16
  /-- R56 step 3: inputs whose marker of the open wave has come. -/
  seen    : List Nat
  /-- R145: coil lines consumed since the snapshot of a wave that is not complete. -/
  spent   : Nat
  /-- R128: error beats taken in. -/
  errors  : BitVec 32 := 0
  /-- R142: the gating of the edges that other nodes feed, by input. -/
  gates   : Assoc Gate := []
  deriving DecidableEq, Repr

/-- R431: a cached translation. -/
structure TlbEntry where
  part  : Nat
  page  : Nat
  large : Bool
  entry : Word
  deriving DecidableEq, Repr

/-- R156: one line of a coalescing buffer. -/
structure CoalLine where
  ea    : Word
  bytes : List (Nat × Byte)
  since : Nat
  /-- R159: the bytes of the elements that it carries, those that a later element has overwritten among them. -/
  count : Nat
  /-- R458: the number, from 1, of the oldest beat of its stream of which it carries an element. -/
  beat  : Nat := 0
  deriving DecidableEq, Repr

/-- R434: a spilled stream element. -/
structure Spilled where
  ea    : Word
  data  : List Byte
  /-- Its translation has faulted; other elements wait in order behind one that has. -/
  fault : Bool
  /-- R159: the bytes of overwritten elements of its line that complete with it. -/
  covers : Nat
  /-- R458: the number, from 1, of the beat of its stream that it came in. -/
  beat  : Nat := 0
  deriving DecidableEq, Repr

/-- R153, R154, R434: an element of a beat being built: 0 read, 5 waiting for its page, else an error code of Table 5-2. -/
structure Cell where
  ea    : Word
  code  : Nat
  bytes : List Byte
  deriving DecidableEq, Repr

/-- R149 to R160: a stream engine. -/
structure Engine where
  scb     : BitVec 1024
  opened  : Bool
  running : Bool
  /-- The thread slot that opened the stream (R160, R433). -/
  opener  : Nat
  lvl     : Bool
  pc      : PC
  i0      : Nat
  i1      : Nat
  i2      : Nat
  i3      : Nat
  /-- The index of level 3 once fetched (R151). -/
  idx     : Option Nat
  /-- R154: why the elements of the current index are not touched: 0 none, else an error code of Table 5-2. -/
  idxErr  : Nat
  /-- Read: the beat being built, and the closed beats that wait at the port, each with its first element. -/
  part    : List Cell
  ready   : List (Nat × List Cell)
  /-- Write: the beat being unpacked and the elements of it passed; the beat that the drain unit has handed over (PORT 1). -/
  inb     : Option Beat
  inPos   : Nat
  out     : Option Beat
  /-- Elements visited; beats moved. -/
  elem    : Nat
  beatNo  : Nat
  coal    : List CoalLine
  /-- R158: waiting for the owner token; owing one. -/
  ownWait : Bool
  ownOwed : Bool
  ending  : Bool
  spills  : List Spilled
  held    : Option Word
  /-- R477: bytes whose completion is held. -/
  owed    : Nat
  /-- R447: a poison consumption of this stream has been recorded. -/
  logged  : Bool
  beats   : BitVec 32
  errors  : BitVec 32
  tlb     : List TlbEntry
  fault   : Bool
  stall   : Stall
  marker  : BitVec 16
  epoch   : BitVec 16
  errSeen : Option (BitVec 16)
  /-- R433, R434: the engine stops until its retry: its index waits for a page, or its spill queue has no room for a line. -/
  stopped : Bool := false
  /-- R399: the tile whose engine of the same number the stream has been moved to: this is the state of that engine. -/
  host    : Option Nat := none
  /-- R433, R112: a retry of the spill queue waits for a bank, and goes on. -/
  retry   : Bool := false
  /-- R56: in a snapshot, the beats that the drain unit has handed over since the engine took it and before its own marker; a restored engine
  takes them first. -/
  caught  : List Beat := []
  deriving DecidableEq, Repr

/-- R109 to R114: one bank of a vault. -/
structure Bank where
  /-- The open row and the cycle of its ROWACT. -/
  row     : Option (Nat × Nat)
  closed  : Option Nat
  owed    : Nat
  busyTill : Nat
  /-- R114: a reactivated row takes no transfer before this cycle. -/
  readyAt : Nat
  /-- R113: since when a background activate waits. -/
  bgSince : Option Nat
  /-- R456: rows replaced by spares. -/
  remap   : Assoc Nat
  /-- R114: the row that a forced refresh has closed and will reactivate, with the cycle of its ROWACT. -/
  forced  : Option (Nat × Nat) := none
  /-- R112: the cycle up to which the home has a row of the bank open. -/
  homeTill : Nat := 0
  /-- R112: the last cycle, plus one, in which a ROWACT of the bank has waited. -/
  actAsked : Nat := 0
  /-- R456: spare rows taken. -/
  used : Nat := 0
  deriving DecidableEq, Repr

/-- R82, R338, MSTAT selector 6: what the last MRUN of a context latched. -/
structure Latched where
  n     : BitVec 2
  pfmt  : BitVec 4
  ffmt  : BitVec 4
  psc   : BitVec 5
  fsc   : BitVec 5
  deriving DecidableEq, Repr

/-- R162 to R166: one configuration context of a tile. -/
structure Ctx where
  /-- The graph that holds the context, and its logical context number. -/
  graph   : Option Nat
  lctx    : Nat
  loaded  : Bool
  loading : Bool
  failed  : Bool
  frames  : Assoc (BitVec 256)
  /-- R125. -/
  discarded : BitVec 64
  latched : Option Latched
  entered : Word
  errVecs : Word
  nans    : BitVec 32
  ovfs    : BitVec 32
  inexact : Word
  drained : Word
  /-- R356: the record under assembly. -/
  recBuf  : List Beat
  feed    : Stall
  drain   : Stall
  /-- R161: the drain unit as a sink. -/
  sinkBeats : BitVec 32
  sinkErrs  : BitVec 32
  errSeen   : Option (BitVec 16)
  /-- R56: the last waves whose markers the context's feed port has met and its drain unit has passed on. -/
  marker    : BitVec 16
  drainMark : BitVec 16
  /-- R450: the feed port, the drain unit has faulted. -/
  feedFault  : Bool
  drainFault : Bool
  deriving DecidableEq, Repr

/-- R456: the times of a unit's last two counted events. -/
structure Tally where
  kind  : Nat
  unit  : Nat
  older : Option Nat
  newer : Option Nat
  deriving DecidableEq, Repr

/-- R101: the arbiter of a bank of tile memory, whose requesters are the sequencer (0), the stream engines (1 to 8), the copy engine (9), the
drain unit (10) and the row engine (11): the requester granted last, the cycle from which its grant is over, the cycle from which a row
transfer holds the bank no longer, and whether the last grant is one to a row engine that has not used it. -/
structure BankPort where
  last : Nat := 11
  till : Nat := 0
  busy : Nat := 0
  idle : Bool := false
  deriving DecidableEq, Repr

/-- One tile (R15) without its threads and bytes. -/
structure Tile where
  sc      : Vector (BitVec 32) 32
  sfmt    : Vector (BitVec 16) 32
  tags    : Vector Word 64
  planes  : Vector Plane 4
  /-- R73, R107: slot (row, column) at 16 * row + column; an absent slot is the zero slot. -/
  acc     : Assoc Word
  accPoison : List Nat
  /-- R108, R446: accumulator words that hold an uncorrectable error that no read has met. -/
  accBad  : List Nat := []
  /-- R455: cells, 16 * row + column, in whose planes or state the next read corrects a bit. -/
  cellBits : List Nat := []
  ctxs    : Vector Ctx 4
  eps     : Assoc Endpoint
  nodes   : Assoc Node
  engines : Assoc Engine
  banks   : Assoc Bank
  /-- R111: the cycles of the program's activates. -/
  acts    : List Nat
  bgActs  : List Nat
  lastBus : Option Nat
  /-- R104: words of the instruction buffer. -/
  ibuf    : Assoc IWord
  tlb     : List TlbEntry
  /-- R467. -/
  skew    : Nat
  /-- R463: the tile's defect map entry. -/
  cells   : BitVec 256
  spares  : BitVec 32
  retired : Bool
  routerRetired : Bool
  selftest : Bool
  tallies : List Tally
  /-- R334: the slot that issued last on this tile (R35). -/
  lastSlot : Nat
  /-- R101: the arbiters of the four banks of tile memory. -/
  ports   : Assoc BankPort := []
  /-- R453: beats and markers that the tile's router has absorbed before a retired one. -/
  absorbed : Nat := 0
  deriving DecidableEq, Repr

/-- R118: the condition of a vault sector. -/
inductive SectorCond where
  | clean | oneBit | uncorrectable | misdirected | poisoned
  deriving DecidableEq, Repr

/-- R118: a sector's allocation tag and condition. -/
structure Sector where
  tag  : BitVec 4
  cond : SectorCond
  deriving DecidableEq, Repr

/-- R120: a block of a home's decoded cache. -/
structure Block where
  /-- Vault byte offset of the frame block, and its virtual address and descriptor. -/
  off    : Nat
  part   : Nat
  va     : Nat
  cidx   : Nat
  budget : Nat
  lanes  : List Word
  dirty  : Bool
  poison : BitVec 4
  writers : List Nat
  deriving DecidableEq, Repr

/-- Table 16-9: a codec descriptor. -/
structure CodecDesc where
  base   : Word
  length : Word
  flags  : Word
  cnt    : Word
  deriving DecidableEq, Repr

/-- Table 18-4: an undo entry. -/
structure Undo where
  graph : Nat
  epoch : BitVec 16
  kind  : Nat
  line  : Nat
  old   : List Byte
  sects : List Sector
  /-- R413: the number of the entry in the log. -/
  pos   : Nat := 0
  deriving DecidableEq, Repr

/-- R26, R117: the vault controller of a tile as a home. -/
structure Home where
  cache : List Block
  descs : Assoc CodecDesc
  undo  : List Undo
  /-- R413: the number from which the next entry of the log is placed. -/
  undoNext : Nat := 0
  deriving DecidableEq, Repr

/-- R171: the action of an access that has not yet been performed. -/
inductive HomeAct where
  | store (bytes : List Byte) (setTag : Bool)
  | amo (op : Nat) (b : Word)
  | cleat (upd : CleatUpd)
  | tagset (i : Nat) (v : Word)
  | tagclr (i : Nat)
  deriving DecidableEq, Repr

/-- R171: an access that a home has accepted, or that waits for its release (R180, R181). -/
structure HomeOp where
  part  : Nat
  ea    : Word
  /-- The leaf that translated the access, and whether it maps 64 MiB. -/
  leaf  : Word
  large : Bool
  act   : HomeAct
  th    : Nat
  graph : Nat
  epoch : BitVec 16
  /-- R180: an acquire whose commit waits for it. -/
  acq   : Bool
  /-- R181: the wave that must be complete before the access is released. -/
  hold  : Option (BitVec 16)
  /-- R180: the scope at which it releases; 0 none. -/
  rel   : Nat := 0
  /-- R476: a write by the device itself. -/
  hw    : Bool := false
  deriving DecidableEq, Repr

/-- R37, R328: a fused region, in physical coordinates. -/
structure Region where
  graph : Nat
  pctx  : Nat
  x     : Nat
  y     : Nat
  w     : Nat
  h     : Nat
  rows  : Nat
  cols  : Nat
  skew  : Nat
  /-- R18: the cell rows and columns bypassed since the region was fused, as tile row and cell row, tile column and cell column. -/
  badRows : List (Nat × Nat) := []
  badCols : List (Nat × Nat) := []
  deriving DecidableEq, Repr

/-- R38: a rectangle's enabled set and context counter. -/
structure Rect where
  x       : Nat
  y       : Nat
  w       : Nat
  h       : Nat
  enabled : BitVec 4
  last    : Nat
  /-- R359: the next examination starts at the lowest enabled context. -/
  fresh   : Bool
  deriving DecidableEq, Repr

/-- R38, R338: a vector in the array. -/
structure VecFly where
  x     : Nat
  y     : Nat
  pctx  : Nat
  th    : Nat
  row   : Nat
  acc   : Bool
  int   : Bool
  due   : Nat
  last  : Bool
  cleat : Word
  /-- Column results, drainer tile and slots from the west. -/
  cols  : List (Nat × List Word)
  /-- R477: its MRUN has ended at the engine trap point: it completes nothing. -/
  stray : Bool := false
  /-- R79, R99: its records by feeder, whether one holds an error, the formats latched, and the planes of the tiles in which a fill has
  been applied since it passed. -/
  recs  : List Nat := []
  bad   : Bool := false
  fmts  : Latched := { n := 0, pfmt := 0, ffmt := 0, psc := 0, fsc := 0 }
  old   : Assoc Plane := []
  /-- R108: the drainers and columns whose results are poisoned. -/
  lost  : List (Nat × Nat) := []
  /-- R399: the x, y and context of the region whose MRUN it belongs to, on another's array. -/
  guest : Option (Nat × Nat × Nat) := none
  deriving DecidableEq, Repr

/-- R134: a beat between two tiles. -/
structure Flight where
  srcTile : Nat
  srcEp   : Nat
  dstTile : Nat
  dstEp   : Nat
  ctx     : Nat
  /-- The tile that the beat has reached, or reaches in the cycle `due`. -/
  at_     : Nat
  due     : Nat
  beat    : Beat
  /-- R455: the router that the beat reaches next corrects a bit of its flit. -/
  flips   : Bool := false
  deriving DecidableEq, Repr

/-- R131: a permit on its way back to a producer: an endpoint of the tile or, from 40 on, a stream engine (R157). -/
structure PermitFly where
  tile : Nat
  ep   : Nat
  due  : Nat
  deriving DecidableEq, Repr

/-- R59, Table 2-4: what a wave snapshot holds of one tile. -/
structure TileSnap where
  tile : Nat
  mem  : Memory
  poison : List Nat
  st   : Tile
  /-- R407: a shadow row of the slot that reads uncorrectable. -/
  bad  : Option Nat
  /-- R125, R364: the slots of tile memory that the image holds. -/
  slots : BitVec 64 := 0
  /-- R405: the rows of the slot that have been written. -/
  rows : List Nat := []
  /-- R406: the tile in whose slot the image lies, where a restore moves it to another. -/
  kept : Option Nat := none
  deriving DecidableEq, Repr

/-- R60, R405: the save of a tile under way: the rows of its slot yet to be written, how many have been, whether an activate for the next
one has been posted, and the cycle at which the window of the last activates ends. -/
structure Saving where
  rows   : List Nat
  done   : Nat
  posted : Bool
  due    : Nat
  deriving DecidableEq, Repr

/-- R59: a wave snapshot. `eps`, `nodes` and `engines` are latched element by element (R56). -/
structure Snap where
  wave    : BitVec 16
  tiles   : List TileSnap
  ckpts   : Assoc Ckpt
  eps     : Assoc Endpoint
  nodes   : Assoc Node
  engines : Assoc Engine
  /-- R56: a region's state by tile and context: the context, the accumulator rows of its window, and the MRUNs in progress. -/
  ctxs    : Assoc Ctx
  accs    : Assoc (Assoc Word)
  runs    : Assoc (List Active)
  /-- Table 2-4: the planes by tile and context, taken with the checkpoint of the thread that leads them. -/
  planes  : Assoc Plane
  /-- R410 step 3: the regions of the graph and the counters of their rectangles. -/
  regions : List Region
  rects   : List Rect
  /-- R60: bytes of tile memory that an agent past its snapshot has overwritten before the tile's image was saved, as they
  stood. -/
  late    : Assoc Byte
  /-- R166: shared registers of a tile, 64 * tile + number - 0x100, that a thread past its checkpoint has written before the
  tile's image was saved, as they stood. -/
  lateRegs : Assoc Word := []
  /-- R60: the saves under way, by tile. -/
  saving  : Assoc Saving := []
  deriving DecidableEq, Repr

/-- R30, Table 16-10: the state of a graph. -/
inductive GState where
  | queued | loading | running | cut | retired | terminated | failed
  deriving DecidableEq, Repr

/-- R30, R387 to R402: a graph. -/
structure Graph where
  st       : GState
  part     : Nat
  handle   : BitVec 16
  w        : Nat
  h        : Nat
  x        : Nat
  y        : Nat
  nctx     : Nat
  /-- R216: physical context of logical context 0 to 3. -/
  cmap     : Vector (BitVec 2) 4
  record   : BitVec 2048
  queue    : Nat
  ctxi     : Nat
  prio     : Nat
  age      : Nat
  lastWave : BitVec 16
  openWave : Option (BitVec 16)
  /-- R55, R470: the time, on the reference clock, at which the latency limit of the open forced wave expires. -/
  deadline : Option Nat
  cutting  : Bool
  /-- R397: a cut waits for the wave that is open. -/
  cutNext  : Bool
  frozen   : Bool
  /-- R383: the slot that issued the FREEZE, which goes on issuing, and the time from which the latency limit stands. -/
  freezer  : Option Nat
  frozenAt : Nat
  hung     : Bool
  hang     : Nat
  gen      : BitVec 32
  lapsed   : Bool
  rollbacks : Nat
  rowBound : Bool
  cause    : Nat
  tadmit   : Word
  tend     : Word
  /-- R53: the snapshot of the last complete wave, and that of the open one. -/
  snap     : Option Snap
  pending  : Option Snap
  minShapes : List (Nat × Nat × Nat × Nat × Nat × Nat)
  /-- R408: logical contributions of the placement the graph was admitted with. -/
  contrib  : List (Nat × Nat)
  /-- R364, R370: HWIN, and HIMG, as the graph was loaded or restored with them. -/
  hwin     : Word
  himg     : Word := 0
  /-- R383: the trigger of a rollback that waits for FREEZE.OFF. -/
  waiting  : Option Nat
  /-- R406: the shadow slots that the graph holds, by 2 * tile + parity. -/
  shadow   : Assoc Nat := []
  /-- R406: the slots of its cut wave on the tiles that it leaves, until its restore is complete. -/
  oldShadow : Assoc Nat := []
  /-- R58: the time at which its last wave was recorded as complete. -/
  lastAt   : Word := 0
  /-- R365, R454: graph-level traps, with their values, to be raised to the report thread as the graph resumes. -/
  owedTraps : List (Nat × Word) := []
  /-- R454: it was rolled back off a retired tile or router and waits for another origin. -/
  displaced : Bool := false
  /-- R412: the cycle at which a restore under way has its contents; 0 with none. -/
  readyAt  : Nat := 0
  deriving DecidableEq, Repr

/-- R371, Table 16-1 (partition registers), and its dispatcher (R385 to R401). -/
structure Part where
  exists_  : Bool
  tvec     : Word
  hwin     : Word
  himg     : Word
  ptroot   : Word
  codectab : Word
  errbase  : Word
  errsize  : Word
  errhead  : Word
  errtail  : Word
  errlost  : Word
  ctxlist  : Word
  preprio  : Word
  prect    : Word
  bankmap  : Word
  portmask : BitVec 128
  qmask    : BitVec 256
  active   : Nat
  /-- The context-list entry that becomes active when the outgoing one has stopped (R396). -/
  incoming : Option Nat
  /-- R396, R470: the time at which the slice of the active entry began. -/
  sliceAt  : Nat
  nextHandle : BitVec 16
  /-- R392: queue (or graph, plus 256) the rectangle x y w h is reserved for. -/
  reserve  : Option (Nat × Nat × Nat × Nat × Nat)
  bypass   : Assoc Nat
  ages     : Assoc Nat
  pressure : Option Nat
  evalAt   : Nat
  evalDue  : Bool
  /-- R395: the dispatcher's copies of the context list's header, of its entries, and of the queue descriptors, as it last read them. -/
  header   : BitVec 1024 := 0
  entries  : Assoc (BitVec 128) := []
  queues   : Assoc (BitVec 512) := []
  /-- R385: HEAD, ADMITS and FAILS of each queue, which the dispatcher alone writes. -/
  counts   : Assoc (Nat × Nat × Nat) := []
  deriving DecidableEq, Repr

/-- R440, R464: a beat on its way out of a fabric port: the far stream port, and the output endpoint that sent it, 40 * tile +
endpoint (none for a stream port that reads a window). -/
structure Outgoing where
  sp   : Nat
  src  : Option Nat
  beat : Beat
  deriving DecidableEq, Repr

/-- R464 to R466: a fabric port. -/
structure Port where
  up      : Bool
  lane0   : Bool
  lane1   : Bool
  txSeq   : BitVec 16
  rxSeq   : BitVec 16
  replay  : List (BitVec 2048)
  sent    : List (BitVec 2048)
  replayed : Word
  /-- R441: window, position, direction (true: write), of stream ports 0 to 31. -/
  windows : Assoc (Word × Word × Word × Bool)
  errors  : Word
  /-- R417: held egress writes, each with graph and epoch. -/
  egress  : List (Nat × BitVec 16 × Outgoing)
  /-- R464: beats that wait for a flit. -/
  stream  : List Outgoing
  /-- R179, R464: the output endpoints whose beats each flit of the replay buffer carries, by its sequence number. -/
  unacked : List (BitVec 16 × List Nat) := []
  /-- R441: beats that have arrived, each with its stream port; the head waits while its page faults. -/
  rx      : List (Nat × Beat)
  /-- R440: the input endpoint, 40 * tile + endpoint, that the beats of a stream port feed. -/
  inputs  : Assoc Nat := []
  /-- R131, R441: permits that the next flit returns, by stream port. -/
  owes    : Assoc Nat := []
  /-- R464: the acknowledgement that the last flit has carried. -/
  acked   : BitVec 16 := 0
  /-- R465, R453: output endpoints, 40 * tile + endpoint, that were bound to the port when it went down, or while it was down. -/
  dead    : List Nat
  /-- R464: intact flits that wait for one of a lower sequence number. -/
  early   : List (BitVec 2048) := []
  /-- R455: the lanes that are retired. -/
  retired : BitVec 2 := 0
  /-- R453: beats and markers absorbed before the port while it was down. -/
  absorbed : Nat := 0
  deriving DecidableEq, Repr

/-- R468, R469: a thermal zone. -/
structure Zone where
  /-- R468: the zone's thresholds. -/
  warn     : Nat
  clear    : Nat
  trip     : Nat
  temp     : Nat
  valve    : Nat
  warned   : Bool
  /-- R469: the time, on the reference clock, at which the zone's deadline passes; then that of its next stretch step. -/
  deadline : Option Nat
  stepAt   : Nat := 0
  deriving DecidableEq, Repr

/-- R461 to R473: the management side of the module. -/
structure Module where
  powered   : Bool
  verified  : Bool
  powerUps  : Nat
  flash     : Option (List Byte)
  update    : Option (List Byte)
  frozen    : Bool
  tripped   : Bool
  stretch   : Nat
  limited   : Nat
  deadlineUs : Nat
  himgs     : Assoc (List Byte)
  report    : Option (List Byte)
  /-- R470: the microcontroller's reference clock, in parts of which an unstretched cycle has 840; and the time at which the next stretch step is
  released (R469). -/
  ref       : Nat := 0
  releaseAt : Option Nat := none
  /-- R470: the limit of the busbar draw, in W, that firmware sets. (DESIGN CHOICE, A7) -/
  powerLimit : Nat := 16000
  /-- R466: the device's number in its group, whether it is the group's bridge, its host-facing ports, and what the host's last read through it
  returned. (DESIGN CHOICE, A109) -/
  group     : BitVec 6 := 0
  bridge    : Bool := true
  hostPorts : BitVec 128 := 0
  hostRead  : List Byte := []
  /-- R466, R112: requests that wait at the bridge for a bank: the device of the group that asks, none for the host, the partition, the
  address, and what is asked. -/
  hostQ     : List (Option Nat × Nat × Word × HostReq) := []
  deriving DecidableEq, Repr

/-- The model's own (A85): an access of the device itself, as its effects on sectors and banks follow in the device's turn: its tag, the
damaged sectors that it has read, as it found them, and the vault bytes whose rows it opens. -/
structure Noted where
  tag  : Nat
  bad  : List (Nat × Sector)
  rows : List Nat
  deriving DecidableEq, Repr

/-- The device and what it holds of the world around it. -/
structure State where
  /-- R1, R243: cycles since reset. -/
  cycle   : Word
  /-- The model's own (A1): the device steps to be taken before the next turn, in order. -/
  agenda  : List Instr
  /-- The model's own (A1): the least tile that has not yet issued in this cycle; past the last tile the device has its turn. -/
  turn    : Nat
  /-- The model's own (A1): the slot, 4 * tile + slot, whose instruction runs. -/
  cur     : Nat
  /-- The model's own (A6): free values drawn. -/
  drawn   : Nat
  tmem    : Memory
  tpoison : List Nat
  /-- R108, R446: words of tile memory, key / 8, that hold an uncorrectable error that no read has met. -/
  tbad    : List Nat := []
  vault   : Memory
  /-- R404: the rows of the vaults in their shadow areas, by the same keys. (DESIGN CHOICE, A98) -/
  shadow  : Memory
  sectors : Assoc Sector
  host    : Memory
  threads : Assoc Thread
  tiles   : Assoc Tile
  homes   : Assoc Home
  homeQ   : List HomeOp
  /-- R180, R181: buffered updates of commits that wait for their release, in program order. -/
  held    : List HomeOp := []
  /-- The model's own (A85): the accesses of the device itself in this cycle. -/
  noted   : List Noted := []
  parts   : Assoc Part
  graphs  : Assoc Graph
  regions : List Region
  rects   : List Rect
  vecs    : List VecFly
  flights : List Flight
  permits : List PermitFly
  /-- R134: of the link from a tile to its neighbour, by 8192 * tile + neighbour: the edge it served last, the cycle, and the beats that it
  carried in that cycle. -/
  links   : Assoc (Nat × Nat × Nat) := []
  tlb2    : Assoc (List TlbEntry)
  ports   : Assoc Port
  bridge  : List (Nat × BitVec 16 × Nat × Byte)
  zones   : Assoc Zone
  mod     : Module
  deriving DecidableEq, Repr

/-- Why a step can stop the machine. -/
inductive Fault where
  /-- Raised by `step` after a thermal trip or before power-up has verified its firmware, with nothing on the agenda: every
  clock is stopped and the module returns only through a new power-up (R461, R471). Safe: nothing is claimed of it. -/
  | poweredDown
  deriving DecidableEq, Repr

/-- Why an instruction can have no meaning. -/
inductive Refusal where
  /-- Raised by an arm of `exec` whose instruction is not modelled. Safe: nothing is claimed of it. -/
  | notModelled (mnemonic : String)
  deriving DecidableEq, Repr

/-- R234: a loop counter at thread start. -/
def LoopCtr.zero : LoopCtr := { count := 0, start := 0, e := false, outer := 0 }
/-- The empty register set. -/
def RegSet.empty : RegSet := { s := 0, v := 0, p := 0 }
/-- R31: a bight that opens at `pc` with the given loop counters and FPCTL. -/
def Bight.openAt (pc : PC) (lc : Vector LoopCtr 4) (fp : Word) : Bight :=
  { start := pc, lc0 := lc, fp0 := fp, live := .empty, written := .empty, stores := [], pushes := [], pops := [] }
/-- An empty queue. -/
def Queue.empty : Queue := { waiting := [], active := [] }

/-- R31, R190, Table 16-1 to 16-3: a slot with no thread yet. Values the spec does not give are DESIGN CHOICE, A2's. (DESIGN CHOICE, A3)
(DESIGN CHOICE, A4) (DESIGN CHOICE, A5) (DESIGN CHOICE, A7) (DESIGN CHOICE, A19) -/
def Thread.reset : Thread :=
  { s := .replicate 32 0, v := .replicate 32 0, p := .replicate 8 0, lc := .replicate 4 .zero,
    fifo := .replicate 20 0, pc := 0, fpctl := 0, lvl := false, rlim := 8, rcnt := 0, tpc := 0, tcause := 0, tval := 0,
    tbs := 0, ssave := .replicate 4 0, bight := .openAt 0 (.replicate 4 .zero) 0, susp := none, wave := 0, run := .free,
    wait := .none, yield := 0, graph := 0, lx := 0, ly := 0, lctx := 0, pctx := 0, tno := 0, nthr := 0,
    queues := .replicate 4 .empty, pend := none, held := none, late := none, gtraps := [], gbar := none }

/-- Table 5-4: the reset value of a stall register. -/
def Stall.zero : Stall := { last := 0, which := 0, inwait := 0, outwait := 0 }
/-- Table 4-2: a plane after reset (DESIGN CHOICE, A3). -/
def Plane.reset : Plane := { w := 0, m := 0, desc := 0, fw := false, fm := false }
/-- R162, R163: a context after reset; every frame is zero. -/
def Ctx.reset : Ctx :=
  { graph := none, lctx := 0, loaded := false, loading := false, failed := false, frames := [], discarded := 0,
    latched := none, entered := 0, errVecs := 0, nans := 0, ovfs := 0, inexact := 0, drained := 0, recBuf := [],
    feed := .zero, drain := .zero, sinkBeats := 0, sinkErrs := 0, errSeen := none, marker := 0, drainMark := 0,
    feedFault := false, drainFault := false }
/-- An endpoint as its frame is loaded. -/
def Endpoint.empty : Endpoint :=
  { q := [], coil := [], permits := 0, stamp := 0, rate := 0, beats := 0, errors := 0, spill := false, hi := 0, lo := 0,
    climit := 0, idle := 0, wakeAt := 0, gated := false, stall := .zero, marker := 0, caught := [], spent := 0, refill := false, fault := false, errSeen := none }
/-- A node as its frame is loaded. The round robin of a merge by arrival then starts after input 0 (DESIGN CHOICE, A79). -/
def Node.empty : Node :=
  { held := [], inq := [], next := 0, taken := 0, accepted := [], last := 0, count := 0, path := 0, spill := false,
    climit := 0, fault := false, stall := .zero, marker := 0, seen := [], spent := 0 }
/-- A stream engine with no stream. -/
def Engine.idle : Engine :=
  { scb := 0, opened := false, running := false, opener := 0, lvl := false, pc := 0, i0 := 0, i1 := 0, i2 := 0, i3 := 0,
    idx := none, idxErr := 0, part := [], ready := [], inb := none, inPos := 0, out := none, elem := 0, beatNo := 0, coal := [],
    ownWait := false, ownOwed := false, ending := false, spills := [], held := none, owed := 0, logged := false, beats := 0,
    errors := 0, tlb := [],
    fault := false, stall := .zero, marker := 0, epoch := 0, errSeen := none }
/-- A bank after reset. -/
def Bank.reset : Bank :=
  { row := none, closed := none, owed := 0, busyTill := 0, readyAt := 0, bgSince := none, remap := [] }
/-- R83, R105, R165: a tile after module reset. Every slot of its accumulator store is the zero slot. (DESIGN CHOICE, A3) -/
def Tile.reset : Tile :=
  { sc := .replicate 32 0x3F800000, sfmt := .replicate 32 0, tags := .replicate 64 0, planes := .replicate 4 .reset,
    acc := [], accPoison := [], ctxs := .replicate 4 .reset, eps := [], nodes := [], engines := [], banks := [],
    acts := [], bgActs := [], lastBus := none, ibuf := [], tlb := [], skew := 0, cells := 0, spares := 0,
    retired := false, routerRetired := false, selftest := false, tallies := [], lastSlot := 3 }
/-- A sector no write has touched (DESIGN CHOICE, A3). -/
def Sector.reset : Sector := { tag := 0, cond := .clean }
/-- A home after reset. -/
def Home.reset : Home := { cache := [], descs := [], undo := [] }
/-- Table 16-1: a partition's registers at reset; BANKMAP by its row, HWIN by Table 16-4, the rest DESIGN CHOICE, A5. -/
def Part.reset : Part :=
  { exists_ := false, tvec := 0, hwin := 0, himg := 0, ptroot := 0, codectab := 0, errbase := 0, errsize := 0,
    errhead := 0, errtail := 0, errlost := 0, ctxlist := 0, preprio := 0, prect := 0,
    bankmap := 27 + 28 * 2 ^ 8 + 30 * 2 ^ 16, portmask := 0, qmask := 0, active := 0, incoming := none, sliceAt := 0,
    nextHandle := 0, reserve := none, bypass := [], ages := [], pressure := none, evalAt := 0, evalDue := false }
/-- A graph's fields before anything is known of it. (DESIGN CHOICE, A3) -/
def Graph.blank : Graph :=
  { st := .queued, part := 0, handle := 0, w := 1, h := 1, x := 0, y := 0, nctx := 1, cmap := .replicate 4 0, record := 0,
    queue := 0, ctxi := 0, prio := 0, age := 0, lastWave := 0, openWave := none, deadline := none, cutting := false,
    cutNext := false, frozen := false, freezer := none, frozenAt := 0, hung := false, hang := 0, gen := 0, lapsed := false, rollbacks := 0,
    rowBound := false, cause := 0, tadmit := 0, tend := 0, snap := none, pending := none, minShapes := [], contrib := [], hwin := 0, waiting := none }
/-- A port before its lanes have trained. -/
def Port.reset : Port :=
  { up := false, lane0 := false, lane1 := false, txSeq := 0, rxSeq := 0, replay := [], sent := [], replayed := 0,
    windows := [], errors := 0, egress := [], stream := [], rx := [], dead := [] }
/-- R468: a thermal zone with its default thresholds, before its first sample (DESIGN CHOICE, A7). -/
def Zone.reset : Zone := { warn := 95, clear := 90, trip := 110, temp := 0, valve := 0, warned := false, deadline := none }
/-- R469: the management side with its default deadline. At reset the clocks run and no power-up step has been
taken (DESIGN CHOICE, A7). -/
def Module.reset : Module :=
  { powered := true, verified := false, powerUps := 0, flash := none, update := none, frozen := false, tripped := false,
    stretch := 0, limited := 0, deadlineUs := 200, himgs := [], report := none }

/-- The machine right after module reset: no partition, no graph, every slot free, nothing listed in any memory. The cycle counter
starts at 0 (DESIGN CHOICE, A4), and no program is placed (DESIGN CHOICE, A19). -/
def State.reset : State :=
  { cycle := 0, agenda := [], turn := 0, cur := 0, drawn := 0, tmem := [], tpoison := [], tbad := [], vault := [], shadow := [],
    sectors := [], host := [], threads := [], tiles := [], homes := [], homeQ := [], held := [], noted := [], parts := [], graphs := [],
    regions := [], rects := [], vecs := [], flights := [], permits := [], links := [], tlb2 := [], ports := [], bridge := [],
    zones := [], mod := .reset }

end Sys2Proof.Machine
end

