-- ==== Sys2Proof/Machine/Numbers.lean ====
section
/-! DEFINITION. Number formats, rounding and conversion (spec/03_numbers.md, R63 to R72, R84, R85). A floating value is
a NaN, an infinity or an exact dyadic number; every result is computed exactly and rounded once. -/

namespace Sys2Proof.Machine

/-- A floating format of Table 3-1. -/
structure Fmt where
  ebits : Nat
  mbits : Nat
  /-- R64: E4M3 has no infinity. -/
  hasInf : Bool
  deriving DecidableEq, Repr

namespace Fmt
/-- Table 3-1. -/
def f64 : Fmt := { ebits := 11, mbits := 52, hasInf := true }
/-- Table 3-1. -/
def f32 : Fmt := { ebits := 8, mbits := 23, hasInf := true }
/-- Table 3-1. -/
def f16 : Fmt := { ebits := 5, mbits := 10, hasInf := true }
/-- Table 3-1. -/
def bf16 : Fmt := { ebits := 8, mbits := 7, hasInf := true }
/-- Table 3-1. -/
def e4m3 : Fmt := { ebits := 4, mbits := 3, hasInf := false }
/-- Table 3-1. -/
def e5m2 : Fmt := { ebits := 5, mbits := 2, hasInf := true }
/-- Table 3-1: the exponent bias. -/
def bias (f : Fmt) : Nat := 2 ^ (f.ebits - 1) - 1
/-- Table 3-1: bits of the format. -/
def width (f : Fmt) : Nat := 1 + f.ebits + f.mbits
/-- The exponent of the smallest normal value. -/
def emin (f : Fmt) : Int := 1 - (f.bias : Int)
/-- The exponent of one unit of a subnormal significand. -/
def qmin (f : Fmt) : Int := f.emin - (f.mbits : Int)
/-- The exponent of the largest finite value. -/
def emax (f : Fmt) : Int := if f.hasInf then (f.bias : Int) else (f.bias : Int) + 1
/-- The significand of the largest finite value: all ones, but 1.110 in E4M3 (448). -/
def maxSig (f : Fmt) : Nat := if f.hasInf then 2 ^ (f.mbits + 1) - 1 else 2 ^ (f.mbits + 1) - 2
/-- Bits of the largest finite value, sign 0. -/
def maxBits (f : Fmt) : Nat :=
  if f.hasInf then (2 ^ f.ebits - 1) * 2 ^ f.mbits - 1 else 2 ^ (f.ebits + f.mbits) - 2
/-- Bits of +infinity (where the format has one). -/
def infBits (f : Fmt) : Nat := (2 ^ f.ebits - 1) * 2 ^ f.mbits
/-- Table 3-1: the canonical NaN. -/
def nanBits (f : Fmt) : Nat :=
  if f.hasInf then (2 ^ f.ebits - 1) * 2 ^ f.mbits + 2 ^ (f.mbits - 1) else 2 ^ (f.ebits + f.mbits) - 1
/-- The sign bit. -/
def signBits (f : Fmt) (neg : Bool) : Nat := if neg then 2 ^ (f.ebits + f.mbits) else 0
end Fmt

/-- A floating value: `fin neg m e` is (-1)^neg * m * 2^e, a zero when m = 0. -/
inductive Val where
  | nan
  | inf (neg : Bool)
  | fin (neg : Bool) (m : Nat) (e : Int)
  deriving DecidableEq, Repr

/-- R67, R198: the four rounding modes. -/
inductive Rnd where
  | ne | tz | up | dn
  deriving DecidableEq, Repr

/-- R70: the five sticky events. -/
structure Flags where
  nv : Bool
  dz : Bool
  of_ : Bool
  uf : Bool
  nx : Bool
  deriving DecidableEq, Repr

/-- No event. -/
def Flags.none : Flags := { nv := false, dz := false, of_ := false, uf := false, nx := false }
/-- R70: invalid operation alone. -/
def Flags.invalid : Flags := { Flags.none with nv := true }
/-- Events accumulate (R255). -/
def Flags.or (a b : Flags) : Flags :=
  { nv := a.nv || b.nv, dz := a.dz || b.dz, of_ := a.of_ || b.of_, uf := a.uf || b.uf, nx := a.nx || b.nx }

/-- A delivered element with its events and whether it is a NaN that was produced (R72). -/
structure Res where
  bits  : Nat
  flags : Flags
  isNan : Bool
  deriving DecidableEq, Repr

/-- R63, R64, R69: the value of the bits of a format; with `fz` a subnormal reads as a zero of its sign. -/
def Fmt.decode (f : Fmt) (fz : Bool) (b : Nat) : Val :=
  let neg := b / 2 ^ (f.ebits + f.mbits) % 2 == 1
  let ex := b / 2 ^ f.mbits % 2 ^ f.ebits
  let m := b % 2 ^ f.mbits
  if f.hasInf && ex == 2 ^ f.ebits - 1 then (if m = 0 then .inf neg else .nan)
  else if !f.hasInf && ex == 2 ^ f.ebits - 1 && m == 2 ^ f.mbits - 1 then .nan
  else if ex = 0 then (if fz then .fin neg 0 0 else .fin neg m f.qmin)
  else .fin neg (2 ^ f.mbits + m) (f.qmin + (ex : Int) - 1)

/-- R68: the magnitude m / 2^d, with the sticky bit z, rounded to an integer; and whether it was inexact. -/
def roundMag (m d : Nat) (z neg : Bool) (rm : Rnd) : Nat × Bool :=
  let k := m / 2 ^ d
  let r := m % 2 ^ d
  let inexact := r != 0 || z
  let incr := match rm with
    | .ne => decide (2 ^ d < 2 * r) || (2 * r == 2 ^ d && (z || k % 2 == 1))
    | .tz => false
    | .up => inexact && !neg
    | .dn => inexact && neg
  (if incr then k + 1 else k, inexact)

/-- m * 2^e as an integer over 2^d, in units of 2^q. -/
def inUnits (m : Nat) (e q : Int) : Nat × Nat :=
  if q ≤ e then (m * 2 ^ (e - q).toNat, 0) else (m, (q - e).toNat)

/-- R70: what an overflow delivers. -/
def Fmt.overflow (f : Fmt) (neg : Bool) (rm : Rnd) : Nat :=
  let toMax := match rm with
    | .ne => false
    | .tz => true
    | .up => neg
    | .dn => !neg
  f.signBits neg + (if f.hasInf && !toMax then f.infBits else f.maxBits)

/-- R68 to R70: round_rm of (-1)^neg * m * 2^e with sticky bit z, then the overflow rule and FZ. -/
def Fmt.round (f : Fmt) (neg : Bool) (m : Nat) (e : Int) (z : Bool) (rm : Rnd) (fz : Bool) : Res :=
  if m = 0 then { bits := f.signBits neg, flags := .none, isNan := false } else
  let top : Int := e + (Nat.log2 m : Int)
  let qU := top - (f.mbits : Int)
  let q := max qU f.qmin
  let (mu, du) := inUnits m e qU
  let (kU, _) := roundMag mu du z neg rm
  let topU : Int := if kU = 2 ^ (f.mbits + 1) then top + 1 else top
  let (mb, db) := inUnits m e q
  let (k, inexact) := roundMag mb db z neg rm
  let big := if f.emax - (f.mbits : Int) ≤ q then
      decide (f.maxSig < k * 2 ^ (q - (f.emax - (f.mbits : Int))).toNat) else false
  if big then { bits := f.overflow neg rm, flags := { Flags.none with of_ := true, nx := true }, isNan := false }
  else if fz && k != 0 && decide (k < 2 ^ f.mbits) then
    { bits := f.signBits neg, flags := { Flags.none with uf := true, nx := true }, isNan := false }
  else
    { bits := f.signBits neg + k + (q - f.qmin).toNat * 2 ^ f.mbits,
      flags := { Flags.none with uf := inexact && decide (topU < f.emin), nx := inexact }, isNan := false }

/-- R64: the canonical NaN, with the events that made it. -/
def Fmt.nanRes (f : Fmt) (fl : Flags) : Res := { bits := f.nanBits, flags := fl, isNan := true }

/-- R64, R255: deliver an exact value in a format. An infinity in E4M3 is the largest value with OF and NX (DEDUCED, A8). (DESIGN CHOICE,
A14) -/
def Fmt.deliver (f : Fmt) (v : Val) (z : Bool) (rm : Rnd) (fz : Bool) : Res :=
  match v with
  | .nan => f.nanRes .invalid
  | .inf neg =>
    if f.hasInf then { bits := f.signBits neg + f.infBits, flags := .none, isNan := false }
    else { bits := f.signBits neg + f.maxBits, flags := { Flags.none with of_ := true, nx := true }, isNan := false }
  | .fin neg m e => f.round neg m e z rm fz

namespace Val
/-- The sign of a value; a NaN has none. -/
def neg? (v : Val) : Bool := match v with | .nan => false | .inf n => n | .fin n _ _ => n
/-- Whether a value is a zero. -/
def isZero (v : Val) : Bool := match v with | .fin _ 0 _ => true | _ => false
/-- Whether a value is a NaN. -/
def isNan (v : Val) : Bool := match v with | .nan => true | _ => false
/-- Whether a value is an infinity. -/
def isInf (v : Val) : Bool := match v with | .inf _ => true | _ => false
/-- -v. -/
def negate (v : Val) : Val := match v with | .nan => .nan | .inf n => .inf (!n) | .fin n m e => .fin (!n) m e
/-- The signed significand of a finite value in units of 2^q, exact when q is not above its exponent. -/
def sig (v : Val) (q : Int) : Int :=
  match v with
  | .fin n m e => let x : Int := (m * 2 ^ (e - q).toNat : Nat); if n then -x else x
  | _ => 0
/-- The exponent of a finite value's significand. -/
def exp (v : Val) : Int := match v with | .fin _ _ e => e | _ => 0
/-- The finite value x * 2^q; a zero has sign `zneg`. -/
def ofSig (x q : Int) (zneg : Bool) : Val :=
  if x = 0 then .fin zneg 0 0 else .fin (decide (x < 0)) x.natAbs q
/-- IEEE addition without rounding; an exact zero of unlike signs is negative only when `dn` (R255). -/
def add (dn : Bool) (a b : Val) : Val :=
  match a, b with
  | .nan, _ => .nan
  | _, .nan => .nan
  | .inf x, .inf y => if x == y then .inf x else .nan
  | .inf x, .fin _ _ _ => .inf x
  | .fin _ _ _, .inf y => .inf y
  | .fin n1 m1 e1, .fin n2 m2 e2 =>
    let q := min e1 e2
    let zneg := if m1 = 0 ∧ m2 = 0 ∧ n1 = n2 then n1 else dn
    ofSig (sig (.fin n1 m1 e1) q + sig (.fin n2 m2 e2) q) q zneg
/-- IEEE multiplication without rounding. -/
def mul (a b : Val) : Val :=
  match a, b with
  | .nan, _ => .nan
  | _, .nan => .nan
  | .inf x, .inf y => .inf (x != y)
  | .inf x, .fin y m _ => if m = 0 then .nan else .inf (x != y)
  | .fin y m _, .inf x => if m = 0 then .nan else .inf (x != y)
  | .fin n1 m1 e1, .fin n2 m2 e2 => .fin (n1 != n2) (m1 * m2) (e1 + e2)
/-- An integer as a value. -/
def ofInt (x : Int) : Val := ofSig x 0 false
/-- Numeric order of finite and infinite values: a < b. A NaN is below nothing. -/
def lt (a b : Val) : Bool :=
  match a, b with
  | .nan, _ => false
  | _, .nan => false
  | .inf x, .inf y => x && !y
  | .inf x, .fin _ _ _ => x
  | .fin _ _ _, .inf y => !y
  | .fin n1 m1 e1, .fin n2 m2 e2 =>
    let q := min e1 e2
    decide (sig (.fin n1 m1 e1) q < sig (.fin n2 m2 e2) q)
/-- Numeric equality; +0 equals -0 and a NaN equals nothing. -/
def eq (a b : Val) : Bool :=
  match a, b with
  | .nan, _ => false
  | _, .nan => false
  | _, _ => !lt a b && !lt b a
/-- Table 9-3: the smaller value, -0 below +0. -/
def minV (a b : Val) : Val :=
  if a.isNan || b.isNan then .nan
  else if lt a b then a else if lt b a then b else if a.neg? then a else b
/-- Table 9-3: the larger value, +0 above -0. -/
def maxV (a b : Val) : Val :=
  if a.isNan || b.isNan then .nan
  else if lt a b then b else if lt b a then a else if a.neg? then b else a
end Val

/-- An exact quotient of two finite magnitudes, enough of its bits and a sticky bit (R68). -/
def divMag (m1 : Nat) (e1 : Int) (m2 : Nat) (e2 : Int) : Nat × Int × Bool :=
  let k := 130 + Nat.log2 m2
  let n := m1 * 2 ^ k
  (n / m2, e1 - e2 - (k : Int), n % m2 != 0)

/-- Bits of an integer square root from bit `k` down (r so far). -/
def isqrtLoop (n : Nat) : Nat → Nat → Nat
  | 0, r => if (r + 1) * (r + 1) ≤ n then r + 1 else r
  | k + 1, r => let r' := r + 2 ^ (k + 1); isqrtLoop n k (if r' * r' ≤ n then r' else r)

/-- The integer square root. -/
def isqrt (n : Nat) : Nat := isqrtLoop n (Nat.log2 n / 2 + 1) 0

/-- The square root of m * 2^e, enough of its bits and a sticky bit. -/
def sqrtMag (m : Nat) (e : Int) : Nat × Int × Bool :=
  let odd := e % 2 == 1
  let m' := (if odd then 2 * m else m) * 2 ^ 260
  let e' := (if odd then e - 1 else e) / 2
  let r := isqrt m'
  (r, e' - 130, r * r != m')

/-- Table 7-3: the element types. -/
inductive VType where
  | f64 | f32 | f16 | bf16 | f8e4 | f8e5 | i64 | i32 | i16 | i8 | u64 | u32 | u16 | u8
  deriving DecidableEq, Repr

namespace VType
/-- Table 7-3: a type code; the reserved codes are refused by the decoder. -/
def ofCode (t : BitVec 4) : VType :=
  match t.toNat with
  | 0 => .f64 | 1 => .f32 | 2 => .f16 | 3 => .bf16 | 4 => .f8e4 | 5 => .f8e5 | 6 => .i64 | 7 => .i32 | 8 => .i16
  | 9 => .i8 | 10 => .u64 | 11 => .u32 | 12 => .u16 | _ => .u8
/-- Table 9-1: width in bytes. -/
def w (t : VType) : Nat :=
  match t with
  | .f64 | .i64 | .u64 => 8
  | .f32 | .i32 | .u32 => 4
  | .f16 | .bf16 | .i16 | .u16 => 2
  | .f8e4 | .f8e5 | .i8 | .u8 => 1
/-- Table 9-1: lanes per register. -/
def lanes (t : VType) : Nat := 64 / t.w
/-- The format of a floating type. -/
def fmt? (t : VType) : Option Fmt :=
  match t with
  | .f64 => some .f64 | .f32 => some .f32 | .f16 => some .f16 | .bf16 => some .bf16
  | .f8e4 => some .e4m3 | .f8e5 => some .e5m2 | _ => none
/-- The format of a floating type; FP32 stands where none is asked. -/
def fmt (t : VType) : Fmt := t.fmt?.getD .f32
/-- Types 0 to 5. -/
def isFloat (t : VType) : Bool := t.fmt?.isSome
/-- The signed integer types. -/
def signed (t : VType) : Bool := match t with | .i64 | .i32 | .i16 | .i8 => true | _ => false
/-- Table 3-6: the format code of a type, 0 for the integer types (R254). -/
def code (t : VType) : Nat :=
  match t with
  | .f64 => 0xA | .f32 => 8 | .f16 => 7 | .bf16 => 5 | .f8e4 => 1 | .f8e5 => 2 | _ => 0
/-- R65: the integer an element's bits stand for. -/
def toInt (t : VType) (b : Nat) : Int :=
  if t.signed && decide (2 ^ (8 * t.w - 1) ≤ b) then (b : Int) - (2 ^ (8 * t.w) : Nat) else b
/-- R65: the element bits of an integer, modulo 2^(8w). -/
def ofInt (t : VType) (x : Int) : Nat := (x % ((2 ^ (8 * t.w) : Nat) : Int)).toNat
/-- The least integer of a type. -/
def minInt (t : VType) : Int := if t.signed then -((2 ^ (8 * t.w - 1) : Nat) : Int) else 0
/-- The greatest integer of a type. -/
def maxInt (t : VType) : Int := if t.signed then ((2 ^ (8 * t.w - 1) : Nat) : Int) - 1 else ((2 ^ (8 * t.w) : Nat) : Int) - 1
end VType

/-- R71, Table 3-3: a value to an integer type. -/
def valToInt (d : VType) (v : Val) (z : Bool) (rm : Rnd) : Res :=
  match v with
  | .nan => { bits := 0, flags := .invalid, isNan := false }
  | .inf n => { bits := d.ofInt (if n then d.minInt else d.maxInt), flags := .invalid, isNan := false }
  | .fin n m e =>
    let (mu, du) := inUnits m e 0
    let (k, inexact) := roundMag mu du z n rm
    let x : Int := if n then -(k : Int) else k
    if x < d.minInt then { bits := d.ofInt d.minInt, flags := .invalid, isNan := false }
    else if d.maxInt < x then { bits := d.ofInt d.maxInt, flags := .invalid, isNan := false }
    else { bits := d.ofInt x, flags := { Flags.none with nx := inexact }, isNan := false }

/-- R71, Table 3-3: VCVT of one element. Between integers of one width and unlike sign the table gives no result outside
the common range: the bits are free there (DESIGN CHOICE, A9), and NV is set (R70). A negative value of a wider unsigned type is the extension that the
table gives, with no flag (DEDUCED, A110). -/
def convert (s d : VType) (b : Nat) (rm : Rnd) (fz : Bool) : Res :=
  match s.fmt?, d.fmt? with
  | some f, some g => g.deliver (f.decode fz b) false rm fz
  | some f, none => valToInt d (f.decode fz b) false rm
  | none, some g => g.deliver (Val.ofInt (s.toInt b)) false rm fz
  | none, none =>
    let x := s.toInt b
    if s.w < d.w then { bits := d.ofInt x, flags := .none, isNan := false }
    else if d.minInt ≤ x ∧ x ≤ d.maxInt then { bits := d.ofInt x, flags := .none, isNan := false }
    else if d.w < s.w then
      { bits := d.ofInt (if x < d.minInt then d.minInt else d.maxInt), flags := .invalid, isNan := false }
    else
      { bits := Config.cvtSameWidth d.w b % 2 ^ (8 * d.w),
        flags := .invalid, isNan := false }

/-- R84: one stage of the butterfly: lanes 2^t apart. (DEDUCED, A64) -/
def whtStage (dn : Bool) (t : Nat) (x : List Val) : List Val :=
  (List.range x.length).map fun i =>
    let lo := if i / 2 ^ t % 2 = 0 then i else i - 2 ^ t
    let a := x.getD lo .nan
    let b := x.getD (lo + 2 ^ t) .nan
    if i / 2 ^ t % 2 = 0 then Val.add dn a b else Val.add dn a b.negate

/-- v * 2^k. -/
def Val.scale (v : Val) (k : Int) : Val := match v with | .fin n m e => .fin n m (e + k) | w => w

/-- R84: wht(x, h) of one block of 2^h lanes; a NaN anywhere makes every lane NaN. -/
def wht (dn : Bool) (h : Nat) (x : List Val) : List Val :=
  let y := (List.range h).foldl (fun acc t => whtStage dn t acc) x
  if y.any Val.isNan then y.map (fun _ => Val.nan) else y.map (fun v => v.scale (-((h / 2 : Nat) : Int)))

/-- The lanes of `x` cut into blocks of `n`, at most `fuel` of them. -/
def chunks {α : Type} (n : Nat) : Nat → List α → List (List α)
  | 0, _ => []
  | k + 1, x => if x.isEmpty then [] else x.take n :: chunks n k (x.drop n)

/-- R85: the saturating conversion of an exact quotient to an 8-bit type. -/
def quantise (d : VType) (v : Val) (z : Bool) (rm : Rnd) (fz : Bool) : Res :=
  match d.fmt? with
  | none => valToInt d v z rm
  | some g =>
    match v with
    | .fin n m e =>
      let r := g.round n m e z rm fz
      if r.flags.of_ then { r with bits := g.signBits n + g.maxBits } else r
    | w => g.deliver w z rm fz

/-- R85: what VQCVT gives for a lane y of the butterfly and scale s. -/
def quantLane (d : VType) (s y : Val) (rm : Rnd) (fz : Bool) : Res :=
  let bad : Res := match d.fmt? with
    | some g => g.nanRes .invalid
    | none => { bits := 0, flags := .invalid, isNan := false }
  match s with
  | .fin sn sm se =>
    if sm = 0 then bad else
    match y with
    | .fin n m e => let (q, qe, z) := divMag m e sm se; quantise d (.fin (n != sn) q qe) z rm fz
    | .inf n => quantise d (.inf (n != sn)) false rm fz
    | .nan => quantise d .nan false rm fz
  | _ => bad

end Sys2Proof.Machine
end

