-- ==== Sys2Proof/Machine/Store.lean ====
section
/-! DEFINITION. Sparse data by number, and bytes of memory in canonical form: the one place where either is read or
written. -/

namespace Sys2Proof.Machine

/-- The entry at `k`. -/
def Assoc.get? {α : Type} (m : Assoc α) (k : Nat) : Option α :=
  match m with
  | [] => none
  | (j, v) :: r => if j = k then some v else Assoc.get? r k

/-- The entry at `k`, or `d` where none is listed. -/
def Assoc.getD {α : Type} (m : Assoc α) (k : Nat) (d : α) : α := (Assoc.get? m k).getD d

/-- `m` with `v` at `k`; entries stay in rising order. -/
def Assoc.set {α : Type} (m : Assoc α) (k : Nat) (v : α) : Assoc α :=
  match m with
  | [] => [(k, v)]
  | (j, w) :: r =>
    if k < j then (k, v) :: (j, w) :: r
    else if j = k then (k, v) :: r
    else (j, w) :: Assoc.set r k v

/-- `m` without an entry at `k`. -/
def Assoc.erase {α : Type} (m : Assoc α) (k : Nat) : Assoc α := m.filter (fun e => e.1 != k)

/-- What an unlisted address reads as (DESIGN CHOICE, A3). -/
def Memory.blank : Byte := 0

/-- The byte at `a`. -/
def Memory.read (m : Memory) (a : Nat) : Byte :=
  match m with
  | [] => Memory.blank
  | (k, b) :: r => if k = a then b else Memory.read r a

/-- `m` with the byte `b`, not the blank one, at `a`. -/
def Memory.insert (m : Memory) (a : Nat) (b : Byte) : Memory :=
  match m with
  | [] => [(a, b)]
  | (k, c) :: r =>
    if a < k then (a, b) :: (k, c) :: r
    else if k = a then (a, b) :: r
    else (k, c) :: Memory.insert r a b

/-- `m` with nothing listed at `a`. -/
def Memory.remove (m : Memory) (a : Nat) : Memory := m.filter (fun c => c.1 != a)

/-- `m` with the byte `b` at `a`, in canonical form. -/
def Memory.write (m : Memory) (a : Nat) (b : Byte) : Memory :=
  if b = Memory.blank then Memory.remove m a else Memory.insert m a b

/-- The bytes `a` to `a + n - 1`. -/
def Memory.readBytes (m : Memory) (a n : Nat) : List Byte :=
  match n with
  | 0 => []
  | k + 1 => Memory.read m a :: Memory.readBytes m (a + 1) k

/-- `m` with the bytes `bs` from `a` up. -/
def Memory.writeBytes (m : Memory) (a : Nat) (bs : List Byte) : Memory :=
  match bs with
  | [] => m
  | b :: r => Memory.writeBytes (Memory.write m a b) (a + 1) r

/-- Whether every address of `m` is above `lo`, taken at its head. -/
def Memory.headAbove (m : Memory) (lo : Nat) : Bool :=
  match m with
  | [] => true
  | (k, _) :: _ => decide (lo < k)

/-- The canonical form: addresses strictly rising, no entry equal to what an unlisted address reads as. -/
def Memory.wf (m : Memory) : Bool :=
  match m with
  | [] => true
  | (k, b) :: r => b != Memory.blank && Memory.headAbove r k && Memory.wf r

/-- R2: the little-endian number of a list of bytes. -/
def leNat (bs : List Byte) : Nat :=
  match bs with
  | [] => 0
  | b :: r => b.toNat + 256 * leNat r

/-- R2: the `n` little-endian bytes of a number. -/
def leBytes (n v : Nat) : List Byte :=
  match n with
  | 0 => []
  | k + 1 => .ofNat 8 v :: leBytes k (v / 256)

end Sys2Proof.Machine
end

