-- ==== Sys2Proof/Machine/Fields.lean ====
section
/-! DEFINITION. Bit fields, coordinates and the layouts of frames, of stream control blocks and of table entries (spec/05 Tables 5-6 and 5-9 to 5-14, spec/20
Table 20-1). -/

namespace Sys2Proof.Machine

/-- Bits hi:lo of n (R2). -/
def fld (n hi lo : Nat) : Nat := n / 2 ^ lo % 2 ^ (hi + 1 - lo)
/-- Bit i of n. -/
def bit (n i : Nat) : Bool := n / 2 ^ i % 2 == 1
/-- Table 0-3, sext(n, w) as an integer. -/
def sextN (n w : Nat) : Int := if 2 ^ (w - 1) ≤ n % 2 ^ w then ((n % 2 ^ w : Nat) : Int) - (2 ^ w : Nat) else (n % 2 ^ w : Nat)
/-- A 64-bit word. -/
def wd (n : Nat) : Word := .ofNat 64 n
/-- An integer modulo 2^64. -/
def wi (x : Int) : Word := .ofInt 64 x
/-- The signed value of a word. -/
def sw (w : Word) : Int := w.toInt
/-- n with bits from `lo` up, `wdt` of them, replaced by v. -/
def setFld (n lo wdt v : Nat) : Nat :=
  n % 2 ^ lo + (v % 2 ^ wdt) * 2 ^ lo + n / 2 ^ (lo + wdt) * 2 ^ (lo + wdt)

/-- Physical x of a tile (R11). -/
def tileX (tile : Nat) : Nat := tile % 64
/-- Physical y of a tile. -/
def tileY (tile : Nat) : Nat := tile / 64
/-- The tile P(x, y). -/
def tileAt (x y : Nat) : Nat := 64 * y + x
/-- R12: the reticle field of a tile. -/
def fieldOf (tile : Nat) : Nat := 4 * (tileY tile / 32) + tileX tile / 16
/-- R13: splices crossed between two columns and two rows. -/
def splices (x0 y0 x1 y1 : Nat) : Nat :=
  let cx := if x0 / 16 ≤ x1 / 16 then x1 / 16 - x0 / 16 else x0 / 16 - x1 / 16
  let cy := if y0 / 32 ≤ y1 / 32 then y1 / 32 - y0 / 32 else y0 / 32 - y1 / 32
  cx + cy
/-- R14: cycles of a minimal path between two tiles. -/
def latency (a b : Nat) : Nat :=
  let dx := if tileX a ≤ tileX b then tileX b - tileX a else tileX a - tileX b
  let dy := if tileY a ≤ tileY b then tileY b - tileY a else tileY a - tileY b
  dx + dy + 2 * splices (tileX a) (tileY a) (tileX b) (tileY b)

/-- The tile of a thread slot number. -/
def tileOf (th : Nat) : Nat := th / 4
/-- The slot of a thread slot number within its tile. -/
def slotOf (th : Nat) : Nat := th % 4

namespace Pte
/-- Table 20-1. -/
def v (e : Nat) : Bool := bit e 63
/-- Table 20-1. -/
def leaf (e : Nat) : Bool := bit e 62
/-- Table 20-1: writes and atomics allowed. -/
def w (e : Nat) : Bool := bit e 61
/-- Table 20-1. -/
def codec (e : Nat) : Bool := bit e 60
/-- Table 20-1. -/
def budget (e : Nat) : Nat := fld e 59 58
/-- Table 20-1. -/
def cidx (e : Nat) : Nat := fld e 57 50
/-- Table 20-1. -/
def pin (e : Nat) : Bool := bit e 49
/-- Table 20-1. -/
def host (e : Nat) : Bool := bit e 48
/-- Table 20-1: the tile of the vault. -/
def tile (e : Nat) : Nat := tileAt (fld e 47 42) (fld e 41 35)
/-- Table 20-1: vault offset of the table or frame. -/
def off (e : Nat) : Nat := fld e 27 13 * 8192
/-- Table 20-1, R430: host physical address of the frame. -/
def hostAddr (e : Nat) : Nat := fld e 47 16 * 65536
/-- Table 20-1: tag-setting page. -/
def ts (e : Nat) : Bool := bit e 12
/-- Table 20-1: accessible at S only. -/
def sup (e : Nat) : Bool := bit e 11
end Pte

namespace EpF
/-- Table 5-12. -/
def used (f : Nat) : Bool := bit f 255
/-- Table 5-12: true for an output. -/
def out (f : Nat) : Bool := bit f 254
/-- Table 5-12: 0 thread, 1 feed or drain port, 2 stream engine, 3 node. -/
def attach (f : Nat) : Nat := fld f 253 252
/-- Table 5-12. -/
def unit (f : Nat) : Nat := fld f 251 249
/-- Table 5-12. -/
def spill (f : Nat) : Bool := bit f 248
/-- Table 5-12. -/
def taggen (f : Nat) : Bool := bit f 247
/-- Table 5-12. -/
def q (f : Nat) : Nat := fld f 246 240
/-- Table 5-12. -/
def hi (f : Nat) : Nat := fld f 239 234
/-- Table 5-12. -/
def lo (f : Nat) : Nat := fld f 233 228
/-- Table 5-12. -/
def climit (f : Nat) : Nat := fld f 227 212
/-- Table 5-12. -/
def cbase (f : Nat) : Nat := fld f 211 194
/-- Table 5-12. -/
def rgrp (f : Nat) : Nat := fld f 193 188
/-- Table 5-12. -/
def rgen (f : Nat) : Bool := bit f 187
/-- Table 5-12. -/
def rwt (f : Nat) : Int := sextN (fld f 186 179) 8
/-- Table 5-12. -/
def destx (f : Nat) : Nat := fld f 178 173
/-- Table 5-12. -/
def desty (f : Nat) : Nat := fld f 172 166
/-- Table 5-12. -/
def destep (f : Nat) : Nat := fld f 165 161
/-- R440: bound to a fabric port. -/
def toPort (f : Nat) : Bool := decide (126 ≤ desty f)
/-- R440: the port. -/
def port (f : Nat) : Nat := 64 * (desty f - 126) + destx f
end EpF

namespace NdF
/-- Table 5-13. -/
def used (f : Nat) : Bool := bit f 255
/-- Table 5-13: 1 steer, 2 merge by arrival, 3 merge by tag, 4 multicast, 5 replicate. -/
def kind (f : Nat) : Nat := fld f 254 252
/-- Table 5-13: number of inputs. -/
def nin (f : Nat) : Nat := fld f 251 250 + 1
/-- Table 5-13: input i, bit 5 set for a node. -/
def inp (f i : Nat) : Nat := fld f (249 - 6 * i) (244 - 6 * i)
/-- Table 5-13: output i, bit 5 set for a node. -/
def outp (f i : Nat) : Nat := fld f (225 - 6 * i) (220 - 6 * i)
/-- Table 5-13: number of outputs. -/
def nout (f : Nat) : Nat := fld f 177 175 + 1
/-- Table 5-13: 0 PRED, 1 FIELD, 2 TAG, 3 COUNT. -/
def sel (f : Nat) : Nat := fld f 174 173
/-- Table 5-13. -/
def selpos (f : Nat) : Nat := fld f 172 165
/-- Table 5-13. -/
def selcnt (f : Nat) : Nat := fld f 164 155
/-- Table 5-13. -/
def rwin (f : Nat) : Nat := fld f 154 148
/-- Table 5-13: window of branch b. -/
def win (f b : Nat) : Nat := fld f (147 - 7 * b) (141 - 7 * b)
/-- Table 5-13. -/
def nspill (f : Nat) : Bool := bit f 91
/-- Table 5-13. -/
def ncbase (f : Nat) : Nat := fld f 90 73
/-- Table 5-13. -/
def nclimit (f : Nat) : Nat := fld f 72 57
/-- Table 5-13: 0 BCAST, 1 LANE. -/
def repmode (f : Nat) : Nat := fld f 56 55
/-- Table 5-13. -/
def replane (f : Nat) : Nat := fld f 54 53
end NdF

namespace EnF
/-- Table 5-14. -/
def used (f : Nat) : Bool := bit f 255
/-- Table 5-14. -/
def auto (f : Nat) : Bool := bit f 254
/-- Table 5-14. -/
def scbaddr (f : Nat) : Nat := fld f 253 236
end EnF

namespace MpF
/-- Table 5-10, frame 16. -/
def feeden (f : Nat) : Bool := bit f 255
/-- Table 5-10, frame 16. -/
def feedep (f : Nat) : Nat := fld f 254 250
/-- Table 5-10, frame 16. -/
def drainen (f : Nat) : Bool := bit f 249
/-- Table 5-10, frame 16. -/
def accbase (f : Nat) : Nat := fld f 248 240
/-- Table 5-10, frame 16. -/
def acccnt (f : Nat) : Nat := fld f 239 230
/-- Table 5-10, frame 19. -/
def discard (f : Nat) : Nat := fld f 255 192
/-- Table 5-10, frame 19: entry PC of thread i. -/
def entrypc (f i : Nat) : Nat := fld f (137 + 18 * i) (120 + 18 * i)
/-- Table 5-10, frame 19: thread count. -/
def nthr (f : Nat) : Nat := fld f 119 118 + 1
/-- Table 5-10, frame 19. -/
def scown (f : Nat) : Nat := fld f 117 86
end MpF

/-! ### The stream control block (Table 5-6) -/

namespace Scb
/-- The dword of a control block at a byte offset. -/
def dword (w off : Nat) : Nat := fld w (8 * off + 63) (8 * off)
/-- Table 5-6. -/
def winid (w : Nat) : Nat := fld w 63 56
/-- Table 5-6. -/
def ownwait (w : Nat) : Bool := bit w 55
/-- Table 5-6. -/
def ownrel (w : Nat) : Bool := bit w 54
/-- Table 5-6: the control endpoint, as an endpoint number of the tile. -/
def ownin (w : Nat) : Nat := 32 + fld w 53 51
/-- Table 5-6: the control endpoint, as an endpoint number of the tile. -/
def ownout (w : Nat) : Nat := 32 + fld w 50 48
/-- Table 5-6. -/
def accop (w : Nat) : Nat := fld w 47 45
/-- Table 5-6. -/
def indmode (w : Nat) : Nat := fld w 44 43
/-- Table 5-6: bytes of an index. -/
def indBytes (w : Nat) : Nat := if bit w 42 then 8 else 4
/-- Table 5-6. -/
def ishift (w : Nat) : Nat := fld w 41 38
/-- Table 5-6. -/
def fmt (w : Nat) : Nat := fld w 37 34
/-- Table 5-6: the element width in bytes. -/
def ew (w : Nat) : Nat := 2 ^ fld w 33 32
/-- Table 5-6. -/
def flushen (w : Nat) : Bool := bit w 31
/-- Table 5-6. -/
def flushlv (w : Nat) : Nat := fld w 30 29
/-- Table 5-6. -/
def port (w : Nat) : Nat := fld w 28 27
/-- Table 5-6: true for a write stream. -/
def write (w : Nat) : Bool := bit w 26
/-- Table 5-6. -/
def ep (w : Nat) : Nat := fld w 25 21
/-- Table 5-6: the control endpoint, as an endpoint number of the tile. -/
def iep (w : Nat) : Nat := 32 + fld w 20 18
/-- Table 5-6. -/
def base (w : Nat) : Nat := dword w 0x08
/-- Table 5-6: iterations of level l. -/
def count (w l : Nat) : Nat := dword w (0x10 + 16 * l) % 2 ^ 32
/-- Table 5-6: stride of level l. -/
def stride (w l : Nat) : Int := sextN (dword w (0x18 + 16 * l)) 64
/-- Table 5-6. -/
def ibase (w : Nat) : Nat := dword w 0x50
/-- Table 5-6. -/
def ibound (w : Nat) : Nat := dword w 0x58
/-- Table 5-6. -/
def wbase (w : Nat) : Nat := dword w 0x60
/-- Table 5-6. -/
def wlen (w : Nat) : Nat := dword w 0x68
/-- Table 5-6. -/
def lbase (w : Nat) : Nat := dword w 0x70
/-- Table 5-6. -/
def cleat (w : Nat) : Word := wd (dword w 0x78)
/-- R151: a stream that runs until SSTOP. -/
def unbounded (w : Nat) : Bool := indmode w == 2 && count w 3 == 0
/-- R151: a stream with no element. -/
def empty (w : Nat) : Bool := [0, 1, 2].any (fun l => count w l == 0) || (count w 3 == 0 && !unbounded w)
end Scb

/-! ### The frames of a context -/

/-- The frame at an index of a context (Table 5-8); 0 where none is held. -/
def Ctx.frame (c : Ctx) (i : Nat) : Nat := (Assoc.getD c.frames i 0).toNat
/-- The frame of endpoint e, 0 to 31 data, 32 to 39 control. -/
def Ctx.epF (c : Ctx) (e : Nat) : Nat := c.frame (24 + e)
/-- The frame of node n. -/
def Ctx.ndF (c : Ctx) (n : Nat) : Nat := c.frame (64 + n)
/-- The frame of stream engine e. -/
def Ctx.enF (c : Ctx) (e : Nat) : Nat := c.frame (72 + e)
/-- Frame 16. -/
def Ctx.mpF (c : Ctx) : Nat := c.frame 16
/-- Frame 19. -/
def Ctx.thF (c : Ctx) : Nat := c.frame 19

/-- The numbers 0 to n - 1 for which p holds. -/
def pick (n : Nat) (p : Nat → Bool) : List Nat := (List.range n).filter p

end Sys2Proof.Machine
end

