-- ==== Sys2Proof/Machine/Acc48.lean ====
section
/-! DEFINITION. ACC48 and the drain conversions (spec/03_numbers.md, R73 to R80, R83, R474). -/

namespace Sys2Proof.Machine

/-- Table 3-4: an ACC48 slot. -/
structure Acc where
  ovf  : Bool
  ninf : Bool
  pinf : Bool
  nan  : Bool
  z    : Bool
  e    : Int
  s    : Int
  deriving DecidableEq, Repr

namespace Acc
/-- The zero slot. -/
def zero : Acc := { ovf := false, ninf := false, pinf := false, nan := false, z := false, e := 0, s := 0 }
/-- Table 3-4: a slot from its bits. -/
def ofWord (w : Word) : Acc :=
  let n := w.toNat
  { ovf := bit n 62, ninf := bit n 61, pinf := bit n 60, nan := bit n 59, z := bit n 58, e := (fld n 57 48 : Nat),
    s := sextN n 48 }
/-- Table 3-4: the bits of a slot. -/
def word (a : Acc) : Word :=
  wd ((if a.ovf then 2 ^ 62 else 0) + (if a.ninf then 2 ^ 61 else 0) + (if a.pinf then 2 ^ 60 else 0) +
    (if a.nan then 2 ^ 59 else 0) + (if a.z then 2 ^ 58 else 0) + (a.e % 1024).toNat * 2 ^ 48 +
    (a.s % (2 ^ 48 : Nat)).toNat)
/-- R76: whether a flag is set. -/
def flagged (a : Acc) : Bool := a.nan || a.pinf || a.ninf
/-- R75. -/
def norm (s e : Int) (z : Bool) : Acc :=
  if s = 0 then { zero with z := z } else
  let m := s.natAbs
  let l := Nat.log2 m
  let z' := z || (decide (46 < l) && m % 2 ^ (l - 46) != 0)
  let m' := if 46 ≤ l then m / 2 ^ (l - 46) else m * 2 ^ (46 - l)
  let e' := e + (l : Int) - 46
  if 1023 < e' then (if s < 0 then { zero with ninf := true } else { zero with pinf := true })
  else if e' < 0 then { zero with z := true }
  else { zero with s := if s < 0 then -(m' : Int) else m', e := e', z := z' }
/-- R76: the flags of two operands combined. -/
def combine (nan p n : Bool) : Acc :=
  if nan || (p && n) then { zero with nan := true }
  else if p then { zero with pinf := true }
  else if n then { zero with ninf := true }
  else zero
/-- R75, R76. -/
def add (a b : Acc) : Acc :=
  if a.flagged || b.flagged then combine (a.nan || b.nan) (a.pinf || b.pinf) (a.ninf || b.ninf) else
  let a' := norm a.s a.e a.z
  let b' := norm b.s b.e b.z
  if a'.flagged || b'.flagged then combine false (a'.pinf || b'.pinf) (a'.ninf || b'.ninf) else
  let hi := if a'.e < b'.e then b' else a'
  let lo := if a'.e < b'.e then a' else b'
  let k := (hi.e - lo.e).toNat
  let m := lo.s.natAbs
  let mb : Nat := if 48 ≤ k then 0 else m / 2 ^ k
  let lost := if 48 ≤ k then m != 0 else m % 2 ^ k != 0
  norm (hi.s + if lo.s < 0 then -(mb : Int) else mb) hi.e (hi.z || lo.z || lost)
/-- R77 step 2: an exact sum p * 2^q placed by truncation. -/
def place (p q : Int) : Acc :=
  if p = 0 then zero else
  let m := p.natAbs
  let l := Nat.log2 m
  let m' := if 46 ≤ l then m / 2 ^ (l - 46) else m * 2 ^ (46 - l)
  { zero with s := if p < 0 then -(m' : Int) else m', e := q + 511 + (l : Int),
              z := decide (46 < l) && m % 2 ^ (l - 46) != 0 }
/-- R77, R76: one cell's step over its products in floating mode. -/
def cellFloat (prods : List Val) (inc : Acc) : Acc :=
  let nan := prods.any Val.isNan
  let p := prods.any (fun v => v.isInf && !v.neg?)
  let n := prods.any (fun v => v.isInf && v.neg?)
  let q : Int := prods.foldl (fun m v => min m v.exp) 0
  let sum : Int := prods.foldl (fun m v => m + v.sig q) 0
  let placed := if nan || p || n then combine nan p n else place sum q
  add inc placed
/-- R78: integer addition modulo 2^48 with the sticky overflow. -/
def addInt (a : Acc) (x : Int) (ovf : Bool) : Acc :=
  let t := a.s + x
  let w := sextN (t % (2 ^ 48 : Nat)).toNat 48
  { a with s := w, ovf := a.ovf || ovf || decide (w ≠ t) }
/-- R79: the store's accumulate step in either mode. -/
def accumulate (int : Bool) (old col : Acc) : Acc :=
  if int then addInt { zero with s := old.s, ovf := old.ovf } col.s col.ovf else add old col
/-- R74: the value of a floating slot. -/
def value (a : Acc) : Val :=
  if a.nan then .nan else if a.pinf then .inf false else if a.ninf then .inf true
  else Val.ofSig a.s (a.e - 557) false
end Acc

/-- R340: the destination types of a drain. -/
def drainType (dfmt : Nat) : VType := match dfmt with | 0 => .f32 | 1 => .bf16 | 2 => .i32 | 3 => .i16 | _ => .i8

/-- R474: what a delivered element counts as. -/
inductive DrainEvent where
  | nothing | nan | saturated | inexact
  deriving DecidableEq, Repr

/-- R83: the scaled value of a slot. A zero slot whose scale is finite is +0. -/
def scaledSlot (int : Bool) (a : Acc) (scale : Val) : Val :=
  let v := if int then Val.ofInt a.s else a.value
  let finite := !scale.isNan && !scale.isInf
  if v.isZero && finite then .fin false 0 0 else Val.mul v scale

/-- R80, Table 3-5, R474: one slot drained. A slot whose scaled value is NaN is a NaN result even with OVF set (DEDUCED, A11). An
integer-mode slot with OVF set is the end of range that the sign of S gives, also where S is 0, for which R80 names +0 as well
(DESIGN CHOICE, A73). -/
def drainSlot (dfmt : Nat) (int : Bool) (a : Acc) (scale : Val) (fz : Bool) : Nat × DrainEvent :=
  let d := drainType dfmt
  let v := scaledSlot int a scale
  let z := !int && a.z && !v.isZero
  match d.fmt? with
  | some f =>
    match v with
    | .nan => (f.nanBits, .nan)
    | .inf n => (f.signBits n + f.infBits, .nothing)
    | .fin n m e =>
      let r := f.round n m e z .ne fz
      if r.flags.of_ then ((if dfmt = 1 then f.signBits n + f.maxBits else r.bits), .saturated)
      else (r.bits, if r.flags.nx then .inexact else .nothing)
  | none =>
    match v with
    | .nan => (0, .nan)
    | .inf n => (d.ofInt (if (if int && a.ovf then decide (a.s < 0) else n) then d.minInt else d.maxInt), .saturated)
    | .fin n m e =>
      if int && a.ovf then (d.ofInt (if a.s < 0 then d.minInt else d.maxInt), .saturated) else
      let r := valToInt d (.fin n m e) z .ne
      (r.bits, if r.flags.nv then .saturated else if r.flags.nx then .inexact else .nothing)

end Sys2Proof.Machine
end

