-- ==== Sys2Proof/Machine/Codec.lean ====
section
/-! DEFINITION. The FP64 block codec (spec/03_numbers.md, R89 to R93) on 16 lanes and a budget of b bits per value. -/

namespace Sys2Proof.Machine

/-- R91: bits 62:52 of a lane. -/
def expField (x : Nat) : Nat := fld x 62 52
/-- R91: a lane that is neither an infinity nor a NaN. -/
def laneFinite (x : Nat) : Bool := expField x != 0x7FF
/-- R89: the code of a lane: 0 finite, 1 +infinity, 2 -infinity, 3 NaN. -/
def laneCode (x : Nat) : Nat :=
  if laneFinite x then 0 else if fld x 51 0 ≠ 0 then 3 else if bit x 63 then 2 else 1
/-- R90, Table 3-7: planes that fit whole. -/
def codecCap (b : Nat) (f : Bool) : Nat := (16 * b - 34 - if f then 32 else 0) / 16

/-- R91: the header of an encode and whether truncation lost bits. -/
structure CodecInfo where
  f       : Bool
  emax    : Nat
  t       : Nat
  inexact : Bool
  deriving DecidableEq, Repr

/-- Floor of half. -/
def halfFloor (d : Int) : Int := d / 2

/-- R91: one lifting level: the low half and the details. -/
def liftPairs : List Int → List Int × List Int
  | a :: b :: r =>
    let (s, d) := liftPairs r
    ((b + halfFloor (a - b)) :: s, (a - b) :: d)
  | _ => ([], [])

/-- R91: the coefficients c[0..15]. -/
def liftForward (q : List Int) : List Int :=
  let (w1, d1) := liftPairs q
  let (w2, d2) := liftPairs w1
  let (w3, d3) := liftPairs w2
  let (w4, d4) := liftPairs w3
  w4 ++ d4 ++ d3 ++ d2 ++ d1

/-- R92: one inverse level. -/
def unliftPairs : List Int → List Int → List Int
  | w :: ws, d :: ds => let b := w - halfFloor d; (d + b) :: b :: unliftPairs ws ds
  | _, _ => []

/-- R92: the lanes in fixed point from c[0..15]. -/
def liftInverse (c : List Int) : List Int :=
  let w3 := unliftPairs (c.take 1) ((c.drop 1).take 1)
  let w2 := unliftPairs w3 ((c.drop 2).take 2)
  let w1 := unliftPairs w2 ((c.drop 4).take 4)
  unliftPairs w1 (c.drop 8)

/-- A row of 16 bits: bit i is set where `p` holds of element i. -/
def bitRow (c : List Int) (p : Int → Bool) : Nat :=
  match c with
  | [] => 0
  | x :: r => (if p x then 1 else 0) + 2 * bitRow r p

/-- R91: x[i] * 2^(1081 - Eb) truncated, and whether bits were lost. -/
def fixLane (eb x : Nat) : Int × Bool :=
  if laneFinite x then
    match Fmt.f64.decode false x with
    | .fin n m e =>
      let k : Int := e + 1081 - (eb : Int)
      let mag := if 0 ≤ k then m * 2 ^ k.toNat else m / 2 ^ (-k).toNat
      let lost := if 0 ≤ k then false else m % 2 ^ (-k).toNat != 0
      (if n then -(mag : Int) else mag, lost)
    | _ => (0, false)
  else (0, false)

/-- R91: codec_encode, as the stream's bits and its header. -/
def codecEncode (x : List Nat) (b : Nat) : Nat × CodecInfo :=
  let f := x.any (fun l => !laneFinite l)
  let emax := (x.filter laneFinite).foldl (fun m l => max m (expField l)) 0
  let eb := max emax 1
  let fixed := x.map (fixLane eb)
  let c := liftForward (fixed.map Prod.fst)
  let t := c.foldl (fun m v => max m (Nat.log2 v.natAbs)) 0
  let cap := codecCap b f
  let head := (if f then 1 else 0) + emax * 2 + t * 2 ^ 12
  let codes := if f then (x.foldr (fun l acc => laneCode l + 4 * acc) 0) else 0
  let p0 := if f then 50 else 18
  let signs := bitRow c (fun v => decide (v < 0))
  let n := min (t + 1) cap
  let planes := (List.range n).foldl (fun acc j =>
    acc + bitRow c (fun v => bit v.natAbs (t - j)) * 2 ^ (p0 + 16 + 16 * j)) 0
  let cut := if cap ≤ t then bitRow (c.take 14) (fun v => bit v.natAbs (t - cap)) * 2 ^ (p0 + 16 + 16 * cap) else 0
  (head + codes * 2 ^ 18 + signs * 2 ^ p0 + planes + cut,
   { f := f, emax := emax, t := t, inexact := fixed.any Prod.snd })

/-- R92: the bits of coefficient i that are present. -/
def codecMag (bits p0 cap t i : Nat) : Nat :=
  let n := min (t + 1) cap
  let whole := (List.range n).foldl (fun acc j =>
    acc + (if bit bits (p0 + 16 + 16 * j + i) then 2 ^ (t - j) else 0)) 0
  whole + (if cap ≤ t ∧ i < 14 ∧ bit bits (p0 + 16 + 16 * cap + i) then 2 ^ (t - cap) else 0)

/-- R92: codec_decode, and whether the header is one that codec_encode cannot produce. A negative lane that rounds to
zero is the -0 of round_ne (DEDUCED, A12). -/
def codecDecode (bits b : Nat) : List Nat × Bool :=
  let f := bit bits 0
  let emax := fld bits 11 1
  let t := fld bits 17 12
  if emax = 0x7FF ∨ 60 < t then (List.replicate 16 0x7FF8000000000000, true) else
  let eb := max emax 1
  let cap := codecCap b f
  let p0 := if f then 50 else 18
  let c := (List.range 16).map fun i =>
    let m : Int := codecMag bits p0 cap t i
    if bit bits (p0 + i) then -m else m
  let w := liftInverse c
  ((List.range 16).map fun i =>
    match (if f then fld bits (19 + 2 * i) (18 + 2 * i) else 0) with
    | 0 => (Fmt.f64.deliver (Val.ofSig (w.getD i 0) ((eb : Int) - 1081) false) false .ne false).bits
    | 1 => 0x7FF0000000000000
    | 2 => 0xFFF0000000000000
    | _ => 0x7FF8000000000000, false)

/-- R93: the bound exponent of a lossy encode. -/
def boundExp (b : Nat) (i : CodecInfo) : Option Int :=
  let cap := codecCap b i.f
  let eb : Int := max i.emax 1
  if cap ≤ i.t then some (eb - 1081 + (max (i.t - cap) 2 : Nat) + 6)
  else if i.inexact then some (eb - 1081)
  else none

/-- R93: the bound as FP64 bits; below 2^-1074 it counts as 2^-1074. -/
def boundBits (e : Int) : Nat :=
  if e < -1074 then 1 else (Fmt.f64.deliver (.fin false 1 e) false .ne false).bits

/-- Table 4-10, R124: the counter block (as one 512-bit number) after an encode. -/
def countEncode (old b : Nat) (i : CodecInfo) : Nat :=
  let inc (n lo : Nat) := setFld n lo 64 (fld n (lo + 63) lo + 1)
  let n1 := inc old 0
  let n2 := if i.f then inc n1 128 else n1
  match boundExp b i with
  | none => n2
  | some e =>
    let n3 := inc n2 64
    let n4 := if sextN (fld n3 255 192) 64 < e then setFld n3 192 64 (wi e).toNat else n3
    let sum := Val.add false (Fmt.f64.decode false (fld n4 319 256)) (Fmt.f64.decode false (boundBits e))
    setFld n4 256 64 (Fmt.f64.deliver sum false .ne false).bits

end Sys2Proof.Machine
end

