-- ==== Sys2Proof/Machine/Flags.lean ====
section
/-! DEFINITION. FPCTL (spec/03_numbers.md Table 3-2, R67 to R72) and every flag computation that reads or writes it. -/

namespace Sys2Proof.Machine

namespace Fpctl
/-- Table 3-2: the rounding mode of bits 1:0. -/
def rm (w : Word) : Rnd := match w.toNat % 4 with | 0 => .ne | 1 => .tz | 2 => .up | _ => .dn
/-- Table 3-2: flush subnormals to zero. -/
def fz (w : Word) : Bool := bit w.toNat 2
/-- Table 3-2: the first NaN produced raises FP_NAN. -/
def nanTrap (w : Word) : Bool := bit w.toNat 3
/-- Table 3-2: the writable fields, bits 9:5 and 3:0; the others are RSV. -/
def mask : Word := 0x3EF
end Fpctl

/-- Table 3-2: the sticky bits of a set of events. -/
def Flags.word (f : Flags) : Word :=
  wd ((if f.nv then 32 else 0) + (if f.dz then 64 else 0) + (if f.of_ then 128 else 0) + (if f.uf then 256 else 0) +
    (if f.nx then 512 else 0))

/-- R70, R255: FPCTL with the events of an instruction added. -/
def raiseFlags (fpctl : Word) (f : Flags) : Word := fpctl ||| f.word

/-- R255: the events of all the elements of an instruction. -/
def Flags.all (rs : List Res) : Flags := rs.foldl (fun a r => a.or r.flags) .none

/-- R198: the rounding mode of a rounding field, given FPCTL. -/
def roundMode (r : Nat) (fpctl : Word) : Rnd :=
  match r with | 0 => Fpctl.rm fpctl | 1 => .ne | 2 => .tz | 3 => .up | _ => .dn

/-- R72: TVAL of FP_NAN: logical tile, format codes of the two operands, and the element. -/
def nanTval (lx ly code1 code2 elem : Nat) : Word :=
  wd (lx * 2 ^ 56 + ly * 2 ^ 48 + code2 * 2 ^ 36 + code1 * 2 ^ 32 + elem)

end Sys2Proof.Machine
end

