-- ==== Sys2Proof/Machine/Base.lean ====
section
/-! DEFINITION. The one place where a part of the state is looked up or replaced: threads, tiles, contexts, endpoints,
nodes, engines, banks, homes, partitions, graphs; and the opening of a wave, which needs no memory (R53 to R55). -/

namespace Sys2Proof.Machine


/-- What an instruction comes to. -/
abbrev Out := Host.Outcome State Fault Refusal
namespace State
/-- The slot `i`, 4 * tile + slot. -/
def thread (s : State) (i : Nat) : Thread := Assoc.getD s.threads i .reset
/-- `s` with the slot `i` replaced. -/
def setThread (s : State) (i : Nat) (t : Thread) : State := { s with threads := Assoc.set s.threads i t }
/-- The slot whose instruction runs. -/
def me (s : State) : Thread := s.thread s.cur
/-- `s` with the running slot replaced. -/
def setMe (s : State) (t : Thread) : State := s.setThread s.cur t
/-- `s` with the running slot changed by `f`. -/
def mapMe (s : State) (f : Thread → Thread) : State := s.setMe (f s.me)
/-- `s` with the slot `i` changed by `f`. -/
def mapThread (s : State) (i : Nat) (f : Thread → Thread) : State := s.setThread i (f (s.thread i))
/-- A tile. -/
def tile (s : State) (i : Nat) : Tile := Assoc.getD s.tiles i .reset
/-- `s` with a tile replaced. -/
def setTile (s : State) (i : Nat) (t : Tile) : State := { s with tiles := Assoc.set s.tiles i t }
/-- `s` with a tile changed. -/
def mapTile (s : State) (i : Nat) (f : Tile → Tile) : State := s.setTile i (f (s.tile i))
/-- The tile of the running slot. -/
def myTile (s : State) : Nat := tileOf s.cur
/-- A home. -/
def home (s : State) (i : Nat) : Home := Assoc.getD s.homes i .reset
/-- `s` with a home changed. -/
def mapHome (s : State) (i : Nat) (f : Home → Home) : State := { s with homes := Assoc.set s.homes i (f (s.home i)) }
/-- A partition. -/
def part (s : State) (i : Nat) : Part := Assoc.getD s.parts i .reset
/-- `s` with a partition changed. -/
def mapPart (s : State) (i : Nat) (f : Part → Part) : State := { s with parts := Assoc.set s.parts i (f (s.part i)) }
/-- A graph by its key. -/
def graph (s : State) (k : Nat) : Graph := Assoc.getD s.graphs k .blank
/-- `s` with a graph changed. -/
def mapGraph (s : State) (k : Nat) (f : Graph → Graph) : State := { s with graphs := Assoc.set s.graphs k (f (s.graph k)) }
/-- A fabric port. -/
def port (s : State) (i : Nat) : Port := Assoc.getD s.ports i .reset
/-- `s` with a port changed. -/
def mapPort (s : State) (i : Nat) (f : Port → Port) : State := { s with ports := Assoc.set s.ports i (f (s.port i)) }
/-- A thermal zone. -/
def zone (s : State) (i : Nat) : Zone := Assoc.getD s.zones i .reset
/-- `s` with a zone changed. -/
def mapZone (s : State) (i : Nat) (f : Zone → Zone) : State := { s with zones := Assoc.set s.zones i (f (s.zone i)) }
/-- The state of a vault sector (R118), by global sector number, vault key / 32. -/
def sector (s : State) (k : Nat) : Sector := Assoc.getD s.sectors k .reset
/-- `s` with a sector's state replaced; the untouched state is not listed. -/
def setSector (s : State) (k : Nat) (x : Sector) : State :=
  { s with sectors := if x = .reset then Assoc.erase s.sectors k else Assoc.set s.sectors k x }
/-- R243: the time counter of a tile, as it stands in this cycle. (DESIGN CHOICE, A4) -/
def timeOf (s : State) (tile : Nat) : Word := s.cycle + wd (s.tile tile).skew
/-- `f` run with the slot `i` as the running slot. -/
def asThread (s : State) (i : Nat) (f : State → State) : State := { f { s with cur := i } with cur := s.cur }
/-- A fresh free value's number (DESIGN CHOICE, A6) taken. -/
def draw (s : State) : State := { s with drawn := s.drawn + 1 }
end State

namespace Tile
/-- A context of a tile. -/
def ctx (t : Tile) (k : Nat) : Ctx := t.ctxs.get ⟨k % 4, Nat.mod_lt _ (by decide)⟩
/-- `t` with a context replaced. -/
def setCtx (t : Tile) (k : Nat) (c : Ctx) : Tile := { t with ctxs := t.ctxs.set (k % 4) c (Nat.mod_lt _ (by decide)) }
/-- `t` with a context changed. -/
def mapCtx (t : Tile) (k : Nat) (f : Ctx → Ctx) : Tile := t.setCtx k (f (t.ctx k))
/-- A plane of a tile. -/
def plane (t : Tile) (k : Nat) : Plane := t.planes.get ⟨k % 4, Nat.mod_lt _ (by decide)⟩
/-- `t` with a plane changed. -/
def mapPlane (t : Tile) (k : Nat) (f : Plane → Plane) : Tile :=
  { t with planes := t.planes.set (k % 4) (f (t.plane k)) (Nat.mod_lt _ (by decide)) }
/-- An endpoint, 0 to 31 data and 32 to 39 control. -/
def ep (t : Tile) (e : Nat) : Endpoint := Assoc.getD t.eps e .empty
/-- `t` with an endpoint changed. -/
def mapEp (t : Tile) (e : Nat) (f : Endpoint → Endpoint) : Tile := { t with eps := Assoc.set t.eps e (f (t.ep e)) }
/-- A switch node. -/
def node (t : Tile) (n : Nat) : Node := Assoc.getD t.nodes n .empty
/-- `t` with a node changed. -/
def mapNode (t : Tile) (n : Nat) (f : Node → Node) : Tile := { t with nodes := Assoc.set t.nodes n (f (t.node n)) }
/-- A stream engine. -/
def engine (t : Tile) (e : Nat) : Engine := Assoc.getD t.engines e .idle
/-- `t` with a stream engine changed. -/
def mapEngine (t : Tile) (e : Nat) (f : Engine → Engine) : Tile :=
  { t with engines := Assoc.set t.engines e (f (t.engine e)) }
/-- A vault bank. -/
def bank (t : Tile) (b : Nat) : Bank := Assoc.getD t.banks b .reset
/-- `t` with a bank changed. -/
def mapBank (t : Tile) (b : Nat) (f : Bank → Bank) : Tile := { t with banks := Assoc.set t.banks b (f (t.bank b)) }
/-- A scale register. -/
def scale (t : Tile) (i : Nat) : BitVec 32 := t.sc.get ⟨i % 32, Nat.mod_lt _ (by decide)⟩
/-- A strand format entry. -/
def fmtEntry (t : Tile) (i : Nat) : Nat := (t.sfmt.get ⟨i % 32, Nat.mod_lt _ (by decide)⟩).toNat
/-- An accumulator slot. -/
def slot (t : Tile) (row col : Nat) : Word := Assoc.getD t.acc (16 * row + col) 0
/-- `t` with an accumulator slot replaced; a zero slot is not listed. -/
def setSlot (t : Tile) (row col : Nat) (w : Word) : Tile :=
  { t with acc := if w = 0 then Assoc.erase t.acc (16 * row + col) else Assoc.set t.acc (16 * row + col) w,
           accPoison := t.accPoison.filter (fun k => k != 16 * row + col), accBad := t.accBad.filter (fun k => k != 16 * row + col) }
end Tile

/-- The context that claims endpoint e of a tile, if any (R163: at most one). -/
def claimEp (t : Tile) (e : Nat) : Option Nat := (pick 4 (fun k => (t.ctx k).graph.isSome && EpF.used ((t.ctx k).epF e))).head?
/-- The context that claims node n of a tile, if any. -/
def claimNd (t : Tile) (n : Nat) : Option Nat := (pick 4 (fun k => (t.ctx k).graph.isSome && NdF.used ((t.ctx k).ndF n))).head?
/-- The context that claims stream engine e of a tile, if any. -/
def claimEn (t : Tile) (e : Nat) : Option Nat := (pick 4 (fun k => (t.ctx k).graph.isSome && EnF.used ((t.ctx k).enF e))).head?
/-- The frame of endpoint e of a tile in its claiming context; 0 where none claims it. -/
def epFrame (t : Tile) (e : Nat) : Nat := match claimEp t e with | some k => (t.ctx k).epF e | none => 0
/-- The frame of node n of a tile in its claiming context; 0 where none claims it. -/
def ndFrame (t : Tile) (n : Nat) : Nat := match claimNd t n with | some k => (t.ctx k).ndF n | none => 0
/-- Table 5-13: the endpoint of the tile that a node's input or output word names; a replicate node's input is a control endpoint. -/
def nodeEp (kind : Nat) (input : Bool) (w : Nat) : Nat := if input ∧ kind = 5 then 32 + w % 8 else w % 32
/-- Table 5-13: whether the word names another node. -/
def namesNode (w : Nat) : Bool := 32 ≤ w

/-- R135, R44: the node of the tile that output endpoint e feeds with no edge between them: a node of its context whose frame names the
endpoint itself as an input. (DEDUCED, A71) -/
def feedsNode (t : Tile) (e : Nat) : Option Nat :=
  match claimEp t e with
  | none => none
  | some k =>
    if !EpF.out ((t.ctx k).epF e) then none else
    (pick 8 (fun n =>
      let f := (t.ctx k).ndF n
      NdF.used f && (List.range (NdF.nin f)).any (fun j =>
        !namesNode (NdF.inp f j) && nodeEp (NdF.kind f) true (NdF.inp f j) == e))).head?

/-! ### The arbiters of tile memory (R101) -/

/-- R101: the banks that n bytes of tile memory from a local offset touch. -/
def banksOf (off n : Nat) : List Nat := pick 4 (fun b => decide (0 < n) && decide (off < 65536 * (b + 1)) && decide (65536 * b < off + n))

/-- R101: the arbiter of a bank. -/
def Tile.port (t : Tile) (b : Nat) : BankPort := Assoc.getD t.ports b {}

/-- `s` with the arbiters of some banks of a tile changed. -/
def State.mapPorts (s : State) (tile : Nat) (bs : List Nat) (f : BankPort → BankPort) : State :=
  if bs.isEmpty then s else
  s.mapTile tile (fun t => { t with ports := bs.foldl (fun m b => Assoc.set m b (f (Assoc.getD m b {}))) t.ports })

/-- R101: whether a bank of a tile is held against a requester in this cycle: by a row transfer, or by the grant of another. -/
def bankTaken (s : State) (tile who b : Nat) : Bool :=
  let p := (s.tile tile).port b
  let now := s.cycle.toNat
  decide (now < p.busy) || (p.till == now + 1 && p.last != who)

/-- R101: whether a requester's access to n bytes from a local offset waits for a grant. -/
def portHeld (s : State) (tile who off n : Nat) : Bool := (banksOf off n).any (bankTaken s tile who)

/-- R101: a requester has the banks of its access in this cycle. -/
def portUse (s : State) (tile who off n : Nat) : State :=
  let now := s.cycle.toNat
  s.mapPorts tile (banksOf off n) (fun p => { p with last := who, till := now + 1, idle := false })

/-- R101: a row transfer has its bank for four cycles. -/
def portRow (s : State) (tile off : Nat) : State :=
  s.mapPorts tile (banksOf off 3072) (fun p => { p with last := 11, till := s.cycle.toNat + 1, busy := s.cycle.toNat + Config.tTake, idle := false })

/-! ### Routes (R134, R453) -/

/-- R453: whether the route from one tile to another crosses a retired router, the ends included: along x first, or along y first. -/
def routeCrosses (s : State) (yFirst : Bool) (a b : Nat) : Bool :=
  let corner := if yFirst then tileAt (tileX a) (tileY b) else tileAt (tileX b) (tileY a)
  let within (t p q : Nat) : Bool :=
    decide (min (tileX p) (tileX q) ≤ tileX t) && decide (tileX t ≤ max (tileX p) (tileX q)) &&
    decide (min (tileY p) (tileY q) ≤ tileY t) && decide (tileY t ≤ max (tileY p) (tileY q))
  s.tiles.any (fun t => t.2.routerRetired && (within t.1 a corner || within t.1 corner b))

/-- R453: whether a strand edge's route, which runs along x first, crosses a retired router. -/
def routeDead (s : State) (a b : Nat) : Bool := routeCrosses s false a b

/-- R452, R453: whether line accesses from one tile to a home have no answer from it: its tile is retired, or both routes to it cross a
retired router. -/
def homeDead (s : State) (a home : Nat) : Bool :=
  (s.tile home).retired || (routeCrosses s false a home && routeCrosses s true a home)

/-- R14, R134: the tile after `a` on the way to `b`, along x first, and the cycles to it. -/
def nextHop (a b : Nat) : Nat × Nat :=
  let x := tileX a
  let y := tileY a
  let n := if x < tileX b then tileAt (x + 1) y else if tileX b < x then tileAt (x - 1) y
    else if y < tileY b then tileAt x (y + 1) else if tileY b < y then tileAt x (y - 1) else a
  (n, latency a n)

/-- R453: the tile after `a` on the way to `b` along y first. -/
def nextHopY (a b : Nat) : Nat :=
  if tileY a < tileY b then tileAt (tileX a) (tileY a + 1) else if tileY b < tileY a then tileAt (tileX a) (tileY a - 1) else (nextHop a b).1

/-- R452: whether a home answers no access at all: its tile, or its router, is retired. -/
def homeLost (s : State) (home : Nat) : Bool := (s.tile home).retired || (s.tile home).routerRetired

/-- R452: the last live router on the way from `a` to `b`, along x first, or along y first. -/
def lastLive (s : State) (yFirst : Bool) : Nat → Nat → Nat → Nat
  | 0, a, _ => a
  | n + 1, a, b =>
    let m := if yFirst then nextHopY a b else (nextHop a b).1
    if a = b || (s.tile m).routerRetired then a else lastLive s yFirst n m b

/-- R452, R453: the tile whose router answers for a home that does not. (DEDUCED, A100) -/
def answerTile (s : State) (a home : Nat) : Nat := lastLive s (routeCrosses s false a home) 158 a home

/-- The graph of the context that claims endpoint e. -/
def epGraph (t : Tile) (e : Nat) : Option Nat := (claimEp t e).bind (fun k => (t.ctx k).graph)

/-- The key of a graph, 65536 * partition + handle. -/
def graphKey (part handle : Nat) : Nat := 65536 * part + handle
/-- The partition of a graph key. -/
def graphPart (g : Nat) : Nat := g / 65536
/-- R371: whether a tile lies in a partition's rectangle. -/
def inPart (p : Part) (tile : Nat) : Bool :=
  let r := p.prect.toNat
  p.exists_ && decide (fld r 5 0 ≤ tileX tile) && decide (tileX tile < fld r 5 0 + fld r 22 16) &&
  decide (fld r 14 8 ≤ tileY tile) && decide (tileY tile < fld r 14 8 + fld r 30 24)
/-- The partition that holds a tile. -/
def partOfTile (s : State) (tile : Nat) : Option Nat := (pick 16 (fun p => inPart (s.part p) tile)).head?
/-- R30: the tiles of a graph's rectangle, as logical x, y and physical tile, in increasing logical y and x. -/
def graphTiles (g : Graph) : List (Nat × Nat × Nat) :=
  (List.range g.h).flatMap (fun y => (List.range g.w).map (fun x => (x, y, tileAt (g.x + x) (g.y + y))))
/-- R216: the physical context of a logical one. -/
def physCtx (g : Graph) (c : Nat) : Nat := (g.cmap.get ⟨c % 4, Nat.mod_lt _ (by decide)⟩).toNat
/-- Whether a graph holds its tiles and slots (Table 2-1). -/
def holdsTiles (g : Graph) : Bool := g.st == .loading || g.st == .running
/-- The slots that hold threads of a graph. -/
def graphThreads (s : State) (k : Nat) : List Nat :=
  (graphTiles (s.graph k)).flatMap (fun (_, _, t) => (pick 4 (fun j =>
    let th := s.thread (4 * t + j); th.graph == k && th.run != .free)).map (fun j => 4 * t + j))
/-- R365: the report thread of a graph, logical thread 0 of L(0, 0). -/
def reportThread (s : State) (k : Nat) : Option Nat :=
  (graphThreads s k).find? (fun i => let t := s.thread i; t.lx == 0 && t.ly == 0 && t.tno == 0)
/-- R396: only the graphs of a partition's active context run. -/
def isActive (s : State) (k : Nat) : Bool := (s.part (graphPart k)).active == (s.graph k).ctxi
/-- R383, R396, R397: whether a graph that holds tiles stands still: it is frozen, or its context is not active. -/
def graphStands (s : State) (k : Nat) : Bool := holdsTiles (s.graph k) && ((s.graph k).frozen || !isActive s k)
/-- R30, R383, R396: whether the elements of a graph fire at all. -/
def fabricRuns (s : State) (k : Nat) : Bool := (s.graph k).st == .running && !(s.graph k).frozen && isActive s k

/-- R451: whether the elements of a graph on a tile fire at all: the tile is in service. -/
def elementRuns (s : State) (tile k : Nat) : Bool := fabricRuns s k && !(s.tile tile).retired
/-- R451, R396: whether the engines of a slot's tile stand still for its graph. -/
def slotStands (s : State) (i : Nat) : Bool := graphStands s (s.thread i).graph || (s.tile (tileOf i)).retired

/-- R53: c precedes n modulo 2^16. -/
def precedes (c n : BitVec 16) : Bool := n - c != 0 && decide ((n - c).toNat < 2 ^ 15)

/-- R402: under a cut, an element that has passed its marker on passes nothing further. -/
def cutStops (s : State) (g : Nat) (mark : BitVec 16) : Bool := (s.graph g).cutting && (s.graph g).openWave == some mark

/-- R401: something of a graph has moved in this cycle. -/
def moved (s : State) (k : Nat) : State := s.mapGraph k (fun g => { g with hang := 0 })

/-- Table 17-2: contained mode. -/
def contained (g : Graph) : Bool := bit g.record.toNat (8 * 16 + 62)
/-- Table 17-2: dword i of a graph's launch record. -/
def recDword (g : Graph) (i : Nat) : Nat := fld g.record.toNat (64 * i + 63) (64 * i)

/-- Table 5-1, R127: a marker of wave n. -/
def markerBeat (n : BitVec 16) : Beat := { data := n.zeroExtend 256, pred := 0, kind := 1, tag := 0 }
/-- R127: an error beat. -/
def errorBeat (code first : Nat) : Beat := { data := .ofNat 256 (code + first * 2 ^ 32), pred := 0, kind := 2, tag := 0 }
/-- R127: an error token. -/
def errorToken (code : Nat) : Beat := { data := .ofNat 256 code, pred := 0, kind := 2, tag := 0 }
/-- Whether a beat is a marker. -/
def Beat.isMarker (b : Beat) : Bool := b.kind == 1

/-- The output endpoints of a thread: ATTACH 0, UNIT its slot (R349). -/
def threadOutputs (s : State) (i : Nat) : List Nat :=
  let t := s.tile (tileOf i)
  let c := t.ctx (s.thread i).pctx.toNat
  pick 40 (fun e => let f := c.epF e
    EpF.used f && EpF.out f && EpF.attach f == 0 && EpF.unit f == slotOf i)

/-- R52 step 4, R54: marker n behind every committed beat of every strand the thread produces. (DEDUCED, A43) -/
def emitMarkers (s : State) (i : Nat) (n : BitVec 16) : State :=
  s.mapTile (tileOf i) (fun t => (threadOutputs s i).foldl (fun t e =>
    t.mapEp e (fun p => { p with q := p.q ++ [markerBeat n] })) t)

/-- R59: the empty snapshot of wave n. -/
def Snap.start (n : BitVec 16) : Snap :=
  { wave := n, tiles := [], ckpts := [], eps := [], nodes := [], engines := [], ctxs := [], accs := [], runs := [], planes := [], regions := [], rects := [],
    late := [] }

/-- Table 2-5: what a thread's checkpoint holds, taken with the given PC. -/
def Ckpt.take (t : Thread) (pc : PC) (n : BitVec 16) : Ckpt :=
  { s := t.s, v := t.v, p := t.p, lc := t.lc, fifo := t.fifo, pc := pc, fpctl := t.fpctl, wave := n,
    halted := t.run == .halted, cmds := t.queues, tno := t.tno, limit := none, rcnt := t.rcnt }

/-- R34: the regions that the thread of slot i leads. -/
def ledBy (s : State) (i : Nat) : List Region :=
  s.regions.filter (fun r => r.graph == (s.thread i).graph && tileAt r.x r.y == tileOf i && r.pctx == slotOf i)

/-- The tiles whose plane of its own number the thread of slot i leads: those of its region, or its own outside any. (DESIGN CHOICE, A23) -/
def planeTiles (s : State) (i : Nat) : List Nat :=
  if (s.thread i).pctx.toNat ≠ slotOf i then []
  else match (ledBy s i).head? with
    | some r => (List.range r.h).flatMap (fun y => (List.range r.w).map (fun x => tileAt (r.x + x) (r.y + y)))
    | none => if s.regions.any (fun r => r.pctx == slotOf i && decide (r.x ≤ tileX (tileOf i)) && decide (tileX (tileOf i) < r.x + r.w) &&
        decide (r.y ≤ tileY (tileOf i)) && decide (tileY (tileOf i) < r.y + r.h)) then [] else [tileOf i]

/-- R53 to R55: wave n = last + 1 of a graph opens; a halted thread counts as checkpointed, with the regions and planes that it leads, and
its endpoints emit the marker; what is attached to a slot that runs no thread of the graph takes its snapshot. `dl`: the time at which a
forced wave's latency limit expires. -/
def openWave (s : State) (k : Nat) (dl : Option Nat) : State :=
  let g := s.graph k
  let n := g.lastWave + 1
  let halted := (graphThreads s k).filter (fun i => (s.thread i).run == .halted)
  let snap : Snap := { Snap.start n with
    ckpts := halted.map (fun i => (i, Ckpt.take (s.thread i) (s.thread i).pc n)),
    regions := halted.flatMap (ledBy s),
    planes := halted.foldl (fun m i => (planeTiles s i).foldl (fun m ti => Assoc.set m (4 * ti + slotOf i) ((s.tile ti).plane (slotOf i))) m) [] }
  let s0 := s.mapGraph k (fun g => { g with openWave := some n, deadline := dl, pending := some snap })
  let quiet := (graphTiles g).flatMap (fun (_, _, t) => (pick 4 (fun j =>
    let th := s.thread (4 * t + j)
    !(th.graph == k && th.run == .running))).map (fun j => Instr.markerArrival t 6 j))
  let s1 := { s0 with agenda := s0.agenda ++ quiet }
  halted.foldl (fun s i => emitMarkers (s.mapThread i (fun t => { t with wave := n })) i n) s1

end Sys2Proof.Machine
end

