-- ==== Sys2Proof/Machine/Records.lean ====
section
/-! DEFINITION. The page-table walk (spec/20_translation.md), the device's own reads and writes of global memory (R476),
and error records (spec/21_errors_containment.md, R442 to R445). -/

namespace Sys2Proof.Machine

/-- R116: the key of a vault byte. -/
def vaultKey (tile off : Nat) : Nat := 2 ^ 28 * tile + off
/-- The key of a tile-memory byte. -/
def tmemKey (tile off : Nat) : Nat := 2 ^ 18 * tile + off

/-! ### What an access does to its bytes (R294, R301) -/

/-- Table 10-3: width in bytes of an operation code. -/
def amoWidth (op : Nat) : Nat :=
  if op = 20 then 2 else if op = 18 ∨ op = 21 ∨ op = 22 ∨ op = 23 then 8 else if op = 19 ∨ op = 24 then 4
  else if op % 2 = 0 then 8 else 4

/-- Table 10-3: the floating forms' result: canonical NaN for any NaN, else the value rounded to nearest. -/
def amoFloat (f : Fmt) (v : Val) : Nat := (f.deliver v false .ne false).bits

/-- Table 10-3: the new value of a location for codes 0 to 22 (old and b are the low 8w bits); codes 23 and 24 take the
compare value in `cmp`. -/
def amoNew (op old b cmp : Nat) : Nat :=
  let w := 8 * amoWidth op
  let si (x : Nat) : Int := sextN x w
  match op with
  | 0 | 1 => (old + b) % 2 ^ w
  | 2 | 3 => if si b < si old then b else old
  | 4 | 5 => if si old < si b then b else old
  | 6 | 7 => min old b
  | 8 | 9 => max old b
  | 10 | 11 => Nat.land old b
  | 12 | 13 => Nat.lor old b
  | 14 | 15 => Nat.xor old b
  | 16 | 17 => b
  | 18 => amoFloat .f64 (Val.add false (Fmt.f64.decode false old) (Fmt.f64.decode false b))
  | 19 => amoFloat .f32 (Val.add false (Fmt.f32.decode false old) (Fmt.f32.decode false b))
  | 20 => amoFloat .bf16 (Val.add false (Fmt.bf16.decode false old) (Fmt.bf16.decode false b))
  | 21 => amoFloat .f64 (Val.minV (Fmt.f64.decode false old) (Fmt.f64.decode false b))
  | 22 => amoFloat .f64 (Val.maxV (Fmt.f64.decode false old) (Fmt.f64.decode false b))
  | _ => if old = cmp then b else old

/-- Table 10-3 on bytes. -/
def amoBytes (op : Nat) (b cmp : Word) (old : List Byte) : List Byte :=
  let w := amoWidth op
  leBytes w (amoNew op (leNat old) (b.toNat % 2 ^ (8 * w)) (cmp.toNat % 2 ^ (8 * w)))

/-- R301: cleat_rmw on the 128 bits of a cleat (Table 10-4). -/
def cleatRmw (c : Nat) (dbytes : Int) (darv : Nat) : Nat :=
  if bit c 127 then c else
  let nb := sextN (fld c 63 0) 64 + dbytes
  let na : Int := (fld c 79 64 : Nat) - (darv : Int)
  if na < 0 ∨ (2 ^ 47 : Nat) ≤ nb.natAbs then c + 2 ^ 127
  else if nb = 0 ∧ na = 0 then
    setFld (setFld (setFld c 96 31 (fld c 126 96 + 1)) 64 16 (fld c 95 80)) 0 64 0
  else setFld (setFld c 64 16 na.toNat) 0 64 (wi nb).toNat

/-- R301, R302: a cleat update on its 16 bytes. -/
def cleatBytes (u : CleatUpd) (old : List Byte) : List Byte :=
  leBytes 16 (match u with
    | .init n => (n % 65536) * 2 ^ 80 + (n % 65536) * 2 ^ 64
    | .rmw d k => cleatRmw (leNat old) d k)

/-- Where a global byte lives. -/
inductive Place where
  | vault (key : Nat)
  | host (addr : Nat)
  /-- A codec block: its leaf entry, the key of its frame block, and the byte within the block. -/
  | codec (e frame byte : Nat)
  deriving DecidableEq, Repr

/-- R116, R119, R427, R430: the place of a virtual address under a leaf. -/
def placeOf (e : Nat) (large : Bool) (va : Nat) : Place :=
  let o := va % (if large then 2 ^ 26 else 2 ^ 16)
  if Pte.host e then .host (Pte.hostAddr e + o)
  else if Pte.codec e then .codec e (vaultKey (Pte.tile e) (Pte.off e + 32 * Pte.budget e * (o / 128))) (o % 128)
  else .vault (vaultKey (Pte.tile e) (Pte.off e + o))

/-- R24: the virtual part of a global address. -/
def vaOf (ea : Word) : Nat := ea.toNat % 2 ^ 56
/-- R24: the allocation tag of a global address. -/
def tagOf (ea : Word) : Nat := fld ea.toNat 59 56
/-- R24: the space of an address. -/
def spaceOf (ea : Word) : Nat := fld ea.toNat 63 60

/-! ### Accepted accesses that are not yet performed (R171) -/

/-- The bytes that an access names. -/
def HomeAct.size : HomeAct → Nat
  | .store bytes _ => bytes.length
  | .amo op _ => amoWidth op
  | .cleat _ => 16
  | .tagset _ _ => 0
  | .tagclr _ => 0

/-- The bytes that an access leaves in the place of `old`. -/
def HomeAct.bytes (x : HomeAct) (old : List Byte) : List Byte :=
  match x with
  | .store bs _ => bs
  | .amo op b => amoBytes op b 0 old
  | .cleat u => cleatBytes u old
  | .tagset _ _ => old
  | .tagclr _ => old

/-- The vault byte that an accepted access names first, if it names a vault. -/
def HomeOp.key? (o : HomeOp) : Option Nat :=
  match placeOf o.leaf.toNat o.large (vaOf o.ea) with
  | .vault k => some k
  | _ => none

/-- The 64 bytes of a line after one accepted access to it, unless its tag refuses it. -/
def HomeOp.onto (s : State) (line : Nat) (bs : List Byte) (o : HomeOp) : List Byte :=
  match o.key? with
  | some k =>
    let i := k % 64
    if k / 64 = line ∧ (Pte.ts o.leaf.toNat ∨ (s.sector (k / 32)).tag.toNat = tagOf o.ea) then
      bs.take i ++ o.act.bytes ((bs.drop i).take o.act.size) ++ bs.drop (i + o.act.size)
    else bs
  | none => bs

/-- Whether a home has accepted an access to a vault line and not yet performed it. -/
def lineAwaits (s : State) (line : Nat) : Bool := s.homeQ.any (fun o => o.key?.any (fun k => k / 64 == line))

/-- R171: n bytes of one vault line as an access accepted now finds them. -/
def bytesNow (s : State) (key n : Nat) : List Byte :=
  if lineAwaits s (key / 64) then
    (((s.homeQ.foldl (HomeOp.onto s (key / 64)) (Memory.readBytes s.vault (key / 64 * 64) 64)).drop (key % 64)).take n)
  else Memory.readBytes s.vault key n

/-! ### The walk -/

/-- R427: what a walk ends in. -/
inductive Walk where
  | ok (e : Nat) (large : Bool)
  | page (level : Nat)
  | malformed (level e : Nat)
  | poison (level sector : Nat)
  deriving DecidableEq, Repr

/-- R118: a sector whose read is classed as poisoned under every tag. (DESIGN CHOICE, A68) -/
def Sector.bad (x : Sector) : Bool := x.cond == .poisoned || x.cond == .uncorrectable || x.cond == .misdirected

/-- R118, Table 4-9: a sector whose read under a tag is classed as poisoned; one corrected bit does not explain another tag. -/
def Sector.lost (x : Sector) (tag : Nat) : Bool := x.bad || (x.cond == .oneBit && x.tag.toNat != tag)

/-- R427: an entry that is malformed at level l. Frame bits below the page's alignment are among the bits that Table 20-1
fixes (DEDUCED, A13). -/
def malformedEntry (p : Part) (e l : Nat) : Bool :=
  let host := Pte.host e
  let size := if l = 3 then 2 ^ 26 else 2 ^ 16
  (if host && Pte.leaf e then fld e 7 0 != 0 else fld e 34 28 != 0 || fld e 7 0 != 0) ||
  (Pte.leaf e && decide (l ≤ 2)) || (!Pte.leaf e && l == 4) ||
  (Pte.codec e && Pte.budget e == 0) || (!Pte.codec e && (Pte.budget e != 0 || Pte.cidx e != 0)) ||
  (host && (!Pte.leaf e || Pte.codec e || Pte.ts e || fld e 15 13 != 0)) ||
  (!host && !inPart p (Pte.tile e)) ||
  (!host && Pte.leaf e && (Pte.off e % size != 0 ||
    decide (fld p.bankmap.toNat 4 0 < (Pte.off e + size - 1) / (6 * 2 ^ 20))))

/-- R427: the walk from an entry over the levels that remain. -/
def walkFrom (s : State) (p : Part) (va : Nat) : List Nat → Nat → Walk
  | [], _ => .page 4
  | l :: ls, e =>
    let key := vaultKey (Pte.tile e) (Pte.off e + 8 * fld va (65 - 10 * l) (56 - 10 * l))
    let sec := s.sector (key / 32)
    let d := leNat (bytesNow s key 8)
    if sec.lost 0 || homeLost s (Pte.tile e) then .poison l (key / 32)
    else if sec.tag != 0 then .malformed l d
    else if !Pte.v d then .page l
    else if malformedEntry p d l then .malformed l d
    else if Pte.leaf d then .ok d (l == 3)
    else walkFrom s p va ls d

/-- R427: the walk of a partition's tables for a virtual address. (DEDUCED, A13) -/
def walk (s : State) (part va : Nat) : Walk := walkFrom s (s.part part) va [1, 2, 3, 4] (s.part part).ptroot.toNat

/-- R427: the sectors that a walk reads, in order. -/
def walkSectors (s : State) (p : Part) (va : Nat) : List Nat → Nat → List Nat
  | [], _ => []
  | l :: ls, e =>
    let key := vaultKey (Pte.tile e) (Pte.off e + 8 * fld va (65 - 10 * l) (56 - 10 * l))
    let sec := s.sector (key / 32)
    let d := leNat (bytesNow s key 8)
    if homeLost s (Pte.tile e) then []
    else if sec.lost 0 || sec.tag != 0 || !Pte.v d || malformedEntry p d l || Pte.leaf d then [key / 32]
    else key / 32 :: walkSectors s p va ls d

/-- R427: the sectors of the walk of a partition's tables for a virtual address. -/
def walked (s : State) (part va : Nat) : List Nat := walkSectors s (s.part part) va [1, 2, 3, 4] (s.part part).ptroot.toNat

/-- R427: the leaves that stand below an entry over the levels that remain, each with whether it maps a large page. -/
def leavesFrom (s : State) (p : Part) : List Nat → Nat → List (Nat × Bool)
  | [], _ => []
  | l :: ls, e => (List.range 1024).flatMap (fun i =>
    let d := leNat (bytesNow s (vaultKey (Pte.tile e) (Pte.off e + 8 * i)) 8)
    if !Pte.v d || malformedEntry p d l then [] else if Pte.leaf d then [(d, l == 3)] else leavesFrom s p ls d)

/-- R116, R119: the first byte and the length of the frame that a leaf maps. -/
def leafSpan (e : Nat) (large : Bool) : Nat × Nat :=
  let n := if large then 2 ^ 26 else 2 ^ 16
  (vaultKey (Pte.tile e) (Pte.off e), if Pte.codec e then 32 * Pte.budget e * (n / 128) else n)

/-- R115: whether a vault row backs global memory: a leaf of the partition's table maps a frame with a byte of the row. (DEDUCED, A91) -/
def rowBacks (s : State) (part key : Nat) : Bool :=
  (leavesFrom s (s.part part) [1, 2, 3, 4] (s.part part).ptroot.toNat).any (fun x =>
    let f := leafSpan x.1 x.2
    !Pte.host x.1 && decide (f.1 < key + 3072) && decide (key < f.1 + f.2))

/-- R442: what an error record names. -/
structure Rec where
  cls    : Nat
  /-- The graph, if the event belongs to one. -/
  graph  : Option Nat
  tile   : Nat
  /-- Table 21-1, UKIND; 7 none. -/
  ukind  : Nat
  unit   : Nat
  slot   : Nat
  ctx    : Nat
  synd   : Nat
  addr   : Word
  detail : Word
  deriving DecidableEq, Repr

/-- A record that names no unit. -/
def Rec.plain (cls tile : Nat) (graph : Option Nat) (synd : Nat) (addr detail : Word) : Rec :=
  { cls := cls, graph := graph, tile := tile, ukind := 7, unit := 0, slot := 0, ctx := 0, synd := synd, addr := addr,
    detail := detail }

/-- R444: the bight-start PC that slot j of a tile gives, if it holds a thread of the graph. -/
def bightPc (s : State) (tile j : Nat) (g : Option Nat) : Option Nat :=
  let t := s.thread (4 * tile + j)
  if g == some t.graph && t.run != .free then
    some (if t.run == .halted then t.pc.toNat else match t.susp with | some b => b.start.toNat | none => t.bight.start.toNat)
  else none

/-- Table 21-1: the eight dwords of a record of partition `part`. -/
def recordDwords (s : State) (part : Nat) (r : Rec) : List Nat :=
  let g := match r.graph with | some k => s.graph k | none => .blank
  let lv := if r.graph.isSome then 1 else 0
  let lx := if r.graph.isSome then tileX r.tile - g.x else 0
  let ly := if r.graph.isSome then tileY r.tile - g.y else 0
  let bpc (j : Nat) : Nat := (bightPc s r.tile j r.graph).getD 0
  let bv (j : Nat) : Nat := if (bightPc s r.tile j r.graph).isSome then 2 ^ j else 0
  let wave := match g.openWave with | some n => n.toNat | none => g.lastWave.toNat
  [ (s.timeOf r.tile).toNat,
    lv * g.gen.toNat * 2 ^ 32 + lv * g.handle.toNat * 2 ^ 16 + part * 2 ^ 12 + r.cls,
    lv * 2 ^ 63 + tileY r.tile * 2 ^ 40 + tileX r.tile * 2 ^ 32 + r.unit * 2 ^ 27 + r.ukind * 2 ^ 24 + r.slot * 2 ^ 18 +
      r.ctx * 2 ^ 16 + ly * 2 ^ 8 + lx,
    lv * g.lastWave.toNat * 2 ^ 48 + lv * wave * 2 ^ 32 + r.synd,
    r.addr.toNat,
    bpc 2 * 2 ^ 36 + bpc 1 * 2 ^ 18 + bpc 0,
    (bv 0 + bv 1 + bv 2 + bv 3) * 2 ^ 18 + bpc 3,
    r.detail.toNat ]

/-- R112: whether a row command holds open another row of the bank in which a vault byte stands. -/
def bankHeld (s : State) (key : Nat) : Bool :=
  let off := key % 2 ^ 28
  let b := (s.tile (key / 2 ^ 28)).bank (off / (6 * 2 ^ 20))
  (b.row.or b.forced).any (fun r => r.1 != off % (6 * 2 ^ 20) / 3072)

/-- R112, R113: a home that accesses a row of a bank in which no row is open opens it with a background activate, and closes it after the
access, within 96 cycles; it keeps none open behind an access for which a ROWACT would wait on. -/
def homeRow (s : State) (key : Nat) : State :=
  let bank := key % 2 ^ 28 / (6 * 2 ^ 20)
  if ((s.tile (key / 2 ^ 28)).bank bank).row.isSome then s else
  let now := s.cycle.toNat
  s.mapTile (key / 2 ^ 28) (fun t => t.mapBank bank (fun b =>
    { b with bgSince := some (b.bgSince.getD now),
             homeTill := if now < b.homeTill || now < b.actAsked then b.homeTill else now + Config.homeHolds now % 97 }))

/-- R430, R417: bytes of host memory as the bridge's home has them, the writes that it holds among them. (DEDUCED, A101) -/
def hostBytes (s : State) (addr n : Nat) : List Byte :=
  s.bridge.foldl (fun bs x => if addr ≤ x.2.2.1 then bs.set (x.2.2.1 - addr) x.2.2.2 else bs) (Memory.readBytes s.host addr n)

/-- R430, R171: bytes of host memory written by the bridge at once: they stand after every write that it holds. (DEDUCED, A101) -/
def hostPut (s : State) (addr : Nat) (bytes : List Byte) : State :=
  { s with host := Memory.writeBytes s.host addr bytes,
           bridge := s.bridge.filter (fun x => !(decide (addr ≤ x.2.2.1) && decide (x.2.2.1 < addr + bytes.length))) }

/-- R448: a write into one sector of a vault: whole, it clears poison under the writer's tag; narrower, it keeps it. -/
def touchSector (s : State) (sec tag : Nat) (whole setTag : Bool) : State :=
  let x := s.sector sec
  if whole then s.setSector sec { tag := .ofNat 4 tag, cond := .clean }
  else if x.bad then s.setSector sec { x with cond := .poisoned }
  else if setTag then s.setSector sec { tag := .ofNat 4 tag, cond := .clean }
  else s.setSector sec { x with cond := .clean }

/-! ### The device's own accesses (R476) -/

/-- R449, R446, R113: the sectors that one read by the device itself finds damaged are rewritten, or poisoned, and counted in the device's
turn of the cycle, and its rows are opened then. (DESIGN CHOICE, A85) -/
def noteSectors (s : State) (tag : Nat) (ks : List Nat) : State :=
  let bad := ks.filter (fun k => let x := s.sector k
    x.cond != .clean && x.cond != .poisoned && !s.noted.any (fun n => n.bad.any (fun y => y.1 == k)))
  if ks.isEmpty then s else
  { s with noted := s.noted ++ [{ tag := tag, bad := bad.map (fun k => (k, s.sector k)), rows := ks.map (fun k => 32 * k) }] }

/-- R428, R113: the sectors of a walk as the device itself reads them. -/
def noteWalk (s : State) (part : Nat) (ea : Word) : State := (walked s part (vaOf ea)).foldl (fun s k => noteSectors s 0 [k]) s

/-- The sectors of n bytes from a vault key. -/
def sectorsOf (key n : Nat) : List Nat := (List.range ((key % 32 + n + 31) / 32)).map (fun i => key / 32 + i)

/-- R476: a read by the device itself: nothing where it meets a fault, PROT, a tag mismatch, poison or a codec page. (DEDUCED, A51) -/
def sysRead (s : State) (part : Nat) (ea : Word) (n : Nat) : Option (List Byte) :=
  if spaceOf ea ≠ 0 then none else
  match walk s part (vaOf ea) with
  | .ok e large =>
    match placeOf e large (vaOf ea) with
    | .vault key =>
      if (sectorsOf key n).all (fun k => !(s.sector k).lost (tagOf ea) && (s.sector k).tag.toNat == tagOf ea) && !homeLost s (Pte.tile e)
      then some (bytesNow s key n) else none
    | .host a => some (hostBytes s a n)
    | .codec _ _ _ => none
  | _ => none

/-- R476, R448: a line of a vault written by the device itself at once. -/
def putLine (s : State) (key tag : Nat) (bytes : List Byte) : State :=
  let n := bytes.length
  let whole (k : Nat) : Bool := decide (key ≤ 32 * k) && decide (32 * k + 32 ≤ key + n)
  (sectorsOf key n).foldl (fun s k => touchSector s k tag (whole k) false)
    { s with vault := Memory.writeBytes s.vault key bytes, noted := s.noted ++ [{ tag := tag, bad := [], rows := [key] }] }

/-- R476, R171, R112: a write by the device itself within one line: the cause that refuses it (0 none), and the state. Behind an accepted
access to its line, or where its bank is held open on another row, it is accepted, and its home performs it in its place. -/
def sysWrite (s0 : State) (part : Nat) (ea : Word) (bytes : List Byte) : Nat × State :=
  if spaceOf ea ≠ 0 then (3, s0) else
  let s := noteWalk s0 part ea
  match walk s part (vaOf ea) with
  | .page _ => (5, s)
  | .malformed _ _ => (6, s)
  | .poison _ _ => (8, s)
  | .ok e large =>
    if !Pte.w e then (6, s) else
    match placeOf e large (vaOf ea) with
    | .codec _ _ _ => (0x16, s)
    | .host a => (0, hostPut s a bytes)
    | .vault key =>
      let n := bytes.length
      let secs := sectorsOf key n
      let part_ (k : Nat) : Bool := !(decide (key ≤ 32 * k) && decide (32 * k + 32 ≤ key + n))
      if homeLost s (Pte.tile e) then (8, s)
      else
        let s1 := noteSectors s (tagOf ea) (secs.filter part_)
        if secs.any (fun k => !(s.sector k).lost (tagOf ea) && (s.sector k).tag.toNat != tagOf ea) then (7, s1)
        else if secs.any (fun k => (s.sector k).lost (tagOf ea) && part_ k) then (8, s1)
        else if lineAwaits s (key / 64) || bankHeld s key then
          (0, { s1 with
                homeQ := s1.homeQ ++ [{ part := part, ea := ea, leaf := wd e, large := large, act := .store bytes false, th := 4 * 6144,
                                        graph := graphKey 16 0, epoch := 0, acq := false, hold := none, hw := true }] })
        else (0, putLine s1 key (tagOf ea) bytes)

/-- R442, R370, R476: one record enters the partition's ring, or is lost. -/
def logRecord (s : State) (part : Nat) (r : Rec) : State :=
  let p := s.part part
  let size := 2 ^ (p.errsize.toNat % 32)
  let lose (s : State) : State :=
    s.mapPart part (fun p => { p with errlost := if p.errlost = BitVec.allOnes 64 then p.errlost else p.errlost + 1 })
  if (p.errhead - p.errtail).toNat = size then lose s else
  let ea := p.errbase + wd (64 * (p.errhead.toNat % size))
  match sysWrite s part ea ((recordDwords s part r).flatMap (leBytes 8)) with
  | (0, s') => s'.mapPart part (fun p => { p with errhead := p.errhead + 1 })
  | (_, s') => lose s'

/-- R442: an event at a tile goes to the ring of the partition that holds the tile; elsewhere only the management core
keeps it. -/
def record (s : State) (r : Rec) : State :=
  match partOfTile s r.tile with
  | some p => logRecord s p r
  | none => s

/-- R427, R452: the records of an access by the device itself: of a malformed entry, and of a home on a retired tile; `kind` 0 a read,
1 a write. -/
def deviceFault (s : State) (part tile kind : Nat) (ea : Word) : State :=
  let dead (s : State) : State := logRecord s part (Rec.plain 0x0A tile none kind ea 0)
  if spaceOf ea ≠ 0 then s else
  match walk s part (vaOf ea) with
  | .malformed l e => logRecord s part (Rec.plain 0x0F tile none l (wd (vaOf ea)) (wd e))
  | .poison _ k => if (s.sector k).lost 0 then s else dead s
  | .page _ => s
  | .ok e _ => if !Pte.host e && homeLost s (Pte.tile e) then dead s else s

/-- R476: a device write that is dropped with a record of class 0x15 where it meets a fault. -/
def sysWriteOrDrop (s : State) (part tile kind : Nat) (ea : Word) (bytes : List Byte) : State :=
  match sysWrite s part ea bytes with
  | (0, s') => s'
  | (c, s') => logRecord (deviceFault s' part tile 1 ea) part (Rec.plain 0x15 tile none (kind + 256 * c) ea 0)

/-- R428, R449: what a read by the device itself does to the sectors that it reads. -/
def noteRead (s : State) (part : Nat) (ea : Word) (n : Nat) : State :=
  if spaceOf ea ≠ 0 then s else
  let s1 := noteWalk s part ea
  match walk s part (vaOf ea) with
  | .ok e large => (match placeOf e large (vaOf ea) with
    | .vault key => if homeLost s (Pte.tile e) then s1 else noteSectors s1 (tagOf ea) (sectorsOf key n)
    | _ => s1)
  | _ => s1

/-- R428, R449, R427: a read by the device itself with what it does to the sectors it reads, and its records. -/
def sysFetch (s : State) (part tile : Nat) (ea : Word) (n : Nat) : State × Option (List Byte) :=
  if spaceOf ea ≠ 0 then (s, none) else (deviceFault (noteRead s part ea n) part tile 0 ea, sysRead s part ea n)

/-- R395, Table 17-4: the dword at an offset of a partition's context list, as the dispatcher last read it. -/
def ctxListDword (s : State) (part off : Nat) : Nat :=
  let p := s.part part
  if off < 0x80 then fld p.header.toNat (8 * off + 63) (8 * off)
  else fld (Assoc.getD p.entries ((off - 0x80) / 16) 0).toNat (8 * (off % 16) + 63) (8 * (off % 16))

/-- R469, R470: the clock edges swallowed in every 8. -/
def swallowed (s : State) : Nat := min 4 (s.mod.stretch + s.mod.limited)
/-- R470: a time in microseconds on the reference clock. -/
def usTicks (us : Nat) : Nat := us * Config.cyclesPerUs * 840
/-- R470: the time that one cycle takes on the reference clock: of 8 clock edges those that are not swallowed begin a cycle. -/
def cycleTicks (s : State) : Nat := 840 * 8 / (8 - swallowed s)

/-- R55, Table 17-4: the pre-emption latency limit of a graph, on the reference clock. (DESIGN CHOICE, A54) -/
def latencyLimit (s : State) (k : Nat) : Nat :=
  let e := ctxListDword s (graphPart k) (0x80 + 16 * (s.graph k).ctxi)
  let us := fld e 31 16
  usTicks (if us = 0 then 1 else us)

/-- R55: a forced wave of a graph opens, with the latency limit from now. R383: the limit does not run while the graph is frozen, so
that it stands as counted from the FREEZE. -/
def openForced (s : State) (k : Nat) : State :=
  let g := s.graph k
  openWave s k (some ((if g.frozen then g.frozenAt else s.mod.ref) + latencyLimit s k))

end Sys2Proof.Machine
end

