-- ==== Sys2Proof/Machine/Home.lean ====
section
/-! DEFINITION. Homes: translation with its caches (R425 to R431), tagged ECC (R118, R448, R449), the undo log (R413 to
R415), the codec cache (R119 to R124), and the performing of every access to global and tile memory (R117, R171). -/

namespace Sys2Proof.Machine

/-- Who makes an access (R169), with the level and epoch it carries (R363, R414). -/
structure Ag where
  tile  : Nat
  /-- The stream engine whose translation cache serves it (R431); none: the tile's sequencer's. -/
  eng   : Option Nat
  part  : Nat
  lvl   : Bool
  graph : Nat
  epoch : BitVec 16
  th    : Nat
  /-- R53, R181: the access belongs to an epoch that its graph's last complete wave has closed. -/
  settled : Bool := false
  /-- R101: its port at the banks of its tile: 0 the sequencer, 1 to 8 a stream engine, 9 the copy engine, 10 the drain unit, 11 the row
  engine. -/
  port  : Nat := 0
  deriving DecidableEq, Repr

/-- The agent that the slot `i` is. -/
def agOf (s : State) (i : Nat) : Ag :=
  let t := s.thread i
  { tile := tileOf i, eng := none, part := graphPart t.graph, lvl := t.lvl, graph := t.graph, epoch := t.wave, th := i }

/-! ### Translation -/

/-- R431: whether a cached entry maps an address. -/
def tlbHit (part va : Nat) (e : TlbEntry) : Bool :=
  e.part == part && e.page == va / (if e.large then 2 ^ 26 else 2 ^ 16)

/-- R431: the first-level cache an agent uses. -/
def tlb1 (s : State) (a : Ag) : List TlbEntry :=
  match a.eng with | none => (s.tile a.tile).tlb | some e => ((s.tile a.tile).engine e).tlb

/-- R431: an agent's first-level cache replaced. -/
def setTlb1 (s : State) (a : Ag) (l : List TlbEntry) : State :=
  s.mapTile a.tile (fun t => match a.eng with
    | none => { t with tlb := l }
    | some e => t.mapEngine e (fun x => { x with tlb := l }))

/-- R431: an entry used or filled, most recent first, the least recently used replaced. (DESIGN CHOICE, A20) -/
def tlbUse (n : Nat) (x : TlbEntry) (l : List TlbEntry) : List TlbEntry := (x :: l.filter (fun y => y != x)).take n

/-- R427: the checks a leaf makes on an access: 0, or PROT. -/
def leafCheck (e : Nat) (write lvl : Bool) : Nat :=
  if write && !Pte.w e then 6
  else if !lvl && Pte.sup e then 6
  else if !lvl && write && Pte.ts e then 6
  else 0

/-! ### Counting and retirement of rows (R455, R456) -/

/-- R456: an event of a counted unit at a tile: whether the unit retires, and the time of its first counted event. -/
def tallyHit (s : State) (tile kind unit : Nat) : Option Nat :=
  match (s.tile tile).tallies.find? (fun x => x.kind == kind && x.unit == unit) with
  | some x => match x.older with
    | some o => if s.cycle.toNat - o < Config.retireWindow then some o else none
    | none => none
  | none => none

/-- R456: the kept times after an event; bank rows keep 256 entries per vault, least recently used replaced. -/
def tallyNote (s : State) (tile kind unit : Nat) : State :=
  s.mapTile tile (fun t =>
    let old := t.tallies.find? (fun x => x.kind == kind && x.unit == unit)
    let now := some s.cycle.toNat
    let x : Tally := match old with
      | some x => { x with older := x.newer, newer := now }
      | none => { kind := kind, unit := unit, older := none, newer := now }
    let rest := t.tallies.filter (fun y => !(y.kind == kind && y.unit == unit))
    let rows := rest.filter (fun y => y.kind == 1)
    let rest' := if kind = 1 ∧ 256 ≤ rows.length then
        (match rows.getLast? with | some l => rest.filter (fun y => y != l) | none => rest) else rest
    { t with tallies := x :: rest' })

/-- R456: a row's history is forgotten once it is retired. -/
def tallyDrop (s : State) (tile kind unit : Nat) : State :=
  s.mapTile tile (fun t => { t with tallies := t.tallies.filter (fun y => !(y.kind == kind && y.unit == unit)) })

/-- R114, R456: a bank taken by its controller between two transfers: its row closed, to be reactivated once the bank is free. A bank whose
row is already closed so, or that is under refresh, is held the longer. -/
def takeBank (now : Nat) (b : Bank) : Bank :=
  { b with row := none, forced := b.row.or b.forced, busyTill := max b.busyTill now + Config.tRfc }

/-- R456, R463: a retired row is copied into a free spare of its bank, which is taken as for a refresh and held for T_RFC cycles; the row
operand then names the spare, so that its bytes and poison stay where they are named. With all 32 spares in use it stays in place; the
last spare taken sets the bank's bit of the defect map. (DEDUCED, A26) -/
def remapRow (s : State) (tile bank row : Nat) (first : Nat) : State :=
  let b := (s.tile tile).bank bank
  let full := decide (32 ≤ b.used)
  let s1 := record s (Rec.plain 0x0B tile none ((if full then 2 ^ 31 else 0) + 1) (wd (2048 * bank + row)) (wd first))
  if full then s1 else
  s1.mapTile tile (fun t => { t.mapBank bank (fun b =>
    takeBank s.cycle.toNat { b with remap := Assoc.set b.remap row b.used, used := b.used + 1 }) with
      spares := if b.used = 31 then t.spares ||| (1#32 <<< bank) else t.spares })

/-- R455, R456: a corrected read in a row is counted; `now` retires it at once (an uncorrectable sector). -/
def rowEvent (s : State) (key : Nat) (now : Bool) : State :=
  let tile := key / 2 ^ 28
  let off := key % 2 ^ 28
  let bank := off / (6 * 2 ^ 20)
  let row := off % (6 * 2 ^ 20) / 3072
  let unit := 2048 * bank + row
  if now then remapRow (tallyDrop s tile 1 unit) tile bank row s.cycle.toNat
  else match tallyHit s tile 1 unit with
    | some first => remapRow (tallyDrop s tile 1 unit) tile bank row first
    | none => tallyNote s tile 1 unit

/-! ### Sectors (R118, R446 to R449) -/

/-- R446, R442: a sector that a read finds damaged becomes poisoned, with a record of the class; the check syndrome of the read, in SYND
19:0, is a free value. (DESIGN CHOICE, A102) -/
def poisonSector (s : State) (k tag cls : Nat) : State :=
  record (s.draw.setSector k { s.sector k with cond := .poisoned })
    (Rec.plain cls (32 * k / 2 ^ 28) none (tag * 2 ^ 20 + (Config.freeWord s.drawn).toNat % 2 ^ 20) (wd (32 * k % 2 ^ 28)) 0)

/-- R446, R456: a sector found uncorrectable; its row is retired at once. -/
def loseSector (s : State) (k tag : Nat) : State := rowEvent (poisonSector s k tag 1) (32 * k) true

/-- R118, Table 4-9: a sector read under a tag: 0, TAGCHK or POISON, with what the read itself does to it; `counts`: a correction is an
event of its own. -/
def readSector (s : State) (k tag : Nat) (counts : Bool := true) : State × Nat :=
  let x := s.sector k
  match x.cond with
  | .poisoned => (s, 8)
  | .misdirected => (poisonSector s k tag 2, 8)
  | .uncorrectable => (loseSector s k tag, 8)
  | .oneBit =>
    if x.tag.toNat = tag then
      let s1 := s.setSector k { x with cond := .clean }
      (if counts then rowEvent s1 (32 * k) false else s1, 0)
    else (loseSector s k tag, 8)
  | .clean => (s, if x.tag.toNat = tag then 0 else 7)

/-- The row of a sector, by its tile and its place in the vault. -/
def rowOfSector (k : Nat) : Nat × Nat := (32 * k / 2 ^ 28, 32 * k % 2 ^ 28 / 3072)

/-- R118, R449: the sectors of one access read in order, each under its tag, with their verdicts; the access counts one corrected event in
a row, however many of its sectors it corrects. -/
def readEach (s : State) (ks : List Nat) (tag : Nat → Nat) : State × List Nat :=
  let fixes (k : Nat) : Bool := (s.sector k).cond == .oneBit && (s.sector k).tag.toNat == tag k
  ks.zipIdx.foldl (fun (acc : State × List Nat) x =>
    let again := (ks.take x.2).any (fun k => fixes k && rowOfSector k == rowOfSector x.1)
    let (s', c) := readSector acc.1 x.1 (tag x.1) !again
    (s', acc.2 ++ [c])) (s, [])

/-- R118, Table 10-1: the verdict of an access on its sectors': TAGCHK comes before POISON. -/
def verdictOf (cs : List Nat) : Nat := if cs.contains 7 then 7 else if cs.contains 8 then 8 else 0

/-- R449, R446, R113: an access of the device itself opens its rows, and takes effect on the damaged sectors that it has read as it found
them; what has been written to one since stands after it. -/
def performNoted (s0 : State) (n : Noted) : State :=
  let s := n.rows.foldl homeRow s0
  let before := n.bad.foldl (fun s x => s.setSector x.1 x.2) s
  let read := (readEach before (n.bad.map Prod.fst) (fun _ => n.tag)).1
  n.bad.foldl (fun s' x => if s.sector x.1 = x.2 then s' else s'.setSector x.1 (s.sector x.1)) read

/-! ### The walk used (R425 to R431) -/

/-- R428, R449, R446, R113: the sectors that a walk reads, read under tag 0 as a load reads them, each in its bank. -/
def readWalk (s : State) (part va : Nat) : State := (walked s part va).foldl (fun s k => (readSector (homeRow s (32 * k)) k 0).1) s

/-- R452, R453: the first sector that a walk for an address reads at a home that does not answer the tile, if any. -/
def walkDead (s : State) (tile part va : Nat) : Option Nat :=
  let dead (k : Nat) : Bool := homeDead s tile (32 * k / 2 ^ 28)
  ((walked s part va).find? dead).or (match walk s part va with | .poison _ k => if dead k then some k else none | _ => none)

/-- R452: the tile at which the record of an access without an answer is written: that of the router that answers, or the agent's where no
partition holds that. -/
def deadAt (s : State) (from_ home : Nat) : Nat :=
  let t := answerTile s from_ home
  if (partOfTile s t).isSome then t else from_

/-- R425 to R431: an address translated: the cause that refuses it (0 none), the leaf and whether it is large. (DESIGN CHOICE, A20) -/
def translate (s : State) (a : Ag) (va : Nat) (write : Bool) : State × Nat × Nat × Bool :=
  let l1 := tlb1 s a
  let f := fieldOf a.tile
  let l2 := Assoc.getD s.tlb2 f []
  match l1.find? (tlbHit a.part va) with
  | some x => (setTlb1 s a (tlbUse Config.tlb1Entries x l1), leafCheck x.entry.toNat write a.lvl, x.entry.toNat, x.large)
  | none =>
    match l2.find? (tlbHit a.part va) with
    | some x =>
      ({ setTlb1 s a (tlbUse Config.tlb1Entries x l1) with tlb2 := Assoc.set s.tlb2 f (tlbUse Config.tlb2Entries x l2) },
        leafCheck x.entry.toNat write a.lvl, x.entry.toNat, x.large)
    | none =>
      let r := readWalk s a.part va
      if (walkDead s a.tile a.part va).isSome then
        (record s (Rec.plain 0x0A (deadAt s a.tile (32 * (walkDead s a.tile a.part va).getD 0 / 2 ^ 28)) (some a.graph) 0 (wd va) 0), 8, 0, false)
      else match walk s a.part va with
      | .ok e large =>
        let x : TlbEntry := { part := a.part, page := va / (if large then 2 ^ 26 else 2 ^ 16), large := large, entry := wd e }
        ({ setTlb1 r a (tlbUse Config.tlb1Entries x l1) with tlb2 := Assoc.set s.tlb2 f (tlbUse Config.tlb2Entries x l2) },
          leafCheck e write a.lvl, e, large)
      | .page _ => (r, 5, 0, false)
      | .malformed l e => (logRecord r a.part (Rec.plain 0x0F a.tile (some a.graph) l (wd va) (wd e)), 6, 0, false)
      | .poison _ sec => (if (s.sector sec).lost 0 then r else record r (Rec.plain 0x0A a.tile (some a.graph) 0 (wd va) 0), 8, 0, false)

/-! ### Accesses to sectors (R118) -/

/-- R118: the sectors of an access read in order; TAGCHK comes before POISON. -/
def readSectors (s : State) (ks : List Nat) (tag : Nat) : State × Nat :=
  ((readEach s ks (fun _ => tag)).1, verdictOf (readEach s ks (fun _ => tag)).2)

/-- R118, Table 10-1: whether a write of these sectors meets a tag mismatch. Only an undamaged sector gives a tag verdict. -/
def tagRefuses (s : State) (ks : List Nat) (tag : Nat) : Bool :=
  ks.any (fun k => (s.sector k).cond == .clean && (s.sector k).tag.toNat != tag)

/-! ### The shadow area (R404) and the saves under way (R60) -/

/-- R404: the first shadow bank of a tile's vault. -/
def firstShadow (s : State) (tile : Nat) : Nat := fld (s.part ((partOfTile s tile).getD 0)).bankmap.toNat 20 16

/-- R404: the key of shadow row q of a tile: row q mod 2,048 of the bank q / 2,048 banks after the first. -/
def shadowKey (s : State) (tile q : Nat) : Nat := vaultKey tile (firstShadow s tile * (6 * 2 ^ 20) + 3072 * q)

/-- Table 18-1: the first shadow row of the undo log of a tile. -/
def undoRow (s : State) (tile : Nat) : Nat := 2048 * (32 - firstShadow s tile) - 683

/-- R60: whether some of the rows `first` to `last` of a slot of a tile have yet to be saved. -/
def unsaved (s : State) (tile first last : Nat) : Bool :=
  s.graphs.any (fun g => g.2.pending.any (fun p => (Assoc.get? p.saving tile).any (fun v =>
    v.rows.any (fun r => decide (first ≤ r) && decide (r ≤ last)))))

/-- R60: whether a write of n bytes of tile memory waits for the save of their blocks. -/
def tmemWaits (s : State) (tile off n : Nat) : Bool := decide (0 < n) && unsaved s tile (off / 3072) ((off + n - 1) / 3072)

/-- R60: whether a write of accumulator rows waits for the save of their blocks, of 24 rows each. -/
def accWaits (s : State) (tile row n : Nat) : Bool := decide (0 < n) && unsaved s tile (86 + row / 24) (86 + (row + n - 1) / 24)

/-! ### The undo log (R413 to R415) -/

/-- Table 18-4: the header of an undo entry of a graph. -/
def undoHeader (g : Graph) (u : Undo) : Nat :=
  let x (i : Nat) : Sector := u.sects.getD i .reset
  u.line + u.epoch.toNat * 2 ^ 80 + (x 0).tag.toNat * 2 ^ 96 + (x 1).tag.toNat * 2 ^ 100 +
    ((if (x 0).cond == .poisoned then 1 else 0) + (if (x 1).cond == .poisoned then 2 else 0)) * 2 ^ 104 +
    u.kind % 4 * 2 ^ 106 + g.part * 2 ^ 108 + g.handle.toNat * 2 ^ 112

/-- R413: the number of the next entry of a log: the first from n on that no entry holds. (DESIGN CHOICE, A98) -/
def freeEntry (live : List Undo) (fuel n : Nat) : Nat :=
  match fuel with
  | 0 => n
  | k + 1 => if live.any (fun u => u.pos == n) then freeEntry live k ((n + 1) % Config.undoEntries) else n

/-- R413: an entry written at its place in the log of a tile's home. -/
def writeUndo (s : State) (tile : Nat) (u : Undo) : State :=
  let key := shadowKey s tile (undoRow s tile + u.pos / 38) + 80 * (u.pos % 38)
  { s with shadow := Memory.writeBytes s.shadow key (u.old ++ leBytes 16 (undoHeader (s.graph u.graph) u)) }

/-- R414: the entries that a home's log holds of a graph and epoch for a line. -/
def undoHas (h : Home) (graph line : Nat) (epoch : BitVec 16) : Bool :=
  h.undo.any (fun u => u.graph == graph && u.line == line && u.epoch == epoch)

/-- R415: the forced waves that a log at its threshold opens. -/
def undoThreshold (s : State) (tile : Nat) : State :=
  if Config.undoThreshold ≤ (s.home tile).undo.length then
    let gs := ((s.home tile).undo.map Undo.graph).eraseDups
    gs.foldl (fun s k => if (s.graph k).openWave.isNone && (s.graph k).st == .running then openForced s k else s) s
  else s

/-- R414, R415: the old value of a line logged before the first write of a contained graph's epoch. R421: where the line already has an
entry of a later epoch of the graph, that entry's old value is the one that the new entry takes over. -/
def undoLog (s : State) (a : Ag) (kind key : Nat) : State :=
  let tile := key / 2 ^ 28
  let base := key / 64 * 64
  let line := base % 2 ^ 28 / 64
  if a.settled || !contained (s.graph a.graph) || undoHas (s.home tile) a.graph line a.epoch then s
  else if Config.undoEntries ≤ (s.home tile).undo.length then
    record (s.mapGraph a.graph (fun g => { g with lapsed := true })) (Rec.plain 0x10 tile (some a.graph) 0 (wd line) 0)
  else
    let later := ((s.home tile).undo.filter (fun u => u.graph == a.graph && u.line == line && precedes a.epoch u.epoch)).foldl
      (fun m u => match m with | some v => if precedes u.epoch v.epoch then some u else m | none => some u) none
    let u : Undo := { graph := a.graph, epoch := a.epoch, kind := kind, line := line,
                      old := match later with | some v => v.old | none => Memory.readBytes s.vault base 64,
                      sects := match later with | some v => v.sects | none => [s.sector (base / 32), s.sector (base / 32 + 1)],
                      pos := freeEntry (s.home tile).undo (s.home tile).undo.length (s.home tile).undoNext }
    undoThreshold ((writeUndo s tile u).mapHome tile (fun h =>
      { h with undo := h.undo ++ [u], undoNext := (u.pos + 1) % Config.undoEntries })) tile

/-- R421: bytes that start at address `at0` as they stand within an access that changes n bytes from `key` on by `f`. -/
def changeWithin (at0 : Nat) (bs : List Byte) (key n : Nat) (f : List Byte → List Byte) : List Byte :=
  if key < at0 ∨ at0 + bs.length < key + n then bs
  else bs.take (key - at0) ++ f ((bs.drop (key - at0)).take n) ++ bs.drop (key - at0 + n)

/-- R421: a write of n bytes of a line stands in the old value of every entry of a later epoch of its graph, so that a rollback to that
epoch's start keeps it; the entry's place in the log follows. (DESIGN CHOICE, A88) -/
def patchUndo (s : State) (a : Ag) (key n : Nat) (f : List Byte → List Byte) : State :=
  let tile := key / 2 ^ 28
  let base := key / 64 * 64
  let mine (u : Undo) : Bool := u.graph == a.graph && u.line == base % 2 ^ 28 / 64 && (a.settled || precedes a.epoch u.epoch)
  if !(s.home tile).undo.any mine then s else
  let after (u : Undo) : Undo := if mine u then { u with old := changeWithin base u.old key n f } else u
  ((s.home tile).undo.filter mine).foldl (fun s u => writeUndo s tile (after u))
    (s.mapHome tile (fun h => { h with undo := h.undo.map after }))

/-! ### The codec cache (R119 to R124, R380) -/

/-- R380, Table 16-9: a home's copy of a descriptor, read from the table the first time; none where the read is refused. -/
def codecDesc (s : State) (tile part cidx : Nat) (graph : Nat) : State × Option CodecDesc :=
  let tab := (s.part part).codectab
  if tab.toNat % 256 < cidx then (s, none) else
  match Assoc.get? (s.home tile).descs (256 * part + cidx) with
  | some d => (s, some d)
  | none =>
    let ea := wd (tab.toNat / 256 * 256 + 32 * cidx)
    match sysFetch s part tile ea 32 with
    | (s, none) => (logRecord s part (Rec.plain 0x0F tile (some graph) 0 ea 0), none)
    | (s, some b) =>
      let d : CodecDesc := { base := wd (leNat (b.take 8)), length := wd (leNat ((b.drop 8).take 8)),
                             flags := wd (leNat ((b.drop 16).take 8)), cnt := wd (leNat ((b.drop 24).take 8)) }
      (s.mapHome tile (fun h => { h with descs := Assoc.set h.descs (256 * part + cidx) d }), some d)

/-- R380: whether a descriptor admits a block of a page with that budget. -/
def descAdmits (d : CodecDesc) (budget block : Nat) : Bool :=
  bit d.flags.toNat 63 && fld d.flags.toNat 1 0 != 0 && fld d.flags.toNat 1 0 == budget &&
  decide (d.base.toNat ≤ block) && decide (block + 128 ≤ d.base.toNat + d.length.toNat)

/-- R124: a counter block of a descriptor changed, or the change dropped (R476). -/
def bumpCounters (s : State) (tile part : Nat) (d : CodecDesc) (f : Nat → Nat) : State :=
  match sysFetch s part tile d.cnt 64 with
  | (s, some b) => sysWriteOrDrop s part tile 0 d.cnt (leBytes 64 (f (leNat b)))
  | (s, none) =>
    let c := match walk s part (vaOf d.cnt) with
      | .page _ => 5 | .malformed _ _ => 6 | .poison _ _ => 8
      | .ok e large => match placeOf e large (vaOf d.cnt) with
        | .codec _ _ _ => 0x16
        | .host _ => 6
        | .vault key => if tagRefuses s (sectorsOf key 64) (tagOf d.cnt) then 7 else 8
    logRecord s part (Rec.plain 0x15 tile none (256 * c) d.cnt 0)

/-- R122, R124: a dirty block encoded to its frame under the descriptor copy that the home holds. -/
def encodeBlock (s : State) (b : Block) : State :=
  if !b.dirty then s else
  let tile := b.off / 2 ^ 28
  let (bits, info) := codecEncode (b.lanes.map BitVec.toNat) (16 * b.budget)
  let secs := sectorsOf b.off (32 * b.budget)
  let s1 := { homeRow s b.off with vault := Memory.writeBytes s.vault b.off (leBytes (32 * b.budget) bits) }
  let s2 := secs.foldl (fun s k => s.setSector k { s.sector k with cond := if b.poison = 0 then .clean else .poisoned }) s1
  let s3 := if b.poison = 0 then s2 else
    record s2 (Rec.plain 4 tile none (2 ^ 32 - 1) (wd (b.off % 2 ^ 28)) (wd b.va))
  match Assoc.get? (s3.home tile).descs (256 * b.part + b.cidx) with
  | some d => bumpCounters s3 tile b.part d (fun old => countEncode old (16 * b.budget) info)
  | none => s3

/-- R120: the blocks of a home with one put at the front; the least recently used of a full cache is encoded and dropped. -/
def insertBlock (s : State) (tile : Nat) (b : Block) : State :=
  let rest := (s.home tile).cache.filter (fun c => c.off != b.off)
  if Config.codecBlocks ≤ rest.length then
    match rest.getLast? with
    | some old =>
      (encodeBlock s old).mapHome tile (fun h =>
        { h with cache := b :: (h.cache.filter (fun c => c.off != b.off)).filter (fun c => c.off != old.off) })
    | none => s
  else s.mapHome tile (fun h => { h with cache := b :: rest })

/-- R118: the sectors of an access read in order, each under its own tag: no tag is checked (R429). -/
def readUntagged (s : State) (ks : List Nat) : State × Nat :=
  let r := readEach s ks (fun k => (s.sector k).tag.toNat)
  (r.1, verdictOf r.2)

/-- R120, R121, R380: the decoded block of a codec access, brought into its home's cache: the cause that refuses it, and
the block. `va`: the virtual address of the block; `tag`: none for a tag-setting write, which checks no tag (R429). -/
def codecBlock (s : State) (a : Ag) (e frame va : Nat) (tag : Option Nat) : State × Nat × Option Block :=
  let tile := Pte.tile e
  let (s1, d?) := codecDesc s tile a.part (Pte.cidx e) a.graph
  match d? with
  | none => (s1, 0x16, none)
  | some d =>
    if !descAdmits d (Pte.budget e) va then (s1, 0x16, none) else
    let secs := sectorsOf frame (32 * Pte.budget e)
    match (s1.home tile).cache.find? (fun c => c.off == frame) with
    | some b => if tag.any (tagRefuses s1 secs) then (s1, 7, none) else (insertBlock s1 tile b, 0, some b)
    | none =>
      let s0 := homeRow s1 frame
      let (s2, c) := match tag with | some t => readSectors s0 secs t | none => readUntagged s0 secs
      if c = 7 then (s2, 7, none) else
      let bits := leNat (Memory.readBytes s2.vault frame (32 * Pte.budget e))
      let (lanes, bad) := codecDecode bits (16 * Pte.budget e)
      let b : Block := { off := frame, part := a.part, va := va, cidx := Pte.cidx e, budget := Pte.budget e,
                         lanes := lanes.map wd, dirty := false, poison := if c = 8 then 15 else 0, writers := [] }
      let s3 := if bad then
          bumpCounters (record s2 (Rec.plain 0x11 tile none 0 (wd va) 0)) tile a.part d
            (fun old => setFld old 320 64 (fld old 383 320 + 1))
        else s2
      (insertBlock s3 tile b, 0, some b)

/-- The 128 bytes of a block's lanes. -/
def blockBytes (b : Block) : List Byte := b.lanes.flatMap (fun l => leBytes 8 l.toNat)
/-- The lanes of 128 bytes. -/
def bytesBlock (bs : List Byte) : List Word := (List.range 16).map (fun i => wd (leNat ((bs.drop (8 * i)).take 8)))
/-- R120: the 32-byte parts of a block that n bytes from `o` touch; with `whole`, only those they cover. -/
def partsOf (o n : Nat) (whole : Bool) : List Nat :=
  pick 4 (fun j => if whole then decide (o ≤ 32 * j) && decide (32 * j + 32 ≤ o + n)
    else decide (o < 32 * j + 32) && decide (32 * j < o + n))
/-- Whether one of these parts carries a poison flag. -/
def partPoison (b : Block) (ps : List Nat) : Bool := ps.any (fun j => b.poison.getLsbD j)

/-- R122: the frame bytes of an encoding of lanes. -/
def frameOf (lanes : List Word) (budget : Nat) : List Byte := leBytes (32 * budget) (codecEncode (lanes.map BitVec.toNat) (16 * budget)).1

/-- R414, R421: the lines of a block's frame logged before its first write in an epoch; those of a dirty block as its lanes stand, which no
encode has yet put into the frame. (DESIGN CHOICE, A88) -/
def undoBlock (s : State) (a : Ag) (b : Block) : State :=
  let lines := ((sectorsOf b.off (32 * b.budget)).map (fun k => k / 2)).eraseDups
  let seen := if b.dirty then { s with vault := Memory.writeBytes s.vault b.off (frameOf b.lanes b.budget) } else s
  { lines.foldl (fun s l => undoLog s a 2 (64 * l)) seen with vault := s.vault }

/-- R421: a change of n bytes of a block, o bytes into it, made in the old frame that a later epoch of the writer's graph has logged. (DESIGN
CHOICE, A88) -/
def patchBlock (s : State) (a : Ag) (b : Block) (o n : Nat) (f : List Byte → List Byte) : State :=
  let tile := b.off / 2 ^ 28
  let lines := ((sectorsOf (b.off % 2 ^ 28) (32 * b.budget)).map (fun k => k / 2)).eraseDups
  let mine (u : Undo) : Bool := u.graph == a.graph && lines.contains u.line && (a.settled || precedes a.epoch u.epoch)
  ((((s.home tile).undo.filter mine).map Undo.epoch).eraseDups).foldl (fun s e =>
    let log := (s.home tile).undo
    let img := lines.flatMap (fun l => match log.find? (fun u => u.graph == a.graph && u.line == l && u.epoch == e) with
      | some u => u.old
      | none => Memory.readBytes s.vault (vaultKey tile (64 * l)) 64)
    let size := 32 * b.budget
    let bytes := blockBytes { b with lanes := ((codecDecode (leNat ((img.drop (b.off % 64)).take size)) (16 * b.budget)).1).map wd }
    let new := frameOf (bytesBlock (changeWithin 0 bytes o n f)) b.budget
    let img' := img.take (b.off % 64) ++ new ++ img.drop (b.off % 64 + size)
    let after (u : Undo) : Undo :=
      if u.graph = a.graph ∧ u.epoch = e ∧ lines.contains u.line then
        { u with old := (img'.drop (64 * (u.line - lines.headD 0))).take 64 } else u
    (log.filter (fun u => u.graph == a.graph && u.epoch == e && lines.contains u.line)).foldl (fun s u => writeUndo s tile (after u))
      (s.mapHome tile (fun h => { h with undo := h.undo.map after }))) s

/-- R120, R122, R414: bytes merged into a block by an agent; `poison` marks poisoned source data; `upd`: what the write does to the bytes
that it finds. -/
def writeBlock (s : State) (a : Ag) (b : Block) (o : Nat) (bytes : List Byte) (poison : Bool) (upd : List Byte → List Byte) : State :=
  let tile := b.off / 2 ^ 28
  let s1 := patchBlock (undoBlock s a b) a b o bytes.length upd
  let old := blockBytes b
  let new := old.take o ++ bytes ++ old.drop (o + bytes.length)
  let mask : BitVec 4 := (partsOf o bytes.length (!poison)).foldl (fun m j => m ||| (1#4 <<< j)) 0
  insertBlock s1 tile
    { b with lanes := bytesBlock new, dirty := true, poison := if poison then b.poison ||| mask else b.poison &&& ~~~mask,
             writers := if b.writers.contains a.graph then b.writers else a.graph :: b.writers }

/-! ### Performing accesses -/

/-- R452, R453: an access to a home that does not answer is answered by a router, with a record. -/
def deadHome (s : State) (a : Ag) (home : Nat) (kind : Nat) (ea : Word) : State :=
  record s { Rec.plain 0x0A (deadAt s a.tile home) (some a.graph) kind ea 0 with ctx := (s.thread a.th).lctx.toNat }

/-- R117, R118, R120: n bytes of one line read at their home: the cause that refuses the read, and the bytes. -/
def homeRead (s : State) (a : Ag) (e : Nat) (large : Bool) (ea : Word) (n dk : Nat) : State × Nat × List Byte :=
  match placeOf e large (vaOf ea) with
  | .host addr => (s, 0, hostBytes s addr n)
  | .vault key =>
    if homeDead s a.tile (Pte.tile e) then (deadHome s a (Pte.tile e) dk ea, 8, Memory.readBytes s.vault key n) else
    let (s1, c) := readSectors (homeRow s key) (sectorsOf key n) (tagOf ea)
    (s1, c, Memory.readBytes s1.vault key n)
  | .codec e frame o =>
    if homeDead s a.tile (Pte.tile e) then (deadHome s a (Pte.tile e) dk ea, 8, List.replicate n 0) else
    match codecBlock s a e frame (vaOf ea / 128 * 128) (some (tagOf ea)) with
    | (s1, _, some b) => (s1, if partPoison b (partsOf o n false) then 8 else 0, ((blockBytes b).drop o).take n)
    | (s1, c, none) => (s1, c, List.replicate n 0)

/-- R417: a write to host memory: held while a contained graph's epoch is open, else performed; a full buffer sends it at
once, and the graph is lapsed. (DEDUCED, A65) -/
def hostWrite (s : State) (a : Ag) (addr : Nat) (bytes : List Byte) : State :=
  if a.settled || !contained (s.graph a.graph) then hostPut s addr bytes
  else if Config.egressBytes < s.bridge.length + bytes.length then
    hostPut (s.mapGraph a.graph (fun g => { g with lapsed := true })) addr bytes
  else { s with bridge := s.bridge ++ (List.range bytes.length).map (fun i => (a.graph, a.epoch, addr + i, bytes.getD i 0)) }

/-- R117, R118, R429, R448: bytes of one line written at their home: the cause that refuses the write. `kind` is the undo entry's;
`poison` marks poisoned source data, which leaves the sectors it covers poisoned (Table 4-9); `upd`: what the write does to the bytes that
it finds. R117, R446: a narrower write reads the sector first. -/
def homeWrite (s : State) (a : Ag) (e : Nat) (large : Bool) (ea : Word) (bytes : List Byte) (kind : Nat) (poison : Bool)
    (upd : List Byte → List Byte := fun _ => bytes) : State × Nat :=
  let n := bytes.length
  match placeOf e large (vaOf ea) with
  | .host addr => (hostWrite s a addr bytes, 0)
  | .codec e frame o =>
    if homeDead s a.tile (Pte.tile e) then (deadHome s a (Pte.tile e) 1 ea, 0) else
    let tag := if Pte.ts e then none else some (tagOf ea)
    match codecBlock s a e frame (vaOf ea / 128 * 128) tag with
    | (s1, _, some b) =>
      let s2 := writeBlock s1 a b o bytes poison upd
      (if Pte.ts e then (sectorsOf frame (32 * Pte.budget e)).foldl (fun s k => s.setSector k { s.sector k with tag := .ofNat 4 (tagOf ea) }) s2
        else s2, 0)
    | (s1, c, none) => (s1, c)
  | .vault key =>
    if homeDead s a.tile (Pte.tile e) then (deadHome s a (Pte.tile e) 1 ea, 0) else
    let secs := sectorsOf key n
    let setTag := Pte.ts e
    let whole (k : Nat) : Bool := decide (key ≤ 32 * k) && decide (32 * k + 32 ≤ key + n)
    let s0 := (readEach (homeRow s key) (secs.filter (fun k => !(whole k || setTag))) (fun _ => tagOf ea)).1
    if !setTag && tagRefuses s0 secs (tagOf ea) then (s0, 7) else
    let s1 := patchUndo (undoLog s0 a kind key) a key n upd
    let s2 := { s1 with vault := Memory.writeBytes s1.vault key bytes }
    (secs.foldl (fun s k =>
      let s' := touchSector s k (tagOf ea) (whole k) setTag
      let s'' := if poison then s'.setSector k { s'.sector k with cond := .poisoned } else s'
      if (s0.sector k).cond == .poisoned && !whole k then
        record s'' { Rec.plain 4 (k * 32 / 2 ^ 28) (some a.graph)
          ((List.range 32).foldl (fun m i => m + if key ≤ 32 * k + i ∧ 32 * k + i < key + n then 2 ^ i else 0) 0)
          (wd (32 * k % 2 ^ 28)) ea with ctx := (s.thread a.th).lctx.toNat }
      else s'') s2, 0)

/-- R170, R296, R297: n bytes of one line read, changed and written as one event at their home. -/
def homeRmw (s : State) (a : Ag) (e : Nat) (large : Bool) (ea : Word) (n : Nat) (f : List Byte → List Byte) :
    State × Nat × List Byte :=
  match homeRead s a e large ea n 2 with
  | (s1, 0, old) => let (s2, c) := homeWrite s1 a e large ea (f old) 1 false f; (s2, c, old)
  | (s1, c, old) => (s1, c, old)

/-- R24: a local address. -/
def isLocal (ea : Word) : Bool := spaceOf ea == 0xE

/-- R364: whether a local range touches a window slot. -/
def inWindow (hwin : Word) (off n : Nat) : Bool :=
  let h := hwin.toNat
  bit h 63 && decide (4096 * fld h 5 0 < off + n) && decide (off < 4096 * (fld h 5 0 + fld h 13 8 + 1))

/-! ### Tile memory (R108, R446, R448) -/

/-- Whether a word of tile memory meets a local range. -/
def wordIn (key n w : Nat) : Bool := decide (key < 8 * w + 8) && decide (8 * w < key + n)

/-- R108: whether a read of a local range meets poison: a poisoned word, or one that it finds uncorrectable. -/
def tmemPoison (s : State) (key n : Nat) : Bool := s.tpoison.any (wordIn key n) || s.tbad.any (wordIn key n)

/-- R446: the words of a local range that a read finds uncorrectable become poisoned, each with a record of class 0x05. -/
def tmemSense (s : State) (key n : Nat) : State :=
  if !s.tbad.any (wordIn key n) then s else
  (s.tbad.filter (wordIn key n)).foldl (fun s w => record s (Rec.plain 5 (8 * w / 2 ^ 18) none 0 (wd (8 * w % 2 ^ 18)) 0))
    { s with tbad := s.tbad.filter (fun w => !wordIn key n w), tpoison := s.tpoison ++ s.tbad.filter (wordIn key n) }

/-- R448 for 64-bit words: a local write; a word it covers is cleared of poison and of error. -/
def tmemWrite (s : State) (key : Nat) (bytes : List Byte) : State :=
  let covered (w : Nat) : Bool := decide (key ≤ 8 * w) && decide (8 * w + 8 ≤ key + bytes.length)
  { s with tmem := Memory.writeBytes s.tmem key bytes,
           tpoison := s.tpoison.filter (fun w => !covered w), tbad := s.tbad.filter (fun w => !covered w) }

/-- R448: the records of a local write narrower than a poisoned word, one for each such word. -/
def narrowRecords (s : State) (a : Ag) (key n : Nat) : State :=
  (s.tpoison.filter (fun w => wordIn key n w && !(decide (key ≤ 8 * w) && decide (8 * w + 8 ≤ key + n)))).foldl
    (fun s w => record s { Rec.plain 4 (key / 2 ^ 18) (some a.graph)
        ((List.range 8).foldl (fun m i => m + if key ≤ 8 * w + i ∧ 8 * w + i < key + n then 2 ^ i else 0) 0)
        (wd (8 * w % 2 ^ 18)) (wd (0xE * 2 ^ 60 + key % 2 ^ 18)) with ctx := (s.thread a.th).lctx.toNat }) s

/-- R60: the bytes of a tile that an agent past its snapshot of the open wave is about to overwrite, kept for an image of the
tile that is not yet saved. (DESIGN CHOICE, A23) -/
def tmemKeep (s : State) (a : Ag) (key n : Nat) : State :=
  let g := s.graph a.graph
  match g.openWave, g.pending with
  | some w, some p =>
    if (a.epoch == w || a.eng.isNone && (s.thread a.th).wave == w) && !p.tiles.any (fun t => t.tile == key / 2 ^ 18) then
      let late := (List.range n).foldl (fun l i =>
        if (Assoc.get? l (key + i)).isSome then l else Assoc.set l (key + i) (Memory.read s.tmem (key + i))) p.late
      s.mapGraph a.graph (fun g => { g with pending := some { p with late := late } })
    else s
  | _, _ => s

/-- R59, R421: a local write of an epoch before that of the open wave stands in the bytes that an agent past its snapshot has overwritten
before. (DESIGN CHOICE, A88) -/
def patchLate (s : State) (a : Ag) (key n : Nat) (upd : List Byte → List Byte) : State :=
  match (s.graph a.graph).openWave, (s.graph a.graph).pending with
  | some w, some p =>
    let kept (i : Nat) : Option Byte := Assoc.get? p.late (key + i)
    if a.epoch == w || !(List.range n).any (fun i => (kept i).isSome) then s else
    let new := upd ((List.range n).map (fun i => (kept i).getD (Memory.read s.tmem (key + i))))
    let late := (List.range n).foldl (fun l i => if (kept i).isSome then Assoc.set l (key + i) (new.getD i 0) else l) p.late
    s.mapGraph a.graph (fun g => { g with pending := some { p with late := late } })
  | _, _ => s

/-- R448: a local write by an agent: a word that it covers in part is read first; `upd`: what the write does to the bytes that it finds. -/
def tmemWriteBy (s : State) (a : Ag) (key : Nat) (bytes : List Byte) (upd : List Byte → List Byte := fun _ => bytes) : State :=
  let n := bytes.length
  let edge (s : State) (k : Nat) : State := if k % 8 = 0 then s else tmemSense s (k / 8 * 8) 8
  let s1 := edge (edge s key) (key + n)
  tmemWrite (patchLate (tmemKeep (narrowRecords s1 a key n) a key n) a key n upd) key bytes

/-- R108: the words of a local range marked poisoned. -/
def tmemMark (s : State) (key n : Nat) : State :=
  let ws := (List.range ((key % 8 + n + 7) / 8)).map (fun i => key / 8 + i)
  { s with tpoison := ws ++ s.tpoison.filter (fun w => !ws.contains w) }

/-! ### Accepted accesses performed (R171) -/

/-- R42, R297, R303: a write dropped after its commit, reported at the thread's next instruction. -/
def dropLate (s : State) (op : HomeOp) (cause : Nat) : State :=
  let s1 := record s { Rec.plain 9 (tileOf op.th) (some op.graph) cause op.ea 0 with
    ukind := 6, slot := slotOf op.th, ctx := (s.thread op.th).lctx.toNat }
  s1.mapThread op.th (fun t => if t.graph = op.graph then { t with late := some (t.late.getD (cause, op.ea)) } else t)

/-- The agent of an access that a home performs. -/
def HomeOp.agent (op : HomeOp) : Ag :=
  { tile := tileOf op.th, eng := none, part := op.part, lvl := false, graph := op.graph, epoch := op.epoch, th := op.th }

/-- R42, R297: a store or deferred update in tile memory, or in the tag table, performed. -/
def performLocal (s0 : State) (op : HomeOp) : State :=
  let a := op.agent
  let s := portUse s0 a.tile a.port (op.ea.toNat % 2 ^ 18) op.act.size
  let key := tmemKey a.tile (op.ea.toNat % 2 ^ 18)
  match op.act with
  | .store bytes _ => tmemWriteBy s a key bytes
  | .tagset j v => s.mapTile a.tile (fun x =>
      { x with tags := if h : j < 64 then x.tags.set j (v &&& ~~~0xFF#64) h else x.tags })
  | .tagclr j => s.mapTile a.tile (fun x =>
      { x with tags := if h : j < 64 then x.tags.set j ((x.tags[j]'h) &&& ~~~(1#64 <<< 63)) h else x.tags })
  | act =>
    let s1 := tmemSense s key act.size
    if tmemPoison s1 key act.size then dropLate s1 op 8
    else tmemWriteBy s1 a key (act.bytes (Memory.readBytes s1.tmem key act.size)) act.bytes

/-- R53, R181: whether an access belongs to an epoch that the last complete wave of its graph has closed. -/
def HomeOp.settled (s : State) (op : HomeOp) : Bool := !op.hw && precedes op.epoch (s.graph op.graph).lastWave

/-- R59, R181: a local access of an epoch that the snapshot's wave has closed, in the snapshot's image of its tile. (DESIGN CHOICE, A88) -/
def TileSnap.perform (op : HomeOp) (x : TileSnap) : TileSnap :=
  if x.tile ≠ tileOf op.th then x else
  let key := tmemKey x.tile (op.ea.toNat % 2 ^ 18)
  match op.act with
  | .tagset j v => { x with st := { x.st with tags := if h : j < 64 then x.st.tags.set j (v &&& ~~~0xFF#64) h else x.st.tags } }
  | .tagclr j => { x with st := { x.st with tags := if h : j < 64 then x.st.tags.set j ((x.st.tags[j]'h) &&& ~~~(1#64 <<< 63)) h else x.st.tags } }
  | act => { x with mem := Memory.writeBytes x.mem key (act.bytes (Memory.readBytes x.mem key act.size)) }

/-- R59, R181, R421: a local access whose epoch a snapshot has closed belongs to that snapshot, complete or under way, where the image of
its tile is already taken, and a rollback keeps it. (DESIGN CHOICE, A88) -/
def settleSnap (s : State) (op : HomeOp) : State :=
  let within (x : Snap) : Snap := { x with tiles := x.tiles.map (TileSnap.perform op) }
  let closes (x : Snap) : Bool := precedes op.epoch x.wave && x.tiles.any (fun t => t.tile == tileOf op.th)
  if op.hw || !isLocal op.ea || !((s.graph op.graph).snap.any closes || (s.graph op.graph).pending.any closes) then s
  else s.mapGraph op.graph (fun g => { g with
    snap := g.snap.map (fun x => if closes x then within x else x), pending := g.pending.map (fun x => if closes x then within x else x) })

/-- R171: one accepted access performed. (DEDUCED, A22) -/
def performOp (s0 : State) (op : HomeOp) : State :=
  let s := settleSnap s0 op
  let a := { op.agent with settled := op.settled s }
  let e := op.leaf.toNat
  if isLocal op.ea then performLocal s op
  else if op.hw then (match op.act, op.key? with
    | .store bytes _, some k =>
      if homeLost s (Pte.tile e) then logRecord s op.part (Rec.plain 0x0A (Pte.tile e) none 1 op.ea 0) else putLine s k (tagOf op.ea) bytes
    | _, _ => s)
  else match op.act with
  | .store bytes _ =>
    match homeWrite s a e op.large op.ea bytes 0 false with
    | (s', 0) => s'
    | (s', c) => dropLate s' op c
  | act =>
    match homeRmw s a e op.large op.ea act.size act.bytes with
    | (s', 0, _) => s'
    | (s', c, _) => dropLate s' op c

/-- R417, R441: whether nothing that a graph has sent before wave n is held at a fabric port or the bridge, or awaits its acceptance by a
far stream port. -/
def egressAccepted (s : State) (g : Nat) (n : BitVec 16) : Bool :=
  let mine (e : Nat) : Bool := epGraph (s.tile (e / 40)) (e % 40) == some g
  !s.bridge.any (fun x => x.1 == g && x.2.1 != n) &&
  s.ports.all (fun p => !p.2.egress.any (fun x => x.1 == g && x.2.1 != n) && !p.2.stream.any (fun x => x.src.any mine) &&
    !p.2.unacked.any (fun u => u.2.any mine))

/-- R179: the output endpoints bound to a fabric port to which slot i, or a copy of its, has written. -/
def peerSources (s : State) (i : Nat) : List Nat :=
  let t := s.tile (tileOf i)
  (threadOutputs s i).filter (fun e => EpF.toPort (epFrame t e)) ++ (s.thread i).peerEps

/-- Table 6-4, GROUP: what slot i has written through fabric ports has been accepted by the far stream ports. -/
def portsQuiet (s : State) (i : Nat) : Bool :=
  let t := s.tile (tileOf i)
  (peerSources s i).all (fun e =>
    (t.ep e).q.all Beat.isMarker && s.ports.all (fun p => !p.2.stream.any (fun x => x.src == some (40 * tileOf i + e)) &&
      !p.2.unacked.any (fun u => u.2.contains (40 * tileOf i + e)) &&
      !p.2.egress.any (fun x => x.2.2.src == some (40 * tileOf i + e))))

/-- R180, R181: whether a release may be performed: its wave is complete and the egress of its graph accepted; at GROUP and SYSTEM what
the thread has written through ports is accepted. -/
def opReady (s : State) (op : HomeOp) : Bool :=
  match op.hold with
  | none => decide (op.rel < 8) || (s.thread op.th).graph != op.graph || portsQuiet s op.th
  | some n =>
    let g := s.graph op.graph
    !(g.st == .running || g.st == .cut || g.st == .loading) || g.lastWave - n < 0x8000 && egressAccepted s op.graph n

/-- R386: the queue whose descriptor stands at a line of a vault (0, line) or of host memory (1, line), as the 16 KiB of a partition's
descriptors lie in two pages at most. -/
def queueOfLine (s : State) (part : Nat) (line : Nat × Nat) : Option Nat :=
  let base := ctxListDword s part 8
  let first := min 256 ((2 ^ 16 - base % 2 ^ 16) / 64)
  let at_ (q n : Nat) : Option Nat :=
    match walk s part (vaOf (wd (base + 64 * q))) with
    | .ok e large =>
      let k : Nat × Nat := match placeOf e large (vaOf (wd (base + 64 * q))) with
        | .vault k => (0, k / 64)
        | .host k => (1, k / 64)
        | .codec _ frame _ => (2, frame)
      if k.1 = line.1 ∧ k.2 ≤ line.2 ∧ line.2 < k.2 + n then some (q + (line.2 - k.2)) else none
    | _ => none
  if (s.part part).header = 0 then none else (at_ 0 first).or (if first < 256 then at_ first (256 - first) else none)

/-- R386: a write performed on the line of a queue descriptor signals the dispatcher of its partition. -/
def signalLine (s : State) (line : Nat × Nat) : State :=
  (s.parts.map Prod.fst).foldl (fun s p =>
    match queueOfLine s p line with
    | some q => { s with agenda := s.agenda ++ [.queueTailWrite q] }
    | none => s) s

/-- R386: a write performed at an address under a leaf, by whatever mapping. -/
def signalQueue (s : State) (e : Nat) (large : Bool) (ea : Word) : State :=
  match placeOf e large (vaOf ea) with
  | .vault key => signalLine s (0, key / 64)
  | .host key => signalLine s (1, key / 64)
  | _ => s

/-- R112, R122: whether a block that enters a home's cache evicts a dirty one whose encode waits for its bank. -/
def evictHeld (s : State) (home : Nat) : Bool :=
  decide (Config.codecBlocks ≤ (s.home home).cache.length) && (s.home home).cache.getLast?.any (fun b => b.dirty && bankHeld s b.off)

/-- R112: whether a home access under a leaf waits for its bank; a decoded block is served by the cache. -/
def accessHeld (s : State) (e : Nat) (large : Bool) (ea : Word) : Bool :=
  match placeOf e large (vaOf ea) with
  | .vault key => bankHeld s key
  | .codec e frame _ => !(s.home (Pte.tile e)).cache.any (fun c => c.off == frame) && (bankHeld s frame || evictHeld s (Pte.tile e))
  | .host _ => false

/-- R112, R431: whether the translation of an address by an agent is cached nowhere and its walk waits for a bank. -/
def walkHeld (s : State) (a : Ag) (va : Nat) : Bool :=
  !(tlb1 s a).any (tlbHit a.part va) && !(Assoc.getD s.tlb2 (fieldOf a.tile) []).any (tlbHit a.part va) &&
    (walked s a.part va).any (fun k => bankHeld s (32 * k))

/-- R112, R101, R60: whether an agent's access to some of these ranges (address, size) waits for a bank in which a row command holds
another row open, or, in tile memory, for the grant of its bank, and a write for the save of its block. -/
def agentHeld (s : State) (a : Ag) (write : Bool) (els : List (Word × Nat)) : Bool :=
  els.any (fun x =>
    if isLocal x.1 then
      portHeld s a.tile a.port (x.1.toNat % 2 ^ 18) x.2 || (write && tmemWaits s a.tile (x.1.toNat % 2 ^ 18) x.2)
    else (List.range ((x.1.toNat % 64 + x.2 + 63) / 64)).any (fun i =>
      let ea := if i = 0 then x.1 else x.1 + wd (64 * i - x.1.toNat % 64)
      walkHeld s a (vaOf ea) || match translate s a (vaOf ea) write with
      | (_, 0, e, large) => accessHeld s e large ea
      | _ => false))

/-- R171: the line (or codec block) that an accepted access belongs to. -/
def lineOf (e : Nat) (large : Bool) (ea : Word) : Nat × Nat :=
  match placeOf e large (vaOf ea) with
  | .vault key => (0, key / 64)
  | .host a => (1, a / 64)
  | .codec _ frame _ => (2, frame)

/-- R171, R172, R112: the accepted accesses of one line performed, in the order they were accepted, once its bank lets them. (DESIGN
CHOICE, A21) -/
def drainLine (s : State) (l : Nat × Nat) : State :=
  let mine (o : HomeOp) : Bool := lineOf o.leaf.toNat o.large o.ea == l
  if (s.homeQ.filter mine).any (fun o => accessHeld s o.leaf.toNat o.large o.ea) then s else
  let s1 := { s with homeQ := s.homeQ.filter (fun o => !mine o) }
  (s.homeQ.filter mine).foldl (fun s o => signalQueue (performOp s o) o.leaf.toNat o.large o.ea) s1

/-- R112, R171: the accepted accesses to the lines of a row performed, before a row command takes or overwrites it. -/
def drainRow (s : State) (key : Nat) : State :=
  (s.homeQ.filter (fun o => o.key?.any (fun k => decide (key ≤ k) && decide (k < key + 3072)))).foldl
    (fun s o => drainLine s (lineOf o.leaf.toNat o.large o.ea)) s

/-- R179: every accepted access of a slot performed (with what stands before it on its lines). -/
def drainThread (s : State) (i : Nat) : State :=
  ((s.homeQ.filter (fun o => o.th == i)).map (fun o => lineOf o.leaf.toNat o.large o.ea)).foldl drainLine s

/-! ### Accesses by address -/

/-- R24, Table 10-1 check 1 for n bytes at ea: false where ADDRESS is raised. -/
def addressOk (ea : Word) (n : Nat) : Bool :=
  if spaceOf ea = 0 then decide (vaOf ea + n ≤ 2 ^ 56)
  else spaceOf ea == 0xE && fld ea.toNat 59 18 == 0 && decide (ea.toNat % 2 ^ 18 + n ≤ 2 ^ 18)

/-- R170, R286: a range cut at the 64-byte lines, as (address, offset, length). -/
def linePieces (ea : Word) (n : Nat) : List (Word × Nat × Nat) :=
  let o := ea.toNat % 64
  (List.range ((o + n + 63) / 64)).filterMap (fun i =>
    let lo := if i = 0 then 0 else 64 * i - o
    let hi := min n (64 * (i + 1) - o)
    if lo < hi then some (ea + wd lo, lo, hi - lo) else none)

/-! ### The dispatcher's copies of the context list (R395) -/

/-- R395, R476: n bytes that the dispatcher reads for a copy of its own; none where it cannot read them. -/
def fetchLines (s : State) (part : Nat) (ea : Word) (n : Nat) : State × Option (List Byte) :=
  (linePieces ea n).foldl (fun (acc : State × Option (List Byte)) p =>
    let (s1, b) := sysFetch acc.1 part 0 p.1 p.2.2
    (s1, match acc.2, b with | some x, some y => some (x ++ y) | _, _ => none)) (s, some [])

/-- R395: the header of the context list read; one that cannot be read is zero. (DEDUCED, A51) -/
def readHeader (s : State) (part : Nat) : State :=
  let (s1, b) := fetchLines s part (s.part part).ctxlist 128
  s1.mapPart part (fun p => { p with header := .ofNat 1024 (leNat (b.getD [])) })

/-- R395: entry i of the context list read; one that cannot be read is no entry. (DEDUCED, A51) -/
def readEntry (s : State) (part i : Nat) : State :=
  let (s1, b) := fetchLines s part ((s.part part).ctxlist + wd (0x80 + 16 * i)) 16
  s1.mapPart part (fun p => { p with entries := match b with
    | some x => Assoc.set p.entries i (.ofNat 128 (leNat x))
    | none => Assoc.erase p.entries i })

/-- R385: the address of the descriptor of queue q of a partition. -/
def queueAt (s : State) (part q : Nat) : Word := wd (ctxListDword s part 8 + 64 * q)

/-- R395: the descriptor of queue q read, and the entry that it names; one that cannot be read is disabled. (DEDUCED, A51) -/
def readQueue (s : State) (part q : Nat) : State :=
  let (s1, b) := fetchLines s part (queueAt s part q) 64
  let n := leNat (b.getD [])
  readEntry (s1.mapPart part (fun p => { p with queues := Assoc.set p.queues q (.ofNat 512 n) })) part (fld n 85 80)

/-- R395: at a context switch the entries of the list and the descriptors of the partition's queues are read. -/
def readEntries (s : State) (part : Nat) : State :=
  let s1 := (List.range (min 64 (fld (ctxListDword s part 0) 6 0))).foldl (fun s i => readEntry s part i) s
  (pick 256 (fun q => (s.part part).qmask.getLsbD q)).foldl (fun s q => readQueue s part q) s1

/-- R395, R393: after an MTS to CTXLIST the header is read, and what the evaluation that follows needs. (DEDUCED, A94) -/
def readContextList (s : State) (part : Nat) : State := readEntries (readHeader s part) part

/-- Table 10-1, R284, R429: of two causes the one checked first. -/
def firstCause (a b : Nat) : Nat :=
  if a = 0 then b else if b = 0 then a else
  let rank (c : Nat) : Nat := match c with | 4 => 0 | 5 => 1 | 6 => 2 | 0x16 => 3 | 7 => 4 | _ => 5
  if rank b < rank a then b else a

/-- Table 10-1 checks 3 to 7: one piece of a read, performed after the accepted accesses of its line. -/
def readPiece (s : State) (a : Ag) (ea : Word) (n : Nat) : State × Nat × List Byte :=
  if isLocal ea then
    let off := ea.toNat % 2 ^ 18
    let key := tmemKey a.tile off
    if !a.lvl && inWindow (s.graph a.graph).hwin off n then (s, 6, List.replicate n 0)
    else
      let s1 := tmemSense (portUse s a.tile a.port off n) key n
      (s1, if tmemPoison s1 key n then 8 else 0, Memory.readBytes s1.tmem key n)
  else
    match translate s a (vaOf ea) false with
    | (s1, 0, e, large) => homeRead (drainLine s1 (lineOf e large ea)) a e large ea n 0
    | (s1, c, _, _) => (s1, c, List.replicate n 0)

/-- R286: a read of n bytes that may span lines. -/
def readRange (s : State) (a : Ag) (ea : Word) (n : Nat) : State × Nat × List Byte :=
  (linePieces ea n).foldl (fun (acc : State × Nat × List Byte) (p : Word × Nat × Nat) =>
    let (s', c, b) := readPiece acc.1 a p.1 p.2.2
    (s', firstCause acc.2.1 c, acc.2.2 ++ b)) (s, 0, [])

/-- One piece of an engine's write, accepted and performed at once. -/
def writePiece (s : State) (a : Ag) (ea : Word) (bytes : List Byte) (poison : Bool) : State × Nat :=
  if isLocal ea then
    let off := ea.toNat % 2 ^ 18
    let key := tmemKey a.tile off
    if !a.lvl && inWindow (s.graph a.graph).hwin off bytes.length then (s, 6)
    else
      let s1 := tmemWriteBy (portUse s a.tile a.port off bytes.length) a key bytes
      (if poison then tmemMark s1 key bytes.length else s1, 0)
  else
    match translate s a (vaOf ea) true with
    | (s1, 0, e, large) =>
      if Pte.ts e && (ea.toNat % 32 != 0 || bytes.length % 32 != 0) then (s1, 4) else
      let (s2, c) := homeWrite (drainLine s1 (lineOf e large ea)) a e large ea bytes 0 poison
      (signalQueue s2 e large ea, c)
    | (s1, c, _, _) => (s1, c)

/-- A write of an engine that may span lines; the pieces go in order and stop at the first that is refused. -/
def writeRange (s : State) (a : Ag) (ea : Word) (bytes : List Byte) (poison : Bool) : State × Nat :=
  (linePieces ea bytes.length).foldl (fun (acc : State × Nat) (p : Word × Nat × Nat) =>
    if acc.2 ≠ 0 then acc else writePiece acc.1 a p.1 ((bytes.drop p.2.1).take p.2.2) poison) (s, 0)

/-- R121, R296: whether an operation on n bytes of a codec page is refused. -/
def codecRefuses (op : Option Nat) (ea : Word) : Bool :=
  match op with
  | some k => !(k == 18 || k == 21 || k == 22) || ea.toNat % 8 != 0
  | none => true

/-- R170, R296, R300: a read-modify-write of n bytes of one line by an agent, performed at once. `op`: the operation code
of an atomic, none for a cleat or group object (which a codec page refuses). -/
def rmwPiece (s : State) (a : Ag) (ea : Word) (n : Nat) (op : Option Nat) (f : List Byte → List Byte) :
    State × Nat × List Byte :=
  if isLocal ea then
    let off := ea.toNat % 2 ^ 18
    let key := tmemKey a.tile off
    let old := Memory.readBytes s.tmem key n
    let s0 := tmemSense (portUse s a.tile a.port off n) key n
    if !a.lvl && inWindow (s.graph a.graph).hwin off n then (s, 6, old)
    else if op == some 18 || op == some 21 || op == some 22 then (s, 6, old)
    else if tmemPoison s0 key n then (s0, 8, old)
    else (tmemWriteBy s0 a key (f old) f, 0, old)
  else
    match translate s a (vaOf ea) true with
    | (s1, 0, e, large) =>
      if Pte.ts e then (s1, 4, List.replicate n 0)
      else if Pte.codec e && codecRefuses op ea then (s1, 0x16, List.replicate n 0)
      else
        let (s2, c, old) := homeRmw (drainLine s1 (lineOf e large ea)) a e large ea n f
        (signalQueue s2 e large ea, c, old)
    | (s1, c, e, _) => (s1, if c = 6 ∧ a.lvl ∧ Pte.ts e then 4 else c, List.replicate n 0)

/-- R301, R477: an engine completion of n bytes on a cleat; the cause that refuses it (0 none). -/
def completeOn (s : State) (a : Ag) (cleat : Word) (n : Nat) : State × Nat :=
  if cleat = 0 then (s, 0) else
  let (s', c, _) := rmwPiece s a cleat 16 none (cleatBytes (.rmw (-(n : Int)) 0))
  (s', c)

/-- R447: the record of a poison consumption by the slot i: `synd` 0 a load, 1 a fetch, 2 an atomic, 3 an engine command. -/
def poisonRecord (s : State) (i synd : Nat) (addr : Word) (tpc : PC) : State :=
  let t := s.thread i
  record s { Rec.plain 3 (tileOf i) (some t.graph) synd addr (tpc.zeroExtend 64) with
    ukind := 6, slot := slotOf i, ctx := t.lctx.toNat }

end Sys2Proof.Machine
end

