-- ==== Sys2Proof/Machine/Edge.lean ====
section
/-! DEFINITION. The two ends of a strand: its producer, its consumer and its permits (R44, R131, R157), sinks (R161, R418), coils (R143 to
R146), and arrivals at an input endpoint with what a snapshot records of them (R56, R402). -/

namespace Sys2Proof.Machine

/-! ### Stall registers (Table 5-4) -/

namespace Stall
/-- The element fired, or is empty at every input. (DEDUCED, A30) -/
def fire (x : Stall) : Stall := { x with last := 0, which := 0 }
/-- Input i was missing; `waited`: it counts as a cycle of waiting. -/
def noInput (x : Stall) (i : Nat) (waited : Bool) : Stall :=
  { x with last := 1, which := .ofNat 3 i, inwait := if waited && x.inwait != BitVec.allOnes 30 then x.inwait + 1 else x.inwait }
/-- A cycle in which an input head was missing while another was present counts, where `waited`. -/
def counted (x : Stall) (waited : Bool) : Stall :=
  { x with inwait := if waited && x.inwait != BitVec.allOnes 30 then x.inwait + 1 else x.inwait }
/-- A permit of output i was missing. -/
def noOutput (x : Stall) (i : Nat) : Stall :=
  { x with last := 2, which := .ofNat 3 i, outwait := if x.outwait != BitVec.allOnes 29 then x.outwait + 1 else x.outwait }
/-- Table 5-4: the register; `held`: clock-gated or frozen. -/
def word (x : Stall) (held : Bool) : Word :=
  wd ((if held then 3 else x.last.toNat) * 2 ^ 62 + x.which.toNat * 2 ^ 59 + x.inwait.toNat * 2 ^ 29 + x.outwait.toNat)
end Stall

/-- R312: PRED of a beat of n bytes: the words that hold copied bytes. -/
def predBytes (n : Nat) : BitVec 8 := .ofNat 8 (2 ^ ((n + 3) / 4) - 1)

/-! ### Strands as a thread sees them (R43, R44) -/

/-- R164: the tile that an output endpoint of a graph feeds, and the endpoint number there. -/
def destOf (s : State) (g : Nat) (e f : Nat) : Nat × Nat :=
  let gr := s.graph g
  (tileAt (gr.x + EpF.destx f) (gr.y + EpF.desty f), EpF.destep f + if 32 ≤ e then 32 else 0)

/-- R44, R143, R145: capacity and free coil lines that a consumer endpoint adds: a marker takes no line of the room, and lines consumed since
an open wave's snapshot are not free. -/
def coilRoom (p : Endpoint) : Nat × Nat :=
  if p.spill then (p.climit, p.climit - ((p.coil.filter (fun b => !b.isMarker)).length + p.spent)) else (0, 0)

/-- R44: capacity and room of the strand of output endpoint e of the running slot. A strand bound to a fabric port has no
consumer on the die and is taken to have room (DESIGN CHOICE, A16). (DEDUCED, A71) -/
def strandRoom (s : State) (tile e : Nat) : Nat × Nat :=
  let t := s.tile tile
  let f := epFrame t e
  let g := (epGraph t e).getD 0
  if EpF.toPort f then (64, 64) else
  let (dt, de) := destOf s g e f
  let d := s.tile dt
  let df := epFrame d de
  let direct := feedsNode t e
  let nd := direct.getD (EpF.unit df)
  let nf := ndFrame t nd
  if direct.isSome ∨ dt = tile ∧ EpF.attach df = 3 ∧ NdF.kind nf = 4 then
    let n := t.node nd
    let caps := (List.range (NdF.nout nf)).map (fun b =>
      let oe := NdF.outp nf b
      let of_ := epFrame t oe
      let (ct, ce) := destOf s g oe of_
      let c := (s.tile ct).ep ce
      let q := EpF.q (epFrame (s.tile ct) ce)
      let w := if n.spill then n.climit else if NdF.kind nf = 4 then NdF.win nf b else 0
      let cap := w + q + (coilRoom c).1
      let out := t.ep oe
      let real (l : List Beat) : Nat := (l.filter (fun (x : Beat) => !x.isMarker)).length
      (cap, cap - (n.taken - Assoc.getD n.accepted b 0 + real out.q + real (c.q ++ c.coil) +
        (s.flights.filter (fun (x : Flight) => x.srcTile == tile && x.srcEp == oe && !x.beat.isMarker)).length)))
    (caps.foldl (fun m c => min m c.1) (2 ^ 32), caps.foldl (fun m c => min m c.2) (2 ^ 32))
  else
    let c := d.ep de
    (EpF.q df + (coilRoom c).1, (t.ep e).permits + (coilRoom c).2)

/-- The beats of a bight's push buffer for endpoint e. -/
def pushesTo (b : Bight) (e : Nat) : List Beat := (b.pushes.filter (fun p => p.ep == e)).map Push.beat

/-- The endpoints a bight pushes to. -/
def pushEps (b : Bight) : List Nat := (b.pushes.map Push.ep).eraseDups

/-- R131: the producer of an input endpoint: the output endpoint of the graph whose frame names it. (DEDUCED, A71) -/
def producerOf (s : State) (tile e : Nat) : Option (Nat × Nat) :=
  match epGraph (s.tile tile) e with
  | none => none
  | some g =>
    ((graphTiles (s.graph g)).flatMap (fun (_, _, t) =>
      (pick 40 (fun o =>
        let f := epFrame (s.tile t) o
        EpF.used f && EpF.out f && !EpF.toPort f && epGraph (s.tile t) o == some g && decide (32 ≤ o) == decide (32 ≤ e) &&
          destOf s g o f == (tile, e) && (feedsNode (s.tile t) o).isNone)).map (fun o => (t, o)))).head?

/-- R144, R146: whether an input endpoint takes arrivals under Table 5-5. -/
def Endpoint.spills (p : Endpoint) : Bool := p.spill || !p.coil.isEmpty

/-- R440: the fabric port and its stream port that feed an input endpoint from a peer. -/
def peerFeed (s : State) (tile e : Nat) : Option (Nat × Nat) :=
  s.ports.findSome? (fun x => (x.2.inputs.find? (fun y => y.2 == 40 * tile + e)).map (fun y => (x.1, y.1)))

/-- R131, R441: n permits more that a port owes the peer's edge to a stream port. -/
def Port.owing (p : Port) (sp n : Nat) : Port := if n = 0 then p else { p with owes := Assoc.set p.owes sp (Assoc.getD p.owes sp 0 + n) }

/-- R157: the beats of stream engines among the ordinary beats that wait in an endpoint's queue, or in its coil. -/
def Endpoint.enginesIn (p : Endpoint) (q : List Beat) : Nat :=
  let real (l : List Beat) : Nat := (l.filter (fun b => !b.isMarker)).length
  let last := p.came - real p.coil
  (p.mine.filter (fun m => decide (last - real q ≤ m.1) && decide (m.1 < last))).length

/-- R157, R131: the permits of a stream engine whose beats have left the queue, or have been accepted with a coil, sent back to it. -/
def returnMine (s : State) (tile e : Nat) : State :=
  let p := (s.tile tile).ep e
  let real (l : List Beat) : Nat := (l.filter (fun b => !b.isMarker)).length
  let gone := p.mine.filter (fun m => p.spills || decide (m.1 < p.came - real p.coil - real p.q))
  if gone.isEmpty then s else
  { s.mapTile tile (fun t => t.mapEp e (fun p => { p with mine := p.mine.filter (fun m => !gone.contains m) })) with
    permits := s.permits ++ gone.map (fun m => { tile := tile, ep := 40 + m.2, due := s.cycle.toNat + 1 }) }

/-- R131, R144: the ordinary permits of an edge that are neither held, nor under way, nor standing for a beat under way or, without
a coil, in the queue: freed slots, whose permits set out for the producer: 1 cycle, then the edge's latency. (DESIGN CHOICE, A45) -/
def returnPermits (s0 : State) (tile e : Nat) : State :=
  let s := returnMine s0 tile e
  let p := (s.tile tile).ep e
  let real (b : Beat) : Bool := !b.isMarker
  match producerOf s tile e with
  | none => (match peerFeed s tile e with
    | none => s
    | some (port, sp) =>
      let n := p.permits - if p.spills then 0 else (p.q.filter real).length
      (s.mapTile tile (fun t => t.mapEp e (fun p => { p with permits := p.permits - n }))).mapPort port (fun q => q.owing sp n))
  | some (pt, pe) =>
    let out := ((s.tile pt).ep pe).permits + (s.permits.filter (fun x => x.tile == pt && x.ep == pe)).length +
      (s.flights.filter (fun f => f.dstTile == tile && f.dstEp == e && f.srcTile == pt && f.srcEp == pe && real f.beat)).length +
      if p.spills then 0 else (p.q.filter real).length - p.enginesIn p.q
    let back : PermitFly := { tile := pt, ep := pe, due := s.cycle.toNat + 1 + latency tile pt }
    { s with permits := s.permits ++ List.replicate (EpF.q (epFrame (s.tile tile) e) - out) back }

/-! ### Sinks (R161, R418) -/

/-- A device step that follows at once. -/
def post (s : State) (i : Instr) : State := { s with agenda := s.agenda ++ [i] }

/-- R418: a rollback trigger of a graph. -/
def trigger (s : State) (g cause : Nat) : State := post s (.rollback g cause)

/-- R147, R161: beats that a sink or endpoint commits: its counts, and, of KIND data or error, those of its rate group. -/
def Endpoint.counted (p : Endpoint) (bs : List Beat) : Endpoint :=
  let n := (bs.filter (fun b => !b.isMarker)).length
  { p with rate := p.rate + .ofNat 32 (bs.filter (fun b => b.kind == 0 || b.kind == 2)).length, beats := p.beats + .ofNat 32 n,
           errors := p.errors + .ofNat 32 (bs.filter (fun b => b.kind == 2)).length }

/-- Table 18-5: an error beat of code 0x02 or 0x03. -/
def Beat.harmful (b : Beat) : Bool := b.kind == 2 && (b.data.toNat % 256 == 2 || b.data.toNat % 256 == 3)

/-- Table 21-1, CTX: the logical context of an endpoint, a node or a stream engine of a tile. -/
def unitCtx (s : State) (tile ukind unit : Nat) : Nat :=
  let t := s.tile tile
  let c := match ukind with
    | 0 => claimEp t unit
    | 1 => claimEp t (32 + unit)
    | 2 => claimNd t unit
    | 3 => claimEn t unit
    | _ => some unit
  match c with
  | some k => (t.ctx k).lctx
  | none => 0

/-- Table 21-2 class 0x08, Table 18-5: error beats of code 0x02 or 0x03 that reach a sink: one record for each wave and
sink, and the trigger. -/
def sinkErrors (s : State) (g tile ukind unit : Nat) (seen : Bool) (bs : List Beat) : State :=
  match (bs.filter Beat.harmful).head? with
  | none => s
  | some b =>
    let s1 := if seen then s else
      record s { Rec.plain 8 tile (some g) (b.data.toNat % 256) 0 (wd (fld b.data.toNat 63 32)) with
        ukind := ukind, unit := unit, ctx := unitCtx s tile ukind unit }
    trigger s1 g 0x08

/-- The wave an element works in: the open one, or the next. -/
def waveNow (s : State) (g : Nat) : BitVec 16 := (s.graph g).lastWave

/-- R127: whether a beat is marker n. -/
def Beat.isMark (b : Beat) (n : BitVec 16) : Bool := b.isMarker && b.data.toNat % 2 ^ 16 == n.toNat

/-! ### Waves at an element (R56, R402) -/

/-- An entry of the pending snapshot of a graph changed. -/
def mapPending (s : State) (g : Nat) (f : Snap → Snap) : State := s.mapGraph g (fun x => { x with pending := x.pending.map f })

/-- R56: the pending snapshot's entry for an endpoint. -/
def snapEntry (s : State) (g tile e : Nat) : Option Endpoint := (s.graph g).pending.bind (fun x => Assoc.get? x.eps (40 * tile + e))

/-- R56: a beat that reaches an input of an element after the element's snapshot and before the input's marker is recorded. -/
def recordLate (s : State) (g tile e : Nat) (b : Beat) : State :=
  match (s.graph g).openWave, snapEntry s g tile e with
  | some n, some x =>
    if ((s.tile tile).ep e).marker = n then s
    else mapPending s g (fun y => { y with eps := Assoc.set y.eps (40 * tile + e) { x with caught := x.caught ++ [b] } })
  | _, _ => s

/-! ### Coils (R143 to R146) -/

/-- R25, R143: the key of coil-area line j of a tile, in the partition of a graph. -/
def coilKey (s : State) (tile g j : Nat) : Nat := vaultKey tile (fld (s.part (graphPart g)).bankmap.toNat 12 8 * (6 * 2 ^ 20) + 64 * j)

/-- R143: the 64 bytes of a coil line. -/
def coilBytes (b : Beat) : List Byte :=
  leBytes 32 b.data.toNat ++ [.ofNat 8 b.pred.toNat, .ofNat 8 (64 * b.kind.toNat + b.tag.toNat)] ++ List.replicate 30 0

/-- R143: the beat in the bytes of a coil line. -/
def coilBeat (bs : List Byte) : Beat :=
  { data := .ofNat 256 (leNat (bs.take 32)), pred := .ofNat 8 (leNat ((bs.drop 32).take 1)),
    kind := .ofNat 2 (leNat ((bs.drop 33).take 1) / 64), tag := .ofNat 6 (leNat ((bs.drop 33).take 1)) }

/-- R143: a beat written to coil-area line j of a tile, under tag 0. -/
def coilWrite (s : State) (tile g j : Nat) (b : Beat) : State :=
  let k := coilKey s tile g j
  let s1 := { s with vault := Memory.writeBytes s.vault k (coilBytes b) }
  (s1.setSector (k / 32) { tag := 0, cond := .clean }).setSector (k / 32 + 1) { tag := 0, cond := .clean }

/-- R143, R118, R446, R362: coil-area line j of a tile read for the beat that was written there: its bytes, or an error beat of code 0x02 whose
element index is free, and whose tag is free where the sector that holds it is lost; a marker is not lost. (DEDUCED, A95) -/
def coilRead (s : State) (tile g j : Nat) (b : Beat) : State × Beat :=
  let k := coilKey s tile g j
  let (s1, cs) := readEach s [k / 32, k / 32 + 1] (fun _ => 0)
  let found := coilBeat (Memory.readBytes s.vault k 64)
  if b.isMarker then (s1, b)
  else if verdictOf cs = 0 then (s1, found)
  else
    let f := (Config.freeWord s1.drawn).toNat
    (s1.draw, { errorBeat 2 (fld f 31 0) with tag := if cs.getD 1 0 = 0 then found.tag else .ofNat 6 (fld f 37 32) })

/-- R113, R144: a background activate of the bank of coil-area line j, at the first line of a run or of a row. (DESIGN CHOICE, A45) -/
def coilActivate (s : State) (tile g j : Nat) (first : Bool) : State :=
  if !first && j % 48 != 0 then s else
  let bank := fld (s.part (graphPart g)).bankmap.toNat 12 8 + 64 * j / (6 * 2 ^ 20)
  s.mapTile tile (fun t => t.mapBank bank (fun b => { b with bgSince := some (b.bgSince.getD s.cycle.toNat) }))

/-- R143, R144: a beat or marker written at the tail of the coil of an input endpoint. -/
def coilPut (s : State) (tile g e : Nat) (b : Beat) : State :=
  let p := (s.tile tile).ep e
  let f := epFrame (s.tile tile) e
  let j := EpF.cbase f + p.tail
  let s1 := coilActivate (coilWrite s tile g j b) tile g j (p.coil.isEmpty || p.tail == 0)
  s1.mapTile tile (fun t => t.mapEp e (fun p =>
    { p with coil := p.coil ++ [b], lines := p.lines ++ [j], tail := (p.tail + 1) % (EpF.climit f + 1) }))

/-! ### Arrivals at an input endpoint (R56, R57, R131, R144) -/

/-- The beats, markers apart, that wait in an endpoint. -/
def waitingBeats (p : Endpoint) : Nat := (p.q.filter (fun b => !b.isMarker)).length

/-- R56, R147: marker n met at an endpoint whose element has its snapshot already: recording ends there, and so does the count of wave n, which
the snapshot holds. (DEDUCED, A108) -/
def closeEp (s : State) (g tile e : Nat) (n : BitVec 16) : State :=
  let p := (s.tile tile).ep e
  (mapPending s g (fun y => { y with eps := y.eps.map (fun x => if x.1 = 40 * tile + e then (x.1, { x.2 with rate := p.rate }) else x) })).mapTile tile
    (fun t => t.mapEp e (fun p => { p with marker := n, rate := 0 }))

/-- R56, R57, R144: a marker at an input endpoint: consumed where the element has its snapshot; else it follows the beats before it. -/
def arriveMarker (s : State) (g tile e : Nat) (b : Beat) : State :=
  let p := (s.tile tile).ep e
  let set (h : Endpoint → Endpoint) : State := s.mapTile tile (fun t => t.mapEp e h)
  if some (BitVec.ofNat 16 b.data.toNat) != (s.graph g).openWave then set (fun p => { p with marker := .ofNat 16 b.data.toNat })
  else if (snapEntry s g tile e).isSome then closeEp s g tile e (.ofNat 16 b.data.toNat)
  else if p.coil.isEmpty then set (fun p => { p with q := p.q ++ [b] })
  else coilPut s tile g e b

/-- R144: whether an input endpoint takes a beat: under Table 5-5, unless its coil holds as many as it may. -/
def coilAccepts (p : Endpoint) : Bool :=
  !p.spills || (p.coil.isEmpty && decide (waitingBeats p < p.hi)) ||
    decide ((p.coil.filter (fun b => !b.isMarker)).length < p.climit - p.spent)

/-- R131, R144, Table 5-5: an ordinary beat at an input endpoint; none where the coil refuses it. R56, R402: under a cut, an element that has its
snapshot empties its coil no more: a beat that the coil refuses belongs to the snapshot alone. -/
def arriveBeat (s : State) (g tile e : Nat) (b : Beat) : Option State :=
  let p := (s.tile tile).ep e
  if !coilAccepts p then
    (if (s.graph g).cutting && (snapEntry s g tile e).isSome && some p.marker != (s.graph g).openWave then some (recordLate s g tile e b) else none)
  else
  let s1 := if !p.spills || (p.coil.isEmpty && decide (waitingBeats p < p.hi)) then
      s.mapTile tile (fun t => t.mapEp e (fun p => { p with q := p.q ++ [b] }))
    else coilPut s tile g e b
  some (recordLate (s1.mapTile tile (fun t => t.mapEp e (fun p => { p with came := p.came + 1 }))) g tile e b)

end Sys2Proof.Machine
end

