-- ==== Sys2Proof/Machine/Flow.lean ====
section
/-! DEFINITION. Running streams (R151 to R159, R434, R435, R477): the visiting of elements, beats and lines, the spill queue,
owner tokens, and the commands that act on a running stream. -/

namespace Sys2Proof.Machine

/-! ### Shared operations -/

/-- R157: whether the drain unit has handed over a beat that a PORT 1 stream has yet to unpack. -/
def Engine.drained (x : Engine) : Bool := Scb.port x.scb.toNat == 1 && (x.out.isSome || !x.caught.isEmpty)

/-- R414, R169: the agent that a stream engine is. -/
def agEngine (s : State) (tile e : Nat) : Ag :=
  let x := (s.tile tile).engine e
  let g := ((claimEn (s.tile tile) e).bind (fun k => ((s.tile tile).ctx k).graph)).getD 0
  { tile := tile, eng := some e, part := graphPart g, lvl := x.lvl, graph := g, epoch := x.epoch, th := 4 * tile + x.opener, port := 1 + e }

/-- R399: the agent as which a stream engine reads an address: a stream that has moved reads the global space at the tile it has moved to. -/
def agReader (s : State) (tile e : Nat) (ea : Word) : Ag :=
  let a := agEngine s tile e
  if isLocal ea then a else { a with tile := ((s.tile tile).engine e).host.getD tile }

/-- R402: whether the elements of an engine's graph fire, and the engine has not stopped at a cut. -/
def engineRuns (s : State) (tile e : Nat) : Bool :=
  let g := (agEngine s tile e).graph
  elementRuns s tile g && !cutStops s g ((s.tile tile).engine e).epoch

/-- A stream engine changed. -/
def mapEng (s : State) (tile e : Nat) (f : Engine → Engine) : State := s.mapTile tile (fun t => t.mapEngine e f)

/-- R433: a page holds the engine; the first address stands until the retry. -/
def engHold (s : State) (tile e : Nat) (ea : Word) : State := mapEng s tile e (fun x => { x with held := some (x.held.getD ea) })

/-- R477, R318: the trap of a running stream: it ends as SSTOP ends it, without its owner token and with no further completion;
its thread's unstarted commands are cancelled and the trap waits. (DEDUCED, A41) (DEDUCED, A42) -/
def streamTrap (s : State) (tile e code : Nat) (tval : Word) : State :=
  let x := (s.tile tile).engine e
  let w := x.scb.toNat
  let s1 := mapEng s tile e (fun x => { x with
    ending := true, owed := 0, held := if x.spills.isEmpty && !(x.part ++ x.ready.flatMap Prod.snd).any (fun c => c.code == 5) then none else x.held,
    scb := .ofNat 1024 (w % 2 ^ 960 - if bit w 54 then 2 ^ 54 else 0) })
  s1.mapThread (4 * tile + x.opener) (fun t =>
    { t with queues := t.queues.map (fun u => { u with waiting := [] }),
             pend := some (t.pend.getD { code := code, tval := tval, q := 2, epc := x.pc }) })

/-- R447: the record of the first poison that a stream consumes. -/
def engPoison (s : State) (tile e : Nat) (ea : Word) : State :=
  let x := (s.tile tile).engine e
  if x.logged then s else mapEng (poisonRecord s (4 * tile + x.opener) 3 ea x.pc) tile e (fun x => { x with logged := true })

/-- R159: bytes to be completed on the stream's cleat. -/
def Engine.owe (x : Engine) (n : Nat) : Engine := if Scb.cleat x.scb.toNat = 0 then x else { x with owed := x.owed + n }

/-- R155: elements that are skipped and counted, and completed as if moved. -/
def Engine.skip (x : Engine) (n errs : Nat) : Engine := { x.owe n with errors := x.errors + .ofNat 32 errs }

/-- R301, R477: the bytes owed to the cleat completed. -/
def payOwed (s : State) (tile e : Nat) : State :=
  let x := (s.tile tile).engine e
  let c := Scb.cleat x.scb.toNat
  if x.owed = 0 || agentHeld s (agEngine s tile e) true [(c, 16)] then s else
  match completeOn s (agEngine s tile e) c x.owed with
  | (s1, 0) => mapEng s1 tile e (fun x => { x with owed := 0 })
  | (s1, 5) => engHold s1 tile e c
  | (s1, k) => streamTrap (if k = 8 then engPoison s1 tile e c else s1) tile e k c

/-! ### Elements (R151, R153) -/

/-- R151: every element has been visited. -/
def Engine.done (x : Engine) : Bool :=
  let w := x.scb.toNat
  Scb.empty w || (!Scb.unbounded w && decide (Scb.count w 3 ≤ x.i3))

/-- R151: the address of the element to be visited. -/
def Engine.addr (x : Engine) : Word :=
  let w := x.scb.toNat
  let o3 := if Scb.indmode w = 0 then wi ((x.i3 : Int) * Scb.stride w 3) else wd (x.idx.getD 0 * 2 ^ Scb.ishift w)
  wd (Scb.base w) + o3 + wi ((x.i2 : Int) * Scb.stride w 2) + wi ((x.i1 : Int) * Scb.stride w 1) + wi ((x.i0 : Int) * Scb.stride w 0)

/-- R151: the next element; the index of level 3 is fetched anew with each of its values. -/
def Engine.advance (x : Engine) : Engine :=
  let w := x.scb.toNat
  let y := { x with elem := x.elem + 1 }
  if x.i0 + 1 < Scb.count w 0 then { y with i0 := x.i0 + 1 }
  else if x.i1 + 1 < Scb.count w 1 then { y with i0 := 0, i1 := x.i1 + 1 }
  else if x.i2 + 1 < Scb.count w 2 then { y with i0 := 0, i1 := 0, i2 := x.i2 + 1 }
  else { y with i0 := 0, i1 := 0, i2 := 0, i3 := x.i3 + 1, idx := none, idxErr := 0 }

/-- R153: an iteration of level FLUSHLV has just ended. -/
def Engine.atFlush (x : Engine) : Bool :=
  let w := x.scb.toNat
  Scb.flushen w && ((Scb.flushlv w == 0) || x.i0 == 0) && (decide (Scb.flushlv w ≤ 1) || x.i1 == 0) &&
    (decide (Scb.flushlv w ≤ 2) || x.i2 == 0)

/-- The head beat of an input endpoint taken for use: its slot is freed. -/
def takeHead (s : State) (tile e : Nat) : State :=
  let p := (s.tile tile).ep e
  returnPermits (s.mapTile tile (fun t => t.mapEp e (fun p => { p.counted (p.q.take 1) with q := p.q.drop 1 }))) tile e

/-- R154: the index of level 3 as it comes in: at or above IBOUND it is out of range; a write stream counts that once. -/
def Engine.setIndex (x : Engine) (v err : Nat) : Engine :=
  let w := x.scb.toNat
  let k := if err ≠ 0 then err else if Scb.ibound w ≤ v then 1 else 0
  { x with idx := some v, idxErr := k, errors := if k ≠ 0 ∧ Scb.write w then x.errors + 1 else x.errors }

/-- R151, R154: the index of level 3 fetched, from the array or the strand. (DEDUCED, A72) -/
def fetchIndex (s : State) (tile e : Nat) : State :=
  let x := (s.tile tile).engine e
  let w := x.scb.toNat
  if Scb.indmode w = 1 then
    let n := Scb.indBytes w
    let ea := wd (Scb.ibase w + x.i3 * n)
    if !addressOk ea n then mapEng s tile e (fun x => x.setIndex 0 4)
    else if agentHeld s (agReader s tile e ea) false [(ea, n)] then s else
    match readRange s (agReader s tile e ea) ea n with
    | (s1, 0, bs) => mapEng s1 tile e (fun x => x.setIndex (leNat bs) 0)
    | (s1, 5, _) => mapEng (engHold s1 tile e ea) tile e (fun x => { x with stopped := true })
    | (s1, 8, _) => mapEng (engPoison s1 tile e ea) tile e (fun x => x.setIndex 0 2)
    | (s1, _, _) => mapEng s1 tile e (fun x => x.setIndex 0 4)
  else
    let p := (s.tile tile).ep (Scb.iep w)
    match p.q.head? with
    | none => if Scb.write w then mapEng s tile e (fun x => { x with stall := x.stall.noInput 1 true })
      else mapEng s tile e (fun x => { x with stall := x.stall.fire })
    | some b =>
      if b.isMarker then s else
      mapEng (takeHead s tile (Scb.iep w)) tile e (fun x =>
        { x.setIndex (fld b.data.toNat 63 0) 0 with errors := (x.setIndex (fld b.data.toNat 63 0) 0).errors + if b.kind = 2 then 1 else 0 })

/-- R154: whether the engine must fetch an index before its next element. -/
def Engine.needsIndex (x : Engine) : Bool := Scb.indmode x.scb.toNat != 0 && x.idx.isNone

/-! ### Read streams (R153, R154, R157, R434) -/

/-- R153, R154: the beat that closed cells make; of elements that fail for different causes the first in visiting order gives the code, which the
spec does not choose. (DESIGN CHOICE, A103) -/
def cellBeat (first : Nat) (cs : List Cell) : Beat :=
  match cs.find? (fun c => c.code != 0) with
  | some c => errorBeat c.code first
  | none =>
    let bytes := cs.flatMap Cell.bytes
    { data := .ofNat 256 (leNat bytes), pred := predBytes bytes.length, kind := 0, tag := 0 }

/-- R434: elements of a read stream that wait for their page. -/
def Engine.gaps (x : Engine) : Nat := (((x.ready.map Prod.snd).flatten ++ x.part).filter (fun c => c.code == 5)).length

/-- R153: the beat being built closed. -/
def Engine.close (x : Engine) : Engine :=
  if x.part.isEmpty then x else { x with ready := x.ready ++ [(x.elem - x.part.length, x.part)], part := [] }

/-- R151, R153: one element read into the beat being built. -/
def Engine.put (x : Engine) (c : Cell) : Engine :=
  let y := { x with part := x.part ++ [c] }.advance
  if decide (32 / Scb.ew x.scb.toNat ≤ y.part.length) || y.atFlush || y.done then y.close else y

/-- R154: an element read: its bytes, or why it has none. -/
def readCell (s : State) (tile e : Nat) (ea : Word) (w : Nat) : State × Cell :=
  match readRange s (agReader s tile e ea) ea w with
  | (s1, 0, bs) => (s1, { ea := ea, code := 0, bytes := bs })
  | (s1, 5, _) => (s1, { ea := ea, code := 5, bytes := [] })
  | (s1, 8, _) => (engPoison s1 tile e ea, { ea := ea, code := 2, bytes := List.replicate w 0 })
  | (s1, _, _) => (s1, { ea := ea, code := 4, bytes := List.replicate w 0 })

/-- R151, R154, R434: the next element of a read stream; one that finds the spill queue full stops the engine. -/
def readElem (s : State) (tile e : Nat) : State :=
  let x := (s.tile tile).engine e
  let w := x.scb.toNat
  if x.needsIndex then fetchIndex s tile e
  else if x.idxErr ≠ 0 then mapEng s tile e (fun x => x.put { ea := x.addr, code := x.idxErr, bytes := List.replicate (Scb.ew w) 0 })
  else if agentHeld s (agReader s tile e x.addr) false [(x.addr, Scb.ew w)] then s
  else
    let (s1, c) := readCell s tile e x.addr (Scb.ew w)
    if c.code = 5 ∧ 16 ≤ x.gaps then mapEng s1 tile e (fun x => { x with stopped := true })
    else mapEng (if c.code = 5 then engHold s1 tile e c.ea else s1) tile e (fun x => x.put c)

/-- R157: whether stream engine e holds one of its Q permits to the queue that feeds the array. -/
def feedPermit (s : State) (tile e k : Nat) : Bool :=
  let p := (s.tile tile).ep k
  let under := (s.permits.filter (fun x => x.tile == tile && x.ep == 40 + e)).length
  decide ((p.mine.filter (fun m => m.2 == e)).length + under < EpF.q (epFrame (s.tile tile) k))

/-- R157: whether the port takes a beat in this cycle. -/
def portRoom (s : State) (tile e : Nat) : Bool :=
  let t := s.tile tile
  let w := (t.engine e).scb.toNat
  match Scb.port w with
  | 0 => match claimEn t e with
    | some c =>
      let f := MpF.feedep (t.ctx c).mpF
      feedPermit s tile e f && coilAccepts (t.ep f)
    | none => false
  | 2 => waitingBeats (t.ep (Scb.ep w)) == 0
  | 3 =>
    let off := Scb.lbase w % 2 ^ 18 + 32 * (t.engine e).beatNo
    !tmemWaits s tile off 32 && !portHeld s tile (1 + e) off 32
  | _ => true

/-- R157: a beat handed to the port. -/
def portSend (s : State) (tile e : Nat) (b : Beat) : State :=
  let t := s.tile tile
  let x := t.engine e
  let w := x.scb.toNat
  let enter (k : Nat) : State := s.mapTile tile (fun t => t.mapEp k (fun p => { p with q := p.q ++ [b] }))
  match Scb.port w with
  | 0 => match claimEn t e with
    | some c =>
      let k := MpF.feedep (t.ctx c).mpF
      let owned := s.mapTile tile (fun t => t.mapEp k (fun p => { p with mine := p.mine ++ [(p.came, e)] }))
      (match arriveBeat owned (agEngine s tile e).graph tile k b with
        | some s1 => returnPermits s1 tile k
        | none => s)
    | none => s
  | 2 => enter (Scb.ep w)
  | _ =>
    let off := Scb.lbase w % 2 ^ 18 + 32 * x.beatNo
    let key := tmemKey tile off
    let s := portUse s tile (1 + e) off 32
    let bytes := if b.kind = 2 then List.replicate 32 0 else leBytes 32 b.data.toNat
    let g := (agEngine s tile e).graph
    mapEng (sinkErrors (tmemWriteBy s (agEngine s tile e) key bytes) g tile 3 e (x.errSeen == some (waveNow s g)) [b]) tile e (fun x =>
      { x with beats := x.beats + 1, errSeen := if b.harmful then some (waveNow s g) else x.errSeen })

/-- STREAM_BEAT_SEND, R153, R159: the oldest closed beat leaves, unless an element of it still waits for its page. -/
def sendBeat (s : State) (tile e first : Nat) (cs : List Cell) : State :=
  let x := (s.tile tile).engine e
  if cs.any (fun c => c.code == 5) then s
  else if !portRoom s tile e then mapEng s tile e (fun x => { x with stall := x.stall.noOutput 0 })
  else
    let b := cellBeat first cs
    let s1 := portSend s tile e b
    let n := cs.length
    moved (payOwed (mapEng s1 tile e (fun y =>
      { y.owe (n * Scb.ew x.scb.toNat) with
        ready := y.ready.drop 1, beatNo := y.beatNo + 1, stall := y.stall.fire,
        errors := if b.kind = 2 then y.errors + .ofNat 32 n else y.errors })) tile e) (agEngine s tile e).graph

/-- R158: the end of a stream whose beats and lines are gone: it owes its owner token, or it has ended. -/
def streamOver (s : State) (tile e : Nat) : State :=
  mapEng s tile e (fun x =>
    if Scb.ownrel x.scb.toNat then { x with ownOwed := true, host := none } else { x with running := false, ending := false, host := none })

/-- R153, R434: a read stream in one cycle: a closed beat is sent; and an element is visited, while no closed beat waits or, with a
gap, at most four wait behind it. (DEDUCED, A41) -/
def readStep (s : State) (tile e : Nat) : State :=
  let x := (s.tile tile).engine e
  let s1 := match x.ready with
    | (first, cs) :: _ => sendBeat s tile e first cs
    | [] => s
  let y := (s1.tile tile).engine e
  if y.ending || y.done then
    if !y.part.isEmpty then mapEng s1 tile e Engine.close
    else if y.ready.isEmpty && y.owed == 0 then streamOver s1 tile e else s1
  else if y.stopped then s1
  else if y.ready.isEmpty || (decide (0 < y.gaps) && decide (y.ready.length ≤ 4)) then readElem s1 tile e else s1

/-! ### Write streams (R155, R156, R434) -/

/-- R155: the new bytes of an accumulated element. -/
def accBytes (op fmt : Nat) (new old : List Byte) : List Byte :=
  let w := 8 * old.length
  let a := leNat old
  let b := leNat new
  leBytes old.length (match op with
    | 1 => (a + b) % 2 ^ w
    | 2 => if sextN b w < sextN a w then b else a
    | 3 => if sextN a w < sextN b w then b else a
    | 4 => min a b
    | 5 => max a b
    | _ => amoNew (match fmt with | 5 => 20 | 8 => 19 | _ => 18) a b 0)

/-- R156: the runs of bytes of a line, as offset and bytes. -/
def lineRuns (bs : List (Nat × Byte)) : List (Nat × List Byte) :=
  bs.foldl (fun acc b =>
    match acc.getLast? with
    | some (o, r) => if o + r.length = b.1 then acc.dropLast ++ [(o, r ++ [b.2])] else acc ++ [(b.1, [b.2])]
    | none => [(b.1, [b.2])]) []

/-- R155, R156, R112: one line write: performed, refused whole, or spilled ahead of the later elements that wait; with no room for its
elements in the spill queue the line stays and the engine stops (R434). What the refused run of bytes has met stands (R427, R446). R429: a sector
of a tag-setting page written in part ends the stream. (DEDUCED, A93) -/
def sendLine (s : State) (tile e : Nat) (l : CoalLine) : State :=
  let a := agEngine s tile e
  let x := (s.tile tile).engine e
  if agentHeld s a true [(l.ea, 64)] then s else
  let w := Scb.ew x.scb.toNat
  let s0 := mapEng s tile e (fun x => { x with coal := x.coal.filter (fun c => c.ea != l.ea) })
  let write (s : State) (p : Nat × List Byte) : State × Nat := writeRange s a (l.ea + wd p.1) p.2 false
  let r := (lineRuns l.bytes).foldl (fun (acc : State × Nat) p =>
    if acc.2 ≠ 0 then acc else
    match write acc.1 p with
    | (s1, 0) => (s1, 0)
    | (_, c) => ((write s0 p).1, c)) (s0, 0)
  match r with
  | (s1, 0) => payOwed (mapEng s1 tile e (fun x => x.owe l.count)) tile e
  | (s1, 5) =>
    let els := (lineRuns l.bytes).flatMap (fun p => (List.range (p.2.length / w)).map (fun j =>
      ({ ea := l.ea + wd (p.1 + j * w), data := (p.2.drop (j * w)).take w, fault := true, covers := 0, beat := l.beat } : Spilled)))
    let els1 := match els with
      | p :: r => { p with covers := l.count - l.bytes.length } :: r
      | [] => []
    if 16 < (x.spills.filter Spilled.fault).length + els1.length then
      mapEng (engHold s1 tile e l.ea) tile e (fun y => { y with coal := x.coal, stopped := true })
    else engHold (mapEng s1 tile e (fun x => { x with spills := els1 ++ x.spills })) tile e l.ea
  | (s1, 4) => streamTrap s1 tile e 4 l.ea
  | (s1, _) => payOwed (mapEng s1 tile e (fun x => x.skip l.count (l.count / w))) tile e

/-- R433, R434: whether the lines of a stream wait: behind a spilled element, none is performed before its retry. -/
def Engine.linesWait (x : Engine) : Bool := x.held.isSome || x.stopped || x.retry || !x.spills.isEmpty

/-- R156, R434: a line sent, unless it waits. -/
def tryLine (tile e : Nat) (s : State) (l : CoalLine) : State := if ((s.tile tile).engine e).linesWait then s else sendLine s tile e l

/-- R156: every line of the coalescing buffer sent, oldest first. -/
def sendLines (s : State) (tile e : Nat) : State := ((s.tile tile).engine e).coal.foldl (tryLine tile e) s

/-- R156: a line of the coalescing buffer with an element merged in; `covers`: bytes of overwritten elements that it brings along. -/
def CoalLine.merge (l : CoalLine) (now : Nat) (ea : Word) (data : List Byte) (covers beat : Nat) : CoalLine :=
  { l with
    since := now, count := l.count + data.length + covers, beat := if l.bytes.isEmpty then beat else min l.beat beat,
    bytes := data.zipIdx.foldl (fun m (b, j) => Assoc.set m (ea.toNat % 64 + j) b) l.bytes }

/-- R156: the line of an element in the coalescing buffer, empty where the buffer holds none. -/
def Engine.lineFor (x : Engine) (ea : Word) : CoalLine :=
  let base := ea - wd (ea.toNat % 64)
  (x.coal.find? (fun l => l.ea == base)).getD { ea := base, bytes := [], since := 0, count := 0 }

/-- R156: an element merged into the coalescing buffer, unless no line of it can be freed. -/
def mergeElem (s : State) (tile e : Nat) (ea : Word) (data : List Byte) : State × Bool :=
  let base := ea - wd (ea.toNat % 64)
  let x := (s.tile tile).engine e
  let s1 := if !x.coal.any (fun l => l.ea == base) && decide (4 ≤ x.coal.length) then
      (match x.coal.head? with | some l => tryLine tile e s l | none => s)
    else s
  let y := (s1.tile tile).engine e
  let there := y.coal.any (fun l => l.ea == base)
  if y.linesWait || (!there && decide (4 ≤ y.coal.length)) then (s1, false) else
  let new := (y.lineFor ea).merge s.cycle.toNat ea data 0 y.beatNo
  let coal := if there then y.coal.map (fun l => if l.ea == base then new else l) else y.coal ++ [new]
  let s2 := mapEng s1 tile e (fun x => { x with coal := coal })
  (if 64 ≤ new.bytes.length then sendLine s2 tile e new else s2, true)

/-- R155: an accumulated element performed: done, or waiting for its page. -/
def accElem (s : State) (tile e : Nat) (ea : Word) (data : List Byte) : State × Bool :=
  let x := (s.tile tile).engine e
  let w := x.scb.toNat
  let op := if Scb.accop w = 6 ∧ Scb.fmt w = 0xA ∧ !isLocal ea then some 18 else none
  match rmwPiece s (agEngine s tile e) ea data.length op (accBytes (Scb.accop w) (Scb.fmt w) data) with
  | (s1, 0, _) => (payOwed (mapEng s1 tile e (fun x => x.owe data.length)) tile e, true)
  | (s1, 5, _) => (s1, false)
  | (s1, 4, _) => (streamTrap s1 tile e 4 ea, true)
  | (s1, c, _) =>
    (payOwed (mapEng (if c = 8 then engPoison s1 tile e ea else s1) tile e (fun x => x.skip data.length 1)) tile e, true)

/-- R433: whether an element's translation faults. (DEDUCED, A41) -/
def elemFaults (s : State) (tile e : Nat) (ea : Word) : State × Bool :=
  if isLocal ea then (s, false) else
  match translate s (agEngine s tile e) (vaOf ea) true with
  | (s1, c, _, _) => (s1, c == 5)

/-- R155, R434, R112: an element written, or put behind the gap; false where it waits: for its bank, or because the spill queue is full, which
stops the engine. -/
def writeElem (s : State) (tile e : Nat) (ea : Word) (data : List Byte) : State × Bool :=
  let x := (s.tile tile).engine e
  let op := Scb.accop x.scb.toNat
  let faulted := (x.spills.filter Spilled.fault).length
  let spill (s : State) (f : Bool) : State × Bool :=
    if f && decide (16 ≤ faulted) then (mapEng s tile e (fun x => { x with stopped := true }), false) else
    let s1 := mapEng s tile e (fun x => { x with spills := x.spills ++ [{ ea := ea, data := data, fault := f, covers := 0, beat := x.beatNo }] })
    (if f then engHold s1 tile e ea else s1, true)
  if op ≠ 0 ∧ agentHeld s (agEngine s tile e) true [(ea, data.length)] then (s, false)
  else if 1 ≤ op ∧ op ≤ 5 then
    match accElem s tile e ea data with
    | (s1, true) => (s1, true)
    | (s1, false) => spill s1 true
  else
    let (s1, f) := elemFaults s tile e ea
    if f || !x.spills.isEmpty then spill s1 f
    else if op = 0 then mergeElem s1 tile e ea data
    else ((accElem s1 tile e ea data).1, true)

/-- R157: the next beat of a write stream taken in, if there is one. -/
def takeBeat (s : State) (tile e : Nat) : State × Option Beat :=
  let x := (s.tile tile).engine e
  let w := x.scb.toNat
  match Scb.port w with
  | 1 => match x.out with
    | some b => (mapEng s tile e (fun x => { x with out := none }), some b)
    | none => (mapEng s tile e (fun x => { x with caught := x.caught.drop 1 }), x.caught.head?)
  | 3 =>
    let off := Scb.lbase w % 2 ^ 18 + 32 * x.beatNo
    if portHeld s tile (1 + e) off 32 then (s, none) else
    let s1 := tmemSense (portUse s tile (1 + e) off 32) (tmemKey tile off) 32
    if tmemPoison s1 (tmemKey tile off) 32 then (engPoison s1 tile e (wd (0xE * 2 ^ 60 + off)), some (errorBeat 2 x.elem))
    else (s1, some { data := .ofNat 256 (leNat (Memory.readBytes s.tmem (tmemKey tile off) 32)), pred := 0xFF, kind := 0, tag := 0 })
  | _ => match ((s.tile tile).ep (Scb.ep w)).q.head? with
    | some b => if b.isMarker then (s, none) else (takeHead s tile (Scb.ep w), some b)
    | none => (s, none)

/-- R155: whether the element at a position of a beat is to be written. -/
def beatLive (b : Beat) (pos w : Nat) : Bool :=
  b.kind != 2 && (List.range ((w + 3) / 4)).all (fun j => b.pred.getLsbD (pos * w / 4 + j))

/-- R155: one element of the beat being unpacked passed. -/
def Engine.passed (x : Engine) : Engine :=
  let y := { x with inPos := x.inPos + 1 }.advance
  if decide (32 / Scb.ew x.scb.toNat ≤ y.inPos) || y.atFlush || y.done then { y with inb := none, inPos := 0 } else y

/-- R155: the next element of the beat being unpacked. (DEDUCED, A41) -/
def unpackElem (s : State) (tile e : Nat) (b : Beat) : State :=
  let x := (s.tile tile).engine e
  let w := Scb.ew x.scb.toNat
  let g := (agEngine s tile e).graph
  if x.needsIndex then fetchIndex s tile e
  else if x.idxErr ≠ 0 ∨ !beatLive b x.inPos w then
    moved (payOwed (mapEng s tile e (fun x => { x.passed.owe w with stall := x.stall.fire })) tile e) g
  else
    match writeElem s tile e x.addr (leBytes w (fld b.data.toNat (8 * w * x.inPos + 8 * w - 1) (8 * w * x.inPos))) with
    | (s1, true) => moved (mapEng s1 tile e (fun x => { x.passed with stall := x.stall.fire })) g
    | (s1, false) => s1

/-- R158, R133: a stream that waits for its owner token is held by that input while a beat stands at its strand. (DEDUCED, A72) -/
def awaitOwner (s : State) (tile e : Nat) : State :=
  let w := ((s.tile tile).engine e).scb.toNat
  if Scb.port w ≠ 1 ∧ Scb.port w ≠ 3 ∧ waitingBeats ((s.tile tile).ep (Scb.ep w)) ≠ 0 then
    mapEng s tile e (fun x => { x with stall := x.stall.noInput 2 true })
  else mapEng s tile e (fun x => { x with stall := x.stall.fire })

/-- R155, R156, R158, R345: a write stream in one cycle: an element is unpacked, a beat is taken, or the stream ends, once the beats that it has
taken are unpacked. A poisoned beat counts once among the errors. (DEDUCED, A41) -/
def writeStep (s : State) (tile e : Nat) : State :=
  let x := (s.tile tile).engine e
  if x.stopped then s else
  match x.inb with
  | some b => if x.done then mapEng s tile e (fun x => { x with inb := none, inPos := 0 }) else unpackElem s tile e b
  | none =>
    if x.done || (x.ending && !x.drained) then
      if !x.spills.isEmpty then s else
      let s1 := sendLines s tile e
      let y := (s1.tile tile).engine e
      if y.spills.isEmpty && y.coal.isEmpty && y.owed == 0 then streamOver s1 tile e else s1
    else if x.ownWait then awaitOwner s tile e
    else
      match takeBeat s tile e with
      | (s1, none) => mapEng s1 tile e (fun x => { x with stall := x.stall.fire })
      | (s1, some b) =>
        let g := (agEngine s tile e).graph
        let bad := b.kind == 2
        mapEng (sinkErrors s1 g tile 3 e (x.errSeen == some (waveNow s g)) [b]) tile e (fun x =>
          { x with inb := some b, inPos := 0, beatNo := x.beatNo + 1, beats := x.beats + 1, stall := x.stall.fire,
                   errors := if bad then x.errors + 1 else x.errors,
                   errSeen := if b.harmful then some (waveNow s g) else x.errSeen })

/-! ### The spill queue (R434, R435) -/

/-- R433, R112: a retry that waits for a bank goes on in a later cycle. -/
def retryLater (s : State) (tile e : Nat) : State := mapEng s tile e (fun x => { x with retry := true })

/-- R434: a waiting element of a read stream tried again. -/
def retryCell (tile e : Nat) (acc : State × List Cell) (c : Cell) : State × List Cell :=
  if c.code ≠ 5 then (acc.1, acc.2 ++ [c]) else
  let w := Scb.ew ((acc.1.tile tile).engine e).scb.toNat
  if agentHeld acc.1 (agReader acc.1 tile e c.ea) false [(c.ea, w)] then (retryLater acc.1 tile e, acc.2 ++ [c]) else
  let (s1, d) := readCell acc.1 tile e c.ea w
  (if d.code = 5 then engHold s1 tile e c.ea else s1, acc.2 ++ [d])

/-- R434: the waiting elements of a read stream tried again, in order. -/
def retryRead (s : State) (tile e : Nat) : State :=
  let x := (s.tile tile).engine e
  let (s1, ready) := x.ready.foldl (fun (acc : State × List (Nat × List Cell)) r =>
    let (s', cs) := r.2.foldl (retryCell tile e) (acc.1, [])
    (s', acc.2 ++ [(r.1, cs)])) (s, [])
  let (s2, part) := x.part.foldl (retryCell tile e) (s1, [])
  mapEng s2 tile e (fun x => { x with ready := ready, part := part })

/-- R434: a spilled element of a commutative stream tried again, with those that still wait. -/
def retrySpill (tile e : Nat) (acc : State × List Spilled) (p : Spilled) : State × List Spilled :=
  if agentHeld acc.1 (agEngine acc.1 tile e) true [(p.ea, p.data.length)] then (retryLater acc.1 tile e, acc.2 ++ [p]) else
  match accElem acc.1 tile e p.ea p.data with
  | (s2, true) => (s2, acc.2)
  | (s2, false) => (engHold s2 tile e p.ea, acc.2 ++ [p])

/-- R434: the oldest n spilled elements of an ordered stream tried again, in order, up to the first that waits; a plain one is written with what
its line already holds. -/
def retryOrdered (tile e : Nat) : Nat → State → State
  | 0, s => s
  | n + 1, s =>
    let x := (s.tile tile).engine e
    let put (s : State) (l : List Spilled) : State := mapEng s tile e (fun x => { x with spills := l })
    match x.spills with
    | [] => s
    | p :: rest =>
      let line := x.lineFor p.ea
      let (s1, f) := elemFaults (put s rest) tile e p.ea
      if f then put (engHold s1 tile e p.ea) ({ p with fault := true } :: rest)
      else if agentHeld s1 (agEngine s1 tile e) true [if Scb.accop x.scb.toNat = 0 then (line.ea, 64) else (p.ea, p.data.length)] then
        retryLater (put s1 (p :: rest)) tile e
      else
        let s2 := if Scb.accop x.scb.toNat = 0 then sendLine s1 tile e (line.merge s.cycle.toNat p.ea p.data p.covers p.beat)
          else (accElem s1 tile e p.ea p.data).1
        if ((s2.tile tile).engine e).spills.length = rest.length then retryOrdered tile e n s2 else s2

/-- R433, R434: a held engine tries its spilled elements again. -/
def retrySpills (s : State) (tile e : Nat) : State :=
  let s0 := mapEng s tile e (fun x => { x with held := none, stopped := false, retry := false })
  let x := (s0.tile tile).engine e
  if !x.running then s0
  else if Scb.write x.scb.toNat then
    let op := Scb.accop x.scb.toNat
    if op = 0 ∨ op = 6 then retryOrdered tile e x.spills.length s0 else
    let (s1, left) := x.spills.foldl (retrySpill tile e) (mapEng s0 tile e (fun x => { x with spills := [] }), [])
    mapEng s1 tile e (fun x => { x with spills := left })
  else retryRead s0 tile e

/-- R433, SPILL_QUEUE_RETRY: the retry that a SYSRET of the thread brings. -/
def execSpillQueueRetry (tile e : Nat) (s : State) : Out := .next (retrySpills s tile e)

/-- R151, STREAM_ELEMENT: engine e of a tile in one cycle. (DEDUCED, A41) -/
def execStreamElement (tile e : Nat) (s : State) : Out :=
  .next (
    let x := (s.tile tile).engine e
    if !x.running || x.fault || x.ownOwed || !engineRuns s tile e then s
    else if x.retry && x.held.isNone then retrySpills s tile e
    else if x.owed ≠ 0 then (if x.held.isSome then s else payOwed s tile e)
    else if Scb.write x.scb.toNat then writeStep s tile e else readStep s tile e)

/-- R156, COALESCE_TIMEOUT: the lines that no element has come to for 64 cycles are sent, and a full line that its home has kept waiting. -/
def execCoalesceTimeout (tile e : Nat) (s : State) : Out :=
  .next (
    let x := (s.tile tile).engine e
    if !x.running || x.fault || !engineRuns s tile e then s else
    (x.coal.filter (fun l => decide (l.since + 64 ≤ s.cycle.toNat) || decide (64 ≤ l.bytes.length))).foldl (tryLine tile e) s)

/-! ### The beats of a sink (R458) -/

/-- R458: the beats that a write stream has taken and whose elements are not all written. -/
def Engine.unwritten (x : Engine) : Nat :=
  let oldest := (x.coal.map CoalLine.beat ++ x.spills.map Spilled.beat).foldl min (x.beatNo + if x.inb.isSome then 0 else 1)
  x.beatNo + 1 - oldest

/-- R155: the rest of the beat being unpacked, passed at once; at most n elements. -/
def unpackRest (tile e : Nat) : Nat → State → State
  | 0, s => s
  | n + 1, s =>
    let x := (s.tile tile).engine e
    match x.inb with
    | none => s
    | some b => if x.stopped || x.done then s else unpackRest tile e n (unpackElem s tile e b)

/-- R458: a write stream as its graph is terminated: what it has taken is written. -/
def settleSink (tile : Nat) (s : State) (e : Nat) : State :=
  let x := (s.tile tile).engine e
  if !x.running || !Scb.write x.scb.toNat || x.fault then s else sendLines (unpackRest tile e 66 s) tile e

/-- R458: an uncontained graph as it is terminated: its sinks write the beats that they have taken; one of which an element still waits is not
among those that its sink has committed. (DEDUCED, A104) -/
def settleSinks (s : State) (g : Nat) : State :=
  if contained (s.graph g) then s else
  (graphTiles (s.graph g)).foldl (fun s x => (pick 8 (fun e => (claimEn (s.tile x.2.2) e).any (fun k =>
    ((s.tile x.2.2).ctx k).graph == some g))).foldl (settleSink x.2.2) s) s

/-! ### Owner tokens (R158) -/

/-- R158, OWNER_TOKEN_ARRIVAL: the head of OWNIN meets a waiting stream: the awaited token lets it write; another token is an
element fault of code 2. (DEDUCED, A42) -/
def execOwnerTokenArrival (tile e : Nat) (s : State) : Out :=
  .next (
    let x := (s.tile tile).engine e
    let w := x.scb.toNat
    if !x.running || !x.ownWait || x.fault || !engineRuns s tile e then s else
    match ((s.tile tile).ep (Scb.ownin w)).q.head? with
    | none => s
    | some b =>
      if b.isMarker then s
      else if b.kind = 3 ∧ b.data.toNat % 256 = Scb.winid w then
        moved (mapEng (takeHead s tile (Scb.ownin w)) tile e (fun x => { x with ownWait := false })) (agEngine s tile e).graph
      else post s (.elementFault tile 3 e 2))

/-- R158, OWNER_TOKEN_SEND: the stream has ended and pushes its owner token. -/
def execOwnerTokenSend (tile e : Nat) (s : State) : Out :=
  .next (
    let x := (s.tile tile).engine e
    let w := x.scb.toNat
    if !x.running || !x.ownOwed || x.fault || !engineRuns s tile e then s else
    let p := (s.tile tile).ep (Scb.ownout w)
    if waitingBeats p ≠ 0 then mapEng s tile e (fun x => { x with stall := x.stall.noOutput 1 }) else
    let tok : Beat := { data := .ofNat 256 (Scb.winid w), pred := 0, kind := 3, tag := 0 }
    moved (mapEng (s.mapTile tile (fun t => t.mapEp (Scb.ownout w) (fun p => { p with q := p.q ++ [tok] }))) tile e (fun x =>
      { x with ownOwed := false, running := false, ending := false, stall := x.stall.fire })) (agEngine s tile e).graph)

end Sys2Proof.Machine
end

