-- ==== Sys2Proof/Machine/Ops.lean ====
section
/-! DEFINITION. The named operations over registers and the PC, register legality (R45, R219, R319), the end of a graph
(R384, R389), and taking an exception (spec/16_privileged_state.md, R365 to R368) with the return beside it in
Machine/Knot.lean. -/

namespace Sys2Proof.Machine

/-! ### Registers (R190) -/

namespace Thread
/-- R190: sA; s0 reads zero. -/
def rs (t : Thread) (a : BitVec 5) : Word := if a = 0 then 0 else t.s[a.toNat]'a.isLt
/-- R190: vA. -/
def rv (t : Thread) (a : BitVec 5) : Vec := t.v[a.toNat]'a.isLt
/-- R190: pA; p0 reads all ones. -/
def rp (t : Thread) (a : BitVec 3) : Word := if a = 0 then BitVec.allOnes 64 else t.p[a.toNat]'a.isLt
/-- R190: a write to sD; to s0 it is discarded. -/
def ws (t : Thread) (d : BitVec 5) (w : Word) : Thread := if d = 0 then t else { t with s := t.s.set d.toNat w d.isLt }
/-- R190: a write to vD. -/
def wv (t : Thread) (d : BitVec 5) (w : Vec) : Thread := { t with v := t.v.set d.toNat w d.isLt }
/-- R190: a write to pD; to p0 it is discarded. -/
def wp (t : Thread) (d : BitVec 3) (w : Word) : Thread := if d = 0 then t else { t with p := t.p.set d.toNat w d.isLt }
/-- R193: the PC after a word that does not branch; the thread no longer waits. -/
def next (t : Thread) : Thread := { t with pc := t.pc + 4, wait := .none }
/-- R195: a branch target. -/
def goto (t : Thread) (pc : PC) : Thread := { t with pc := pc, wait := .none }
/-- R200: the count of FIFO `i`. -/
def fifoAt (t : Thread) (i : Nat) : Nat := if h : i < 20 then (t.fifo[i]'h).toNat else 0
/-- R200: FIFO `i` set. -/
def setFifo (t : Thread) (i n : Nat) : Thread := if h : i < 20 then { t with fifo := t.fifo.set i (.ofNat 4 n) h } else t
/-- R199: queue `q`: 0 S, 1 C, 2 W, 3 M. -/
def queue (t : Thread) (q : Nat) : Queue := t.queues.get ⟨q % 4, Nat.mod_lt _ (by decide)⟩
/-- `t` with a queue changed. -/
def mapQueue (t : Thread) (q : Nat) (f : Queue → Queue) : Thread :=
  { t with queues := t.queues.set (q % 4) (f (t.queue q)) (Nat.mod_lt _ (by decide)) }
/-- Whether every queue is empty. -/
def idle (t : Thread) : Bool := (List.range 4).all (fun q => (t.queue q).waiting.isEmpty && (t.queue q).active.isEmpty)
end Thread

/-- R200: the index of the FIFO from engine code g to engine code t. -/
def fifoIndex (g t : Nat) : Nat := 4 * (g - 1) + (t - 1) - if g < t then 1 else 0

namespace RegSet
/-- One scalar register; s0 is never tracked. -/
def s1 (a : BitVec 5) : RegSet := { empty with s := if a = 0 then 0 else 1#32 <<< a.toNat }
/-- One vector register. -/
def v1 (a : BitVec 5) : RegSet := { empty with v := 1#32 <<< a.toNat }
/-- One predicate register; p0 is never tracked. -/
def p1 (a : BitVec 3) : RegSet := { empty with p := if a = 0 then 0 else 1#8 <<< a.toNat }
/-- Union. -/
def or (a b : RegSet) : RegSet := { s := a.s ||| b.s, v := a.v ||| b.v, p := a.p ||| b.p }
/-- Difference. -/
def minus (a b : RegSet) : RegSet := { s := a.s &&& ~~~b.s, v := a.v &&& ~~~b.v, p := a.p &&& ~~~b.p }
/-- Intersection. -/
def inter (a b : RegSet) : RegSet := { s := a.s &&& b.s, v := a.v &&& b.v, p := a.p &&& b.p }
end RegSet

/-- The register of a set that BIGHT_CLOBBER names (R219): file in bits 6:5, number in bits 4:0; of several the first in
the order scalar, vector, predicate and by number (DESIGN CHOICE, A15). -/
def RegSet.first (r : RegSet) : Option Word :=
  match (pick 32 (fun i => r.s.getLsbD i)).head? with
  | some i => some (wd i)
  | none => match (pick 32 (fun i => r.v.getLsbD i)).head? with
    | some i => some (wd (32 + i))
    | none => match (pick 8 (fun i => r.p.getLsbD i)).head? with
      | some i => some (wd (64 + i))
      | none => none

/-- R319: the scalar register that an engine command writes when it retires; 0 where it writes none. -/
def cmdDest (i : Instr) : BitVec 5 :=
  match i with
  | .rowstat a _ _ _ => a
  | .configure a _ _ _ _ => a
  | .ctxstat a _ _ _ => a
  | .tstdisc a _ _ => a
  | .mstat a _ _ _ => a
  | .launch a _ _ _ _ => a
  | _ => 0

/-- R319: the registers that outstanding engine commands have yet to write. -/
def Thread.owed (t : Thread) : RegSet :=
  (List.range 4).foldl (fun r q =>
    ((t.queue q).waiting ++ (t.queue q).active.map Active.cmd).foldl (fun r c => r.or (RegSet.s1 (cmdDest c.i))) r) .empty

/-- R35, R319: whether an instruction that names these registers is not ready. -/
def Thread.notReady (t : Thread) (regs : RegSet) : Bool := t.owed.inter regs != .empty

/-- R45: the live-in record after reads. -/
def Bight.read (b : Bight) (rd : RegSet) : Bight := { b with live := b.live.or (rd.minus b.written) }
/-- R45: the written record after writes. -/
def Bight.wrote (b : Bight) (wr : RegSet) : Bight := { b with written := b.written.or wr }

/-- R45: the thread with an instruction's reads and writes recorded in its bight. -/
def Thread.tracked (t : Thread) (rd wr : RegSet) : Thread := { t with bight := (t.bight.read rd).wrote wr }

/-! ### The end of a graph -/

/-- Table 16-10: STATE. -/
def GState.code (g : GState) : Nat :=
  match g with | .queued => 0 | .loading => 1 | .running => 2 | .cut => 3 | .retired => 4 | .terminated => 5 | .failed => 6

/-- A tile as graph k has it: as it stands where its contexts are loaded, else as the graph's snapshot holds it. -/
def tileOfGraph (s : State) (k ti : Nat) : Tile :=
  let t := s.tile ti
  if (List.range 4).any (fun c => (t.ctx c).graph == some k && (t.ctx c).loaded) then t else
  match (s.graph k).snap with
  | some sn =>
    let mine {α : Type} (n : Nat) (m : Assoc α) : Assoc α := (m.filter (fun e => e.1 / n == ti)).map (fun e => (e.1 % n, e.2))
    { t with ctxs := .ofFn (fun c => (Assoc.get? sn.ctxs (4 * ti + c.val)).getD .reset), eps := mine 40 sn.eps, engines := mine 8 sn.engines }
  | none => t

/-- Whether a slot holds a thread of graph k, or its snapshot a checkpoint. -/
def threadOfGraph (s : State) (k i : Nat) : Bool :=
  let t := s.thread i
  (t.graph == k && t.run != .free) || (s.graph k).snap.any (fun sn => (Assoc.get? sn.ckpts i).isSome)

/-- R161, R389: the (committed beats, errors) of every sink of a graph, in the order of Table 17-3: by logical y, x, then
drain unit, stream engines, threads, egress ports, then context. -/
def sinkCounts (s : State) (k : Nat) : List (Nat × Nat) :=
  let g := s.graph k
  (graphTiles g).flatMap fun (_, _, ti) =>
    let t := tileOfGraph s k ti
    let cs := (List.range g.nctx).map (physCtx g)
    let eps (c : Nat) (p : Nat → Bool) : List Nat := pick 40 (fun e => EpF.used ((t.ctx c).epF e) && p ((t.ctx c).epF e))
    let drains := (cs.filter (fun c => MpF.drainen (t.ctx c).mpF &&
        (eps c (fun f => EpF.out f && EpF.attach f == 1 && EpF.unit f == 1)).isEmpty)).map
      (fun c => ((t.ctx c).sinkBeats.toNat, (t.ctx c).sinkErrs.toNat))
    let engs := (List.range 8).flatMap (fun e => (cs.filter (fun c => EnF.used ((t.ctx c).enF e) &&
        (bit (t.engine e).scb.toNat 26 || fld (t.engine e).scb.toNat 28 27 == 3))).map (fun _ => ((t.engine e).beats.toNat - (t.engine e).unwritten, (t.engine e).errors.toNat)))
    let ths := (List.range 4).flatMap (fun j =>
      if threadOfGraph s k (4 * ti + j) && cs.all (fun c => (eps c (fun f => EpF.out f && EpF.attach f == 0 && EpF.unit f == j)).isEmpty) then
        let es := cs.flatMap (fun c => eps c (fun f => !EpF.out f && EpF.attach f == 0 && EpF.unit f == j))
        [(es.foldl (fun n e => n + (t.ep e).beats.toNat) 0, es.foldl (fun n e => n + (t.ep e).errors.toNat) 0)]
      else [])
    let ports := (List.range 40).flatMap (fun e => (cs.filter (fun c => let f := (t.ctx c).epF e
        EpF.used f && EpF.out f && EpF.toPort f)).map (fun _ => ((t.ep e).beats.toNat, (t.ep e).errors.toNat)))
    drains ++ engs ++ ths ++ ports

/-- Table 17-3: the bytes of a graph's completion status block. -/
def statusBytes (s : State) (k : Nat) : List Byte :=
  let g := s.graph k
  let sinks := sinkCounts s k
  ([g.handle.toNat * 2 ^ 16 + g.st.code, g.lastWave.toNat, g.tadmit.toNat, g.tend.toNat, g.cause, sinks.length, 0, 0]
    ++ sinks.map (fun (c, e) => c % 2 ^ 32 * 2 ^ 32 + e % 2 ^ 32)).flatMap (leBytes 8)

/-- R389: a completion status block written, if the launch record names one. -/
def writeStatus (s : State) (k : Nat) (bytes : List Byte) : State :=
  let g := s.graph k
  let a := recDword g 3
  if a = 0 then s else
  (linePieces (wd a) bytes.length).foldl (fun s (p : Word × Nat × Nat) =>
    sysWriteOrDrop s g.part (tileAt g.x g.y) 1 p.1 ((bytes.drop p.2.1).take p.2.2)) s

/-- R389: the completion status block of a graph as it stands, written. -/
def statusBlock (s : State) (k : Nat) : State := writeStatus s k (statusBytes s k)

/-- R389, R301: the done cleat's arrival, if the launch record names one. -/
def doneCleat (s : State) (k : Nat) : State :=
  let g := s.graph k
  let a := wd (recDword g 4)
  if a = 0 then s else
  match sysFetch s g.part (tileAt g.x g.y) a 16 with
  | (s1, some b) => sysWriteOrDrop s1 g.part (tileAt g.x g.y) 2 a (cleatBytes (.rmw 0 1) b)
  | (s1, none) =>
    let c := (sysWrite s1 g.part a (List.replicate 16 0)).1
    logRecord s1 g.part (Rec.plain 0x15 (tileAt g.x g.y) none (2 + 256 * c) a 0)

/-- R166: the scale registers that context c owns hold 1.0 again. -/
def Tile.freeScales (t : Tile) (c : Nat) : Tile :=
  (pick 32 (fun i => bit (MpF.scown (t.ctx c).thF) i)).foldl (fun t i =>
    { t with sc := if h : i < 32 then t.sc.set i 0x3F800000 h else t.sc }) t

/-- R30: a context of a tile released: its claims, its frames and its owned scale registers. -/
def Tile.release (t : Tile) (c : Nat) : Tile :=
  let x := t.ctx c
  let t1 := t.freeScales c
  let t2 := { t1 with eps := t1.eps.filter (fun e => !EpF.used (x.epF e.1)), nodes := t1.nodes.filter (fun e => !NdF.used (x.ndF e.1)),
                      engines := t1.engines.filter (fun e => !EnF.used (x.enF e.1)) }
  t2.setCtx c .reset

/-- R30, R384: the tiles, contexts, slots and coils of a graph released; every slot stops, open and suspended bights are
discarded and unstarted engine commands cancelled. -/
def releaseGraph (s : State) (k : Nat) : State :=
  let g := s.graph k
  let ths := graphThreads s k
  let s1 := ths.foldl (fun s i => s.mapThread i (fun t =>
    { t with run := .free, wait := .none, susp := none, bight := .openAt t.pc t.lc t.fpctl, pend := none, held := none,
             late := none, gtraps := [], gbar := none,
             queues := t.queues.map (fun q => { q with waiting := [] }) })) s
  let tiles := (graphTiles g).map (fun (_, _, t) => t)
  let s2 := tiles.foldl (fun s ti => s.mapTile ti (fun t =>
    (pick 4 (fun c => (t.ctx c).graph == some k)).foldl Tile.release t)) s1
  let gone := s.regions.filter (fun r => r.graph == k)
  { s2 with
    regions := s2.regions.filter (fun r => r.graph != k),
    rects := s2.rects.filter (fun r => s2.regions.any (fun q => q.graph != k && q.x == r.x && q.y == r.y && q.w == r.w && q.h == r.h)),
    vecs := s2.vecs.filter (fun v => !gone.any (fun r => r.x == v.x && r.y == v.y && r.pctx == v.pctx)),
    flights := s2.flights.filter (fun f => !(tiles.contains f.srcTile && (Assoc.get? (s2.tile f.srcTile).eps f.srcEp).isNone)),
    permits := s2.permits.filter (fun p => (if p.ep < 40 then (Assoc.get? (s2.tile p.tile).eps p.ep).isSome
      else (Assoc.get? (s2.tile p.tile).engines (p.ep - 40)).isSome) || !tiles.contains p.tile) }

/-- R417: whether an access on its way to its home is a host write of graph k, contained, that will be held in an egress buffer. -/
def willBeHeld (s : State) (k : Nat) (o : HomeOp) : Bool :=
  o.graph == k && contained (s.graph k) && o.leaf != 0 && Pte.host o.leaf.toNat && !o.hw && !o.settled s

/-- R417, R419 step 2: the held egress of a graph dropped. -/
def dropEgress (s : State) (k : Nat) : State :=
  { s with bridge := s.bridge.filter (fun x => x.1 != k), homeQ := s.homeQ.filter (fun o => !willBeHeld s k o),
           held := s.held.filter (fun o => !willBeHeld s k o),
           ports := s.ports.map (fun (i, p) => (i, { p with egress := p.egress.filter (fun x => x.1 != k) })) }

/-- R386, R417: held writes to host memory reach their lines only as they are sent. -/
def sentSignals (as : List Nat) (s : State) : State := ((as.map (fun a => a / 64)).eraseDups).foldl (fun s l => signalLine s (1, l)) s

/-- R417, R176: what the bridge goes on holding once the writes that `p` names are sent: of another graph's writes, those that stand after the
last one sent to their byte. -/
def bridgeLeft (l : List (Nat × BitVec 16 × Nat × Byte)) (p : Nat × BitVec 16 × Nat × Byte → Bool) : List (Nat × BitVec 16 × Nat × Byte) :=
  (l.foldr (fun x (acc : List (Nat × BitVec 16 × Nat × Byte) × List Nat) =>
    if p x then (acc.1, x.2.2.1 :: acc.2) else if acc.2.contains x.2.2.1 then acc else (x :: acc.1, acc.2)) ([], [])).1

/-- R417: the held writes to host memory that `p` names sent, in the order in which the bridge holds them. -/
def sendHeld (s : State) (p : Nat × BitVec 16 × Nat × Byte → Bool) : State :=
  sentSignals ((s.bridge.filter p).map (fun x => x.2.2.1)) { s with
    host := (s.bridge.filter p).foldl (fun m x => Memory.write m x.2.2.1 x.2.2.2) s.host, bridge := bridgeLeft s.bridge p }

/-- R417: the held egress of a graph that has retired sent, since no later wave will. -/
def flushEgress (s : State) (k : Nat) : State :=
  let s := sendHeld s (fun x => x.1 == k)
  { s with
    ports := s.ports.map (fun (i, p) => (i, { p with
      stream := p.stream ++ (p.egress.filter (fun x => x.1 == k)).map (fun x => x.2.2),
      egress := p.egress.filter (fun x => x.1 != k) })) }

/-- R414: the undo entries of a graph that has ended dropped. -/
def forgetUndo (s : State) (k : Nat) : State :=
  { s with homes := s.homes.map (fun (i, h) => (i, { h with undo := h.undo.filter (fun u => u.graph != k) })) }

/-- R30, R384, R389: a graph reaches a final state with a cause. (DEDUCED, A55) -/
def endGraph (s : State) (k : Nat) (st : GState) (cause : Nat) : State :=
  let s1 := (if st = .terminated then settleSinks s k else s).mapGraph k (fun g => { g with
    st := st, cause := cause, tend := s.timeOf (tileAt g.x g.y), openWave := none,
    deadline := none, pending := none, cutting := false, cutNext := false })
  let s2 := doneCleat (statusBlock s1 k) k
  let s3 := forgetUndo (if st = .retired then flushEgress (releaseGraph s2 k) k else dropEgress (releaseGraph s2 k) k) k
  (s3.mapGraph k (fun g => { g with snap := none, frozen := false, shadow := [], oldShadow := [], readyAt := 0 })).mapPart (graphPart k) (fun p => { p with evalDue := true })

/-! ### Taking an exception (R365 to R368) -/

/-- R366: a trap to be delivered. -/
structure Trap where
  code  : Nat
  val   : Word
  pc    : PC
  /-- The bight was discarded before delivery. -/
  disc  : Bool
  /-- Raised at the engine trap point, with the queue's engine code and the command's PC. -/
  e     : Bool
  queue : Nat
  epc   : PC
  /-- Graph-level (R365). -/
  graph : Bool
  /-- A bight is open at the delivery, and so is suspended. -/
  open_ : Bool
  deriving DecidableEq, Repr

/-- Table 16-3: TCAUSE of a delivery. -/
def Trap.cause (x : Trap) : Word :=
  wd (x.code + (if x.e then 256 + x.queue * 512 else 0) + (if x.disc then 4096 else 0) + (if x.graph then 8192 else 0) +
    if x.e then x.epc.toNat * 2 ^ 32 else 0)

/-- R368: a synchronous trap at S. -/
def doubleTrap (s : State) (i : Nat) (x : Trap) : State :=
  let t := s.thread i
  let s1 := record s { Rec.plain 0x0D (tileOf i) (some t.graph) (t.tcause.toNat % 256 + 256 * x.code) t.tval 0 with
    ukind := 6, slot := slotOf i, ctx := t.lctx.toNat }
  let s2 := s1.mapThread i (fun t => { t with run := .dead })
  endGraph s2 t.graph .terminated x.code

/-- R366: the one operation that takes an exception. TBS of a delivery with no open or discarded bight is a free value
(DESIGN CHOICE, A14). -/
def deliver (s : State) (i : Nat) (x : Trap) : State :=
  let t := s.thread i
  if t.lvl && !x.graph then doubleTrap s i x
  else if !bit (s.graph t.graph).hwin.toNat 63 then
    let s1 := record s { Rec.plain 0x13 (tileOf i) (some t.graph) x.code x.val (x.pc.zeroExtend 64) with
      ukind := 6, slot := slotOf i, ctx := t.lctx.toNat }
    endGraph s1 t.graph .terminated x.code
  else
    let hold := x.open_ && !x.disc
    let tvec : PC := (s.part (graphPart t.graph)).tvec.truncate 18
    let tbs : PC := if hold || x.disc then t.bight.start else (Config.freeWord s.drawn).truncate 18
    s.draw.setThread i { t with
      kept := if t.lvl then t.kept else some { s := t.s, v := t.v, p := t.p, lc := t.lc, fpctl := t.fpctl },
      susp := if hold then some t.bight else none,
      tpc := x.pc, tval := x.val, tbs := tbs, tcause := x.cause, lvl := true, pc := tvec, wait := .none, yield := 0,
      bight := .openAt tvec t.lc t.fpctl }

/-- R366: a precise trap of the running slot's instruction inside its bight. -/
def raise (s : State) (code : Nat) (val : Word) : State :=
  deliver s s.cur { code := code, val := val, pc := s.me.pc, disc := false, e := false, queue := 0, epc := 0, graph := false,
                    open_ := true }

/-- R366, R48: a trap of an irrevocable instruction after its implicit knot: no bight is open. -/
def raiseOutside (s : State) (code : Nat) (val : Word) : State :=
  deliver s s.cur { code := code, val := val, pc := s.me.pc, disc := false, e := false, queue := 0, epc := 0, graph := false,
                    open_ := false }

/-- DESIGN CHOICE, A14: a trap to which the spec gives no TVAL has a free one. -/
def raiseFree (s : State) (code : Nat) : State := raise s.draw code (Config.freeWord s.drawn)

/-- R365: a graph-level trap: held for the report thread, at most one for each cause; with no report thread running the
graph is terminated. -/
def graphTrap (s : State) (k code : Nat) (val : Word) : State :=
  match reportThread s k with
  | some i =>
    if (s.thread i).run = .halted then endGraph s k .terminated code
    else s.mapThread i (fun t =>
      { t with gtraps := if t.gtraps.any (fun g => g.1 == code) then t.gtraps else t.gtraps ++ [(code, val)] })
  | none => endGraph s k .terminated code

/-! ### Discard (R49, R50) -/

/-- R49: the open bight emptied: buffers dropped, tentative pops returned, loop counters, PC and FPCTL restored: the whole of FPCTL, as R255
has it, where R45 names its status flags alone. (DEDUCED, A77) -/
def Thread.dropBight (t : Thread) : Thread :=
  { t with lc := t.bight.lc0, fpctl := t.bight.fp0, pc := t.bight.start, wait := .none,
           bight := .openAt t.bight.start t.bight.lc0 t.bight.fp0 }

/-- R50: the discard of the open bight of slot i, with the re-entry counter incremented: REENTRY_LIMIT is raised when it
reaches the limit. -/
def discard (s : State) (i cause : Nat) : State :=
  let t := (s.thread i).dropBight
  let n := t.rcnt.toNat + 1
  let s1 := s.setThread i { t with rcnt := .ofNat 8 (min n 255) }
  if t.rlim.toNat ≤ n then
    deliver s1 i { code := 0x0B, val := wd cause, pc := t.bight.start, disc := true, e := false, queue := 0, epc := 0,
                   graph := false, open_ := false }
  else s1

/-- R49, R367, R432: PAGE or POISON of a sequencer access: the bight is discarded and the trap delivered at its start. A
PAGE that brings the counter to the limit is REENTRY_LIMIT (R50). -/
def discardTrap (s : State) (code : Nat) (val : Word) : State :=
  let t := s.me.dropBight
  let n := t.rcnt.toNat + 1
  let s1 := s.setMe { t with rcnt := .ofNat 8 (min n 255) }
  let limit := decide (code = 5) && decide (t.rlim.toNat ≤ n) && !t.lvl
  deliver s1 s.cur { code := if limit then 0x0B else code, val := if limit then wd 5 else val, pc := t.bight.start, disc := true,
                     e := false, queue := 0, epc := 0, graph := false, open_ := false }

/-- Table 10-1: a failed check of an access inside the bight. -/
def accessTrap (s : State) (code : Nat) (ea : Word) : State :=
  if code = 8 then discardTrap (poisonRecord s s.cur 0 ea s.me.bight.start) code ea
  else if code = 5 then discardTrap s code ea else raise s code ea

/-- R48, R296: a failed check of an access outside any bight: the thread is left at the instruction, its counter unchanged. (DEDUCED, A25) -/
def accessTrapOutside (s : State) (code : Nat) (ea : Word) : State :=
  raiseOutside (if code = 8 then poisonRecord s s.cur 2 ea s.me.pc else s) code ea

/-! ### Instructions of queue V inside the bight (R218, R219) -/

/-- R45, R219, R319: an instruction inside the open bight that reads `rd` and writes `wr`: not ready while an engine
command owes one of them; `pre` is a trap checked before BIGHT_CLOBBER; `body` acts with the reads and writes recorded. -/
def inBight (rd wr : RegSet) (pre : Option (Nat × Word)) (body : State → State) (s : State) : State :=
  if s.me.notReady (rd.or wr) then s
  else match pre with
    | some (c, v) => raise s c v
    | none =>
      let b := s.me.bight.read rd
      match (b.live.inter wr).first with
      | some v => raise s 9 v
      | none => body (s.mapMe (fun t => t.tracked rd wr))

/-- R221 to R227: an instruction that writes one scalar and steps to the next word. -/
def scalarOp (d : BitVec 5) (rd : RegSet) (v : Word) (s : State) : State :=
  inBight rd (RegSet.s1 d) none (fun s => s.mapMe (fun t => (t.ws d v).next)) s

/-- R228: an instruction that writes one predicate and steps to the next word. -/
def predOp (d : BitVec 3) (rd : RegSet) (v : Word) (s : State) : State :=
  inBight rd (RegSet.p1 d) none (fun s => s.mapMe (fun t => (t.wp d v).next)) s

end Sys2Proof.Machine
end

