-- ==== Sys2Proof/Machine/Knot.lean ====
section
/-! DEFINITION. Bight buffers and their commit (R40 to R46), knots and waves (R47, R48, R52 to R57), checkpoints (R320) and
the return from an exception (R375). -/

namespace Sys2Proof.Machine

/-! ### The buffers (R40, R41, R285) -/

/-- R40: the lines a buffered update occupies, by space and line number. -/
def BufOp.lines : BufOp → List (Nat × Nat)
  | .store ea bytes _ => (linePieces ea bytes.length).map (fun (p : Word × Nat × Nat) =>
      (spaceOf p.1, (if isLocal p.1 then p.1.toNat % 2 ^ 18 else vaOf p.1) / 64))
  | .amo ea op _ _ _ => (linePieces ea (amoWidth op)).map (fun (p : Word × Nat × Nat) =>
      (spaceOf p.1, (if isLocal p.1 then p.1.toNat % 2 ^ 18 else vaOf p.1) / 64))
  | .cleat ea _ _ => [(spaceOf ea, (if isLocal ea then ea.toNat % 2 ^ 18 else vaOf ea) / 64)]
  | .tagset i _ => [(16, i)]
  | .tagclr i => [(16, i)]

/-- R285: a deferred update. -/
def BufOp.deferred : BufOp → Bool
  | .amo _ _ _ _ _ => true
  | .cleat _ _ _ => true
  | _ => false

/-- Table 2-2, R106: store-buffer entries in use: one per line, and one for each tag-table write. -/
def entriesUsed (b : List BufOp) : Nat :=
  let tags := b.filter (fun o => match o with | .tagset _ _ => true | .tagclr _ => true | _ => false)
  let rest := b.filter (fun o => match o with | .tagset _ _ => false | .tagclr _ => false | _ => true)
  (rest.flatMap BufOp.lines).eraseDups.length + tags.length

/-- R46, R285: whether buffered updates stay within the limits: 32 entries, 4 deferred updates in each. -/
def buffersFit (b : List BufOp) : Bool :=
  decide (entriesUsed b ≤ 32) &&
  b.all (fun o => !o.deferred || o.lines.all (fun l =>
    decide ((b.filter (fun q => q.deferred && q.lines.contains l)).length ≤ 4)))

/-- R41: the byte that a buffer holds for an address of a space, if any. -/
def bufByte (b : List BufOp) (sp a : Nat) : Option Byte :=
  b.foldl (fun acc o => match o with
    | .store ea bytes _ =>
      let base := if isLocal ea then ea.toNat % 2 ^ 18 else vaOf ea
      if spaceOf ea = sp ∧ base ≤ a ∧ a < base + bytes.length then some (bytes.getD (a - base) 0) else acc
    | _ => acc) none

/-- R285: whether a range names a byte of a deferred update. -/
def hitsDeferred (b : List BufOp) (ea : Word) (n : Nat) : Bool :=
  let base := if isLocal ea then ea.toNat % 2 ^ 18 else vaOf ea
  b.any (fun o => match o with
    | .amo x op _ _ _ => spaceOf x == spaceOf ea &&
        (let y := if isLocal x then x.toNat % 2 ^ 18 else vaOf x
         decide (base < y + amoWidth op) && decide (y < base + n))
    | .cleat x _ _ => spaceOf x == spaceOf ea &&
        (let y := if isLocal x then x.toNat % 2 ^ 18 else vaOf x
         decide (base < y + 16) && decide (y < base + n))
    | _ => false)

/-- R41: bytes read from memory with the buffered ones in their place. -/
def overlay (b : List BufOp) (ea : Word) (bytes : List Byte) : List Byte :=
  let base := if isLocal ea then ea.toNat % 2 ^ 18 else vaOf ea
  (List.range bytes.length).map (fun i => (bufByte b (spaceOf ea) (base + i)).getD (bytes.getD i 0))

/-- R106: an entry of the tag table as a thread sees it, its own buffered entries included. -/
def tagSeen (s : State) (i : Nat) : Word :=
  let mem : Word := ((s.tile s.myTile).tags.get ⟨i % 64, Nat.mod_lt _ (by decide)⟩)
  s.me.bight.stores.foldl (fun w o => match o with
    | .tagset j v => if j = i then v &&& ~~~0xFF#64 else w
    | .tagclr j => if j = i then w &&& ~~~(1#64 <<< 63) else w
    | _ => w) mem

/-! ### The pops of a commit (R43, R44) -/

/-- R43, R44: the tentative pops of endpoint e committed: the beats leave the queue and their permits return. -/
def commitPops (s : State) (i e n : Nat) : State :=
  let tile := tileOf i
  let g := (s.thread i).graph
  let p := (s.tile tile).ep e
  let bs := p.q.take n
  let s1 := s.mapTile tile (fun t => t.mapEp e (fun p => { p.counted bs with q := p.q.drop n }))
  let s2 := returnPermits s1 tile e
  if (threadOutputs s i).isEmpty then
    let s3 := sinkErrors s2 g tile (if e < 32 then 0 else 1) (e % 32) (p.errSeen == some (waveNow s g)) bs
    s3.mapTile tile (fun t => t.mapEp e (fun p => { p with errSeen := if bs.any Beat.harmful then some (waveNow s g) else p.errSeen }))
  else s2

/-! ### Commit (R44) -/

/-- R44 step 1: why a commit cannot start. -/
inductive Stopped where
  | overflow
  | wait
  | trap (code : Nat) (ea : Word)
  deriving DecidableEq, Repr

/-- R44: the ordered scope a buffered update is released at (R180); 0 none. -/
def BufOp.relScope : BufOp → Nat
  | .store _ _ sc => sc
  | .amo _ _ _ k sc => if 2 ≤ k then sc else 0
  | .cleat _ _ sc => sc
  | _ => 0

/-- R60, R101: whether a local write of the sequencer waits for the save of its block, or for the grant of its bank. -/
def localWaits (s : State) (tile : Nat) (ea : Word) (n : Nat) : Bool :=
  isLocal ea && (tmemWaits s tile (ea.toNat % 2 ^ 18) n || portHeld s tile 0 (ea.toNat % 2 ^ 18) n)

/-- R60, R101: whether a buffered update of tile memory waits. -/
def BufOp.awaitsSave (s : State) (tile : Nat) : BufOp → Bool
  | .store ea bytes _ => localWaits s tile ea bytes.length
  | .amo ea op _ _ _ => localWaits s tile ea (amoWidth op)
  | .cleat ea _ _ => localWaits s tile ea 16
  | _ => false

/-- The global pieces of a buffered update. -/
def BufOp.pieces : BufOp → List (Word × Nat × Nat)
  | .store ea bytes _ => if isLocal ea then [] else linePieces ea bytes.length
  | .amo ea op _ _ _ => if isLocal ea then [] else [(ea, 0, amoWidth op)]
  | .cleat ea _ _ => if isLocal ea then [] else [(ea, 0, 16)]
  | _ => []

/-- R42, R417: the translations of every buffered update checked again before the release (DEDUCED, A17), and the bytes that leave
the device. -/
def recheck (s : State) (i : Nat) (ops : List BufOp) : State × Option (Nat × Word) × Nat :=
  (ops.flatMap BufOp.pieces).foldl (fun (acc : State × Option (Nat × Word) × Nat) p =>
    match acc.2.1 with
    | some _ => acc
    | none =>
      let (s', c, e, _) := translate acc.1 (agOf acc.1 i) (vaOf p.1) true
      (s', if c = 0 then none else some (c, p.1), acc.2.2 + if Pte.host e then p.2.2 else 0)) (s, none, 0)

/-- R417: the bytes of the bridge's egress buffer that are taken: those held, and those of accepted writes of contained graphs. -/
def bridgeTaken (s : State) : Nat :=
  s.bridge.length + (s.homeQ ++ s.held).foldl (fun n o =>
    n + if o.leaf != 0 && Pte.host o.leaf.toNat && contained (s.graph o.graph) && !o.hw then o.act.size else 0) 0

/-- R44 step 1: whether slot i's open bight can be released now, and why not. -/
def commitBlock (s : State) (i : Nat) : State × Option Stopped :=
  let t := s.thread i
  let b := t.bight
  let rooms := (pushEps b).map (fun e => ((pushesTo b e).length, strandRoom s (tileOf i) e))
  if rooms.any (fun r => decide (r.2.1 < r.1)) then (s, some .overflow)
  else if rooms.any (fun r => decide (r.2.2 < r.1)) then (s, some .wait)
  else if b.stores.any (fun o => decide (2 ≤ o.relScope)) && !t.idle then (s, some .wait)
  else if b.stores.any (BufOp.awaitsSave s (tileOf i)) then (s, some .wait)
  else
    match recheck s i b.stores with
    | (s', some (c, ea), _) => (s', some (.trap c ea))
    | (s', none, n) =>
      if contained (s.graph t.graph) && decide (0 < n) && decide (Config.egressBytes < bridgeTaken s + n) then (s', some .wait)
      else (s', none)

/-- R42, R285, R171: the accesses that a buffered update makes, in order; `hold`: the wave that a far release waits for. -/
def homeOps (i : Nat) (hold : Option (BitVec 16)) (s : State) (o : BufOp) : State × List HomeOp :=
  let t := s.thread i
  let op (ea : Word) (act : HomeAct) (acq : Bool) : HomeOp :=
    { part := graphPart t.graph, ea := ea, leaf := 0, large := false, act := act, th := i, graph := t.graph, epoch := t.wave, acq := acq,
      hold := if 8 ≤ o.relScope then hold else none, rel := o.relScope }
  let placed (s : State) (x : HomeOp) : State × HomeOp :=
    if isLocal x.ea then (s, x) else
    let (s', _, e, large) := translate s (agOf s i) (vaOf x.ea) true
    (s', { x with leaf := wd e, large := large })
  match o with
  | .store ea bytes _ =>
    if isLocal ea then (s, [op ea (.store bytes false) false])
    else (linePieces ea bytes.length).foldl (fun (acc : State × List HomeOp) (p : Word × Nat × Nat) =>
      let (s', x) := placed acc.1 (op p.1 (.store ((bytes.drop p.2.1).take p.2.2) false) false)
      (s', acc.2 ++ [x])) (s, [])
  | .amo ea c b k _ => let (s', x) := placed s (op ea (.amo c b) (k % 2 == 1)); (s', [x])
  | .cleat ea u _ => let (s', x) := placed s (op ea (.cleat u) false); (s', [x])
  | .tagset j v => (s, [op (wd (0xE * 2 ^ 60)) (.tagset j v) false])
  | .tagclr j => (s, [op (wd (0xE * 2 ^ 60)) (.tagclr j) false])

/-- R171, R297: an access accepted by its home, or performed in tile memory or the tag table. An atomic, and an access that a tag change
accepted before it may refuse, is performed with its line at once, so that a drop is reported at the next instruction. (DEDUCED, A22) -/
def acceptOp (s : State) (op : HomeOp) : State :=
  if isLocal op.ea then performLocal (settleSnap s op) op else
  let s1 := { s with homeQ := s.homeQ ++ [op] }
  let l := lineOf op.leaf.toNat op.large op.ea
  let now := match op.act with
    | .store bs _ => s.homeQ.any (fun o => Pte.ts o.leaf.toNat && lineOf o.leaf.toNat o.large o.ea == l) ||
        op.key?.any (fun k => !Pte.ts op.leaf.toNat && tagRefuses s (sectorsOf k bs.length) (tagOf op.ea))
    | _ => true
  if now then drainLine s1 l else s1

/-- R180, R181, R60: one access of a commit is accepted, or waits: for its own release condition, for the save of its block, or behind an
access of its thread that waits. -/
def offerOp (s : State) (op : HomeOp) : State :=
  let kept (s : State) : State := { s with held := s.held ++ [op] }
  if s.held.any (fun o => o.th == op.th) || (op.act.size != 0 && localWaits s (tileOf op.th) op.ea op.act.size) then kept s
  else
    let s1 := if 3 ≤ op.rel then drainThread s op.th else s
    if (decide (3 ≤ op.rel) && s1.homeQ.any (fun o => o.th == op.th)) || !opReady s1 op then kept s1 else acceptOp s1 op

/-- R180, R181: the waiting accesses of a slot's commits, released in program order as far as they may be. -/
def acceptHeld (s : State) (i : Nat) : State :=
  (s.held.filter (fun o => o.th == i)).foldl offerOp { s with held := s.held.filter (fun o => o.th != i) }

/-- R44 step 2, R171, R285: one buffered update released. (DEDUCED, A17) -/
def releaseOp (i : Nat) (hold : Option (BitVec 16)) (s : State) (o : BufOp) : State :=
  let (s1, ops) := homeOps i hold s o
  ops.foldl offerOp s1

/-- R44 step 2: stores, AMOs and pushes released in program order, tentative pops advanced; the re-entry counter clears,
except for a handler's commit (DEDUCED, A10); a new bight opens at `npc`. -/
def release (s : State) (i : Nat) (hold : Option (BitVec 16)) (npc : PC) : State :=
  let b := (s.thread i).bight
  let s1 := b.stores.foldl (releaseOp i hold) s
  let s2 := if b.pushes.isEmpty then s1 else
    s1.mapTile (tileOf i) (fun t => b.pushes.foldl (fun t p => t.mapEp p.ep (fun x => { x with q := x.q ++ [p.beat] })) t)
  let s3 := b.pops.foldl (fun s (p : Nat × Nat) => commitPops s i p.1 p.2) s2
  let s4 := if b.pushes.isEmpty && b.pops.isEmpty then s3 else moved s3 (s.thread i).graph
  s4.mapThread i (fun t => { t with rcnt := if t.lvl then t.rcnt else 0, bight := .openAt npc t.lc t.fpctl })

/-! ### Waves (R52 to R57) -/

/-- R53: the open wave of a graph that a thread has not checkpointed. -/
def wavePending (s : State) (i : Nat) : Option (BitVec 16) :=
  let t := s.thread i
  match (s.graph t.graph).openWave with
  | some n => if t.wave = n ∨ t.lvl then none else some n
  | none => none

/-- R320: whether a started command is recorded by a fabric element: an MRUN by its region. -/
def recordedByElement (i : Instr) : Bool :=
  match i with
  | .mrun _ _ _ _ _ => true
  | .mrunAcc _ _ _ _ _ => true
  | _ => false

/-- R320: whether a checkpoint must wait for a started command. -/
def startedHolds (t : Thread) : Bool :=
  (List.range 4).any (fun q => (t.queue q).active.any (fun a => !recordedByElement a.cmd.i))

/-- R56, R147: whether the marker of the open wave has still to come to an endpoint that feeds an element: its producer sends one. -/
def awaitsMarker (s : State) (tile e : Nat) : Bool := EpF.out (epFrame (s.tile tile) e) || (producerOf s tile e).isSome

/-- R56, R57: input endpoints of an element that takes its snapshot of wave n: their snapshot is what stands before the marker,
which they consume; where the marker has not come, later arrivals are recorded (BEAT_ARRIVAL). R147: an endpoint counts for wave n up to
its own marker. (DEDUCED, A108) -/
def snapEps (s : State) (g tile : Nat) (eps : List Nat) (n : BitVec 16) : State :=
  eps.foldl (fun s e =>
    let p := (s.tile tile).ep e
    let all := p.q ++ p.coil
    let snap := { p with q := p.q.takeWhile (fun b => !b.isMark n),
                         coil := if p.q.any (fun b => b.isMark n) then [] else p.coil.takeWhile (fun b => !b.isMark n),
                         came := p.came - ((all.dropWhile (fun b => !b.isMark n)).filter (fun b => !b.isMarker)).length }
    let s1 := s.mapGraph g (fun g => { g with pending := g.pending.map (fun x => { x with eps := Assoc.set x.eps (40 * tile + e) snap }) })
    s1.mapTile tile (fun t => t.mapEp e (fun p =>
      { p with q := p.q.filter (fun b => !b.isMark n), coil := p.coil.filter (fun b => !b.isMark n),
               lines := ((p.coil.zip p.lines).filter (fun x => !x.1.isMark n)).map Prod.snd,
               rate := if !all.any (fun b => b.isMark n) && awaitsMarker s tile e then p.rate else 0,
               marker := if all.any (fun b => b.isMark n) then n else p.marker }))) s

/-- The input endpoints of context c of a tile that are attached to a unit. -/
def inputsOf (t : Tile) (c attach unit : Nat) : List Nat :=
  pick 40 (fun e => let f := (t.ctx c).epF e
    EpF.used f && !EpF.out f && EpF.attach f == attach && EpF.unit f == unit)

/-- R135: the endpoints that feed a node of context c: its input endpoints, and the output endpoints that it takes from itself. (DEDUCED,
A71) -/
def nodeInputs (t : Tile) (c nd : Nat) : List Nat :=
  inputsOf t c 3 nd ++ pick 40 (fun e => EpF.used ((t.ctx c).epF e) && feedsNode t e == some nd)

/-- R57: the input endpoints of a slot at its checkpoint of wave n. -/
def snapInputs (s : State) (i : Nat) (n : BitVec 16) : State :=
  let tile := tileOf i
  snapEps s (s.thread i).graph tile (inputsOf (s.tile tile) (s.thread i).pctx.toNat 0 (slotOf i)) n

/-- R160: whether a stream engine takes its snapshot when a thread checkpoints, and not with a marker on an input: a running
read stream, or a running write stream from a buffer that awaits no owner, without an index strand, and an engine with neither stream nor
inputs. (DEDUCED, A43) -/
def withOpener (t : Tile) (c e : Nat) : Bool :=
  let x := t.engine e
  let w := x.scb.toNat
  if x.running then fld w 44 43 != 2 && (!bit w 26 || (fld w 28 27 == 3 && !bit w 55))
  else (inputsOf t c 2 e).isEmpty

/-- R160: the engines that take their snapshot with the checkpoint of slot i: those running for it, and idle ones of its
context. (DEDUCED, A43) -/
def snapStreams (s : State) (i : Nat) (n : BitVec 16) : State :=
  let tile := tileOf i
  let t := s.tile tile
  let c := (s.thread i).pctx.toNat
  (pick 8 (fun e => EnF.used ((t.ctx c).enF e) && withOpener t c e && (t.engine e).epoch != n &&
    (!(t.engine e).running || (t.engine e).opener == slotOf i))).foldl (fun s e => post s (.markerArrival tile 3 e)) s

/-- R52 steps 2 to 4, R54: slot i checkpoints wave n with the given PC: its wave number advances, its checkpoint is
written, and its markers go out. Under a cut it then stops (R402). -/
def checkpoint (s : State) (i : Nat) (n : BitVec 16) (pc : PC) : State :=
  let t := s.thread i
  let s1 := s.mapGraph t.graph (fun g => { g with
    pending := g.pending.map (fun p =>
    { p with ckpts := Assoc.set p.ckpts i (Ckpt.take t pc n),
             regions := p.regions ++ ledBy s i,
             planes := (planeTiles s i).foldl (fun m ti => Assoc.set m (4 * ti + slotOf i) ((s.tile ti).plane (slotOf i))) p.planes }) })
  let cut := (s.graph t.graph).cutting
  let s2 := s1.mapThread i (fun t => { t with wave := n, run := if cut && t.run == .running then .cut else t.run })
  snapStreams (snapInputs (emitMarkers s2 i n) i n) i n

/-- R414, R171: whether a home holds an undo entry of a graph and epoch for a line that an element touches, or has accepted a write of that
epoch to it. -/
def carriesEpoch (s : State) (a : Ag) (n : BitVec 16) (ea : Word) (len : Nat) : Bool :=
  !isLocal ea && (linePieces ea len).any (fun p =>
    match translate s a (vaOf p.1) false with
    | (_, 0, e, large) =>
      let h := s.home (Pte.tile e)
      s.homeQ.any (fun o => o.graph == a.graph && o.epoch == n && !o.hw && lineOf o.leaf.toNat o.large o.ea == lineOf e large p.1) ||
      match placeOf e large (vaOf p.1) with
      | .vault key => undoHas h a.graph (key % 2 ^ 28 / 64) n
      | .host _ => false
      | .codec e frame _ => (sectorsOf frame (32 * Pte.budget e)).any (fun k => undoHas h a.graph (32 * k % 2 ^ 28 / 64) n)
    | _ => false)

/-- R416: the open wave that a read by slot i meets: its graph is contained, the slot is still in the epoch before it, and an element touches
a line written in it. -/
def epochMetBy (s : State) (i : Nat) (els : List (Word × Nat)) : Option (BitVec 16) :=
  let t := s.thread i
  match (s.graph t.graph).openWave with
  | some n => if contained (s.graph t.graph) && t.wave != n && els.any (fun e => carriesEpoch s (agOf s i) n e.1 e.2)
      then some n else none
  | none => none

/-- R169, R416: the global elements that the deferred updates of a bight read. -/
def deferredReads (b : List BufOp) : List (Word × Nat) :=
  b.filterMap (fun o => match o with
    | .amo ea op _ _ _ => if isLocal ea then none else some (ea, amoWidth op)
    | .cleat ea _ _ => if isLocal ea then none else some (ea, 16)
    | _ => none)

/-- R57, R416: slot i meets marker n (or a line of epoch n) inside its bight: the bight is discarded without a change to the counter and the
thread checkpoints n at its start. At S it waits (R369). -/
def meetMarkerBy (s : State) (i : Nat) (n : BitVec 16) (w : Wait) : State :=
  let t := s.thread i
  if t.lvl || startedHolds t then s.mapThread i (fun t => { t with wait := w }) else
  checkpoint (s.setThread i t.dropBight) i n t.bight.start

/-- What a knot comes to: the state in which the instruction goes on, or one in which it waits or has trapped. -/
inductive Knotted where
  | go (s : State)
  | hold (s : State)

/-- R187: the stores of a slot performed, as a KNOT.W before its checkpoint requires: whether none is left at its home. -/
def performed (s : State) (i : Nat) : State × Bool :=
  let s1 := drainThread s i
  (s1, !s1.homeQ.any (fun o => o.th == i))

/-- R187, R320: the checkpoint of a KNOT.W of slot i, or its wait for a started command or for a store that a held bank keeps from being
performed; the knot is then performed afresh and finds the wave pending. -/
def waveCheckpoint (s : State) (i : Nat) (n : BitVec 16) (npc : PC) : Knotted :=
  match performed s i with
  | (s1, true) => if startedHolds (s1.thread i) then .hold (s1.mapThread i (fun t => { t with wait := .commit })) else .go (checkpoint s1 i n npc)
  | (s1, false) => .hold (s1.mapThread i (fun t => { t with wait := .commit }))

/-- R52, R54: the wave steps of a knot that opens its new bight at `npc`. At S no checkpoint is taken (R369): an explicit
KNOT.W there opens the wave, or waits for the open one once its thread has checkpointed it. (DEDUCED, A18) -/
def waveStep (s : State) (i : Nat) (explicit : Bool) (npc : PC) : Knotted :=
  let t := s.thread i
  let g := s.graph t.graph
  match g.openWave with
  | some n =>
    if t.wave = n then (if explicit then .hold (s.mapThread i (fun t => { t with wait := .knotW })) else .go s)
    else if t.lvl then .go s
    else waveCheckpoint s i n npc
  | none =>
    if !explicit then .go s
    else if t.lvl then .go (if g.st = .running then openWave s t.graph none else s)
    else waveCheckpoint (openWave s t.graph none) i (g.lastWave + 1) npc

/-- R181: a waiting release of the slot waits for a wave that the slot itself has still to checkpoint, for which its knot goes on. -/
def awaitsOwnWave (s : State) (i : Nat) : Bool :=
  let t := s.thread i
  !t.lvl && s.held.any (fun o => o.th == i && o.hold.any (fun n => (s.graph o.graph).openWave == some n && t.wave != n))

/-- R44, R180, R181, R297: an acquire, an atomic or a waiting release of the slot is not yet performed, so its commit has not
retired. -/
def commitPending (s : State) (i : Nat) : Bool :=
  (s.held.any (fun o => o.th == i) && !awaitsOwnWave s i) ||
  s.homeQ.any (fun o => o.th == i && (o.acq || match o.act with | .store _ _ => false | _ => true))

/-- R44, R47, R52, R240, R416: a knot of slot i, explicit KNOT.W when `w`, whose new bight opens at `npc`. R181: in a contained
graph a buffered release at GROUP or SYSTEM makes it a KNOT.W. (DEDUCED, A65) -/
def knot (s : State) (i : Nat) (w : Bool) (npc : PC) : Knotted :=
  let t := s.thread i
  let g := s.graph t.graph
  let far := contained g && t.bight.stores.any (fun o => decide (8 ≤ o.relScope))
  let n : BitVec 16 := match g.openWave with | some n => n | none => g.lastWave + 1
  if far && g.openWave == some t.wave then .hold (s.mapThread i (fun t => { t with wait := .knotW })) else
  match epochMetBy s i (deferredReads t.bight.stores) with
  | some n => .hold (meetMarkerBy s i n .commit)
  | none =>
  match commitBlock s i with
  | (s', some .overflow) => .hold (s'.asThread i (fun s => raiseFree s 0x0A))
  | (s', some .wait) => .hold (s'.mapThread i (fun t => { t with wait := .commit }))
  | (s', some (.trap c ea)) => .hold (s'.asThread i (fun s => accessTrap s c ea))
  | (s', none) =>
    let s1 := release s' i (if far then some n else none) npc
    -- R180, R181, R297: an acquire, an atomic or a waiting release delays the retirement of the commit, and a late trap is raised at the
    -- next instruction: an explicit knot passes on and its slot is not ready until then (commitPending), an irrevocable
    -- instruction is executed afresh; the wave steps of a far release stand between
    let waits (s : State) : Bool := npc == t.pc && (commitPending s i || (t.late.isNone && (s.thread i).late.isSome))
    match if waits s1 && !far then .hold (s1.mapThread i (fun t => { t with wait := .commit })) else waveStep s1 i (w || far) npc with
    | .hold s2 => .hold (s2.mapThread i (fun t => { t with bight := .openAt t.pc t.lc t.fpctl }))
    | .go s2 =>
      if (s2.thread i).run = .cut then .hold (s2.mapThread i (fun t => { t with pc := npc }))
      else if waits s2 then .hold (s2.mapThread i (fun t => { t with wait := .commit })) else .go s2

/-- R47, R48: an irrevocable instruction: not ready while a register is owed; `pre` is an issue check made before the
implicit knot; `body` acts outside any bight. -/
def irrevocable (rd wr : RegSet) (pre : Option (Nat × Word)) (body : State → State) (s : State) : State :=
  if s.me.notReady (rd.or wr) then s
  else match pre with
    | some (c, v) => raise s c v
    | none =>
      match knot s s.cur false s.me.pc with
      | .hold s' => s'
      | .go s' => body s'

/-- R47: an irrevocable instruction done: a new bight opens at the next instruction. -/
def Thread.nextFresh (t : Thread) : Thread := { t.next with bight := .openAt (t.pc + 4) t.lc t.fpctl }

/-- R35, R49: the running slot in a blocked wait. -/
def waitAs (w : Wait) (s : State) : State := s.mapMe (fun t => { t with wait := w })

/-- R57, R416: the running slot meets marker n (or a line of epoch n) inside its bight. -/
def meetMarker (s : State) (n : BitVec 16) (w : Wait) : State := meetMarkerBy s s.cur n w

/-! ### The return from an exception (R375) -/

/-- R375: SYSRET after its handler's commit; `re` discards and re-enters the suspended bight. -/
def sysReturn (s : State) (re : Bool) : State :=
  let t := s.me
  match t.susp with
  | some b =>
    if re then
      let t1 := { t with bight := b, susp := none, lvl := false, kept := none }
      let t2 := { t1.dropBight with pc := t.tbs }
      let t3 := { t2 with bight := { t2.bight with start := t.tbs } }
      let n := t.rcnt.toNat + 1
      let s1 := s.setMe { t3 with rcnt := .ofNat 8 (min n 255) }
      if t.rlim.toNat ≤ n then
        deliver s1 s.cur { code := 0x0B, val := 0x43, pc := t.tbs, disc := true, e := false, queue := 0, epc := 0, graph := false,
                           open_ := false }
      else s1
    else s.setMe { t with bight := b, susp := none, lvl := false, kept := none, pc := t.tpc, wait := .none }
  | none => s.setMe { t with lvl := false, kept := none, pc := t.tpc, wait := .none, bight := .openAt t.tpc t.lc t.fpctl }

end Sys2Proof.Machine
end

