-- ==== Sys2Proof/Machine/Operands.lean ====
section
/-! DEFINITION. Operand forms: register pairs, immediates and branch targets (R195), effective addresses (R287 to R293),
vector lanes and governing predicates (R66, R250, R251). -/

namespace Sys2Proof.Machine

/-- Reads of two scalars. -/
def readsSS (a b : BitVec 5) : RegSet := (RegSet.s1 a).or (RegSet.s1 b)
/-- R195: imm16 sign-extended. -/
def simm (i : BitVec 16) : Word := i.signExtend 64
/-- R195: imm16 zero-extended. -/
def zimm (i : BitVec 16) : Word := i.zeroExtend 64
/-- R195: a B-format target. -/
def target13 (pc : PC) (o : BitVec 13) : PC := pc + ((o.signExtend 18) <<< 2)
/-- R195: a J-format target. -/
def target25 (pc : PC) (o : BitVec 25) : PC := pc + (o.truncate 18 <<< 2)
/-- R220: a predicate that is all ones or all zeros. -/
def predOf (b : Bool) : Word := if b then BitVec.allOnes 64 else 0

/-- R287: base plus a 13-bit byte offset. -/
def ea13 (t : Thread) (a : BitVec 5) (o : BitVec 13) : Word := t.rs a + o.signExtend 64
/-- R289: base plus shifted index. -/
def eaIndexed (t : Thread) (a b : BitVec 5) (k : BitVec 2) : Word := t.rs a + (t.rs b <<< k.toNat)
/-- R291: base plus a line offset. -/
def eaLines (t : Thread) (a : BitVec 5) (o : BitVec 10) : Word := t.rs a + (o.signExtend 64 <<< 6)

/-- R66: the lanes of w bytes of a vector register. -/
def lanesOf (w : Nat) (v : Vec) : List Nat := (List.range (64 / w)).map (fun i => v.toNat / 2 ^ (8 * w * i) % 2 ^ (8 * w))
/-- R66: a vector register from its lanes of w bytes. -/
def ofLanes (w : Nat) (ls : List Nat) : Vec :=
  .ofNat 512 (ls.foldr (fun x acc => x % 2 ^ (8 * w) + 2 ^ (8 * w) * acc) 0)
/-- R251: lane i of w bytes is active under a predicate when bit w * i is set. -/
def active (p : Word) (w i : Nat) : Bool := p.getLsbD (w * i)

end Sys2Proof.Machine
end

