-- ==== Sys2Proof/Machine/Access.lean ====
section
/-! DEFINITION. The two shapes of a memory access inside the bight, reads and buffered updates, with the checks of Table 10-1
(R283 to R286, R416), and the ordered irrevocable access (R179 to R181). -/

namespace Sys2Proof.Machine

/-- Table 10-1 checks 1 and 2 over the elements (address, size) of a form: the first that fails, of the lowest element. -/
def addrChecks (unit : Nat) (els : List (Word × Nat)) : Option (Nat × Word) :=
  match els.find? (fun e => !addressOk e.1 e.2) with
  | some e => some (3, e.1)
  | none => match els.find? (fun e => e.1.toNat % unit != 0) with
    | some e => some (4, e.1)
    | none => none

/-- Of two failed checks the one that Table 10-1 makes first; of one check, the lower element's. -/
def worse (x y : Nat × Word) : Nat × Word := if firstCause x.1 y.1 = x.1 then x else y

/-! ### Banks held by row commands (R112) -/

/-- R112: whether a home access of the running slot to some of these elements waits for a bank in which a row command holds another row
open. -/
def homeBusy (s : State) (write : Bool) (els : List (Word × Nat)) : Bool := agentHeld s (agOf s s.cur) write els

/-! ### Epochs (R416) -/

/-- R416: the open wave that a read by the running slot meets. -/
def epochMet (s : State) (els : List (Word × Nat)) : Option (BitVec 16) := epochMetBy s s.cur els

/-- R112: whether the translation of some of these elements by the running slot waits for a bank in which its walk reads. -/
def walkBusy (s : State) (els : List (Word × Nat)) : Bool :=
  els.any (fun x => !isLocal x.1 && (linePieces x.1 x.2).any (fun p => walkHeld s (agOf s s.cur) (vaOf p.1)))

/-! ### Reads (R41, R285) -/

/-- Whether the bight's store buffer holds every byte of an element. (DEDUCED, A27) -/
def allBuffered (b : List BufOp) (ea : Word) (n : Nat) : Bool :=
  let base := if isLocal ea then ea.toNat % 2 ^ 18 else vaOf ea
  (List.range n).all (fun i => (bufByte b (spaceOf ea) (base + i)).isSome)

/-- Table 10-1 checks 3 to 7 and the bytes of one element, the bight's own buffered bytes in their place. `plain`: a codec
page refuses the form. (DEDUCED, A27) -/
def readElement (s : State) (plain : Bool) (ea : Word) (n : Nat) : State × Nat × List Byte :=
  let a := agOf s s.cur
  let codec := plain && !isLocal ea && (match translate s a (vaOf ea) false with | (_, 0, e, _) => Pte.codec e | _ => false)
  if codec then (s, 0x16, []) else
  let (s', c, bs) := readRange s a ea n
  let buf := s.me.bight.stores
  (s', if c = 8 ∧ allBuffered buf ea n then 0 else c, overlay buf ea bs)

/-- R170, R286: whether an element belongs to an event that an earlier element of its access has made: its sector has been read, or
its line, when a retired home answers for it (R452). (DEDUCED, A70) -/
def sameEvent (s : State) (seen : List Word) (ea : Word) : Bool :=
  seen.any (fun x => x.toNat / 32 == ea.toNat / 32) ||
    (!isLocal ea && seen.any (fun x => x.toNat / 64 == ea.toNat / 64) &&
      (match translate s (agOf s s.cur) (vaOf ea) false with
        | (_, 0, e, _) => homeDead s s.myTile (Pte.tile e)
        | _ => false))

/-- R286: the elements of a read in order: the failed check, if any, and the bytes. (DEDUCED, A70) -/
def readElements (s : State) (plain : Bool) (els : List (Word × Nat)) : State × (Nat × Word) × List (List Byte) :=
  let r := els.foldl (fun (acc : State × (Nat × Word) × List (List Byte) × List Word) e =>
    let (s', c, bs) := readElement acc.1 plain e.1 e.2
    (if sameEvent acc.1 acc.2.2.2 e.1 then acc.1 else s', worse acc.2.1 (c, e.1), acc.2.2.1 ++ [bs], e.1 :: acc.2.2.2))
    (s, (0, 0), [], [])
  (r.1, r.2.1, r.2.2.1)

/-- R285: a read that names a byte of a deferred update of its own bight performs an implicit knot before itself. -/
def afterDeferred (els : List (Word × Nat)) (s : State) : Knotted :=
  if els.any (fun e => hitsDeferred s.me.bight.stores e.1 e.2) then knot s s.cur false s.me.pc else .go s

/-- R283 to R287, R416: a form inside the bight that reads memory, with its trap list in order (R284). `chk`: a trap that the
bytes read raise (R303). -/
def loadOp (rd wr : RegSet) (unit : Nat) (plain : Bool) (els : List (Word × Nat))
    (chk : List (List Byte) → Option (Nat × Word)) (body : List (List Byte) → State → State)
    (s : State) : State :=
  if s.me.notReady (rd.or wr) then s else
  match addrChecks unit els with
  | some (c, v) => raise s c v
  | none =>
    match afterDeferred els s with
    | .hold s' => s'
    | .go s1 =>
      let b := s1.me.bight.read rd
      match (b.live.inter wr).first with
      | some v => raise s1 9 v
      | none =>
        match epochMet s1 els with
        | some n => meetMarker s1 n .commit
        | none =>
          if homeBusy s1 false els then waitAs .home s1 else
          match readElements s1 plain els with
          | (s2, (0, _), bs) =>
            match chk bs with
            | some (c, v) => raise (s2.mapMe (fun t => { t with bight := b })) c v
            | none => body bs (s2.mapMe (fun t => t.tracked rd wr))
          | (s2, (c, ea), _) => accessTrap s2 c ea

/-! ### Buffered updates (R42, R285) -/

/-- What a buffered update does to its bytes: a store, an atomic of a code, or a cleat update. -/
inductive Update where
  | store
  | amo (code : Nat)
  | cleat
  deriving DecidableEq, Repr

/-- R429: whether one of a form's stores covers every sector that an element touches. -/
def coversSectors (ops : List BufOp) (ea : Word) (n : Nat) : Bool :=
  ops.any (fun o => match o with
    | .store x bs _ => decide (x.toNat ≤ ea.toNat / 32 * 32) && decide ((ea.toNat + n + 31) / 32 * 32 ≤ x.toNat + bs.length)
    | _ => false)

/-- R42, Table 10-1 checks 3 to 6 of one element as it enters the buffer; atomics and cleat updates are checked through
step 5 (R297). R429: a tag-setting store must cover whole sectors. (DEDUCED, A22) -/
def enterElement (ops : List BufOp) (s : State) (u : Update) (ea : Word) (n : Nat) : State × Nat :=
  let a := agOf s s.cur
  let narrow (e : Nat) : Bool := a.lvl && Pte.ts e && !coversSectors ops ea n
  if isLocal ea then
    let far := match u with | .amo k => k == 18 || k == 21 || k == 22 | _ => false
    (s, if (!a.lvl && inWindow (s.graph a.graph).hwin (ea.toNat % 2 ^ 18) n) || far then 6 else 0)
  else (linePieces ea n).foldl (fun (acc : State × Nat) p =>
    let next (x : State × Nat) : State × Nat := (x.1, firstCause acc.2 x.2)
    next (match translate acc.1 a (vaOf p.1) true with
    | (s1, 0, e, large) =>
      if narrow e then (s1, 4) else
      let refused := match u with | .store => false | .amo k => codecRefuses (some k) ea | .cleat => true
      if Pte.codec e && refused then (s1, 0x16) else
      match placeOf e large (vaOf p.1) with
      | .host _ => (s1, 0)
      | .codec e frame _ =>
        let (s2, d) := codecDesc s1 (Pte.tile e) a.part (Pte.cidx e) a.graph
        let ok := match d with | some d => descAdmits d (Pte.budget e) (vaOf p.1 / 128 * 128) | none => false
        (s2, if !ok then 0x16 else if u == .store && !Pte.ts e && tagRefuses s2 (sectorsOf frame (32 * Pte.budget e)) (tagOf ea) then 7 else 0)
      | .vault key => (s1, if u == .store && !Pte.ts e && tagRefuses s1 (sectorsOf key p.2.2) (tagOf ea) then 7 else 0)
    | (s1, c, e, _) => (s1, if narrow e then 4 else c))) (s, 0)

/-- The elements of a buffered update in order, and the failed check, if any. -/
def enterElements (ops : List BufOp) (s : State) (u : Update) (els : List (Word × Nat)) : State × (Nat × Word) :=
  els.foldl (fun (acc : State × (Nat × Word)) e =>
    let (s', c) := enterElement ops acc.1 u e.1 e.2
    (s', worse acc.2 (c, e.1))) (s, (0, 0))

/-- R416, R169: the open wave that the read half of a deferred update meets; a store reads nothing. -/
def deferMet (s : State) (u : Update) (els : List (Word × Nat)) : Option (BitVec 16) :=
  match u with
  | .store => none
  | _ => epochMet s els

/-- R40, R46, R284 to R286, R416, R112: a form whose updates enter the store buffer, with its trap list in order; the read half of a
deferred update meets the open wave as a load does. -/
def bufferOp (rd : RegSet) (unit : Nat) (u : Update) (els : List (Word × Nat)) (ops : List BufOp) (s : State) : State :=
  if s.me.notReady rd then s else
  match addrChecks unit els with
  | some (c, v) => raise s c v
  | none =>
    match deferMet s u els with
    | some n => meetMarker s n .commit
    | none =>
    if walkBusy s els then waitAs .home s else
    match enterElements ops s u els with
    | (s1, (4, ea)) => raise s1 4 ea
    | (s1, (c, ea)) =>
      if !buffersFit (s.me.bight.stores ++ ops) then raiseFree s 0x0A
      else if c = 0 then s1.mapMe (fun t => { t.next with bight := { t.bight.read rd with stores := t.bight.stores ++ ops } })
      else accessTrap s1 c ea

/-! ### Ordered irrevocable accesses (R179 to R181) -/

/-- R197: a kind that releases: rel or ar. -/
def releases (k : BitVec 2) : Bool := 2 ≤ k.toNat
/-- R197: a kind that acquires: acq or ar. -/
def acquires (k : BitVec 2) : Bool := k.toNat % 2 == 1

/-- R181: whether a release of the running slot must wait for a wave: its graph is contained and the scope leaves the
device. (DEDUCED, A65) -/
def farRelease (s : State) (k : BitVec 2) (sc : BitVec 4) : Bool :=
  releases k && decide (8 ≤ sc.toNat) && contained (s.graph s.me.graph)

/-- R181: the wave that a far release opened is complete, and the graph's held egress writes before it have been accepted. (DEDUCED, A65)
At S no checkpoint is taken, so that the wave of a far release there is not complete before its handler ends (A18). -/
def waveSent (s : State) : Bool :=
  let t := s.me
  !((s.graph t.graph).lastWave != t.wave && decide ((t.wave - (s.graph t.graph).lastWave).toNat < 2 ^ 15)) &&
  egressAccepted s t.graph t.wave

/-- Table 6-4: whether a fence of kind k and scope sc may end. -/
def fenceMet (s : State) (k : BitVec 2) (sc : BitVec 4) : Bool :=
  (decide (sc.toNat ≤ 1) || s.me.idle) &&
  (!releases k || decide (sc.toNat < 3) || !s.homeQ.any (fun o => o.th == s.cur)) &&
  (!releases k || decide (sc.toNat < 8) || portsQuiet s s.cur) &&
  (!farRelease s k sc || (!s.me.lvl && waveSent s))

/-- Table 6-4, TILE and wider: the earlier stores and atomics of the slot are performed. -/
def performEarlier (s : State) (k : BitVec 2) (sc : BitVec 4) : State :=
  if releases k && decide (3 ≤ sc.toNat) then drainThread s s.cur else s

/-- R47, R179 to R181: an irrevocable instruction with a fence of kind k and scope sc before it. A far release first
performs a KNOT.W, once, and then waits. -/
def irrevocableFenced (rd wr : RegSet) (pre : Option (Nat × Word)) (k : BitVec 2) (sc : BitVec 4) (body : State → State)
    (s : State) : State :=
  if s.me.notReady (rd.or wr) then s else
  match pre with
  | some (c, v) => raise s c v
  | none =>
    let far := farRelease s k sc
    match knot s s.cur (far && s.me.wait != .release) s.me.pc with
    | .hold s' => s'
    | .go s1 =>
      let s2 := performEarlier s1 k sc
      if k = 0 ∨ fenceMet s2 k sc then body s2
      else waitAs (if far then .release else .commit) s2

/-- R416: an access outside a bight meets a line of the open wave's epoch: the thread checkpoints the wave before it. At S it
waits (R369). -/
def checkpointFirst (s : State) (n : BitVec 16) : State :=
  if s.me.lvl || startedHolds s.me then waitAs .commit s else checkpoint s s.cur n s.me.pc

/-- R180: the running slot done with an ordered atomic: it goes on once the acquire's wait is over. -/
def Thread.nextAcquired (t : Thread) (k : BitVec 2) (sc : BitVec 4) : Thread :=
  { t.nextFresh with wait := if acquires k && decide (2 ≤ sc.toNat) then .acquire else .none }

end Sys2Proof.Machine
end

