-- ==== Sys2Proof/Machine/Engine.lean ====
section
/-! DEFINITION. Engine commands: issue (R316, R317, R319), the started commands of a queue, the engine trap point (R318), held
faults (R433) and completions (R301, R477). -/

namespace Sys2Proof.Machine

/-! ### Issue -/

/-- R317: a failed check: its cause, and its TVAL where the spec gives one (A14). -/
abbrev Check := Option (Nat × Option Word)
/-- A check with the TVAL the spec gives. -/
def stopIf (b : Bool) (c : Nat) (v : Word) : Check := if b then some (c, some v) else none
/-- A check to which the spec gives no TVAL. -/
def stopFree (b : Bool) (c : Nat) : Check := if b then some (c, none) else none
/-- R317: of checks in order, the first that fails. -/
def firstOf (cs : List Check) : Check := cs.findSome? id

/-- R317: an engine command of the running slot, with the register operands A, B, C and the two after C as they stand. -/
def mkCmd (s : State) (i : Instr) (a b c : BitVec 5) : Cmd :=
  let t := s.me
  { i := i, pc := t.pc, va := t.rs a, vb := t.rs b, vc := t.rs c, vd := t.rs (c + 1), ve := t.rs (c + 2), lvl := t.lvl,
    fz := Fpctl.fz t.fpctl, nan := Fpctl.nanTrap t.fpctl, wave := t.wave }

/-- R316, R317, R35: an engine command issues into queue q: not ready while a register is owed or the queue is full; then
the issue checks, the implicit knot, and the entry into the queue. -/
def issue (q : Nat) (rd : RegSet) (c : Cmd) (chk : Check) (s : State) : State :=
  let wr := RegSet.s1 (cmdDest c.i)
  if s.me.notReady (rd.or wr) then s
  else if 8 ≤ (s.me.queue q).waiting.length then waitAs .fullQueue s
  else match chk with
    | some (x, some v) => raise s x v
    | some (x, none) => raiseFree s x
    | none => irrevocable rd wr none (fun s => s.mapMe (fun t =>
        (t.mapQueue q (fun u => { u with waiting := u.waiting ++ [{ c with wave := t.wave }] })).nextFresh)) s

/-! ### Started commands -/

/-- R101: the port of a command's engine at the banks of its tile; a control block is read by the stream engine that opens it. -/
def cmdPort (i : Instr) : Nat :=
  match i with
  | .copy _ _ _ _ _ _ => 9
  | .copy2 _ _ _ _ _ => 9
  | .copym _ _ _ _ _ _ => 9
  | .mdrain _ _ _ _ _ => 10
  | .sopen e _ _ _ => 1 + e.toNat
  | _ => 11

/-- The agent that a command is: the level and the epoch it was issued with (R363, R414). -/
def agCmd (s : State) (th : Nat) (c : Cmd) : Ag := { agOf s th with lvl := c.lvl, epoch := c.wave, port := cmdPort c.i }

/-- R317: a command as it starts. -/
def Active.start (c : Cmd) : Active :=
  { cmd := c, pos := 0, row := 0, begun := false, done := false, due := 0, value := 0, mode := 0, held := none, owed := 0, fill := [],
    logged := false }

/-- The k-th started command of queue q of slot th. -/
def activeAt (s : State) (th q k : Nat) : Option Active := ((s.thread th).queue q).active[k]?

/-- That command changed. -/
def setActive (s : State) (th q k : Nat) (a : Active) : State :=
  s.mapThread th (fun t => t.mapQueue q (fun u => { u with active := u.active.set k a }))

/-- R182: that command has done its work and retires, not before the cycle `due`. -/
def finish (s : State) (th q k : Nat) (a : Active) (due : Nat) : State :=
  setActive s th q k { a with done := true, due := due }

/-- R447: the record of the first poison that a command consumes. -/
def poisonOnce (s : State) (th q k : Nat) (a : Active) (addr : Word) : State :=
  if a.logged then s else setActive (poisonRecord s th 3 addr a.cmd.pc) th q k { a with logged := true }

/-- The vectors of an MRUN that are in the array. -/
def Active.flying (a : Active) : Nat :=
  match a.cmd.i with
  | .mrun _ _ _ _ _ => a.pos - a.row
  | .mrunAcc _ _ _ _ _ => a.pos - a.row
  | _ => 0

/-- R477: the vectors of the k-th started command of an M queue complete nothing further; those of slot th enter and leave the array in
the order of its queue. (DEDUCED, A30) -/
def strayVectors (th k : Nat) (act : List Active) (vs : List VecFly) : List VecFly :=
  let skip := ((act.take k).map Active.flying).foldl (fun m n => m + n) 0
  let n := match act[k]? with | some a => a.flying | none => 0
  (vs.foldl (fun (acc : List VecFly × Nat) v =>
    if v.th = th ∧ v.stray = false then
      let w : VecFly := if skip ≤ acc.2 ∧ acc.2 < skip + n then { v with stray := true } else v
      (acc.1 ++ [w], acc.2 + 1)
    else (acc.1 ++ [v], acc.2)) ([], 0)).1

/-- R477: the machine as the k-th started command of queue q ends. -/
def strayed (s : State) (th q k : Nat) : State :=
  if q = 3 then { s with vecs := strayVectors th k ((s.thread th).queue 3).active s.vecs } else s

/-- R318: a trap of the k-th started command of queue q: the command is gone without its give token, every command of the
thread that has not started is cancelled, and the first such event waits to be raised at the next instruction. -/
def engineTrap (s : State) (th q k code : Nat) (tval : Word) : State :=
  (strayed s th q k).mapThread th (fun t =>
    let pc := match (t.queue q).active[k]? with | some a => a.cmd.pc | none => t.pc
    let t1 := t.mapQueue q (fun u => { u with active := u.active.eraseIdx k })
    { t1 with queues := t1.queues.map (fun u => { u with waiting := [] }),
              pend := some (t1.pend.getD { code := code, tval := tval, q := q + 2, epc := pc }) })

/-- A14: the trap of a command to which the spec gives no TVAL. -/
def engineTrapFree (s : State) (th q k code : Nat) : State :=
  engineTrap s.draw th q k code (Config.freeWord s.drawn)

/-- R318: a failed start check of a command. -/
def startFails (s : State) (th q k : Nat) (c : Nat × Option Word) : State :=
  match c.2 with
  | some v => engineTrap s th q k c.1 v
  | none => engineTrapFree s th q k c.1

/-- R433: the command waits for a page. -/
def holdOn (s : State) (th q k : Nat) (a : Active) (addr : Word) : State := setActive s th q k { a with held := some addr }

/-- R301, R477: a completion of n more bytes by a command on its cleat. A page fault holds it; any other refusal ends the
command at the engine trap point. -/
def complete (s : State) (th q k : Nat) (a : Active) (cleat : Word) (n : Nat) : State :=
  if cleat = 0 ∨ n + a.owed = 0 then s
  else if agentHeld s (agCmd s th a.cmd) true [(cleat, 16)] then setActive s th q k { a with owed := n + a.owed }
  else match completeOn s (agCmd s th a.cmd) cleat (n + a.owed) with
  | (s', 0) => setActive s' th q k { a with owed := 0, held := none }
  | (s', 5) => setActive s' th q k { a with owed := n + a.owed, held := some cleat }
  | (s', c) => engineTrap (if c = 8 then poisonOnce s' th q k a cleat else s') th q k c cleat

/-- R364: a local range that a command issued at U may not touch. (DEDUCED, A33) -/
def windowRefused (s : State) (th : Nat) (c : Cmd) (ea : Word) (n : Nat) : Bool :=
  isLocal ea && decide (0 < n) && !c.lvl && inWindow (s.graph (s.thread th).graph).hwin (ea.toNat % 2 ^ 18) n

/-- R36, R216: the region of a physical context that contains a tile. -/
def regionAt (s : State) (tile pctx : Nat) : Option Region :=
  s.regions.find? (fun r => r.pctx == pctx && decide (r.x ≤ tileX tile) && decide (tileX tile < r.x + r.w) &&
    decide (r.y ≤ tileY tile) && decide (tileY tile < r.y + r.h))

namespace Region
/-- R21: the lead tile. -/
def lead (r : Region) : Nat := tileAt r.x r.y
/-- The tiles of a region, in increasing y and x. -/
def tiles (r : Region) : List Nat :=
  (List.range r.h).flatMap (fun y => (List.range r.w).map (fun x => tileAt (r.x + x) (r.y + y)))
/-- R21: the tiles of the west edge, from the north. -/
def feeders (r : Region) : List Nat := (List.range r.h).map (fun y => tileAt r.x (r.y + y))
/-- R21: the tiles of the south edge, from the west. -/
def drainers (r : Region) : List Nat := (List.range r.w).map (fun x => tileAt (r.x + x) (r.y + r.h - 1))
/-- Whether a region's rectangle is that of a counter. -/
def onRect (r : Region) (q : Rect) : Bool := r.x == q.x && r.y == q.y && r.w == q.w && r.h == q.h
end Region

/-- R322, R325: the tiles that a row or plane form acts on: the issuing tile, or every tile of the region it leads; none where
a region form finds no region that its tile leads. -/
def formTiles (s : State) (th : Nat) (rg : Bool) : Option (List Nat) :=
  if !rg then some [tileOf th] else
  match regionAt s (tileOf th) (s.thread th).pctx.toNat with
  | some r => if r.lead = tileOf th then some r.tiles else none
  | none => none

/-- The logical x of a tile in a thread's graph. -/
def logX (s : State) (th tile : Nat) : Nat := tileX tile - (s.graph (s.thread th).graph).x
/-- The logical y of a tile in a thread's graph. -/
def logY (s : State) (th tile : Nat) : Nat := tileY tile - (s.graph (s.thread th).graph).y

end Sys2Proof.Machine
end

