-- ==== Sys2Proof/Machine/Frames.lean ====
section
/-! DEFINITION. Configuration frames: what a tile rejects (R163, R129, R132, R135, R143, R164, R166, R440), their capture
(R167), and the claims of a loaded context. -/

namespace Sys2Proof.Machine

/-- R162, Table 5-8: the KIND of a frame index. -/
def frameKind (i : Nat) : Nat := if i < 16 then 0 else if i < 24 then 1 else if i < 72 then 2 else 3

/-- Table 5-12: whether an endpoint frame holds a field outside its range. (DEDUCED, A36) A control output endpoint is bound to no fabric port:
R440 binds data endpoints. (DESIGN CHOICE, A111) -/
def epFrameOk (g : Graph) (ports : BitVec 128) (ctl : Bool) (f : Nat) : Bool :=
  fld f 160 0 == 0 &&
  (!EpF.used f ||
    ((match EpF.attach f with | 0 => decide (EpF.unit f ≤ 3) | 1 => decide (EpF.unit f ≤ 1) && !ctl | _ => true) &&
     decide (EpF.climit f ≤ 32768) &&
     (if EpF.out f then
        EpF.q f == 0 && !EpF.spill f && (!ctl || decide (EpF.destep f ≤ 7)) &&
        (if EpF.toPort f then !ctl && ports.getLsbD (EpF.port f) else decide (EpF.destx f < g.w) && decide (EpF.desty f < g.h))
      else
        decide (2 ≤ EpF.q f) && decide (EpF.q f ≤ if ctl then 16 else 64) &&
        (!EpF.spill f || (decide (48 ≤ EpF.climit f) && decide (1 ≤ EpF.lo f) && decide (EpF.lo f < EpF.hi f) &&
          decide (EpF.hi f ≤ EpF.q f))))))

/-- Table 5-13, R135, R141: whether an input or output word names a node or an endpoint that a tile has; `ctl`: a control endpoint. -/
def nodeWordOk (ctl : Bool) (w : Nat) : Bool := !(namesNode w || ctl) || decide (w % 32 ≤ 7)

/-- Table 5-13, R135, R136: whether a node frame is within its ranges. One that names its own node is within them. (DESIGN CHOICE, A112) -/
def ndFrameOk (f : Nat) : Bool :=
  fld f 52 0 == 0 &&
  (!NdF.used f ||
    ((List.range (NdF.nin f)).all (fun j => nodeWordOk (NdF.kind f == 5) (NdF.inp f j)) &&
     (List.range (NdF.nout f)).all (fun j => nodeWordOk false (NdF.outp f j)) &&
     (match NdF.kind f with
      | 1 => NdF.nin f == 1 && decide (2 ≤ NdF.nout f) && decide (NdF.nout f ≤ 4) &&
          (match NdF.sel f with
            | 0 => decide (NdF.selpos f ≤ 7)
            | 1 => decide (NdF.selpos f ≤ 254)
            | 2 => decide (NdF.selpos f ≤ 4)
            | _ => decide (1 ≤ NdF.selcnt f))
      | 2 => NdF.nout f == 1
      | 3 => NdF.nout f == 1 && decide (1 ≤ NdF.rwin f) && decide (NdF.rwin f ≤ 64)
      | 4 => NdF.nin f == 1 && decide (2 ≤ NdF.nout f) &&
          (List.range (NdF.nout f)).all (fun b => decide (1 ≤ NdF.win f b) && decide (NdF.win f b ≤ 64)) &&
          decide (NdF.nclimit f ≤ 32768) && (!NdF.nspill f || decide (48 ≤ NdF.nclimit f))
      | 5 => NdF.nin f == 1 && NdF.nout f == 1 && decide (NdF.repmode f ≤ 1)
      | _ => false)))

/-- Table 5-11: whether a strand format entry is one the table gives. (DEDUCED, A36) -/
def fmtEntryOk (e : Nat) : Bool := fld e 9 4 == 0 && decide (fld e 3 0 ≤ 10)

/-- R163: whether a frame of an index is acceptable by itself. (DEDUCED, A36) -/
def frameOk (g : Graph) (ports : BitVec 128) (i f : Nat) : Bool :=
  if i < 16 then fld f 223 0 == 0
  else if i = 16 then fld f 229 0 == 0 && decide (MpF.accbase f + MpF.acccnt f ≤ 512)
  else if i < 19 then (List.range 16).all (fun j => fmtEntryOk (fld f (16 * j + 15) (16 * j)))
  else if i = 19 then fld f 85 0 == 0 && (List.range 4).all (fun j => MpF.entrypc f j % 4 == 0)
  else if i < 24 then f == 0
  else if i < 64 then epFrameOk g ports (decide (56 ≤ i)) f
  else if i < 72 then ndFrameOk f
  else if i < 80 then fld f 235 0 == 0 && EnF.scbaddr f % 128 == 0
  else f == 0

/-- R163, R166: whether another loaded context of the tile claims what a frame of context k claims. A context whose last load has failed counts
while a graph holds it. (DESIGN CHOICE, A113) -/
def claimedElsewhere (t : Tile) (k i f : Nat) : Bool :=
  (pick 4 (fun j => j != k && (t.ctx j).graph.isSome)).any (fun j =>
    let c := t.ctx j
    if i = 19 then Nat.land (MpF.scown f) (MpF.scown c.thF) != 0
    else if 24 ≤ i && i < 64 then EpF.used f && EpF.used (c.frame i)
    else if 64 ≤ i && i < 72 then NdF.used f && NdF.used (c.frame i)
    else if 72 ≤ i && i < 80 then EnF.used f && EnF.used (c.frame i)
    else false)

/-- Table 5-9: the bits of a frame that an image may write. -/
def frameWritable (i f : Nat) : Nat := if i < 16 then fld f 224 224 * 2 ^ 224 else f

/-- R167, FRAME_CAPTURE: a tile captures a frame addressed to it while its context loads, or rejects it, which fails the
load. -/
def execFrameCapture (tile : Nat) (addr : BitVec 32) (frame : BitVec 256) (s : State) : Out :=
  .next (
    let n := addr.toNat
    let k := fld n 18 17
    let i := fld n 14 8
    let t := s.tile tile
    let c := t.ctx k
    match c.graph with
    | none => s
    | some gk =>
      if !c.loading || tileAt (fld n 31 26) (fld n 25 19) != tile then s else
      let ok := fld n 7 0 == 0 && decide (i ≤ 95) && frameKind i == fld n 16 15 &&
        frameOk (s.graph gk) (s.part (graphPart gk)).portmask i frame.toNat && !claimedElsewhere t k i frame.toNat
      s.mapTile tile (fun t => t.mapCtx k (fun c =>
        if ok then { c with frames := Assoc.set c.frames i (.ofNat 256 (frameWritable i frame.toNat)) } else { c with failed := true })))

/-! ### Loading a context -/

/-- R132: the data beat buffers that the contexts of a tile divide. -/
def poolUsed (t : Tile) : Nat :=
  (pick 4 (fun k => (t.ctx k).graph.isSome)).foldl (fun n k =>
    let c := t.ctx k
    let e := (pick 32 (fun e => EpF.used (c.epF e) && !EpF.out (c.epF e))).foldl (fun n e => n + EpF.q (c.epF e) + 1) 0
    let d := (pick 8 (fun i => NdF.used (c.ndF i))).foldl (fun n i =>
      let f := c.ndF i
      n + (match NdF.kind f with
        | 3 => NdF.rwin f
        | 4 => (List.range (NdF.nout f)).foldl (fun m b => max m (NdF.win f b)) 0
        | _ => 0)) 0
    n + e + d) 0

/-- R143: the rings of the contexts of a tile, as first line and lines. -/
def rings (t : Tile) : List (Nat × Nat) :=
  (pick 4 (fun k => (t.ctx k).graph.isSome)).flatMap (fun k =>
    let c := t.ctx k
    ((pick 40 (fun e => EpF.used (c.epF e) && !EpF.out (c.epF e) && decide (48 ≤ EpF.climit (c.epF e)))).map
      (fun e => (EpF.cbase (c.epF e), EpF.climit (c.epF e) + 1))) ++
    ((pick 8 (fun i => NdF.used (c.ndF i) && NdF.kind (c.ndF i) == 4 && decide (48 ≤ NdF.nclimit (c.ndF i)))).map
      (fun i => (NdF.ncbase (c.ndF i), NdF.nclimit (c.ndF i) + 1))))

/-- R143, R25: lines of a partition's coil area. -/
def coilLines (p : Part) : Nat := (fld p.bankmap.toNat 20 16 - fld p.bankmap.toNat 12 8) * 98304

/-- R143: rings that overlap or leave the area. -/
def ringsBad (lines : Nat) (l : List (Nat × Nat)) : Bool :=
  match l with
  | [] => false
  | r :: rs => decide (lines < r.1 + r.2) || rs.any (fun q => decide (r.1 < q.1 + q.2) && decide (q.1 < r.1 + r.2)) || ringsBad lines rs

/-- R132, R143: whether a tile's loaded contexts fit it. -/
def tileFits (s : State) (part tile : Nat) : Bool :=
  decide (poolUsed (s.tile tile) ≤ 256) && !ringsBad (coilLines (s.part part)) (rings (s.tile tile))

/-- R97, R163, R331: context k of a tile made ready for a load: nothing claimed, every frame zero, the descriptor of plane k
at its reset values, its owned scale registers 1.0. -/
def Tile.beginLoad (t : Tile) (graph lctx k : Nat) : Tile :=
  let t1 := (t.release k).setCtx k { Ctx.reset with graph := some graph, lctx := lctx, loading := true }
  t1.mapPlane k (fun p => { p with desc := 0, fw := false, fm := false })

/-- R131, R164: the permits of an output endpoint as its context is loaded. (DESIGN CHOICE, A16) -/
def firstPermits (s : State) (g e f : Nat) : Nat :=
  if !EpF.out f then 0
  else if EpF.toPort f then 64
  else
    let (dt, de) := destOf s g e f
    EpF.q (epFrame (s.tile dt) de)

/-- R131 to R147, R165, R166: the endpoints, nodes, engines and strand format entries that a loaded context claims, as they stand
at load, with 1.0 in the scale registers it owns. R465: an edge bound to a port that is down stays absorbed before it. -/
def claimAll (s : State) (tile k : Nat) : State :=
  let c := (s.tile tile).ctx k
  let g := c.graph.getD 0
  let eps := (pick 40 (fun e => EpF.used (c.epF e))).map (fun e =>
    let f := c.epF e
    (e, { Endpoint.empty with permits := firstPermits s g e f, idle := s.cycle.toNat, spill := EpF.spill f && !EpF.out f, hi := EpF.hi f, lo := EpF.lo f,
                              climit := EpF.climit f }))
  let nds := (pick 8 (fun n => NdF.used (c.ndF n))).map (fun n =>
    let f := c.ndF n
    (n, { Node.empty with spill := NdF.nspill f, climit := NdF.nclimit f,
                          gates := (pick (NdF.nin f) (fun j => namesNode (NdF.inp f j))).map (fun j =>
                            (j, { idle := s.cycle.toNat, wakeAt := 0, gated := false })) }))
  let ens := pick 8 (fun e => EnF.used (c.enF e))
  let s0 : State := { s with
    ports := s.ports.map (fun (i, p) => (i, { p with dead := p.dead.filter (fun d => !eps.any (fun e => 40 * tile + e.1 == d)) })) }
  let bound := (eps.map Prod.fst).filter (fun e => EpF.out (c.epF e) && EpF.toPort (c.epF e) && !(s.port (EpF.port (c.epF e))).up)
  (bound.foldl (fun s e => s.mapPort (EpF.port (c.epF e)) (fun p => { p with dead := p.dead ++ [40 * tile + e] })) s0).mapTile tile (fun t =>
    let t1 := eps.foldl (fun t e => { t with eps := Assoc.set t.eps e.1 e.2 }) t
    let t2 := nds.foldl (fun t n => { t with nodes := Assoc.set t.nodes n.1 n.2 }) t1
    let t3 := ens.foldl (fun t e => { t with engines := Assoc.set t.engines e { Engine.idle with epoch := (s.graph g).lastWave } }) t2
    (pick 32 (fun e => EpF.used (c.epF e))).foldl (fun t e =>
      let f := c.frame (17 + e / 16)
      { t with sfmt := if h : e < 32 then t.sfmt.set e (.ofNat 16 (fld f (16 * (e % 16) + 15) (16 * (e % 16)))) h else t.sfmt })
      (t3.freeScales k))

/-- R163, R331: the end of a load of context k on some tiles: in force on all of them, or failed on all. -/
def endLoad (s : State) (part k : Nat) (tiles : List Nat) (bad : Bool) : State :=
  let fails := bad || tiles.any (fun ti => ((s.tile ti).ctx k).failed || !tileFits s part ti)
  if fails then
    tiles.foldl (fun s ti => s.mapTile ti (fun t => t.mapCtx k (fun c => { c with failed := true, loading := false, loaded := false }))) s
  else
    let s1 := tiles.foldl (fun s ti => s.mapTile ti (fun t => t.mapCtx k (fun c => { c with loaded := true, loading := false }))) s
    tiles.foldl (fun s ti => claimAll s ti k) s1

/-- R164, R168, R216: the address under which a frame record of an image goes onto its chain: physical coordinates and
context. -/
def chainAddress (g : Graph) (addr : Nat) : BitVec 32 :=
  .ofNat 32 (setFld (setFld (setFld addr 26 6 (g.x + fld addr 31 26)) 19 7 (g.y + fld addr 25 19)) 17 2 (physCtx g (fld addr 18 17)))

/-- R164: whether a frame record names a tile of the graph's shape and a context it declares. -/
def recordNames (g : Graph) (addr : Nat) : Bool :=
  decide (fld addr 31 26 < g.w) && decide (fld addr 25 19 < g.h) && decide (fld addr 18 17 < g.nctx)

/-- The tile that a frame record of a graph names. -/
def recordTile (g : Graph) (addr : Nat) : Nat := tileAt (g.x + fld addr 31 26) (g.y + fld addr 25 19)

/-- R33, R34: the slot that a logical thread of a graph has on a tile. -/
def slotOfThread (s : State) (k tile tno : Nat) : Nat :=
  ((pick 4 (fun j => let t := s.thread (4 * tile + j); t.graph == k && t.run != .free && t.tno.toNat == tno)).head?).getD tno

/-- R33, R216: a frame as it goes onto its chain: an endpoint attached to a thread names the slot that the thread has. (DESIGN CHOICE,
A45) (DEDUCED, A46) -/
def placedFrame (s : State) (k tile addr : Nat) (f : BitVec 256) : BitVec 256 :=
  let i := fld addr 14 8
  let n := f.toNat
  if 24 ≤ i ∧ i < 64 ∧ EpF.used n ∧ EpF.attach n = 0 ∧ EpF.unit n ≤ 3 then
    .ofNat 256 (setFld n 249 3 (slotOfThread s k tile (EpF.unit n)))
  else f

/-- The capture of a frame record of graph k. -/
def captureOf (s : State) (k : Nat) (r : Nat × BitVec 256) : Instr :=
  let g := s.graph k
  .frameCapture (recordTile g r.1) (chainAddress g r.1) (placedFrame s k (recordTile g r.1) r.1 r.2)

end Sys2Proof.Machine
end

