-- ==== Sys2Proof/Machine/Row.lean ====
section
/-! DEFINITION. The row engine and the vault banks (major 0x34, R321 to R324; R109 to R115), with the device steps of the
bank controller. -/

namespace Sys2Proof.Machine

/-! ### Row operands (R110) -/

/-- R110: the allocation tag. -/
def rowTag (v : Word) : Nat := fld v.toNat 19 16
/-- R110: the bank. -/
def rowBank (v : Word) : Nat := fld v.toNat 15 11
/-- R110: the row. -/
def rowRow (v : Word) : Nat := fld v.toNat 10 0
/-- R109: the key of the first byte of the row that an operand names in a tile's vault. -/
def rowKey (tile : Nat) (v : Word) : Nat := vaultKey tile (rowBank v * (6 * 2 ^ 20) + 3072 * rowRow v)
/-- R323: TVAL, the row operand with the failing tile's logical coordinates. -/
def rowTval (s : State) (th tile : Nat) (v : Word) : Word :=
  wd (setFld (setFld v.toNat 40 8 (logX s th tile)) 32 8 (logY s th tile))

/-- R100: whether a 3 KiB window breaks its alignment. -/
def windowMisaligned (ea : Word) : Bool :=
  let o := ea.toNat % 2 ^ 18
  o % 256 != 0 || decide (2 ^ 16 < o % 2 ^ 16 + 3072)

/-- R323: the issue checks of a row form; `win`: its tile-memory window. -/
def rowChecks (s : State) (v : Word) (win : Option Word) : Check :=
  let tv := rowTval s s.cur s.myTile v
  let last := fld (s.part (graphPart s.me.graph)).bankmap.toNat 4 0
  firstOf [stopIf (fld v.toNat 63 20 != 0) 3 tv, stopIf (win.any (fun w => !(isLocal w && addressOk w 1))) 3 tv,
    stopIf (win.any windowMisaligned) 4 tv, stopIf (decide (last < rowBank v)) 6 tv]

/-- A row form without a window. -/
def rowForm (i : Instr) (a : BitVec 5) (s : State) : State :=
  let d := mkCmd s i a 0 0
  issue 2 (RegSet.s1 a) d (rowChecks s d.va none) s
/-- A row form with a window. -/
def rowWindowForm (i : Instr) (a b : BitVec 5) (s : State) : State :=
  let d := mkCmd s i a b 0
  issue 2 (readsSS a b) d (rowChecks s d.va (some d.vb)) s

/-- R322, ROWACT. -/
def execRowact (a : BitVec 5) (r : Bool) (x y : BitVec 3) (s : State) : Out := .next (rowForm (.rowact a r x y) a s)
/-- R322, ROWTAKE.PL. -/
def execRowtakePl (a : BitVec 5) (r : Bool) (x y : BitVec 3) (s : State) : Out := .next (rowForm (.rowtakePl a r x y) a s)
/-- R322, ROWTAKE.MK. -/
def execRowtakeMk (a : BitVec 5) (r : Bool) (x y : BitVec 3) (s : State) : Out := .next (rowForm (.rowtakeMk a r x y) a s)
/-- R322, ROWTAKE.TM. -/
def execRowtakeTm (a b : BitVec 5) (r : Bool) (x y : BitVec 3) (s : State) : Out :=
  .next (rowWindowForm (.rowtakeTm a b r x y) a b s)
/-- R322, ROWPUT. -/
def execRowput (a b : BitVec 5) (r : Bool) (x y : BitVec 3) (s : State) : Out :=
  .next (rowWindowForm (.rowput a b r x y) a b s)
/-- R322, ROWCLOSE. -/
def execRowclose (a : BitVec 5) (r : Bool) (x y : BitVec 3) (s : State) : Out := .next (rowForm (.rowclose a r x y) a s)
/-- R324, ROWSTAT. -/
def execRowstat (a b : BitVec 5) (x y : BitVec 3) (s : State) : Out :=
  .next (
    let d := mkCmd s (.rowstat a b x y) a b 0
    issue 2 (RegSet.s1 b) d (stopIf (fld d.vb.toNat 63 20 != 0) 3 (rowTval s s.cur s.myTile d.vb)) s)

/-! ### Performing -/

/-- Table 4-7: what a hazard comes to. -/
inductive Hazard where
  | trap (code : Nat)
  | wait
  | clear
  deriving DecidableEq, Repr

/-- R111: activates of a list within the window that ends at a cycle. -/
def inWindowActs (now : Nat) (l : List Nat) : List Nat := l.filter (fun t => decide (now < t + Config.actWindow))

/-- R113: whether a background activate of a vault, its bank not under refresh, has waited so long that it takes the next free slot. -/
def backgroundFirst (now : Nat) (t : Tile) : Bool :=
  t.banks.any (fun b => b.2.bgSince.any (fun c => decide (c + Config.backgroundWait ≤ now)) && decide (b.2.busyTill ≤ now))

/-- Table 4-7, in its order: ROWACT at a vault. R112: it waits for the home to close a row of the bank that the home has open; R114: and for
the row that the controller has closed to be reactivated. -/
def actHazard (now : Nat) (t : Tile) (b : Bank) : Hazard :=
  let mine := (inWindowActs now t.acts).length
  if b.row.isSome then .trap 0x0E
  else if b.closed.any (fun c => decide (now < c + Config.tClose)) then .trap 0x0E
  else if Config.actLimit ≤ mine then .trap 0x0F
  else if Config.actLimit ≤ mine + (inWindowActs now t.bgActs).length then .wait
  else if now < b.busyTill || b.forced.isSome || now < b.homeTill || backgroundFirst now t then .wait else .clear

/-- Table 4-7: a transfer, or a close, of a row at a vault; a row that a restore has reactivated, or
that a forced refresh is to reactivate, is waited for (R115, R114). -/
def rowHazard (now row : Nat) (transfer : Bool) (t : Tile) (b : Bank) : Hazard :=
  match b.row with
  | none => if b.forced.any (fun r => r.1 == row) then .wait else .trap 0x0D
  | some (r, since) =>
    if transfer && r == row && decide (now < since + Config.tAct) && decide (b.readyAt ≤ since) then .trap 0x0C
    else if r ≠ row then .trap 0x0D
    else if transfer && t.lastBus.any (fun l => decide (now < l + Config.tGap)) then .wait
    else if now < b.busyTill || (transfer && decide (now < b.readyAt)) then .wait else .clear

/-- Table 4-7: the rank of a trap among the hazards. -/
def Hazard.rank (h : Hazard) : Nat := match h with | .trap 0x0E => 0 | .trap 0x0F => 1 | .trap 0x0C => 2 | .trap _ => 3 | .wait => 4 | .clear => 5

/-- R111: the hazard of a region form: a trap in any vault comes first, in the order of Table 4-7, then a wait. -/
def worstHazard (l : List (Nat × Hazard)) : Nat × Hazard :=
  l.foldl (fun m x => if x.2.rank < m.2.rank then x else m) (0, .clear)

/-- R322: what a row command does once it may be performed. -/
inductive RowAct where
  | activate | close | plane (masks : Bool) | take | put
  deriving DecidableEq, Repr

/-- The action of a row form, with its region bit. -/
def rowAct (i : Instr) : Option (RowAct × Bool) :=
  match i with
  | .rowact _ r _ _ => some (.activate, r)
  | .rowclose _ r _ _ => some (.close, r)
  | .rowtakePl _ r _ _ => some (.plane false, r)
  | .rowtakeMk _ r _ _ => some (.plane true, r)
  | .rowtakeTm _ _ r _ _ => some (.take, r)
  | .rowput _ _ r _ _ => some (.put, r)
  | _ => none

/-- Whether an action moves a row over the bus. -/
def RowAct.transfers (x : RowAct) : Bool := match x with | .activate => false | .close => false | _ => true

/-- Whether an action reads or writes a window of tile memory. -/
def RowAct.windowed (x : RowAct) : Bool := match x with | .take => true | .put => true | _ => false

/-- R110, R111: the activate of a row at a tile's vault, by the program. -/
def activateRow (s : State) (tile : Nat) (v : Word) : State :=
  let now := s.cycle.toNat
  s.mapTile tile (fun t =>
    { t.mapBank (rowBank v) (fun b => { b with row := some (rowRow v, now), closed := none, readyAt := 0 }) with
      acts := inWindowActs now t.acts ++ [now] })

/-- R110: the row of a bank closed. -/
def closeBank (s : State) (tile bank : Nat) : State :=
  s.mapTile tile (fun t => t.mapBank bank (fun b => { b with row := none, closed := some s.cycle.toNat }))

/-- R111: a transfer's start on a vault's bus. -/
def busTaken (s : State) (tile : Nat) : State := s.mapTile tile (fun t => { t with lastBus := some s.cycle.toNat })

/-- R115, R118, R112: the row, with every access accepted before it, read in every tile under the operand's tag: TAGCHK with the first
tile that fails it, the tiles with a poisoned sector, and the poisoned sectors. -/
def readRows (s : State) (v : Word) (tiles : List Nat) : State × Option Nat × List (Nat × Nat) :=
  tiles.foldl (fun (acc : State × Option Nat × List (Nat × Nat)) ti =>
    let (s', cs) := readEach (drainRow acc.1 (rowKey ti v)) ((List.range 96).map (fun j => rowKey ti v / 32 + j)) (fun _ => rowTag v)
    (s', if cs.contains 7 then some (acc.2.1.getD ti) else acc.2.1,
      acc.2.2 ++ (cs.zipIdx.filter (fun x => x.1 == 8)).map (fun x => (ti, x.2)))) (s, none, [])

/-- The 3 KiB of a row as bits. -/
def rowBits (s : State) (tile : Nat) (v : Word) : BitVec 24576 :=
  .ofNat 24576 (leNat (Memory.readBytes s.vault (rowKey tile v) 3072))

/-- R322, R108: a row into the tile-memory window of a tile; words of its poisoned sectors carry poison. -/
def takeRow (a : Ag) (v win : Word) (bad : List (Nat × Nat)) (s : State) (tile : Nat) : State :=
  let key := tmemKey tile (win.toNat % 2 ^ 18)
  let s1 := tmemWriteBy s a key (Memory.readBytes s.vault (rowKey tile v) 3072)
  (bad.filter (fun b => b.1 == tile)).foldl (fun s b => tmemMark s (key + 32 * b.2) 32) s1

/-- R115, R123, R414, R448, R386: a tile-memory window into the row of a tile's vault under the operand's tag, behind every access accepted
before it; poisoned words leave their sectors poisoned (Table 4-9). -/
def putRow (a : Ag) (v win : Word) (s : State) (tile : Nat) : State :=
  let key := tmemKey tile (win.toNat % 2 ^ 18)
  let base := rowKey tile v
  let s0 := tmemSense (drainRow s base) key 3072
  let s1 := if contained (s0.graph a.graph) && rowBacks s0 a.part base then
      (List.range 48).foldl (fun s j => undoLog s a 3 (base + 64 * j)) s0 else s0
  let s2 := { s1 with vault := Memory.writeBytes s1.vault base (Memory.readBytes s1.tmem key 3072) }
  let s3 := (List.range 96).foldl (fun s j =>
    s.setSector (base / 32 + j) { tag := .ofNat 4 (rowTag v), cond := if tmemPoison s (key + 32 * j) 32 then .poisoned else .clean }) s2
  (List.range 48).foldl (fun s j => signalLine s (0, base / 64 + j)) s3

/-- R322, R323: a row command performed in every tile of its form, its hazards clear. -/
def rowPerform (s : State) (th : Nat) (a : Active) (x : RowAct) (tiles : List Nat) : State :=
  let v := a.cmd.va
  let now := s.cycle.toNat
  let done := now + Config.tTake - 1
  let off := a.cmd.vb.toNat % 2 ^ 18
  let s1 := if x.windowed then tiles.foldl (fun s ti => portRow s ti off) s else s
  let s0 := if x.transfers then moved (tiles.foldl busTaken s1) (s.thread th).graph else s1
  match x with
  | .activate => finish (tiles.foldl (fun s ti => activateRow s ti v) s0) th 2 0 a now
  | .close => finish (tiles.foldl (fun s ti => closeBank s ti (rowBank v)) s0) th 2 0 a now
  | .put =>
    let bad := tiles.any (fun ti => tmemPoison s0 (tmemKey ti off) 3072)
    let s2 := if bad then poisonOnce s0 th 2 0 a a.cmd.vb else s0
    finish (tiles.foldl (putRow (agCmd s th a.cmd) v a.cmd.vb) s2) th 2 0 { a with logged := a.logged || bad } done
  | .take =>
    match readRows s0 v tiles with
    | (s1, some ti, _) => engineTrap s1 th 2 0 7 (rowTval s1 th ti v)
    | (s1, none, bad) =>
      let s2 := if bad.isEmpty then s1 else poisonOnce s1 th 2 0 a v
      finish (tiles.foldl (takeRow (agCmd s th a.cmd) v a.cmd.vb bad) s2) th 2 0 { a with logged := a.logged || !bad.isEmpty } done
  | .plane _ =>
    match readRows s0 v tiles with
    | (s1, some ti, _) => engineTrap s1 th 2 0 7 (rowTval s1 th ti v)
    | (s1, none, []) => setActive s1 th 2 0 { a with fill := tiles.map (fun ti => (ti, rowBits s1 ti v)), due := done }
    | (s1, none, b :: _) => engineTrap (poisonOnce s1 th 2 0 a v) th 2 0 8 (rowTval s1 th b.1 v)

/-- R111, R322, R323, R60, R101: a started row command: its hazards, the grant of its window's bank in every tile, and then its action.
(DESIGN CHOICE, A34) -/
def rowTry (s : State) (th : Nat) (a : Active) (x : RowAct) (rg : Bool) : State :=
  match formTiles s th rg with
  | none => engineTrap s th 2 0 0x18 (rowTval s th (tileOf th) a.cmd.va)
  | some tiles =>
    let v := a.cmd.va
    let now := s.cycle.toNat
    let hz := worstHazard (tiles.map (fun ti =>
      let t := s.tile ti
      let b := t.bank (rowBank v)
      (ti, match x with
        | .activate => actHazard now t b
        | .close => rowHazard now (rowRow v) false t b
        | _ => rowHazard now (rowRow v) true t b)))
    match hz with
    | (ti, .trap c) => engineTrap s th 2 0 c (rowTval s th ti v)
    | (_, .wait) =>
      if x == .activate then tiles.foldl (fun s ti => s.mapTile ti (fun t => t.mapBank (rowBank v) (fun b => { b with actAsked := now + 1 }))) s else s
    | (_, .clear) =>
      let off := a.cmd.vb.toNat % 2 ^ 18
      if x == .take && tiles.any (fun ti => tmemWaits s ti off 3072) || x.windowed && tiles.any (fun ti => portHeld s ti 11 off 3072) then s
      else rowPerform s th a x tiles

/-- R323, R364: the start checks of a row form that come before its hazards. -/
def rowStart (s : State) (th : Nat) (c : Cmd) (x : RowAct) (rg : Bool) : Check :=
  let windows := match x with | .take => true | .put => true | _ => false
  firstOf [stopIf (formTiles s th rg).isNone 0x18 (rowTval s th (tileOf th) c.va),
    stopIf (windows && windowRefused s th c c.vb 3072) 6 c.vb]

/-- Table 11-2: the value of ROWSTAT. -/
def rowstatValue (s : State) (tile bank : Nat) : Word :=
  let t := s.tile tile
  let b := t.bank bank
  let now := s.cycle.toNat
  let acts := min 4 (inWindowActs now t.acts).length
  let busy := decide (now < b.busyTill)
  wd ((match b.row with | some (r, since) => 2 ^ 63 + min 32767 (now - since) * 2 ^ 40 + r | none => 0) +
    (if busy then 2 ^ 62 else 0) + b.owed * 2 ^ 58 + acts * 2 ^ 55)

/-- R322, R101, REGION_TRANSFER: once every tile holds its bank, a region-form transfer between rows and tile memory runs in
all of them in one cycle. (DESIGN CHOICE, A34) -/
def execRegionTransfer (th : Nat) (s : State) : Out :=
  .next (match activeAt s th 2 0 with
    | some a =>
      if a.begun && !a.done && !slotStands s th then
        match rowAct a.cmd.i with
        | some (.take, true) => rowTry s th a .take true
        | some (.put, true) => rowTry s th a .put true
        | _ => s
      else s
    | none => s)

/-! ### The bank controller -/

/-- R111, ROW_OPEN_TIMEOUT: a row open for T_OPEN cycles is closed. T_CLOSE counts from a ROWCLOSE alone (Table 4-6). -/
def execRowOpenTimeout (tile bank : Nat) (s : State) : Out :=
  .next (match ((s.tile tile).bank bank).row with
    | some (_, since) => if since + Config.tOpen ≤ s.cycle.toNat then s.mapTile tile (fun t => t.mapBank bank (fun b => { b with row := none })) else s
    | none => s)

/-- R114: whether a refresh of a bank is due in this cycle: for every bank at the multiples of T_REFI from reset on. (DESIGN CHOICE, A78) -/
def refreshNow (s : State) : Bool := s.cycle != 0 && s.cycle.toNat % Config.tRefi == 0

/-- R114: the row of a forced refresh reactivated, with its T_OPEN clock running on; it stays closed once T_OPEN is reached. -/
def reactivate (now : Nat) (b : Bank) : Bank :=
  { b with row := b.forced.filter (fun r => decide (now < r.2 + Config.tOpen)), forced := none, readyAt := now + Config.tAct }

/-- R114, REFRESH_DUE: a refresh falls due: performed on a closed bank, owed while a row is open; a ninth takes the bank. -/
def execRefreshDue (tile bank : Nat) (s : State) : Out :=
  .next (if !refreshNow s then s else
    s.mapTile tile (fun t => t.mapBank bank (fun b =>
      if b.row.isSome then
        if b.owed < 8 then { b with owed := b.owed + 1 } else takeBank s.cycle.toNat b
      else { b with busyTill := max b.busyTill s.cycle.toNat + Config.tRfc })))

/-- R114, R113: whether a ROWACT of a bank waits in some row engine. -/
def actWaits (s : State) (tile bank : Nat) : Bool :=
  s.threads.any (fun e => match activeAt s e.1 2 0 with
    | some a => a.begun && !a.done && (match rowAct a.cmd.i with
      | some (.activate, rg) => rowBank a.cmd.va == bank && ((formTiles s e.1 rg).getD []).contains tile
      | _ => false)
    | none => false)

/-- R114, OWED_REFRESH: the end of a forced refresh reactivates its row; an owed refresh is performed while the bank is closed, idle and
awaited by no ROWACT. -/
def execOwedRefresh (tile bank : Nat) (s : State) : Out :=
  .next (let b := (s.tile tile).bank bank
    if b.forced.isSome then
      (if s.cycle.toNat < b.busyTill then s else s.mapTile tile (fun t => t.mapBank bank (reactivate s.cycle.toNat)))
    else if b.row.isNone && decide (0 < b.owed) && decide (b.busyTill ≤ s.cycle.toNat) && !actWaits s tile bank then
      s.mapTile tile (fun t => t.mapBank bank (fun b =>
        { b with owed := b.owed - 1, busyTill := s.cycle.toNat + Config.tRfc }))
    else s)

/-- R113, BACKGROUND_ACTIVATE: a home, coil or snapshot save takes a free activate slot, and after 384 cycles the next one
ahead of a waiting ROWACT. -/
def execBackgroundActivate (tile bank : Nat) (s : State) : Out :=
  .next (
    let t := s.tile tile
    let now := s.cycle.toNat
    match (t.bank bank).bgSince with
    | none => s
    | some since =>
      let room := decide ((inWindowActs now t.acts).length + (inWindowActs now t.bgActs).length < Config.actLimit)
      let first := decide (since + Config.backgroundWait ≤ now) || !(List.range 32).any (actWaits s tile)
      if room && first && decide ((t.bank bank).busyTill ≤ now) then
        s.mapTile tile (fun t =>
          { t.mapBank bank (fun b => { b with bgSince := none }) with bgActs := inWindowActs now t.bgActs ++ [now] })
      else s)

/-- R456, ROW_REMAP: a row of a bank is retired into a spare. -/
def execRowRemap (tile bank row : Nat) (s : State) : Out := .next (remapRow s tile bank row s.cycle.toNat)

end Sys2Proof.Machine
end

