-- ==== Sys2Proof/Machine/Plane.lean ====
section
/-! DEFINITION. Weight planes (R95 to R99) and the plane commands (major 0x35, R325, R326). -/

namespace Sys2Proof.Machine

/-! ### Descriptors and fills (R97, R98) -/

namespace Desc
/-- Table 4-2. -/
def valid (d : BitVec 16) : Bool := d.getLsbD 15
/-- Table 4-2. -/
def live (d : BitVec 16) : Bool := d.getLsbD 14
/-- Table 4-2: 0 dense, 1 6-of-12, 2 4-of-12. -/
def n (d : BitVec 16) : Nat := fld d.toNat 11 10
/-- Table 4-2. -/
def scale (d : BitVec 16) : Nat := fld d.toNat 9 5
/-- Table 4-2. -/
def fmt (d : BitVec 16) : Nat := fld d.toNat 3 0
/-- A descriptor from its fields. -/
def make (valid live : Bool) (n scale fmt : Nat) : BitVec 16 :=
  .ofNat 16 ((if valid then 2 ^ 15 else 0) + (if live then 2 ^ 14 else 0) + n * 2 ^ 10 + scale * 2 ^ 5 + fmt)
end Desc

/-- R98, Table 4-3: PLANE with a descriptor value. -/
def Plane.describe (p : Plane) (v : Nat) : Plane :=
  let n := fld v 11 10
  let f := fld v 3 0
  let same := n == Desc.n p.desc && f == Desc.fmt p.desc
  { p with desc := Desc.make (same && Desc.valid p.desc) (Desc.live p.desc) n (fld v 9 5) f, fw := false, fm := false }
/-- R98: PLANEINV. -/
def Plane.invalidate (p : Plane) : Plane :=
  { p with desc := Desc.make false false (Desc.n p.desc) (Desc.scale p.desc) (Desc.fmt p.desc), fw := false, fm := false }
/-- R95, R96, R98: a fill of the weights or of the slice masks applied whole; the words that it writes hold no error. -/
def Plane.fillWith (p : Plane) (masks : Bool) (bits : BitVec 24576) : Plane :=
  let fw := p.fw || !masks
  let fm := p.fm || masks
  let full := if Desc.n p.desc = 0 then !masks else fw && fm
  { p with
    bad := p.bad.filter (fun w => decide (w < 384) == masks), poison := p.poison.filter (fun w => decide (w < 384) == masks),
    w := if masks then p.w else bits, m := if masks then bits.truncate 12288 else p.m, fw := fw, fm := fm,
    desc := Desc.make (Desc.valid p.desc || full) true (Desc.n p.desc) (Desc.scale p.desc) (Desc.fmt p.desc) }

/-- Table 3-6: plane-or-feed codes. -/
def feedCode (f : Nat) : Bool := decide (1 ≤ f) && decide (f ≤ 6)

/-! ### Issue -/

/-- R326: the issue check of PLANE. -/
def planeBad (v : Word) : Bool :=
  fld v.toNat 63 12 != 0 || bit v.toNat 4 || !feedCode (fld v.toNat 3 0) || fld v.toNat 11 10 == 3

/-- R325, PLANE. -/
def execPlane (a : BitVec 5) (r : Bool) (x y : BitVec 3) (s : State) : Out :=
  .next (
    let d := mkCmd s (.plane a r x y) a 0 0
    issue 2 (RegSet.s1 a) d (stopFree (planeBad d.va) 0x18) s)

/-- R326: the issue checks of a fill from a window. -/
def fillChecks (w : Word) : Check := firstOf [stopFree (!(isLocal w && addressOk w 1)) 3, stopFree (windowMisaligned w) 4]

/-- R325, PLANELD. -/
def execPlaneld (a : BitVec 5) (r : Bool) (x y : BitVec 3) (s : State) : Out :=
  .next (
    let d := mkCmd s (.planeld a r x y) a 0 0
    issue 2 (RegSet.s1 a) d (fillChecks d.va) s)
/-- R325, PLANELD.MK. -/
def execPlaneldMk (a : BitVec 5) (r : Bool) (x y : BitVec 3) (s : State) : Out :=
  .next (
    let d := mkCmd s (.planeldMk a r x y) a 0 0
    issue 2 (RegSet.s1 a) d (fillChecks d.va) s)
/-- R325, PLANEINV. -/
def execPlaneinv (r : Bool) (x y : BitVec 3) (s : State) : Out :=
  .next (issue 2 .empty (mkCmd s (.planeinv r x y) 0 0 0) none s)

/-! ### Performing (R99) -/

/-- What a command of queue W does to plane k of a tile. -/
inductive PlaneAct where
  | describe | fill (masks : Bool) | invalidate
  deriving DecidableEq, Repr

/-- The plane action of a command. -/
def planeAct (i : Instr) : Option PlaneAct :=
  match i with
  | .plane _ _ _ _ => some .describe
  | .planeinv _ _ _ => some .invalidate
  | .planeld _ _ _ _ => some (.fill false)
  | .planeldMk _ _ _ _ => some (.fill true)
  | .rowtakePl _ _ _ _ => some (.fill false)
  | .rowtakeMk _ _ _ _ => some (.fill true)
  | _ => none

/-- The region bit of a plane command. -/
def planeRegion (i : Instr) : Bool :=
  match i with
  | .plane _ r _ _ => r
  | .planeinv r _ _ => r
  | .planeld _ r _ _ => r
  | .planeldMk _ r _ _ => r
  | _ => false

/-- R326, R364: the start checks of a plane command. -/
def planeStart (s : State) (th : Nat) (c : Cmd) : Check :=
  let loads := match c.i with | .planeld _ _ _ _ => true | .planeldMk _ _ _ _ => true | _ => false
  firstOf [stopFree (formTiles s th (planeRegion c.i)).isNone 0x18, stopIf (loads && windowRefused s th c c.va 3072) 6 c.va]

/-- R326: a started plane command: the fill of every tile read, or POISON, applied in no tile. -/
def planePerform (s0 : State) (th : Nat) (a : Active) : State :=
  let tiles := (formTiles s0 th (planeRegion a.cmd.i)).getD []
  let key (ti : Nat) : Nat := tmemKey ti (a.cmd.va.toNat % 2 ^ 18)
  let s := match planeAct a.cmd.i with
    | some (.fill _) => tiles.foldl (fun s ti => tmemSense s (key ti) 3072) s0
    | _ => s0
  match planeAct a.cmd.i with
  | some (.fill _) =>
    if tiles.any (fun ti => tmemPoison s (key ti) 3072) then engineTrapFree (poisonOnce s th 2 0 a a.cmd.va) th 2 0 8
    else setActive s th 2 0 { a with fill := tiles.map (fun ti => (ti, .ofNat 24576 (leNat (Memory.readBytes s.tmem (key ti) 3072)))) }
  | _ => setActive s th 2 0 { a with fill := tiles.map (fun ti => (ti, 0)) }

/-- R99: whether a fill or descriptor change of a context waits in a tile. (DEDUCED, A29) -/
def fillWaits (s : State) (tile pctx : Nat) : Bool :=
  s.threads.any (fun e => e.2.pctx.toNat == pctx && ((e.2.queue 2).active.any (fun a => a.fill.any (fun f => f.1 == tile))))

end Sys2Proof.Machine
end

