-- ==== Sys2Proof/Machine/RegionOps.lean ====
section
/-! DEFINITION. Regions and configuration contexts (major 0x36, R327 to R333; R18 to R22, R37, R39). -/

namespace Sys2Proof.Machine

/-! ### The logical array (R18 to R22) -/

/-- R18: whether cell row r of a tile row is bypassed: some tile of the band has a defective cell there. -/
def badRow (s : State) (x w y r : Nat) : Bool :=
  (List.range w).any (fun i => (pick 16 (fun c => (s.tile (tileAt (x + i) y)).cells.getLsbD (16 * r + c))) != [])
/-- R18: whether cell column c of a tile column is bypassed. -/
def badCol (s : State) (x y h c : Nat) : Bool :=
  (List.range h).any (fun j => (pick 16 (fun r => (s.tile (tileAt x (y + j))).cells.getLsbD (16 * r + c))) != [])
/-- R18: the logical cell rows of each tile row of a rectangle, as tile row and cell row, from the north. -/
def logicalRows (s : State) (x y w h : Nat) : List (Nat × Nat) :=
  (List.range h).flatMap (fun j => (pick 16 (fun r => !badRow s x w (y + j) r)).map (fun r => (y + j, r)))
/-- R18: the logical cell columns, as tile column and cell column, from the west. -/
def logicalCols (s : State) (x y w h : Nat) : List (Nat × Nat) :=
  (List.range w).flatMap (fun i => (pick 16 (fun c => !badCol s (x + i) y h c)).map (fun c => (x + i, c)))
/-- R22: the skew of a rectangle. (DEDUCED, A35) -/
def skewOf (x y w h : Nat) : Nat := 2 * splices x y (x + w - 1) (y + h - 1)
/-- R328: LAT of a region. (DEDUCED, A35) -/
def Region.lat (r : Region) : Nat := 16 * r.h + 16 * r.w + r.skew + 4
/-- Table 11-5. -/
def Region.shapeValue (r : Region) : Word := wd (r.lat * 2 ^ 48 + r.skew * 2 ^ 32 + r.cols * 2 ^ 16 + r.rows)

/-- R328: a region on a rectangle under the defect map as it stands. -/
def regionOn (s : State) (graph pctx x y w h : Nat) : Region :=
  { graph := graph, pctx := pctx, x := x, y := y, w := w, h := h, rows := (logicalRows s x y w h).length,
    cols := (logicalCols s x y w h).length, skew := skewOf x y w h,
    badRows := (List.range h).flatMap (fun j => (pick 16 (badRow s x w (y + j))).map (fun r => (y + j, r))),
    badCols := (List.range w).flatMap (fun i => (pick 16 (badCol s (x + i) y h)).map (fun c => (x + i, c))) }

/-- R18: the logical cell rows of a fused region, as tile row and cell row, from the north. -/
def Region.logicalRows (g : Region) : List (Nat × Nat) :=
  (List.range g.h).flatMap (fun j => (pick 16 (fun r => !g.badRows.contains (g.y + j, r))).map (fun r => (g.y + j, r)))
/-- R18: the logical cell columns of a fused region, as tile column and cell column, from the west. -/
def Region.logicalCols (g : Region) : List (Nat × Nat) :=
  (List.range g.w).flatMap (fun i => (pick 16 (fun c => !g.badCols.contains (g.x + i, c))).map (fun c => (g.x + i, c)))

/-- Table 5-9: the fields of a cell-row frame that CONFIGURE sets: bypasses from the defect map, and delays that make every
column of a vector leave in one cycle (R22). -/
def rowFrame (g : Region) (tile r f : Nat) : Nat :=
  let x := tileX tile
  let y := tileY tile
  let byp := if g.badRows.contains (y, r) then 2 ^ 255 else 0
  let cols := (pick 16 (fun c => g.badCols.contains (x, c))).foldl (fun n c => n + 2 ^ (239 + c)) 0
  let wd_ := 2 * splices g.x g.y g.x y
  let sd := if r = 15 then g.skew - 2 * splices g.x g.y x (g.y + g.h - 1) else 0
  byp + cols + wd_ * 2 ^ 232 + sd * 2 ^ 225 + fld f 224 224 * 2 ^ 224

/-- R328: a region fused: its cell-row frames set, its counts cleared, and the rectangle's counter. -/
def fuse (s : State) (g : Region) : State :=
  let s1 := g.tiles.foldl (fun s ti => s.mapTile ti (fun t => t.mapCtx g.pctx (fun c =>
    { c with
      frames := (List.range 16).foldl (fun fs r => Assoc.set fs r (.ofNat 256 (rowFrame g ti r (c.frame r)))) c.frames,
      latched := none, entered := 0, errVecs := 0 }))) s
  let alone := !s.regions.any (fun q => q.x == g.x && q.y == g.y && q.w == g.w && q.h == g.h)
  let same (q : Rect) : Bool := g.onRect q
  let fresh : Rect := { x := g.x, y := g.y, w := g.w, h := g.h, enabled := .ofNat 4 (2 ^ g.pctx), last := 3, fresh := false }
  let rects := if s.rects.any same then s.rects.map (fun q => if same q && alone then { q with enabled := .ofNat 4 (2 ^ g.pctx) } else q)
    else s.rects ++ [if alone then fresh else { fresh with enabled := 0 }]
  { s1 with regions := s1.regions ++ [g], rects := rects }

/-- R329: the region of a context removed. -/
def unfuse (s : State) (g : Region) : State :=
  let rs := s.regions.filter (fun r => r != g)
  { s with
    regions := rs,
    rects := (s.rects.map (fun q => if g.onRect q then { q with enabled := q.enabled &&& ~~~(.ofNat 4 (2 ^ g.pctx)) } else q)).filter
      (fun q => rs.any (fun r => r.onRect q)) }

/-- R329, R399: whether a vector of a region is in the array, its own or a replica's. -/
def inArray (s : State) (g : Region) : Bool :=
  s.vecs.any (fun v => (v.pctx == g.pctx && v.x == g.x && v.y == g.y) || v.guest == some (g.x, g.y, g.pctx))

/-- The counter of a region's rectangle. -/
def rectOf (s : State) (g : Region) : Option Rect := s.rects.find? (fun q => g.onRect q)

/-- Whether a context is enabled in its rectangle. -/
def isEnabled (s : State) (g : Region) : Bool := (rectOf s g).any (fun q => q.enabled.getLsbD g.pctx)

/-! ### Issue -/

/-- R328: the issue check of CONFIGURE. -/
def configureBad (s : State) (b c : Word) : Bool :=
  let g := s.graph s.me.graph
  let n := b.toNat
  let x := fld n 7 0
  let y := fld n 15 8
  let w := fld n 23 16
  let h := fld n 31 24
  fld n 63 32 != 0 || fld c.toNat 63 32 != 0 || w == 0 || h == 0 || decide (g.w < x + w) || decide (g.h < y + h) ||
    x != s.me.lx.toNat || y != s.me.ly.toNat

/-- R328, CONFIGURE. -/
def execConfigure (a b c : BitVec 5) (x y : BitVec 3) (s : State) : Out :=
  .next (
    let d := mkCmd s (.configure a b c x y) a b c
    issue 3 (readsSS b c) d (stopFree (configureBad s d.vb d.vc) 0x18) s)
/-- R329, UNFUSE. -/
def execUnfuse (x y : BitVec 3) (s : State) : Out := .next (issue 3 .empty (mkCmd s (.unfuse x y) 0 0 0) none s)

/-- R331: the issue checks of CTXLOAD. -/
def ctxloadChecks (s : State) (d : Cmd) : Check :=
  let n := d.vb.toNat
  firstOf [stopIf (!addressOk d.va (40 * n)) 3 d.va, stopIf (d.va.toNat % 8 != 0) 4 d.va,
    stopFree (n == 0 || decide (1048576 < n) || fld d.vc.toNat 63 2 != 0 || decide ((s.graph s.me.graph).nctx ≤ d.vc.toNat)) 0x18]

/-- R331, CTXLOAD. -/
def execCtxload (a b c : BitVec 5) (x y : BitVec 3) (s : State) : Out :=
  .next (
    let d := mkCmd s (.ctxload a b c x y) a b c
    issue 3 ((readsSS a b).or (RegSet.s1 c)) d (ctxloadChecks s d) s)
/-- R330, CTXSEL. -/
def execCtxsel (a : BitVec 5) (x y : BitVec 3) (s : State) : Out :=
  .next (
    let d := mkCmd s (.ctxsel a x y) a 0 0
    issue 3 (RegSet.s1 a) d (stopFree (fld d.va.toNat 63 4 != 0) 0x18) s)
/-- R332, CTXSTAT. -/
def execCtxstat (a b : BitVec 5) (x y : BitVec 3) (s : State) : Out :=
  .next (
    let d := mkCmd s (.ctxstat a b x y) a b 0
    issue 3 (RegSet.s1 b) d
      (stopFree (fld d.vb.toNat 63 2 != 0 || decide ((s.graph s.me.graph).nctx ≤ d.vb.toNat)) 0x18) s)
/-- R333, TSTDISC. -/
def execTstdisc (a : BitVec 5) (x y : BitVec 3) (s : State) : Out :=
  .next (issue 3 .empty (mkCmd s (.tstdisc a x y) 0 0 0) none s)

/-! ### Performing -/

/-- R328: the rectangle of a CONFIGURE as a region under the defect map. -/
def configured (s : State) (th : Nat) (c : Cmd) : Region :=
  let t := s.thread th
  let g := s.graph t.graph
  let n := c.vb.toNat
  regionOn s t.graph t.pctx.toNat (g.x + fld n 7 0) (g.y + fld n 15 8) (fld n 23 16) (fld n 31 24)

/-- R328: the start checks of CONFIGURE. -/
def configureStart (s : State) (th : Nat) (c : Cmd) : Check :=
  let r := configured s th c
  let mp (ti : Nat) : Nat := ((s.tile ti).ctx r.pctx).mpF
  let min_ := c.vc.toNat
  firstOf [stopFree (r.tiles.any (fun ti => (regionAt s ti r.pctx).isSome)) 0x18,
    stopFree (r.tiles.any (fun ti => (MpF.feeden (mp ti) && !r.feeders.contains ti) || (MpF.drainen (mp ti) && !r.drainers.contains ti))) 0x18,
    stopFree (r.drainers.any (fun ti => MpF.acccnt (mp ti) == 0)) 0x18,
    stopIf (decide (r.rows < fld min_ 15 0) || decide (r.cols < fld min_ 31 16)) 0x18 r.shapeValue]

/-- R329: the region that a thread's tile leads in its context. -/
def ledRegion (s : State) (th : Nat) : Option Region :=
  match regionAt s (tileOf th) (s.thread th).pctx.toNat with
  | some r => if r.lead = tileOf th then some r else none
  | none => none

/-- R107, R37: whether the accumulator windows of two contexts overlap at a tile. -/
def windowsMeet (t : Tile) (j k : Nat) : Bool :=
  let a := (t.ctx j).mpF
  let b := (t.ctx k).mpF
  decide (MpF.accbase a < MpF.accbase b + MpF.acccnt b) && decide (MpF.accbase b < MpF.accbase a + MpF.acccnt a)

/-- R330: the physical contexts that a CTXSEL mask names. -/
def maskContexts (g : Graph) (v : Word) : List Nat := (pick 4 (fun c => bit v.toNat c)).map (physCtx g)

/-- R330, R37: the start check of CTXSEL. -/
def ctxselStart (s : State) (th : Nat) (c : Cmd) : Check :=
  match ledRegion s th with
  | none => some (0x18, none)
  | some r =>
    let gk := (s.thread th).graph
    let g := s.graph gk
    let names := pick 4 (fun j => bit c.va.toNat j)
    let ks := maskContexts g c.va
    let fused := ks.all (fun k => s.regions.any (fun q => q.graph == gk && q.pctx == k && q.x == r.x && q.y == r.y && q.w == r.w && q.h == r.h))
    let meet := r.drainers.any (fun ti => ks.any (fun j => ks.any (fun k => decide (j < k) && windowsMeet (s.tile ti) j k)))
    stopFree (names.any (fun j => decide (g.nctx ≤ j)) || !fused || meet) 0x18

/-- R39, R330, R359: CTXSEL performed: the new enabled set governs from the next cycle. -/
def ctxselPerform (s : State) (th : Nat) (a : Active) : State :=
  match ledRegion s th with
  | none => s
  | some r =>
    let mask := (maskContexts (s.graph (s.thread th).graph) a.cmd.va).foldl (fun n k => n + 2 ^ k) 0
    finish { s with rects := s.rects.map (fun q => if r.onRect q then { q with enabled := .ofNat 4 mask, fresh := q.fresh || q.enabled != .ofNat 4 mask } else q) } th 3 0 a
      (s.cycle.toNat + 1)

/-- R331: the frame records of a CTXLOAD: the check that fails with its address, or the records. -/
def readFrameRecords (s : State) (a : Ag) (ea : Word) (n : Nat) : State × (Nat × Word) × List (Nat × BitVec 256) :=
  (List.range n).foldl (fun (acc : State × (Nat × Word) × List (Nat × BitVec 256)) i =>
    if acc.2.1.1 ≠ 0 then acc else
    let at_ := ea + wd (40 * i)
    match readRange acc.1 a at_ 40 with
    | (s', 0, bs) => (s', (0, 0), acc.2.2 ++ [(leNat (bs.take 4), .ofNat 256 (leNat ((bs.drop 8).take 32)))])
    | (s', c, _) => (s', (c, at_), acc.2.2)) (s, (0, 0), [])

/-- R331: the physical context of a CTXLOAD. (DEDUCED, A39) -/
def loadCtx (s : State) (th : Nat) (c : Cmd) : Nat := physCtx (s.graph (s.thread th).graph) (c.vc.toNat % 4)

/-- R166: the shared registers of context k of a tile kept as they stand for an image of the tile that is not yet saved, before a command of wave
w loads the context anew past the checkpoint of its thread. (DEDUCED, A84) -/
def keepOwned (s : State) (g : Nat) (w : BitVec 16) (tile k : Nat) : State :=
  match (s.graph g).openWave, (s.graph g).pending with
  | some n, some p =>
    if w ≠ n ∨ p.tiles.any (fun t => t.tile == tile) then s else
    let t := s.tile tile
    let c := t.ctx k
    let regs := (pick 32 (fun i => bit (MpF.scown c.thF) i)).map (fun i => (64 * tile + i, (t.scale i).zeroExtend 64)) ++
      (pick 32 (fun e => EpF.used (c.epF e))).map (fun e => (64 * tile + 32 + e, wd (t.fmtEntry e)))
    s.mapGraph g (fun x => { x with pending := some { p with
      lateRegs := regs.foldl (fun m e => if (Assoc.get? m e.1).isSome then m else Assoc.set m e.1 e.2) p.lateRegs } })
  | _, _ => s

/-- R331: a CTXLOAD performed: its records read, the enabled context refused, the regions of the context removed, and every
named frame captured. A record that names no tile of the graph, or another context, fails the load. (DEDUCED, A39) -/
def ctxloadPerform (s : State) (th : Nat) (a : Active) : State :=
  let gk := (s.thread th).graph
  let g := s.graph gk
  let k := loadCtx s th a.cmd
  if agentHeld s (agCmd s th a.cmd) false [(a.cmd.va, 40 * a.cmd.vb.toNat)] then s else
  match readFrameRecords s (agCmd s th a.cmd) a.cmd.va a.cmd.vb.toNat with
  | (s1, (0, _), recs) =>
    let good := recs.filter (fun r => recordNames g r.1 && fld r.1 18 17 == a.cmd.vc.toNat % 4)
    let tiles := (good.map (fun r => recordTile g r.1)).eraseDups
    let olds := (tiles.filterMap (fun ti => regionAt s1 ti k)).eraseDups
    if olds.any (isEnabled s1) then engineTrapFree s1 th 3 0 0x18
    else if olds.any (inArray s1) then s1
    else
      let s2 := olds.foldl unfuse s1
      let s3 := tiles.foldl (fun s ti => (keepOwned s gk a.cmd.wave ti k).mapTile ti (fun t => t.beginLoad gk (a.cmd.vc.toNat % 4) k)) s2
      setActive { s3 with agenda := s3.agenda ++ good.map (captureOf s3 gk) } th 3 0
        { a with pos := 1, mode := if good.length = recs.length then 0 else 1 }
  | (s1, (5, ea), _) => holdOn s1 th 3 0 a ea
  | (s1, (c, ea), recs) =>
    let s2 := if c = 8 then poisonOnce s1 th 3 0 a ea else s1
    let tiles := tileOf th :: ((recs.filter (fun r => recordNames g r.1)).map (fun r => recordTile g r.1)).eraseDups
    engineTrap (tiles.foldl (fun s ti => s.mapTile ti (fun t => t.mapCtx k (fun x =>
      if x.graph == some gk then { x with failed := true, loaded := false } else x))) s2) th 3 0 c ea

/-- R331: the end of a CTXLOAD, once every capture has been made. -/
def ctxloadEnd (s : State) (th : Nat) (a : Active) : State :=
  let gk := (s.thread th).graph
  let k := loadCtx s th a.cmd
  let tiles := ((graphTiles (s.graph gk)).map (fun x => x.2.2)).filter (fun ti =>
    let c := (s.tile ti).ctx k
    c.graph == some gk && c.loading)
  finish (endLoad s (graphPart gk) k tiles (a.mode != 0)) th 3 0 a s.cycle.toNat

/-- Table 11-6: the value of CTXSTAT. -/
def ctxstatValue (s : State) (th : Nat) (c : Nat) : Word :=
  let tile := tileOf th
  let k := physCtx (s.graph (s.thread th).graph) c
  let x := (s.tile tile).ctx k
  let r := regionAt s tile k
  let b (v : Bool) (i : Nat) : Nat := if v then 2 ^ i else 0
  wd (b x.loaded 63 + b x.loading 62 + b x.failed 61 + b r.isSome 60 + b (r.any (isEnabled s)) 59 +
    b (r.any (fun r => r.lead == tile)) 58 + b (r.any (fun r => r.feeders.contains tile)) 57 +
    b (r.any (fun r => r.drainers.contains tile)) 56 + k * 2 ^ 54 + MpF.acccnt x.mpF * 2 ^ 16 + MpF.accbase x.mpF)

/-- R327 to R333: the start check of a region command. -/
def regionStart (s : State) (th : Nat) (c : Cmd) : Check :=
  match c.i with
  | .configure _ _ _ _ _ => configureStart s th c
  | .unfuse _ _ => stopFree (ledRegion s th).isNone 0x18
  | .ctxsel _ _ _ => ctxselStart s th c
  | _ => none

/-- R327 to R333: a started region command. -/
def regionPerform (s : State) (th : Nat) (a : Active) : State :=
  let now := s.cycle.toNat
  match a.cmd.i with
  | .configure _ _ _ _ _ =>
    let r := configured s th a.cmd
    finish (fuse s r) th 3 0 { a with value := r.shapeValue } now
  | .unfuse _ _ =>
    match ledRegion s th with
    | some r => if inArray s r then s else finish (unfuse s r) th 3 0 a now
    | none => s
  | .ctxsel _ _ _ => ctxselPerform s th a
  | .ctxload _ _ _ _ _ => if a.pos = 0 then ctxloadPerform s th a else ctxloadEnd s th a
  | .ctxstat _ _ _ _ => finish s th 3 0 { a with value := ctxstatValue s th (a.cmd.vb.toNat % 4) } now
  | .tstdisc _ _ _ =>
    let k := (s.thread th).pctx.toNat
    let v := ((s.tile (tileOf th)).ctx k).discarded
    finish (s.mapTile (tileOf th) (fun t => t.mapCtx k (fun c => { c with discarded := 0 }))) th 3 0 { a with value := v } now
  | _ => s

end Sys2Proof.Machine
end

