-- ==== Sys2Proof/Machine/Array.lean ====
section
/-! DEFINITION. The array: feed records (R335 to R337, R356), the checks of planes and feeds (R82, R87), the column results
(R79), and the context counter (R38, R359, R400). -/

namespace Sys2Proof.Machine

/-! ### Formats (Table 1-1, Table 3-6, R86) -/

/-- Table 3-6: the family of a plane-or-feed code: 1 FP8, 2 8-bit integer, 3 BF16, 4 INT16; 0 none. -/
def family (f : Nat) : Nat := match f with | 1 => 1 | 2 => 1 | 3 => 2 | 4 => 2 | 5 => 3 | 6 => 4 | _ => 0
/-- R74: integer mode. -/
def intFormat (f : Nat) : Bool := family f == 2 || family f == 4
/-- Table 1-1: products of a cell in a cycle. -/
def denseMac (f : Nat) : Nat := match family f with | 3 => 6 | 4 => 3 | _ => 12
/-- R335: bytes of an element. -/
def elemBytes (f : Nat) : Nat := if family f = 3 ∨ family f = 4 then 2 else 1
/-- R86: K positions of a slice. -/
def sliceLen (f n : Nat) : Nat := denseMac f * (n + 1)
/-- Table 11-7: bytes of a record. -/
def recordBytes (f n : Nat) : Nat := (16 * sliceLen f n * elemBytes f + 63) / 64 * 64

/-- A factor of a product: its value, or its integer. -/
def factorVal (f b : Nat) : Val :=
  match f with
  | 1 => Fmt.e4m3.decode false b
  | 2 => Fmt.e5m2.decode false b
  | _ => Fmt.bf16.decode false b
/-- The integer of a factor of an integer format. -/
def factorInt (f b : Nat) : Int := match f with | 3 => sextN b 8 | 4 => (b % 256 : Nat) | _ => sextN b 16

/-! ### Planes (R86, R87, R95, R96) -/

/-- R95: weight t of cell (r, c). -/
def weightAt (p : Plane) (f r c t : Nat) : Nat :=
  let w := 8 * elemBytes f
  p.w.toNat / 2 ^ (96 * (16 * r + c) + w * t) % 2 ^ w
/-- R96: the slice mask of cell (r, c). -/
def maskAt (p : Plane) (r c : Nat) : Nat := p.m.toNat / 2 ^ (48 * (16 * r + c)) % 2 ^ 48
/-- R86: the slice positions that a cell keeps, in increasing order. -/
def keptAt (p : Plane) (f n r c : Nat) : List Nat :=
  if n = 0 then List.range (denseMac f) else pick (sliceLen f n) (fun t => bit (maskAt p r c) t)

/-- R87: whether a cell's slice mask breaks the conditions of a single cell. -/
def maskBad (p : Plane) (f n r c : Nat) : Bool :=
  (pick 48 (fun t => bit (maskAt p r c) t)).length != denseMac f || decide (2 ^ sliceLen f n ≤ maskAt p r c)

/-- R87: the tiles of a column whose groups of 12 positions keep too many, or in a full group another number than N. -/
def groupsBad (s : State) (g : Region) (f n : Nat) (rows : List (Nat × Nat)) (col : Nat × Nat) : List Nat :=
  let l := sliceLen f n
  let want := if n = 1 then 6 else 4
  let kept := rows.flatMap (fun r =>
    let p := (s.tile (tileAt col.1 r.1)).plane g.pctx
    (List.range l).map (fun t => bit (maskAt p r.2 col.2) t))
  let total := rows.length * l
  (List.range ((total + 11) / 12)).filterMap (fun j =>
    let k := (((kept.drop (12 * j)).take 12).filter id).length
    let bad := if 12 * j + 12 ≤ total then k != want else decide (want < k)
    if bad then (rows[12 * j / l]?).map (fun r => tileAt col.1 r.1) else none)

/-- R87: the tiles of a region whose slice masks break a condition. (DEDUCED, A37) -/
def masksBad (s : State) (g : Region) (f n : Nat) : List Nat :=
  if n = 0 then [] else
  let rows := g.logicalRows
  let cols := g.logicalCols
  (rows.flatMap (fun r => cols.filterMap (fun c =>
    let ti := tileAt c.1 r.1
    if maskBad ((s.tile ti).plane g.pctx) f n r.2 c.2 then some ti else none))) ++
  cols.flatMap (groupsBad s g f n rows)

/-- The first tile of a list in increasing logical y and x. -/
def firstTile (l : List Nat) : Option Nat := l.foldl (fun m t => some (match m with | some x => min x t | none => t)) none

/-- R82, R165: the feed entry of a feeder, its format code and scale index; an entry not in use decodes nothing. -/
def feedEntry (t : Tile) (k : Nat) : Nat × Nat :=
  let e := t.fmtEntry (MpF.feedep (t.ctx k).mpF)
  if bit e 15 then (fld e 3 0, fld e 14 10) else (0, fld e 14 10)

/-- R338: TVAL of a failed start check of MRUN. -/
def runTval (s : State) (th tile : Nat) (feed : Bool) : Word :=
  wd (logX s th tile + logY s th tile * 2 ^ 8 + if feed then 2 ^ 16 else 0)

/-- R82, R87, R98, R107: the start checks of an MRUN on a region. -/
def runChecks (s : State) (th : Nat) (g : Region) (row0 nm1 : Nat) : Check :=
  let k := g.pctx
  let d (ti : Nat) : BitVec 16 := ((s.tile ti).plane k).desc
  let fmtOf (ti : Nat) : Nat × Nat × Nat := (Desc.fmt (d ti), Desc.n (d ti), Desc.scale (d ti))
  let at_ (c : Nat) (feed : Bool) (l : List Nat) : Check := (firstTile l).map (fun ti => (c, some (runTval s th ti feed)))
  let window := g.drainers.filter (fun ti =>
    let f := ((s.tile ti).ctx k).mpF
    decide (row0 < MpF.accbase f) || decide (MpF.accbase f + MpF.acccnt f ≤ row0 + nm1))
  let lead := g.lead
  let fe := feedEntry (s.tile lead) k
  let fmt := (fmtOf lead).1
  let alike := family fmt != 0 && family fmt == family fe.1
  firstOf [at_ 0x18 false window,
    at_ 0x10 false (g.tiles.filter (fun ti => !Desc.valid (d ti))),
    at_ 0x11 false (g.tiles.filter (fun ti => fmtOf ti != fmtOf lead)),
    at_ 0x11 true (g.feeders.filter (fun ti => feedEntry (s.tile ti) k != fe)),
    at_ 0x11 true (if alike then [] else [lead]),
    at_ 0x11 false (masksBad s g fmt (fmtOf lead).2.1)]

/-! ### Vectors (R77 to R79, R335, R337) -/

/-- R77, R78: one cell's step on the sum from the north. -/
def cellStep (p : Plane) (pf ff n r c : Nat) (slice : List Nat) (inc : Acc) : Acc :=
  let prods := (keptAt p pf n r c).zipIdx.map (fun (t, j) => (weightAt p pf r c j, slice.getD t 0))
  if intFormat pf then Acc.addInt inc (prods.foldl (fun a x => a + factorInt pf x.1 * factorInt ff x.2) 0) false
  else Acc.cellFloat (prods.map (fun x => Val.mul (factorVal pf x.1) (factorVal ff x.2))) inc

/-- R335: slice i of a record. -/
def sliceOf (ff n i record : Nat) : List Nat :=
  let w := 8 * elemBytes ff
  let l := sliceLen ff n
  (List.range l).map (fun t => record / 2 ^ (w * (l * i + t)) % 2 ^ w)

/-- R335: the logical rows of a region with the slices that the feeders' records hold for them. -/
def slicesOf (g : Region) (ff n : Nat) (recs : List Nat) : List (Nat × Nat × List Nat) :=
  (List.range g.h).flatMap (fun j =>
    let rows := g.logicalRows.filter (fun r => r.1 == g.y + j)
    rows.zipIdx.map (fun (r, i) => (r.1, r.2, sliceOf ff n i (recs.getD j 0))))

/-- R337: the column result of a vector entered from a record with an error. -/
def errorColumn (int : Bool) : Acc := if int then { Acc.zero with ovf := true } else { Acc.zero with nan := true }

/-- R79: the column result of logical column c of a region for the slices of its logical rows; `old`: the planes of the tiles in which a fill
came behind the vector. -/
def columnResult (s : State) (g : Region) (l : Latched) (rows : List (Nat × Nat × List Nat)) (bad : Bool) (old : Assoc Plane) (c : Nat × Nat) : Word :=
  let pf := l.pfmt.toNat
  let planeOf (y : Nat) : Plane := (Assoc.get? old (tileAt c.1 y)).getD ((s.tile (tileAt c.1 y)).plane g.pctx)
  (if bad then errorColumn (intFormat pf) else
    rows.foldl (fun a r => cellStep (planeOf r.1) pf l.ffmt.toNat l.n.toNat r.2.1 c.2 r.2.2 a) Acc.zero).word

/-- R79: the column results of a vector, by drainer. -/
def columnResults (s : State) (g : Region) (l : Latched) (recs : List Nat) (bad : Bool) (old : Assoc Plane) : List (Nat × List Word) :=
  let rows := slicesOf g l.ffmt.toNat l.n.toNat recs
  (List.range g.w).map (fun i =>
    (tileAt (g.x + i) (g.y + g.h - 1), (g.logicalCols.filter (fun c => c.1 == g.x + i)).map (columnResult s g l rows bad old)))

/-- R107: the drainer of logical column m of a region, and the column's number from the west there. -/
def columnPlace (g : Region) (m : Nat) : Nat × Nat :=
  let x := (g.logicalCols.getD m (g.x, 0)).1
  (tileAt x (g.y + g.h - 1), m - (g.logicalCols.filter (fun c => decide (c.1 < x))).length)

/-- R399: the column results of a vector of region a on the array of its replica b, at the drainers of a: logical row i takes a's slice i. -/
def guestResults (s : State) (a b : Region) (l : Latched) (recs : List Nat) (bad : Bool) (old : Assoc Plane) : List (Nat × List Word) :=
  let slices := (slicesOf a l.ffmt.toNat l.n.toNat recs).map (fun r => r.2.2)
  let rows := (b.logicalRows.zip slices).map (fun r => (r.1.1, r.1.2, r.2))
  let words := b.logicalCols.map (columnResult s b l rows bad old)
  (List.range a.w).map (fun i =>
    (tileAt (a.x + i) (a.y + a.h - 1), ((a.logicalCols.zip words).filter (fun c => c.1.1 == a.x + i)).map Prod.snd))

/-- R399: the region of a graph that a migration names. -/
def namedRegion (s : State) (graph : Nat) (k : Nat × Nat × Nat) : Option Region :=
  s.regions.find? (fun r => r.graph == graph && r.x == k.1 && r.y == k.2.1 && r.pctx == k.2.2)

/-- R79, R399: the column results of a vector in the array of region g, of an MRUN of g or of the region that `guest` names. -/
def vectorResults (s : State) (g : Region) (guest : Option (Nat × Nat × Nat)) (l : Latched) (recs : List Nat) (bad : Bool) (old : Assoc Plane) :
    List (Nat × List Word) :=
  match guest.bind (namedRegion s g.graph) with
  | some a => guestResults s a g l recs bad old
  | none => columnResults s g l recs bad old

/-! ### Errors met in the array and its stores (R18, R108, R418, R446, R455) -/

/-- R446, R418: the words of accumulator row `row` that a read finds uncorrectable become poisoned, each with a record, and the graph's
rollback is triggered. -/
def accSense (s : State) (graph tile row : Nat) (cols : List Nat) : State :=
  let met := (s.tile tile).accBad.filter (fun k => k / 16 == row && cols.contains (k % 16))
  if met.isEmpty then s else
  let s1 := s.mapTile tile (fun t =>
    { t with accBad := t.accBad.filter (fun k => !met.contains k), accPoison := met ++ t.accPoison.filter (fun k => !met.contains k) })
  trigger (met.foldl (fun s k => record s (Rec.plain 5 tile (some graph) 1 (wd (k / 16 + 2 ^ 9 * (k % 16))) 0)) s1) graph 5

/-- R455, R456, R18: a corrected bit of a cell is counted; at its third the cell is retired, which the next CONFIGURE over it bypasses. -/
def cellEvent (tile : Nat) (s : State) (cell : Nat) : State :=
  match tallyHit s tile 0 cell with
  | some first =>
    (record (tallyDrop s tile 0 cell) (Rec.plain 0x0B tile none 0 (wd cell) (wd first))).mapTile tile (fun t =>
      { t with cells := t.cells ||| (1#256 <<< cell) })
  | none => tallyNote s tile 0 cell

/-- R446, R455: what the reads of a vector meet in the cells and the plane of a tile: corrected bits are counted, and an uncorrectable
word becomes poisoned, with a record and the trigger of Table 18-5. The masks are read only where N asks for them. -/
def senseTile (g : Region) (s : State) (tile : Nat) : State :=
  let t := s.tile tile
  let p := t.plane g.pctx
  let met := p.bad.filter (fun w => decide (w < 384) || Desc.n p.desc != 0)
  let s1 := if t.cellBits.isEmpty then s else t.cellBits.foldl (cellEvent tile) (s.mapTile tile (fun t => { t with cellBits := [] }))
  if met.isEmpty then s1 else
  let s2 := s1.mapTile tile (fun t => t.mapPlane g.pctx (fun p =>
    { p with bad := p.bad.filter (fun w => !met.contains w), poison := met ++ p.poison }))
  trigger (met.foldl (fun s _ => record s (Rec.plain 5 tile (some g.graph) 2 (wd g.pctx) 0)) s2) g.graph 5

/-- R95, R96: the cells (16 * row + column) of which a 64-bit word of a plane holds bits. -/
def cellsOfWord (w : Nat) : List Nat :=
  if w < 384 then pick 256 (fun k => decide (96 * k < 64 * w + 64) && decide (64 * w < 96 * k + 96))
  else pick 256 (fun k => decide (48 * k < 64 * (w - 384) + 64) && decide (64 * (w - 384) < 48 * k + 48))

/-- R108: the drainers and columns of a region whose results a poisoned word of a plane reaches. (DEDUCED, A90) -/
def lostColumns (s : State) (g : Region) (old : Assoc Plane) : List (Nat × Nat) :=
  let planeOf (ti : Nat) : Plane := (Assoc.get? old ti).getD ((s.tile ti).plane g.pctx)
  if g.tiles.all (fun ti => (planeOf ti).poison.isEmpty) then [] else
  (List.range g.w).flatMap (fun i =>
    let x := g.x + i
    let hit (c : Nat) : Bool := g.logicalRows.any (fun r => (planeOf (tileAt x r.1)).poison.any (fun w => (cellsOfWord w).contains (16 * r.2 + c)))
    ((g.logicalCols.filter (fun c => c.1 == x)).zipIdx.filter (fun c => hit c.1.2)).map (fun c => (tileAt x (g.y + g.h - 1), c.2)))

/-- R108, R399: the drainers and columns at which a vector in the array of region g delivers poison. -/
def vectorLost (s : State) (g : Region) (guest : Option (Nat × Nat × Nat)) (old : Assoc Plane) : List (Nat × Nat) :=
  let lost := lostColumns s g old
  match guest.bind (namedRegion s g.graph) with
  | some a => if lost.isEmpty then [] else (pick g.logicalCols.length (fun m => lost.contains (columnPlace g m))).map (columnPlace a)
  | none => lost

/-! ### Fills between vectors (R99) -/

/-- R99, R22: the cycle in which a vector reaches the cells of a tile of its region: one cell a cycle along each axis, and two cycles more for
a splice. (DEDUCED, A29) -/
def VecFly.reaches (v : VecFly) (g : Region) (tile : Nat) : Nat :=
  v.due - g.lat + 16 * (tileX tile - g.x) + 16 * (tileY tile - g.y) + 2 * splices g.x g.y (tileX tile) (tileY tile)

/-- R99: a vector has left the cells of a tile. -/
def VecFly.passed (v : VecFly) (g : Region) (tile now : Nat) : Bool := decide (v.reaches g tile + 32 ≤ now)

/-- R99: whether a vector of a context is in the cells of a tile. -/
def vectorsIn (s : State) (tile pctx : Nat) : Bool :=
  match regionAt s tile pctx with
  | some r => s.vecs.any (fun v => v.pctx == pctx && v.x == r.x && v.y == r.y && decide (v.reaches r tile ≤ s.cycle.toNat) &&
      !v.passed r tile s.cycle.toNat)
  | none => false

/-- R98: a plane action on a plane. -/
def Plane.acted (x : PlaneAct) (v : Word) (bits : BitVec 24576) (p : Plane) : Plane :=
  match x with
  | .describe => p.describe v.toNat
  | .invalidate => p.invalidate
  | .fill masks => p.fillWith masks bits

/-- R99: the vectors of a context that are in the array as a tile's plane changes: one that has passed the tile keeps the plane it used,
and one that has yet to reach it uses the new plane. -/
def replane (s : State) (tile k : Nat) (p : Plane) (vs : List VecFly) : List VecFly :=
  match regionAt s tile k with
  | none => vs
  | some g => vs.map (fun v =>
    if v.pctx ≠ k ∨ v.x ≠ g.x ∨ v.y ≠ g.y then v
    else if v.passed g tile s.cycle.toNat then { v with old := if (Assoc.get? v.old tile).isSome then v.old else Assoc.set v.old tile p }
    else { v with cols := vectorResults s g v.guest v.fmts v.recs v.bad v.old, lost := vectorLost s g v.guest v.old })

/-- R98, R99: a plane action applied in one tile. -/
def applyPlane (x : PlaneAct) (v : Word) (k : Nat) (s : State) (f : Nat × BitVec 24576) : State :=
  let s1 := s.mapTile f.1 (fun t => t.mapPlane k (Plane.acted x v f.2))
  { s1 with vecs := replane s1 f.1 k ((s.tile f.1).plane k) s1.vecs }

/-- R99, Table 6-5, PLANE_FILL_APPLY: slot th's waiting fill is applied whole in every tile that is clear of its context's
vectors, and the command is done when it is applied in all. (DEDUCED, A29) -/
def execPlaneFillApply (th : Nat) (s : State) : Out :=
  .next (match activeAt s th 2 0 with
    | some a =>
      match planeAct a.cmd.i with
      | some x =>
        if a.fill.isEmpty || a.done || decide (s.cycle.toNat < a.due) || slotStands s th then s else
        let k := (s.thread th).pctx.toNat
        let (now, later) := a.fill.partition (fun f => !vectorsIn s f.1 k)
        let s1 := if now.isEmpty then s else moved (now.foldl (applyPlane x a.cmd.va k) s) (s.thread th).graph
        if later.isEmpty then finish s1 th 2 0 { a with fill := [] } s.cycle.toNat
        else setActive s1 th 2 0 { a with fill := later }
      | none => s
    | none => s)

/-! ### The feed port (R336, R356) -/

/-- R335, R356: the beats of a record of a context at a feeder: by the formats latched, or by the plane's descriptor before any
are. (DEDUCED, A39) -/
def recordBeats (t : Tile) (k : Nat) : Nat :=
  match (t.ctx k).latched with
  | some l => recordBytes l.pfmt.toNat l.n.toNat / 32
  | none => let d := (t.plane k).desc; recordBytes (Desc.fmt d) (Desc.n d) / 32

/-- The MRUNs in progress, with their queue positions, of the threads of a tile and context. -/
def runsOf (s : State) (tile pctx : Nat) : List (Nat × Nat × Active) :=
  (List.range 4).flatMap (fun j =>
    let th := 4 * tile + j
    let t := s.thread th
    if t.pctx.toNat ≠ pctx then [] else
    (t.queue 3).active.zipIdx.filterMap (fun (a, k) =>
      match a.cmd.i with
      | .mrun _ _ _ _ _ => if a.begun && !a.done then some (th, k, a) else none
      | .mrunAcc _ _ _ _ _ => if a.begun && !a.done then some (th, k, a) else none
      | _ => none))

/-- R334: the vectors of a run operand. -/
def runCount (v : Word) : Nat := fld v.toNat 17 9 + 1

/-- R56: whether a context's region has latched its state for wave n of a graph. -/
def regionLatched (s : State) (graph lead pctx : Nat) : Bool :=
  (s.graph graph).pending.any (fun p => (Assoc.get? p.ctxs (4 * lead + pctx)).isSome)

/-- R56: whether the feed port of a context of a tile has an input that can bring it a marker: a strand, or a running stream. -/
def feedAwaits (s : State) (tile ctx : Nat) : Bool :=
  let t := s.tile tile
  let c := t.ctx ctx
  MpF.feeden c.mpF && ((producerOf s tile (MpF.feedep c.mpF)).isSome ||
    (List.range 8).any (fun e => EnF.used (c.enF e) && (t.engine e).running && fld (t.engine e).scb.toNat 28 26 == 0))

/-- R56: whether a region is to latch its state for wave n: a marker has come to a feeder, or none can come and the thread that
leads it has checkpointed. -/
def latchDue (s : State) (g : Region) (n : BitVec 16) : Bool :=
  g.feeders.any (fun ti => ((s.tile ti).ctx g.pctx).marker == n) ||
  (!g.feeders.any (fun ti => feedAwaits s ti g.pctx) && (let t := s.thread (4 * g.lead + g.pctx); t.run != .running || t.wave == n))

/-- R56, R402: whether a region holds back its next vector for the open wave: it is to latch its state and has not, or stops at it
under a cut. -/
def waveHolds (s : State) (g : Region) : Bool :=
  match (s.graph g.graph).openWave with
  | some n =>
    latchDue s g n &&
    ((s.graph g.graph).cutting || !regionLatched s g.graph g.lead g.pctx)
  | none => false

/-- R320, R56: whether a command of the new epoch waits for its region to take its snapshot. -/
def afterLatch (s : State) (g : Region) (c : Cmd) : Bool :=
  match (s.graph g.graph).openWave with
  | some n => c.wave == n && !regionLatched s g.graph g.lead g.pctx
  | none => false

/-- R56: whether a feeder holds its input queue: its marker of the open wave has come, and its region has not latched its state
or stops at it under a cut. -/
def feedHolds (s : State) (graph tile ctx : Nat) : Bool :=
  match (s.graph graph).openWave with
  | some n => ((s.tile tile).ctx ctx).marker == n &&
      ((s.graph graph).cutting || !(match regionAt s tile ctx with
        | some r => regionLatched s graph r.lead ctx
        | none => regionLatched s graph tile ctx))
  | none => false

/-- R336, R101: the place in tile memory of the next record of an MRUN, for records of a number of beats. -/
def recordPlace (a : Active) (beats : Nat) : Nat := a.cmd.vb.toNat % 2 ^ 18 + a.pos * (32 * beats)

/-- R475: the stall register of a feed port in a cycle in which it moves no beat: a record that enters in this cycle has fired; a complete
record, or the grant of a run from tile memory, waits for its entry; else an input is missing. (DEDUCED, A72) -/
def feedStall (s : State) (tile ctx : Nat) (full : Bool) : State :=
  let runs := match regionAt s tile ctx with
    | some r => runsOf s r.lead ctx
    | none => []
  let entered := match regionAt s tile ctx with
    | some r => s.vecs.any (fun v => (v.x == r.x && v.y == r.y && v.pctx == ctx && v.guest.isNone && v.due == s.cycle.toNat + r.lat) ||
        (v.guest == some (r.x, r.y, ctx) && s.regions.any (fun b => b.x == v.x && b.y == v.y && b.pctx == v.pctx && v.due == s.cycle.toNat + b.lat)))
    | none => false
  let next := (runs.map (fun r => r.2.2)).find? (fun a => decide (a.pos < runCount a.cmd.va))
  let waits : Bool := match next with
    | some a =>
      if a.cmd.vb = 0 then full
      else
        let beats := recordBeats (s.tile tile) ctx
        !portHeld s tile 11 (recordPlace a beats) (32 * beats)
    | none => full
  if entered then s
  else s.mapTile tile (fun t => t.mapCtx ctx (fun c =>
    { c with feed := if waits then c.feed.noOutput 0 else c.feed.noInput 0 (!runs.isEmpty) }))

/-- R356, FEED_BEAT_MOVE: the head beat of a context's input queue moves into its record buffer, unless that is complete. -/
def execFeedBeatMove (tile ctx : Nat) (s : State) : Out :=
  .next (
    let t := s.tile tile
    let c := t.ctx ctx
    match c.graph with
    | none => s
    | some g =>
      if !c.loaded || !MpF.feeden c.mpF || !elementRuns s tile g || feedHolds s g tile ctx || c.feedFault then s else
      let e := MpF.feedep c.mpF
      let full := decide (recordBeats t ctx ≤ c.recBuf.length)
      match (t.ep e).q with
      | [] => feedStall s tile ctx full
      | b :: rest =>
        if full then feedStall s tile ctx true
        else if b.isMarker then feedStall s tile ctx false
        else
          let s1 := s.mapTile tile (fun t => (t.mapEp e (fun p => { p.counted [b] with q := rest })).mapCtx ctx (fun c =>
            { c with recBuf := c.recBuf ++ [b], feed := c.feed.fire }))
          moved (returnPermits s1 tile e) g)

/-- R336, R66: a record of beats as bits; a word whose PRED bit is 0 feeds zeros. -/
def beatsRecord (bs : List Beat) : Nat :=
  bs.zipIdx.foldl (fun n (b, j) =>
    n + (List.range 8).foldl (fun m w => m + if b.pred.getLsbD w then fld b.data.toNat (32 * w + 31) (32 * w) * 2 ^ (32 * w) else 0) 0 *
      2 ^ (256 * j)) 0

/-! ### The context counter -/

/-- R108: whether a command that stands before an MRUN in its queue has yet to read or clear a row. -/
def rowAwaited (q : List Active) (k row : Nat) : Bool :=
  (q.take k).any (fun a => match a.cmd.i with
    | .mdrain _ _ _ _ _ =>
      !a.done && decide (fld a.cmd.va.toNat 8 0 + a.row ≤ row) && decide (row ≤ fld a.cmd.va.toNat 8 0 + fld a.cmd.va.toNat 17 9)
    | .mzero _ _ _ => !a.done && decide (fld a.cmd.va.toNat 8 0 ≤ row) && decide (row ≤ fld a.cmd.va.toNat 8 0 + fld a.cmd.va.toNat 17 9)
    | .mstat _ _ _ _ => !a.done
    | _ => false)

/-- R399: the region on whose array an MRUN of region g runs. -/
def arrayOf (s : State) (g : Region) (a : Active) : Region := (a.guest.bind (namedRegion s g.graph)).getD g

/-- R399: the region whose lead's thread slot th is, or g for none. -/
def homeOf (s : State) (g : Region) (th : Nat) : Region := (regionAt s (tileOf th) (s.thread th).pctx.toNat).getD g

/-- R38, R399: the MRUNs that run on the array of a region: those of its lead, and those that have migrated to it. -/
def arrayRuns (s : State) (g : Region) : List (Nat × Nat × Active) :=
  (runsOf s g.lead g.pctx).filter (fun r => arrayOf s g r.2.2 == g) ++
  (s.regions.filter (fun q => q.graph == g.graph && q != g)).flatMap (fun q =>
    (runsOf s q.lead q.pctx).filter (fun r => r.2.2.guest.isSome && arrayOf s q r.2.2 == g))

/-- R38, R336, R399: the MRUN whose next vector a region could enter in this cycle. -/
def nextRun (s : State) (g : Region) : Option (Nat × Nat × Active) :=
  if !fabricRuns s g.graph || g.tiles.any (fun ti => (s.tile ti).retired || fillWaits s ti g.pctx) then none else
  match (arrayRuns s g).find? (fun r => decide (r.2.2.pos < runCount r.2.2.cmd.va)) with
  | none => none
  | some (th, k, a) =>
    let h := homeOf s g th
    let beats (ti : Nat) : Nat := recordBeats (s.tile ti) h.pctx
    let ready := h.feeders.all (fun ti =>
      if a.cmd.vb = 0 then decide (beats ti ≤ ((s.tile ti).ctx h.pctx).recBuf.length)
      else !portHeld s ti 11 (recordPlace a (beats ti)) (32 * beats ti))
    if ready && !waveHolds s h && !h.feeders.any (fun ti => ((s.tile ti).ctx h.pctx).feedFault) && decide (a.mayEnter ≤ s.cycle.toNat) &&
        !afterLatch s h a.cmd && a.held.isNone && a.owed == 0 && !rowAwaited ((s.thread th).queue 3).active k (fld a.cmd.va.toNat 8 0 + a.pos) then
      some (th, k, a) else none

/-- R38, R359, R400: the order in which a counter examines contexts in this cycle. -/
def counterOrder (s : State) (q : Rect) (part : Nat) : List Nat :=
  let on := pick 4 (fun k => q.enabled.getLsbD k)
  if bit (ctxListDword s part 0) 63 then
    let e := fld (ctxListDword s part 16) (4 * (s.cycle.toNat % 16) + 3) (4 * (s.cycle.toNat % 16))
    on.filter (fun k => bit e 3 && s.regions.any (fun r => r.onRect q && r.pctx == k && physCtx (s.graph r.graph) (e % 4) == k))
  else if q.fresh then on
  else ([1, 2, 3, 4].map (fun j => (q.last + j) % 4)).filter on.contains

/-- R336, R337, R101: the records of a vector, by feeder, whether one holds an error, and the state with the buffers emptied. -/
def takeRecords (s0 : State) (g : Region) (l : Latched) (a : Active) : State × List Nat × Bool :=
  let k := g.pctx
  let size := recordBytes l.pfmt.toNat l.n.toNat
  let off := recordPlace a (size / 32)
  let s := if a.cmd.vb = 0 then s0 else
    g.feeders.foldl (fun s ti => tmemSense (portUse s ti 11 off size) (tmemKey ti off) size) s0
  if a.cmd.vb = 0 then
    let bufs := g.feeders.map (fun ti => (((s.tile ti).ctx k).recBuf.take (size / 32)))
    (g.feeders.foldl (fun s ti => s.mapTile ti (fun t => t.mapCtx k (fun c =>
        { c with recBuf := c.recBuf.drop (size / 32), feed := c.feed.fire }))) s,
      bufs.map beatsRecord, bufs.any (fun b => b.any (fun x => x.kind == 2)))
  else
    (g.feeders.foldl (fun s ti => s.mapTile ti (fun t => t.mapCtx k (fun c => { c with feed := c.feed.fire }))) s,
      g.feeders.map (fun ti => leNat (Memory.readBytes s.tmem (tmemKey ti off) size)),
      g.feeders.any (fun ti => tmemPoison s (tmemKey ti off) size))

/-- R399, R338: the cycle in which a vector of slot th that enters the array of region g is written: behind those of the thread in the
array of another region. (DEDUCED, A99) -/
def writeTime (s : State) (g : Region) (th : Nat) : Nat :=
  (s.vecs.filter (fun v => v.th == th && (v.x != g.x || v.y != g.y || v.pctx != g.pctx))).foldl (fun m v => max m (v.due + 1)) (s.cycle.toNat + g.lat)

/-- R38, R338, R399: one vector of an MRUN enters the array of region g; a migrated MRUN enters one in two cycles. (DEDUCED, A30)
(DEDUCED, A99) -/
def enterVector (s0 : State) (g : Region) (th k : Nat) (a : Active) (l : Latched) : State :=
  let h := homeOf s0 g th
  let guest := if h == g then none else some (h.x, h.y, h.pctx)
  let s := g.tiles.foldl (senseTile g) s0
  let (s1, recs, bad) := takeRecords s h l a
  let (s2, a2) := if bad && a.cmd.vb != 0 then (poisonOnce s1 th 3 k a a.cmd.vb, { a with logged := true }) else (s1, a)
  let acc := match a.cmd.i with | .mrunAcc _ _ _ _ _ => true | _ => false
  let v : VecFly := { x := g.x, y := g.y, pctx := g.pctx, th := th, row := fld a.cmd.va.toNat 8 0 + a.pos, acc := acc,
                      int := intFormat l.pfmt.toNat, due := writeTime s g th, last := a.pos + 1 == runCount a.cmd.va,
                      cleat := a.cmd.vc, cols := vectorResults s g guest l recs bad [], recs := recs, bad := bad, fmts := l, lost := vectorLost s g guest [],
                      guest := guest }
  let s3 := setActive s2 th 3 k { a2 with pos := a.pos + 1, mayEnter := s.cycle.toNat + if guest.isSome && !v.last then 2 else 1 }
  let s4 := s3.mapTile h.lead (fun t => t.mapCtx h.pctx (fun c =>
    { c with entered := c.entered + 1, errVecs := if bad then c.errVecs + 1 else c.errVecs }))
  moved { s4 with
    vecs := s4.vecs ++ [v],
    rects := s4.rects.map (fun q => if g.onRect q then { q with last := g.pctx, fresh := false } else q) } g.graph

/-- R338: the formats that the MRUN of slot th latched at its start. -/
def runLatch (s : State) (g : Region) (th : Nat) : Option Latched := let h := homeOf s g th; ((s.tile h.lead).ctx h.pctx).latched

/-- R38, VECTOR_ENTRY: the counter of the rect-th rectangle picks the next context that qualifies, which enters one vector. -/
def execVectorEntry (rect : Nat) (s : State) : Out :=
  .next (match s.rects[rect]? with
    | none => s
    | some q =>
      let rs := s.regions.filter (fun r => r.onRect q)
      match rs.head? with
      | none => s
      | some r0 =>
        let cand := (counterOrder s q (graphPart r0.graph)).findSome? (fun k =>
          match rs.find? (fun r => r.pctx == k) with
          | some r => (nextRun s r).map (fun x => (r, x))
          | none => none)
        match cand with
        | some (r, th, k, a) =>
          match runLatch s r th with
          | some l => enterVector s r th k a l
          | none => s
        | none => { s with rects := s.rects.map (fun p => if p == q then { p with fresh := false } else p) })

/-- The MRUN that a vector of a thread belongs to: the first with vectors yet to be written. -/
def runIndex (s : State) (th : Nat) : Option (Nat × Active) :=
  (((s.thread th).queue 3).active.zipIdx.findSome? (fun (a, k) =>
    match a.cmd.i with
    | .mrun _ _ _ _ _ => if a.begun && decide (a.row < a.pos) then some (k, a) else none
    | .mrunAcc _ _ _ _ _ => if a.begun && decide (a.row < a.pos) then some (k, a) else none
    | _ => none))

/-- R447: the MRUN of a vector that leaves poisoned slots consumes poison. The address of a slot is none of those that Table 21-2 gives the
record, and is free. (DEDUCED, A90) -/
def runPoison (s : State) (v : VecFly) : State :=
  if v.stray then s else
  match runIndex s v.th with
  | some (k, a) => if a.logged then s else poisonOnce s.draw v.th 3 k a (Config.freeWord s.drawn)
  | none => s

/-- R79, R338: the column results of a vector written into the accumulator rows of every drainer. A slot is poisoned where its result is,
or where it accumulates onto poison. (DEDUCED, A30) (DEDUCED, A37) (DEDUCED, A90) -/
def writeColumns (s : State) (v : VecFly) : State :=
  let s1 := if v.acc then v.cols.foldl (fun s d => accSense s (s.thread v.th).graph d.1 v.row (List.range d.2.length)) s else s
  let dead (d m : Nat) : Bool := v.lost.contains (d, m) || (v.acc && (s1.tile d).accPoison.contains (16 * v.row + m))
  let s2 := v.cols.foldl (fun s d => s.mapTile d.1 (fun t => d.2.zipIdx.foldl (fun t (w, m) =>
      let t1 := t.setSlot v.row m (if v.acc then (Acc.accumulate v.int (Acc.ofWord (t.slot v.row m)) (Acc.ofWord w)).word else w)
      if dead d.1 m then { t1 with accPoison := (16 * v.row + m) :: t1.accPoison } else t1) t)) s1
  if v.cols.any (fun d => (List.range d.2.length).any (dead d.1)) then runPoison s2 v else s2

/-- R338, R477: the end of a vector: one byte completed on the cleat, and the MRUN done with its last one. -/
def vectorDone (s : State) (v : VecFly) : State :=
  if v.stray then s else
  match runIndex s v.th with
  | none => s
  | some (k, a) =>
    let a1 := { a with row := a.row + 1, done := v.last, due := s.cycle.toNat }
    complete (setActive s v.th 3 k a1) v.th 3 k a1 v.cleat 1

/-- R338, R60, R396: whether a vector in the array of a rectangle is to be written in this cycle: its time has come, its graph runs, and
neither it nor an earlier vector of its thread there waits for the save of its accumulator rows. -/
def vectorReady (s : State) (q : Rect) (v : VecFly) : Bool :=
  let held (u : VecFly) : Bool := u.cols.any (fun d => accWaits s d.1 u.row 1)
  v.x == q.x && v.y == q.y && decide (v.due ≤ s.cycle.toNat) &&
  !s.vecs.any (fun u => u.x == v.x && u.y == v.y && u.th == v.th && decide (u.due ≤ v.due) && held u) &&
  s.regions.any (fun r => r.onRect q && r.pctx == v.pctx && fabricRuns s r.graph)

/-- R338, R477: the vectors of a rectangle that are to be written in this cycle written one after another, each as the ones before have
left it. -/
def writeVectors (q : Rect) : Nat → State → State
  | 0, s => s
  | n + 1, s =>
    match s.vecs.findIdx? (vectorReady s q) with
    | none => s
    | some i =>
      match s.vecs[i]? with
      | none => s
      | some v =>
        let s1 := { s with vecs := s.vecs.eraseIdx i }
        writeVectors q n (moved (vectorDone (writeColumns s1 v) v) (s1.thread v.th).graph)

/-- R338, R60, VECTOR_WRITE: LAT cycles after its entry, a vector's column results are written at every drainer; they wait for the save of
their accumulator rows, and later vectors of the thread behind them. -/
def execVectorWrite (rect : Nat) (s : State) : Out :=
  .next (match s.rects[rect]? with
    | none => s
    | some q => writeVectors q s.vecs.length s)

end Sys2Proof.Machine
end

