-- ==== Sys2Proof/Machine/Atomic.lean ====
section
/-! DEFINITION. Atomics and fences (majors 0x28 and 0x29, R294 to R299), cleats (0x2A, R300 to R303), groups and tokens
(0x2B, R304 to R309) and the tag table (0x2C, R310). -/

namespace Sys2Proof.Machine

/-! ### Atomics -/

/-- R294, R297, AMO: deferred, performed at commit. -/
def execAmo (a b : BitVec 5) (o : BitVec 5) (k : BitVec 2) (sc : BitVec 4) (s : State) : Out :=
  .next (
    let ea := s.me.rs a
    let n := amoWidth o.toNat
    bufferOp (readsSS a b) n (.amo o.toNat) [(ea, n)] [.amo ea o.toNat (s.me.rs b) k.toNat sc.toNat] s)

/-- R295: the old value of an operation code as sD receives it. -/
def amoOld (op : Nat) (old : List Byte) : Word :=
  let v := leNat (old.take (amoWidth op))
  if op = 1 ∨ op = 3 ∨ op = 5 ∨ op = 11 ∨ op = 13 ∨ op = 15 ∨ op = 17 ∨ op = 24 then wi (sextN v 32) else wd v

/-- R197: the kind of the fence that stands before an ordered atomic. -/
def kindBefore (k : BitVec 2) : BitVec 2 := if releases k then k else 0

/-- R170, R416: one irrevocable read-modify-write of n bytes at ea by the running slot, outside any bight: `body` takes the
bytes that stood there. -/
def rmwOutside (ea : Word) (n : Nat) (op : Option Nat) (f : List Byte → List Byte) (body : List Byte → State → State)
    (s : State) : State :=
  match epochMet s [(ea, n)] with
  | some w => checkpointFirst s w
  | none =>
    if homeBusy s true [(ea, n)] then waitAs .home s else
    match rmwPiece s (agOf s s.cur) ea n op f with
    | (s', 0, old) => body old s'
    | (s', c, _) => accessTrapOutside s' c ea

/-- R294, R295, R298: an atomic that returns the old value. -/
def returningAtomic (d a b : BitVec 5) (op : Nat) (k : BitVec 2) (sc : BitVec 4) (rd : RegSet) (cmp : Word) (s : State) : State :=
  let ea := s.me.rs a
  let n := amoWidth op
  irrevocableFenced rd (RegSet.s1 d) (addrChecks n [(ea, n)]) (kindBefore k) sc
    (rmwOutside ea n (some op) (amoBytes op (s.me.rs b) cmp)
      (fun old s => s.mapMe (fun t => (t.ws d (amoOld op old)).nextAcquired k sc))) s

/-- R294, AMOR. -/
def execAmor (d a b : BitVec 5) (o : BitVec 5) (k : BitVec 2) (sc : BitVec 4) (s : State) : Out :=
  .next (returningAtomic d a b o.toNat k sc (readsSS a b) 0 s)
/-- R294, AMOCAS: sD is read as the compare value before the old value is written to it. -/
def execAmocas (d a b : BitVec 5) (o : BitVec 5) (k : BitVec 2) (sc : BitVec 4) (s : State) : Out :=
  .next (returningAtomic d a b o.toNat k sc ((readsSS a b).or (RegSet.s1 d)) (s.me.rs d) s)

/-- R299, R179, FENCE: a fence of SEQ scope or wider empties the instruction buffer (R104). -/
def execFence (k : BitVec 2) (sc : BitVec 4) (s : State) : Out :=
  .next (irrevocableFenced .empty .empty none k sc (fun s =>
    (if 2 ≤ sc.toNat then s.mapTile s.myTile (fun t => { t with ibuf := [] }) else s).mapMe Thread.nextFresh) s)

/-! ### Cleats -/

/-- R302, R303: a deferred cleat update; `bad`: the operand that raises CLEAT_OVER at issue, after ADDRESS and ALIGN and before
BIGHT_OVERFLOW (DESIGN CHOICE, A75). -/
def cleatUpdate (rd : RegSet) (ea : Word) (bad : Option Word) (u : CleatUpd) (scope : Nat) (s : State) : State :=
  match bad, addrChecks 16 [(ea, 16)] with
  | some v, none => if s.me.notReady rd then s else raise s 0x17 v
  | _, _ => bufferOp rd 16 .cleat [(ea, 16)] [.cleat ea u scope] s

/-- R302, CLEAT.INIT. -/
def execCleatInit (a b : BitVec 5) (s : State) : Out :=
  .next (let v := s.me.rs b
    cleatUpdate (readsSS a b) (s.me.rs a) (if 0xFFFF < v.toNat then some v else none) (.init v.toNat) 0 s)
/-- R302, CLEAT.EXP. -/
def execCleatExp (a b : BitVec 5) (s : State) : Out :=
  .next (let v := s.me.rs b
    cleatUpdate (readsSS a b) (s.me.rs a) (if 2 ^ 47 ≤ v.toNat then some v else none) (.rmw (sw v) 0) 0 s)
/-- R302, CLEAT.ARV: released at commit at its scope, if it has one. -/
def execCleatArv (a : BitVec 5) (_k : BitVec 2) (sc : BitVec 4) (s : State) : Out :=
  .next (cleatUpdate (RegSet.s1 a) (s.me.rs a) none (.rmw 0 1) sc.toNat s)

/-- R303: phase p has flipped in a cleat. -/
def hasFlipped (c : Nat) (p : Nat) : Bool :=
  let x := (fld c 126 96 + 2 ^ 31 - p % 2 ^ 31) % 2 ^ 31
  decide (1 ≤ x) && decide (x ≤ 2 ^ 30)

/-- R303: a read of a cleat; one that finds OVF raises CLEAT_OVER. -/
def cleatRead (rd wr : RegSet) (ea : Word) (body : Nat → State → State) (s : State) : State :=
  loadOp rd wr 16 true [(ea, 16)] (fun bs => if bit (leNat (bs.headD [])) 127 then some (0x17, ea) else none)
    (fun bs s' => body (leNat (bs.headD [])) s') s

/-- R303, R101, CLEAT.WAIT: a slot that waits goes on waiting while its next read has no grant. -/
def execCleatWait (a b : BitVec 5) (_k : BitVec 2) (_sc : BitVec 4) (s : State) : Out :=
  .next (let p := (s.me.rs b).toNat
    if s.me.wait == .cleatWait && homeBusy s false [(s.me.rs a, 16)] then s else cleatRead (readsSS a b) .empty (s.me.rs a)
      (fun c s' => if hasFlipped c p then s'.mapMe Thread.next else waitAs .cleatWait s') s)
/-- R303, CLEAT.TEST. -/
def execCleatTest (d a b : BitVec 5) (_k : BitVec 2) (_sc : BitVec 4) (s : State) : Out :=
  .next (let p := (s.me.rs b).toNat
    cleatRead (readsSS a b) (RegSet.s1 d) (s.me.rs a)
      (fun c s' => s'.mapMe (fun t => (t.ws d (if hasFlipped c p then 1 else 0)).next)) s)

/-! ### Groups (Table 10-6) -/

/-- R304: a group object. -/
structure Group where
  leaves  : Nat
  joins   : Nat
  arrived : Nat
  members : Nat
  gen     : Nat
  deriving DecidableEq, Repr

/-- Table 10-6: a group object from its 16 bytes. -/
def groupOf (bs : List Byte) : Group :=
  let c := leNat bs
  { leaves := fld c 95 80, joins := fld c 79 64, arrived := fld c 63 48, members := fld c 47 32, gen := fld c 31 0 }

/-- Table 10-6: the bytes of a group object. -/
def groupBytes (g : Group) : List Byte :=
  leBytes 16 (g.leaves % 65536 * 2 ^ 80 + g.joins % 65536 * 2 ^ 64 + g.arrived % 65536 * 2 ^ 48 + g.members % 65536 * 2 ^ 32 +
    g.gen % 2 ^ 32)

/-- R304: the test after an update: a complete generation starts the next. -/
def groupTest (g : Group) : Group :=
  if g.arrived = g.members ∧ ¬(g.members = 0 ∧ g.joins = 0) then
    { gen := (g.gen + 1) % 2 ^ 32, members := (g.members + g.joins + 65536 - g.leaves) % 65536, arrived := 0, joins := 0, leaves := 0 }
  else g

/-- R305: the class of a ticket. -/
inductive Ticket where
  | joining | member | invalid
  deriving DecidableEq, Repr

/-- R305. -/
def ticketClass (t : Word) (gen : Nat) : Ticket :=
  if !t.getLsbD 63 || fld t.toNat 62 32 != 0 then .invalid
  else
    let f := t.toNat % 2 ^ 32
    if (f + 2 ^ 32 - gen) % 2 ^ 32 = 1 then .joining
    else if (gen + 2 ^ 32 - f) % 2 ^ 32 < 2 ^ 31 then .member else .invalid

/-- R307, JOIN on an object; none where the counts would pass 65,535. -/
def groupJoin (g : Group) : Option Group :=
  if 65535 < g.members + g.joins + 1 then none else some (groupTest { g with joins := g.joins + 1 })
/-- R307, LEAVE on an object; none for an invalid ticket. -/
def groupLeave (t : Word) (g : Group) : Option Group :=
  match ticketClass t g.gen with
  | .joining => some { g with joins := (g.joins + 65535) % 65536 }
  | .member => some (groupTest { g with leaves := g.leaves + 1, arrived := g.arrived + 1 })
  | .invalid => none
/-- R307, GBAR on an object: a member arrives, a joining thread changes nothing; none for an invalid ticket. -/
def groupArrive (t : Word) (g : Group) : Option Group :=
  match ticketClass t g.gen with
  | .joining => some g
  | .member => some (groupTest { g with arrived := g.arrived + 1 })
  | .invalid => none

/-- A group update as one read-modify-write: an object that refuses it is unchanged. -/
def groupRmw (f : Group → Option Group) (old : List Byte) : List Byte :=
  match f (groupOf old) with | some g => groupBytes g | none => old

/-- R307, JOIN. -/
def execJoin (d a : BitVec 5) (s : State) : Out :=
  .next (let ea := s.me.rs a
    irrevocable (RegSet.s1 a) (RegSet.s1 d) (addrChecks 16 [(ea, 16)])
      (rmwOutside ea 16 none (groupRmw groupJoin) (fun old s =>
        let g := groupOf old
        if (groupJoin g).isNone then raiseOutside s 0x17 ea
        else s.mapMe (fun t => (t.ws d (wd (2 ^ 63 + (g.gen + 1) % 2 ^ 32))).nextFresh))) s)

/-- R307, LEAVE; with a scope its arrival is a release. -/
def execLeave (a b : BitVec 5) (k : BitVec 2) (sc : BitVec 4) (s : State) : Out :=
  .next (
    let ea := s.me.rs a
    let t := s.me.rs b
    irrevocableFenced (readsSS a b) .empty (addrChecks 16 [(ea, 16)]) k sc
      (rmwOutside ea 16 none (groupRmw (groupLeave t)) (fun old s =>
        if (groupLeave t (groupOf old)).isNone then raiseOutside s 0x17 t else s.mapMe Thread.nextFresh)) s)

/-- R48, R308: the arrival of the slot i withdrawn, before a trap or the checkpoint of a pre-emption reaches it: unless its generation has
completed the thread is left at GBAR, else GBAR counts as performed. Where the object cannot be reached the thread is left at GBAR and the object
as it stands. (DESIGN CHOICE, A116) -/
def withdraw (s : State) (i : Nat) : State :=
  match (s.thread i).gbar with
  | none => s
  | some (ea, gen) =>
    if agentHeld s (agOf s i) true [(ea, 16)] then s else
    let back (old : List Byte) : List Byte :=
      let g := groupOf old
      if g.gen = gen.toNat then groupBytes { g with arrived := (g.arrived + 65535) % 65536 } else old
    match rmwPiece s (agOf s i) ea 16 none back with
    | (s', 0, old) => s'.mapThread i (fun t =>
        if (groupOf old).gen = gen.toNat then { t with gbar := none } else { t.nextFresh with gbar := none })
    | (s', _, _) => s'.mapThread i (fun t => { t with gbar := none })

/-- R112: whether the withdrawal of the arrival of slot i waits for its bank. -/
def arrivalHeld (s : State) (i : Nat) : Bool := (s.thread i).gbar.isSome

/-- R307: a thread that has arrived waits until the generation has passed. -/
def gbarPoll (ea : Word) (gen : BitVec 32) (k : BitVec 2) (sc : BitVec 4) (s : State) : State :=
  match epochMet s [(ea, 16)] with
  | some w => let s1 := withdraw s s.cur
    if arrivalHeld s1 s.cur then waitAs .gbar s1 else checkpointFirst s1 w
  | none =>
    if homeBusy s false [(ea, 16)] then waitAs .gbar s else
    match readRange s (agOf s s.cur) ea 16 with
    | (s', 0, bs) =>
      if (groupOf bs).gen = gen.toNat then waitAs .gbar s'
      else s'.mapMe (fun t => { t.nextAcquired k sc with gbar := none })
    | (s', c, _) => accessTrapOutside (s'.mapMe (fun t => { t with gbar := none })) c ea

/-- R307, GBAR: a release at its arrival and an acquire at its release. -/
def execGbar (a b : BitVec 5) (k : BitVec 2) (sc : BitVec 4) (s : State) : Out :=
  .next (
    let ea := s.me.rs a
    let t := s.me.rs b
    match s.me.gbar with
    | some (x, gen) => gbarPoll x gen k sc s
    | none =>
      irrevocableFenced (readsSS a b) .empty (addrChecks 16 [(ea, 16)]) (kindBefore k) sc
        (rmwOutside ea 16 none (groupRmw (groupArrive t)) (fun old s =>
          let g := groupOf old
          match ticketClass t g.gen, groupArrive t g with
          | .member, some g' =>
            if g'.gen = g.gen then (s.mapMe (fun t => { t with gbar := some (ea, .ofNat 32 g.gen), wait := .gbar }))
            else s.mapMe (fun t => t.nextAcquired k sc)
          | .joining, _ => waitAs .gbar s
          | _, _ => raiseOutside s 0x17 t)) s)

/-! ### Tokens (R309) -/

/-- R309, TGIVE: engine code Q in the b field. -/
def execTgive (q : BitVec 5) (s : State) : Out :=
  .next (irrevocable .empty .empty none (fun s =>
    let f := fifoIndex 1 q.toNat
    if s.me.fifoAt f < 15 then s.mapMe (fun t => (t.setFifo f (t.fifoAt f + 1)).nextFresh) else waitAs .token s) s)
/-- R309, TTAKE. -/
def execTtake (q : BitVec 5) (s : State) : Out :=
  .next (irrevocable .empty .empty none (fun s =>
    let f := fifoIndex q.toNat 1
    if 1 ≤ s.me.fifoAt f then s.mapMe (fun t => (t.setFifo f (t.fifoAt f - 1)).nextFresh) else waitAs .token s) s)

/-! ### The tag table (R106, R310) -/

/-- R106: the lowest slot whose valid entry holds bits 55:12 of an address, or -1. -/
def tagLookup (s : State) (x : Word) : Word :=
  match (pick 64 (fun i => let e := (tagSeen s i).toNat; bit e 63 && fld e 55 12 == fld x.toNat 55 12)).head? with
  | some i => wd i
  | none => BitVec.allOnes 64

/-- R310, LOOKUP. -/
def execLookup (d a : BitVec 5) (s : State) : Out := .next (scalarOp d (RegSet.s1 a) (tagLookup s (s.me.rs a)) s)

/-- R310: the index check of the entry forms. -/
def tagIndex (x : Word) : Option (Nat × Word) := if 63 < x.toNat then some (3, x) else none

/-- R106, R310: a buffered tag-table write. -/
def tagWrite (rd : RegSet) (x : Word) (op : BufOp) (s : State) : State :=
  inBight rd .empty (tagIndex x) (fun s' =>
    if !buffersFit (s.me.bight.stores ++ [op]) then raiseFree s' 0x0A
    else s'.mapMe (fun t => { t.next with bight := { t.bight with stores := t.bight.stores ++ [op] } })) s

/-- R310, TAGSET. -/
def execTagset (a b : BitVec 5) (s : State) : Out :=
  .next (tagWrite (readsSS a b) (s.me.rs a) (.tagset (s.me.rs a).toNat (s.me.rs b)) s)
/-- R310, TAGCLR. -/
def execTagclr (a : BitVec 5) (s : State) : Out :=
  .next (tagWrite (RegSet.s1 a) (s.me.rs a) (.tagclr (s.me.rs a).toNat) s)
/-- R310, TAGREAD. -/
def execTagread (d a : BitVec 5) (s : State) : Out :=
  .next (inBight (RegSet.s1 a) (RegSet.s1 d) (tagIndex (s.me.rs a)) (fun s' =>
    s'.mapMe (fun t => (t.ws d (tagSeen s (s.me.rs a).toNat &&& ~~~0xFF#64)).next)) s)

end Sys2Proof.Machine
end

