-- ==== Sys2Proof/Machine/Control.lean ====
section
/-! DEFINITION. Misc and knot instructions, major 0x00 (R238 to R244), and system registers, major 0x0D (R245 to R249,
R370). -/

namespace Sys2Proof.Machine

/-! ### Major 0x00 -/

/-- R239, NOP. -/
def execNop (s : State) : Out := .next (s.mapMe Thread.next)

/-- R240, R47, R52: a knot of the running slot, KNOT.W when `w`. -/
def knotOp (w : Bool) (s : State) : State :=
  match knot s s.cur w (s.me.pc + 4) with
  | .hold s' => s'
  | .go s' => s'.mapMe Thread.next

/-- R240, KNOT. -/
def execKnot (s : State) : Out := .next (knotOp false s)
/-- R240, R52, KNOT.W. -/
def execKnotW (s : State) : Out := .next (knotOp true s)

/-- R241: the slot stops: its FIFOs are cleared and the thread counts as halted. -/
def Thread.halt (t : Thread) : Thread := { t with run := .halted, wait := .none, fifo := .replicate 20 0 }

/-- R241, R54: the running slot stops; in an open wave that it has not checkpointed, its state is checkpointed as it stands. -/
def haltNow (s : State) : State :=
  let s1 := s.mapMe Thread.halt
  match (s.graph s.me.graph).openWave with
  | some n => if s.me.wave = n then s1 else checkpoint s1 s.cur n s.me.pc
  | none => s1

/-- R241: a HALT whose knot has committed and waits for a started command of its thread is in its HALT wait. -/
def haltHeld (s : State) : State :=
  if s.me.run == .running && s.me.wait == .commit && !s.me.idle && s.me.bight == .openAt s.me.pc s.me.lc s.me.fpctl then waitAs .haltWait s else s

/-- R241, HALT. -/
def execHalt (s : State) : Out :=
  .next (
    match knot s s.cur false s.me.pc with
    | .hold s' => haltHeld s'
    | .go s' => if s'.me.idle then haltNow s' else waitAs .haltWait s')

/-- R242: whether the running slot's KWAIT still waits. -/
def kwaits (s : State) : Bool := precedes (s.graph s.me.graph).lastWave s.me.wave

/-- R242, KWAIT. -/
def execKwait (d : BitVec 5) (s : State) : Out :=
  .next (inBight .empty (RegSet.s1 d) none (fun s' =>
    if kwaits s then waitAs .kwait s
    else s'.mapMe (fun t => (t.ws d ((s.graph s.me.graph).lastWave.zeroExtend 64)).next)) s)

/-- R243, TIME. -/
def execTime (d : BitVec 5) (s : State) : Out := .next (scalarOp d .empty (s.timeOf s.myTile) s)

/-- Table 8-9: the TID value of a slot. -/
def tidValue (s : State) (i : Nat) : Word :=
  let t := s.thread i
  let g := s.graph t.graph
  wd (g.h % 256 * 2 ^ 40 + g.w % 256 * 2 ^ 32 + t.nthr.toNat * 2 ^ 20 + slotOf i * 2 ^ 18 + t.tno.toNat * 2 ^ 16 +
    t.ly.toNat * 2 ^ 8 + t.lx.toNat)

/-- R244, TID. -/
def execTid (d : BitVec 5) (s : State) : Out := .next (scalarOp d .empty (tidValue s s.cur) s)

/-- R239, YIELD: the round robin passes the slot over in the next three cycles in which another slot is ready. -/
def execYield (s : State) : Out := .next (s.mapMe (fun t => { t.next with yield := s.cycle.toNat + 4 }))

/-! ### Major 0x0D (R245 to R249, Tables 16-1 to 16-4) -/

/-- Table 16-2: STATUS. -/
def statusWord (t : Thread) : Word :=
  wd ((if t.lvl then 2 ^ 63 else 0) + (if t.susp.isSome then 2 ^ 62 else 0) + t.rlim.toNat * 2 ^ 40 + t.rcnt.toNat * 2 ^ 32)

/-- Table 16-1: GRAPHID of a slot, the handle of its graph unless an MTS at S has written it. (DESIGN CHOICE, A83) -/
def graphIdOf (s : State) (i : Nat) : BitVec 16 := (s.thread i).graphId.getD (s.graph (s.thread i).graph).handle

/-- Table 16-1, R58: LASTWAVE of a slot, the last complete wave of its graph; what an MTS at S has written stands until a wave
completes. (DESIGN CHOICE, A83) -/
def lastWaveOf (s : State) (i : Nat) : BitVec 16 :=
  let n := (s.graph (s.thread i).graph).lastWave
  match (s.thread i).lastWave with
  | some (v, m) => if m = n then v else n
  | none => n

/-- R247, Table 16-1: the value of a system register as the slot i reads it. -/
def sysreg (s : State) (i r : Nat) : Word :=
  let t := s.thread i
  let ti := s.tile (tileOf i)
  let p := s.part (graphPart t.graph)
  if r = 0x001 then t.fpctl
  else if r = 0x010 then (graphIdOf s i).zeroExtend 64
  else if r = 0x011 then (lastWaveOf s i).zeroExtend 64
  else if 0x100 ≤ r ∧ r < 0x120 then (ti.scale (r - 0x100)).zeroExtend 64
  else if 0x120 ≤ r ∧ r < 0x140 then wd (ti.fmtEntry (r - 0x120))
  else match r with
    | 0x200 => statusWord t
    | 0x201 => t.tpc.zeroExtend 64
    | 0x202 => t.tcause
    | 0x203 => t.tval
    | 0x204 => t.tbs.zeroExtend 64
    | 0x205 => t.ssave[0]
    | 0x206 => t.ssave[1]
    | 0x207 => t.ssave[2]
    | 0x208 => t.ssave[3]
    | 0x300 => p.tvec
    | 0x301 => p.hwin
    | 0x302 => p.himg
    | 0x303 => p.ptroot
    | 0x304 => p.codectab
    | 0x305 => p.errbase
    | 0x306 => p.errsize
    | 0x307 => p.errhead
    | 0x308 => p.errtail
    | 0x309 => p.errlost
    | 0x30A => p.ctxlist
    | 0x30B => p.preprio
    | 0x380 => p.prect
    | 0x381 => p.bankmap
    | 0x382 => p.portmask.truncate 64
    | 0x383 => (p.portmask >>> 64).truncate 64
    | 0x384 => p.qmask.truncate 64
    | 0x385 => (p.qmask >>> 64).truncate 64
    | 0x386 => (p.qmask >>> 128).truncate 64
    | 0x387 => (p.qmask >>> 192).truncate 64
    | _ => 0

/-- R246: whether a register may be read at U. -/
def readableAtU (r : Nat) : Bool := decide (r < 0x200)
/-- R246: whether a register may be written at U. -/
def writableAtU (r : Nat) : Bool := r == 1 || (decide (0x100 ≤ r) && decide (r < 0x140))

/-- R246, Table 8-10: whether an access to a register raises PRIV. -/
def privCheck (lvl write : Bool) (r : Nat) : Bool :=
  decide (0x800 ≤ r) || (!lvl && !(if write then writableAtU r else readableAtU r))

/-- R247, MFS. PRIV has no stated TVAL (A14). -/
def execMfs (d : BitVec 5) (r : BitVec 12) (s : State) : Out :=
  .next (if privCheck s.me.lvl false r.toNat then raiseFree s 2
    else scalarOp d .empty (sysreg s s.cur r.toNat) s)

/-- R426, Table 20-1: what PTROOT keeps of a value written: with V = 1 the RSV bits 34:28 and 7:0 read zero; with V = 0 bits 62:0 belong
to software. -/
def ptrootKept (v : Word) : Word := if v.getLsbD 63 then v &&& 0xFFFFFFF80FFFFF00 else v

/-- R166: the shared register r, which slot i is about to write past its checkpoint of the open wave, kept as it stands for an image
of its tile that is not yet saved. (DEDUCED, A84) -/
def regKeep (s : State) (i r : Nat) : State :=
  let k := (s.thread i).graph
  match (s.graph k).openWave, (s.graph k).pending with
  | some w, some p =>
    let key := 64 * tileOf i + (r - 0x100)
    if (s.thread i).wave == w && !p.tiles.any (fun t => t.tile == tileOf i) && (Assoc.get? p.lateRegs key).isNone then
      s.mapGraph k (fun g => { g with pending := some { p with lateRegs := Assoc.set p.lateRegs key (sysreg s i r) } })
    else s
  | _, _ => s

/-- R5, R370, Tables 16-1 to 16-4: a system register written by the slot i; RO and RSV fields keep what they hold, and Table 5-11's bits
9:4 read zero. -/
def setSysreg (s : State) (i r : Nat) (v : Word) : State :=
  let k := graphPart (s.thread i).graph
  let n := v.toNat
  if 0x100 ≤ r ∧ r < 0x120 then
    (regKeep s i r).mapTile (tileOf i) (fun t => { t with sc := if h : r - 0x100 < 32 then t.sc.set (r - 0x100) (v.truncate 32) h else t.sc })
  else if 0x120 ≤ r ∧ r < 0x140 then
    (regKeep s i r).mapTile (tileOf i) (fun t => { t with sfmt := if h : r - 0x120 < 32 then t.sfmt.set (r - 0x120) (v.truncate 16 &&& 0xFC0F) h else t.sfmt })
  else match r with
    | 0x001 => s.mapThread i (fun t => { t with fpctl := v &&& 0x3EF })
    | 0x010 => s.mapThread i (fun t => { t with graphId := some (v.truncate 16) })
    | 0x011 => s.mapThread i (fun t => { t with lastWave := some (v.truncate 16, (s.graph t.graph).lastWave) })
    | 0x201 => s.mapThread i (fun t => { t with tpc := v.truncate 18 })
    | 0x202 => s.mapThread i (fun t => { t with tcause := wd (fld n 49 32 * 2 ^ 32 + fld n 13 0) })
    | 0x203 => s.mapThread i (fun t => { t with tval := v })
    | 0x204 => s.mapThread i (fun t => { t with tbs := v.truncate 18 })
    | 0x205 => s.mapThread i (fun t => { t with ssave := t.ssave.set 0 v })
    | 0x206 => s.mapThread i (fun t => { t with ssave := t.ssave.set 1 v })
    | 0x207 => s.mapThread i (fun t => { t with ssave := t.ssave.set 2 v })
    | 0x208 => s.mapThread i (fun t => { t with ssave := t.ssave.set 3 v })
    | 0x300 => s.mapPart k (fun p => { p with tvec := wd (n % 2 ^ 18) })
    | 0x301 => s.mapPart k (fun p => { p with hwin := wd (fld n 63 63 * 2 ^ 63 + fld n 13 8 * 2 ^ 8 + fld n 5 0) })
    | 0x302 => s.mapPart k (fun p => { p with himg := v })
    | 0x303 => s.mapPart k (fun p => { p with ptroot := ptrootKept v })
    | 0x304 => s.mapPart k (fun p => { p with codectab := v })
    | 0x305 => s.mapPart k (fun p => { p with errbase := v })
    | 0x306 => s.mapPart k (fun p => { p with errsize := wd (n % 32) })
    | 0x308 => s.mapPart k (fun p => { p with errtail := if p.errhead.ult v then p.errhead else v })
    | 0x309 => s.mapPart k (fun p => { p with errlost := v })
    | 0x30A => readContextList (s.mapPart k (fun p => { p with ctxlist := v, evalDue := true })) k
    | 0x30B => s.mapPart k (fun p => { p with preprio := wd (n % 16), evalDue := true })
    | _ => s

/-- R248, Table 16-4: the issue checks of MTS after PRIV. -/
def mtsCheck (s : State) (i r : Nat) (v : Word) : Option (Nat × Word) :=
  let t := s.thread i
  let c := (s.tile (tileOf i)).ctx t.pctx.toNat
  if 0x120 ≤ r ∧ r < 0x140 ∧ !EpF.used (c.epF (r - 0x120)) then some (6, wd (r - 0x120))
  else if 0x100 ≤ r ∧ r < 0x120 ∧ !bit (MpF.scown c.thF) (r - 0x100) then some (6, wd r)
  else none

/-- Table 16-4: whether a value of HWIN names a window past the last slot. -/
def hwinBad (r : Nat) (v : Word) : Bool := r == 0x301 && decide (63 < fld v.toNat 5 0 + fld v.toNat 13 8)

/-- R191: a register shared by the tile's slots. -/
def sharedReg (r : Nat) : Bool := decide (0x100 ≤ r) && decide (r < 0x140)

/-- R248, MTS: the checks are made at issue; a write to a shared register waits until every earlier engine command of the
thread has started (R249). (DESIGN CHOICE, A28) -/
def execMts (a : BitVec 5) (r : BitVec 12) (s : State) : Out :=
  .next (
    let v := s.me.rs a
    if privCheck s.me.lvl true r.toNat then raiseFree s 2
    else if hwinBad r.toNat v && !s.me.notReady (RegSet.s1 a) then raiseFree s 6
    else irrevocable (RegSet.s1 a) .empty (mtsCheck s s.cur r.toNat v) (fun s =>
      if sharedReg r.toNat && (List.range 4).any (fun q => !(s.me.queue q).waiting.isEmpty) then waitAs .commit s
      else (setSysreg s s.cur r.toNat v).mapMe Thread.nextFresh) s)

end Sys2Proof.Machine
end

