-- ==== Sys2Proof/Machine/Copy.lean ====
section
/-! DEFINITION. The copy engine (major 0x30, R311 to R315). -/

namespace Sys2Proof.Machine

/-! ### Issue -/

/-- R312: the exact range that a side of a block copy touches, as its least address and its length; none where it leaves
its space. (DEDUCED, A32) -/
def blockRange (ea : Word) (rows bytes : Nat) (stride : Int) : Option (Word × Nat) :=
  let sz : Nat := if isLocal ea then 2 ^ 18 else 2 ^ 56
  let base : Int := if isLocal ea then (ea.toNat % 2 ^ 18 : Nat) else (vaOf ea : Nat)
  let span : Int := ((rows : Int) - 1) * stride
  let lo := base + min 0 span
  let hi := base + max 0 span + bytes
  if addressOk ea 0 && decide (0 ≤ lo) && decide (hi ≤ (sz : Int)) then some (ea + wi (min 0 span), (hi - lo).toNat) else none

/-- R312: the checks of a completion cleat. -/
def cleatAddress (c : Word) : Check := stopIf (c != 0 && !addressOk c 16) 3 c
/-- R312: a completion cleat is 16-byte aligned. -/
def cleatAlign (c : Word) : Check := stopIf (c != 0 && c.toNat % 16 != 0) 4 c

/-- R312: the issue checks of a copy between ranges. (DEDUCED, A32) -/
def copyChecks (dst src len cleat : Word) (more : List Check) : Check :=
  firstOf ([stopIf (decide (2 ^ 40 ≤ len.toNat)) 3 len, stopIf (!addressOk dst len.toNat) 3 dst,
    stopIf (!addressOk src len.toNat) 3 src, cleatAddress cleat, cleatAlign cleat] ++ more)

/-- R312: whether data endpoint e is an output that a context of a tile claims. -/
def claimsOutput (c : Ctx) (e : Nat) : Bool := EpF.used (c.epF e) && EpF.out (c.epF e)

/-- R312: the issue checks of a copy to a strand. The spec gives its PROT no TVAL. -/
def copyOutChecks (s : State) (ep src len cleat : Word) : Check :=
  firstOf [stopIf (decide (2 ^ 40 ≤ len.toNat)) 3 len, stopIf (decide (32 ≤ ep.toNat)) 3 ep, stopIf (!addressOk src len.toNat) 3 src,
    cleatAddress cleat, cleatAlign cleat,
    stopFree (!claimsOutput ((s.tile s.myTile).ctx s.me.pctx.toNat) ep.toNat) 6]

/-- The registers that a copy reads: sA, sB, sC and the ones after C. -/
def copyReads (a b c : BitVec 5) (more : Nat) : RegSet :=
  (List.range more).foldl (fun r j => r.or (RegSet.s1 (c + .ofNat 5 (j + 1)))) ((readsSS a b).or (RegSet.s1 c))

/-- R312, COPY. -/
def execCopy (a b c : BitVec 5) (m : Bool) (x y : BitVec 3) (s : State) : Out :=
  .next (
    let d := mkCmd s (.copy a b c m x y) a b c
    issue 1 (copyReads a b c 1) d (if m then copyOutChecks s d.va d.vb d.vc d.vd else copyChecks d.va d.vb d.vc d.vd []) s)

/-- R314, R338: whether a run operand has a reserved bit set. -/
def runOperandBad (v : Word) : Bool := fld v.toNat 63 18 != 0

/-- R314, COPYM. -/
def execCopym (a b c : BitVec 5) (k : Bool) (x y : BitVec 3) (s : State) : Out :=
  .next (
    let d := mkCmd s (.copym a b c k x y) a b c
    issue 1 (copyReads a b c 2) d (copyChecks d.va d.vb d.vc d.vd [stopFree (runOperandBad d.ve) 0x18]) s)

/-- R313: the checks on a descriptor's values, and of the ranges they give. (DEDUCED, A31) -/
def blockChecks (d : Cmd) (bytes rows : Nat) (ds ss : Word) : Check :=
  let bad := bytes == 0 || decide (2 ^ 24 < bytes) || rows == 0 || decide (65536 < rows)
  let lowest (ea : Word) (st : Word) : Word := ea + wi (min 0 (((rows : Int) - 1) * sw st))
  firstOf [stopIf bad 3 d.vc, stopIf (blockRange d.va rows bytes (sw ds)).isNone 3 (lowest d.va ds),
    stopIf (blockRange d.vb rows bytes (sw ss)).isNone 3 (lowest d.vb ss)]

/-- R313, R315, R10, COPY2: the descriptor is read at issue, the open bight's own bytes in their place (R41); the traps come in the order ADDRESS,
ALIGN, and what the read of the descriptor meets. (DEDUCED, A31) -/
def execCopy2 (a b c : BitVec 5) (x y : BitVec 3) (s : State) : Out :=
  .next (
    let d := mkCmd s (.copy2 a b c x y) a b c
    let rd := copyReads a b c 0
    let local_ := isLocal d.vc && addressOk d.vc 32
    let aligned := stopIf (d.vc.toNat % 8 != 0) 4 d.vc
    if !local_ ∨ s.me.notReady rd ∨ 8 ≤ (s.me.queue 1).waiting.length then issue 1 rd d (stopIf (!local_) 3 d.vc) s
    else if homeBusy s false [(d.vc, 32)] then waitAs .home s
    else match readElement s false d.vc 32 with
      | (s1, 0, bs) =>
        let w (i : Nat) : Nat := leNat ((bs.drop (8 * i)).take 8)
        let e := { d with vc := wd (w 0 + w 1 * 2 ^ 32), vd := wd (w 2), ve := wd (w 3) }
        issue 1 rd e (firstOf [blockChecks d (w 0) (w 1) (wd (w 2)) (wd (w 3)), aligned]) s1
      | (s1, k, _) => if aligned.isSome then issue 1 rd d aligned s else accessTrap s1 k d.vc)

/-! ### Performing (R312 to R315) -/

/-- R312, R313: bytes of a row, rows, and the destination and source of row r. -/
def copyShape (c : Cmd) (r : Nat) : Nat × Nat × Word × Word :=
  match c.i with
  | .copy2 _ _ _ _ _ =>
    (c.vc.toNat % 2 ^ 32, c.vc.toNat / 2 ^ 32, c.va + c.vd * wd r, c.vb + c.ve * wd r)
  | _ => (c.vc.toNat, 1, c.va, c.vb)

/-- R312: whether a copy goes to a strand. -/
def copyToStrand (c : Cmd) : Bool := match c.i with | .copy _ _ _ m _ _ => m | _ => false

/-- R312, R313: the completion cleat of a copy. -/
def copyCleat (c : Cmd) : Word := match c.i with | .copy2 _ _ _ _ _ => 0 | _ => c.vd

/-- R314: the command that a COPYM enters. -/
def copymRun (c : Cmd) (acc : Bool) : Cmd :=
  { c with i := if acc then .mrunAcc 0 0 0 0 0 else .mrun 0 0 0 0 0, va := c.ve, vb := 0, vc := 0 }

/-- R314, Table 6-5: a copy has written its last byte: COPYM's MRUN enters once the M queue has room. -/
def copyDone (s : State) (th k : Nat) (a : Active) : State :=
  match a.cmd.i with
  | .copym _ _ _ acc _ _ =>
    if 8 ≤ ((s.thread th).queue 3).waiting.length then s
    else finish (s.mapThread th (fun t => t.mapQueue 3 (fun u => { u with waiting := u.waiting ++ [copymRun a.cmd acc] }))) th 1 k a
      s.cycle.toNat
  | _ => finish s th 1 k a s.cycle.toNat

/-- R312: a unit of n bytes at a destination, cut at its 32-byte sectors, as offset and length. -/
def sectorParts (dst : Word) (n : Nat) : List (Nat × Nat) :=
  let o := dst.toNat % 32
  (List.range ((o + n + 31) / 32)).filterMap (fun i =>
    let lo := if i = 0 then 0 else 32 * i - o
    let hi := min n (32 * (i + 1) - o)
    if lo < hi then some (lo, hi - lo) else none)

/-- R170, R318: a unit read line by line, each as one event: the failed check with the address of its line (0 none), the bytes, and
whether some are poisoned. -/
def readUnit (s : State) (a : Ag) (ea : Word) (n : Nat) : State × (Nat × Word) × List Byte × Bool :=
  (linePieces ea n).foldl (fun (acc : State × (Nat × Word) × List Byte × Bool) p =>
    let (s', c, bs) := readPiece acc.1 a p.1 p.2.2
    (s', worse acc.2.1 (if c = 8 then (0, 0) else (c, p.1)), acc.2.2.1 ++ bs, acc.2.2.2 || c == 8)) (s, (0, 0), [], false)

/-- R312, Table 4-9: the parts of a unit, cut at the destination's sectors, whose source is poisoned. -/
def poisonedParts (s : State) (a : Ag) (dst src : Word) (n : Nat) : List (Nat × Nat) :=
  (sectorParts dst n).filter (fun p => (readRange s a (src + wd p.1) p.2).2.1 == 8)

/-- R312, Table 4-9, R120: a part of a destination left poisoned. -/
def poisonPiece (s : State) (a : Ag) (ea : Word) (n : Nat) : State :=
  if isLocal ea then tmemMark s (tmemKey a.tile (ea.toNat % 2 ^ 18)) n else
  match translate s a (vaOf ea) true with
  | (s1, 0, e, large) =>
    if !Pte.host e && homeDead s a.tile (Pte.tile e) then s1 else
    (match placeOf e large (vaOf ea) with
    | .host _ => s1
    | .vault key => (sectorsOf key n).foldl (fun s k => s.setSector k { s.sector k with cond := .poisoned }) s1
    | .codec _ frame o => s1.mapHome (frame / 2 ^ 28) (fun h => { h with cache := h.cache.map (fun b =>
        if b.off = frame then { b with poison := (partsOf o n false).foldl (fun m j => m ||| (1#4 <<< j)) b.poison } else b) }))
  | (s1, _, _, _) => s1

/-- R312, R170: a unit copied between ranges: its source is read, and its line then written as one event. -/
def copyUnit (s : State) (th k : Nat) (a : Active) (dst src : Word) (n : Nat) : State :=
  let g := agCmd s th a.cmd
  if agentHeld s g false [(src, n)] || agentHeld s g true [(dst, n)] then s else
  match readUnit s g src n with
  | (s1, (0, _), bs, bad) =>
    let (s2, a2) := if bad then (poisonOnce s1 th 1 k a src, { a with logged := true }) else (s1, a)
    let marks := if bad then poisonedParts s1 g dst src n else []
    match writePiece s2 g dst bs false with
    | (s3, 0) =>
      let s4 := marks.foldl (fun s p => poisonPiece s g (dst + wd p.1) p.2) s3
      moved (complete (setActive s4 th 1 k { a2 with pos := a.pos + n }) th 1 k { a2 with pos := a.pos + n } (copyCleat a.cmd) n) g.graph
    | (s3, 5) => holdOn s3 th 1 k a2 dst
    | (s3, c) => engineTrap s3 th 1 k c dst
  | (s1, (5, ea), _, _) => holdOn s1 th 1 k a ea
  | (s1, (c, ea), _, _) => engineTrap s1 th 1 k c ea

/-- R179: a copy or drain of slot th has written to output endpoint e: one bound to a fabric port is among those that its fences wait for. -/
def notePeer (s : State) (th e : Nat) : State :=
  if !EpF.toPort (epFrame (s.tile (tileOf th)) e) || (s.thread th).peerEps.contains e then s
  else s.mapThread th (fun t => { t with peerEps := t.peerEps ++ [e] })

/-- R312, mode 1: one beat handed to the endpoint. The element index of an error beat is free (A14): a copy has no elements. (DESIGN
CHOICE, A67) -/
def copyBeat (s : State) (th k : Nat) (a : Active) (src : Word) (n : Nat) : State :=
  let tile := tileOf th
  let e := a.cmd.va.toNat % 32
  if !((s.tile tile).ep e).q.isEmpty || agentHeld s (agCmd s th a.cmd) false [(src, n)] then s else
  match readUnit s (agCmd s th a.cmd) src n with
  | (s1, (5, ea), _, _) => holdOn s1 th 1 k a ea
  | (s1, (c, ea), bs, bad) =>
    if c ≠ 0 then engineTrap s1 th 1 k c ea else
    let (s2, a2) := if bad then (poisonOnce s1.draw th 1 k a src, { a with logged := true }) else (s1, a)
    let beat : Beat := if bad then errorBeat 2 (fld (Config.freeWord s1.drawn).toNat 31 0)
      else { data := .ofNat 256 (leNat bs), pred := predBytes n, kind := 0, tag := 0 }
    let s3 := notePeer (s2.mapTile tile (fun t => t.mapEp e (fun p => { p with q := p.q ++ [beat] }))) th e
    moved (complete (setActive s3 th 1 k { a2 with pos := a.pos + n }) th 1 k { a2 with pos := a.pos + n } (copyCleat a.cmd) n)
      (s.thread th).graph

/-- R312 to R315: the next unit of the copy that slot th's copy queue is performing. -/
def copyStep (s : State) (th k : Nat) (a : Active) : State :=
  let (bytes, rows, dst, src) := copyShape a.cmd a.row
  let left := bytes - a.pos
  if a.owed ≠ 0 then complete s th 1 k a (copyCleat a.cmd) 0
  else if left = 0 then
    if a.row + 1 < rows then setActive s th 1 k { a with row := a.row + 1, pos := 0 } else copyDone s th k a
  else if copyToStrand a.cmd then copyBeat s th k a (src + wd a.pos) (min 32 left)
  else copyUnit s th k a (dst + wd a.pos) (src + wd a.pos) (min left (64 - (dst + wd a.pos).toNat % 64))

/-- R364: the start check of a copy: a range issued at U that touches the handler window. -/
def copyStart (s : State) (th : Nat) (c : Cmd) : Check :=
  let (bytes, rows, _, _) := copyShape c 0
  let side (ea st : Word) : Word × Nat := match c.i with
    | .copy2 _ _ _ _ _ => (blockRange ea rows bytes (sw st)).getD (ea, 0)
    | _ => (ea, bytes)
  let d := side c.va c.vd
  let r := side c.vb c.ve
  firstOf [stopIf (!copyToStrand c && windowRefused s th c d.1 d.2) 6 d.1, stopIf (windowRefused s th c r.1 r.2) 6 r.1]

/-- R312, R396, COPY_LINE: the next unit of slot th's running copy. -/
def execCopyLine (th : Nat) (s : State) : Out :=
  .next (match activeAt s th 1 0 with
    | some a => if a.begun && !a.done && a.held.isNone && !slotStands s th then copyStep s th 0 a else s
    | none => s)

end Sys2Proof.Machine
end

