-- ==== Sys2Proof/Machine/Matrix.lean ====
section
/-! DEFINITION. Matrix commands (major 0x37, R334, R338 to R342) and the drain unit (R80, R83, R341, R474). -/

namespace Sys2Proof.Machine

/-! ### Issue -/

/-- R338, R317: the issue checks of an MRUN, in the order of its entry. The spec gives its SHAPE no TVAL. -/
def mrunChecks (d : Cmd) : Check :=
  firstOf [stopFree (runOperandBad d.va) 0x18, stopIf (d.vb != 0 && !(isLocal d.vb && addressOk d.vb 1)) 3 d.vb,
    stopIf (d.vb != 0 && d.vb.toNat % 64 != 0) 4 d.vb, stopIf (d.vc != 0 && !addressOk d.vc 16) 3 d.vc,
    stopIf (d.vc != 0 && d.vc.toNat % 16 != 0) 4 d.vc]

/-- R338, MRUN. -/
def execMrun (a b c : BitVec 5) (x y : BitVec 3) (s : State) : Out :=
  .next (
    let d := mkCmd s (.mrun a b c x y) a b c
    issue 3 ((readsSS a b).or (RegSet.s1 c)) d (mrunChecks d) s)
/-- R338, MRUN.ACC. -/
def execMrunAcc (a b c : BitVec 5) (x y : BitVec 3) (s : State) : Out :=
  .next (
    let d := mkCmd s (.mrunAcc a b c x y) a b c
    issue 3 ((readsSS a b).or (RegSet.s1 c)) d (mrunChecks d) s)
/-- R339, MZERO. -/
def execMzero (a : BitVec 5) (x y : BitVec 3) (s : State) : Out :=
  .next (
    let d := mkCmd s (.mzero a x y) a 0 0
    issue 3 (RegSet.s1 a) d (stopFree (runOperandBad d.va) 0x18) s)

/-- R340: bytes of a drained element. -/
def drainWidth (v : Word) : Nat := (drainType (fld v.toNat 20 18)).w
/-- R340: DST. -/
def drainToStrand (v : Word) : Bool := bit v.toNat 21
/-- R340: STRIDE. -/
def drainStride (v : Word) : Nat := fld v.toNat 63 32

/-- R107: the logical columns that a drainer drains: those of the region that its context has there, else all sixteen. -/
def drainCols (s : State) (tile pctx : Nat) : Nat :=
  match regionAt s tile pctx with
  | some g => (g.logicalCols.filter (fun c => c.1 == tileX tile)).length
  | none => 16

/-- R341: the drain endpoint of a context of a tile. -/
def drainEndpoint (c : Ctx) : Option Nat :=
  (pick 32 (fun e => let f := c.epF e; EpF.used f && EpF.out f && EpF.attach f == 1 && EpF.unit f == 1)).head?

/-- Table 5-6: PORT of a stream control block. -/
def scbPort (w : BitVec 1024) : Nat := fld w.toNat 28 27

/-- R157: the engine that has opened a PORT = 1 stream of a context at a tile. -/
def drainStream (t : Tile) (pctx : Nat) : Option Nat :=
  (pick 8 (fun e => EnF.used ((t.ctx pctx).enF e) && ((t.engine e).opened || (t.engine e).running) && scbPort (t.engine e).scb == 1)).head?

/-- R341: the issue checks of MDRAIN. (DEDUCED, A37) -/
def mdrainChecks (s : State) (d : Cmd) : Check :=
  let t := s.tile s.myTile
  let k := s.me.pctx.toNat
  let w := drainWidth d.va
  let out := drainToStrand d.va
  let len := fld d.va.toNat 17 9 * drainStride d.va + drainCols s s.myTile k * w
  firstOf [stopFree (fld d.va.toNat 31 23 != 0 || decide (4 < fld d.va.toNat 20 18) || (out && d.vb != 0)) 0x18,
    stopIf (!out && !addressOk d.vb 1) 3 d.vb, stopIf (!out && !addressOk d.vb len) 3 (d.vb + wd (len - 1)),
    stopIf (d.vc != 0 && !addressOk d.vc 16) 3 d.vc,
    stopIf (!out && d.vb.toNat % w != 0) 4 d.vb, stopFree (drainStride d.va % w != 0) 4,
    stopIf (d.vc != 0 && d.vc.toNat % 16 != 0) 4 d.vc,
    stopFree (out && (drainEndpoint (t.ctx k)).isNone && (drainStream t k).isNone) 6]

/-- R341, MDRAIN. -/
def execMdrain (a b c : BitVec 5) (x y : BitVec 3) (s : State) : Out :=
  .next (
    let d := mkCmd s (.mdrain a b c x y) a b c
    issue 3 ((readsSS a b).or (RegSet.s1 c)) d (mdrainChecks s d) s)

/-- R342, Table 11-8: whether a selector word has a bit set that its selector does not use. -/
def selectorBad (v : Word) : Bool :=
  let n := v.toNat
  let sel := n % 16
  decide (8 ≤ sel) ||
  (if sel = 1 ∨ sel = 2 then fld n 63 5 != 0
   else if sel = 5 then fld n 63 32 != 0 || fld n 27 25 != 0 || fld n 15 4 != 0
   else fld n 63 4 != 0)

/-- R342, MSTAT. -/
def execMstat (a b : BitVec 5) (x y : BitVec 3) (s : State) : Out :=
  .next (
    let d := mkCmd s (.mstat a b x y) a b 0
    issue 3 (RegSet.s1 b) d (stopFree (selectorBad d.vb) 0x18) s)

/-! ### MRUN at its start (R338) -/

/-- R249, R338: the formats latched at an MRUN's start. -/
def latchRun (s : State) (g : Region) : State :=
  let d := ((s.tile g.lead).plane g.pctx).desc
  let fe := feedEntry (s.tile g.lead) g.pctx
  let l : Latched := { n := .ofNat 2 (Desc.n d), pfmt := .ofNat 4 (Desc.fmt d), ffmt := .ofNat 4 fe.1, psc := .ofNat 5 (Desc.scale d),
                       fsc := .ofNat 5 fe.2 }
  g.tiles.foldl (fun s ti => s.mapTile ti (fun t => t.mapCtx g.pctx (fun c => { c with latched := some l }))) s

/-- R338, R364: the start checks of an MRUN. -/
def mrunStart (s : State) (th : Nat) (c : Cmd) : Check :=
  match ledRegion s th with
  | none => some (0x18, some (runTval s th (tileOf th) false))
  | some g =>
    let d := ((s.tile g.lead).plane g.pctx).desc
    let size := runCount c.va * recordBytes (Desc.fmt d) (Desc.n d)
    firstOf [runChecks s th g (fld c.va.toNat 8 0) (fld c.va.toNat 17 9),
      stopIf (c.vb != 0 && decide (2 ^ 18 < c.vb.toNat % 2 ^ 18 + size)) 3 c.vb,
      stopIf (c.vb != 0 && windowRefused s th c c.vb size) 6 c.vb]

/-! ### MZERO, MSTAT -/

/-- R339: whether the rows of an operand lie outside a drainer's window, or the tile is no drainer of its context's region. -/
def drainerBad (s : State) (th : Nat) (v : Word) : Bool :=
  let tile := tileOf th
  let k := (s.thread th).pctx.toNat
  let f := ((s.tile tile).ctx k).mpF
  match regionAt s tile k with
  | none => true
  | some g => !g.drainers.contains tile || decide (fld v.toNat 8 0 < MpF.accbase f) ||
      decide (MpF.accbase f + MpF.acccnt f ≤ fld v.toNat 8 0 + fld v.toNat 17 9)

/-- R108: whether a command that stands before the k-th of an M queue has yet to act on the store: an MRUN with a vector to be written, an
MDRAIN with a row to be delivered, an MZERO or MSTAT not performed. -/
def storeBefore (q : List Active) (k : Nat) : Bool := (q.take k).any (fun a => !a.done)

/-- R339: MZERO performed. -/
def mzeroPerform (s : State) (th k : Nat) (a : Active) : State :=
  let r0 := fld a.cmd.va.toNat 8 0
  let rows := (List.range (runCount a.cmd.va)).map (fun i => r0 + i)
  finish (s.mapTile (tileOf th) (fun t =>
    { t with acc := t.acc.filter (fun e => !rows.contains (e.1 / 16)), accPoison := t.accPoison.filter (fun e => !rows.contains (e / 16)),
             accBad := t.accBad.filter (fun e => !rows.contains (e / 16)) }))
    th 3 k a s.cycle.toNat

/-- R342, R108: whether a selector is one that only a drainer answers: these read what earlier commands leave at the store. -/
def drainerSelector (sel : Nat) : Bool := sel == 1 || sel == 2 || sel == 4 || sel == 5

/-- R342: the start check of MSTAT. -/
def mstatStart (s : State) (th : Nat) (c : Cmd) : Check :=
  match regionAt s (tileOf th) (s.thread th).pctx.toNat with
  | none => some (0x18, none)
  | some g => stopFree (drainerSelector (c.vb.toNat % 16) && !g.drainers.contains (tileOf th)) 0x18

/-- Table 11-8: the value of MSTAT, and the context with counters cleared where the selector asks for it. Latched fields that no
MRUN has latched yet, and a slot delivered as poison, are a free value (A14). -/
def mstatValue (s : State) (g : Region) (tile : Nat) (v : Word) : Word :=
  let c := (s.tile tile).ctx g.pctx
  let lead := (s.tile g.lead).ctx g.pctx
  match v.toNat % 16 with
  | 0 => g.shapeValue
  | 1 => wd (c.nans.toNat * 2 ^ 32 + c.ovfs.toNat)
  | 2 => c.inexact
  | 3 => lead.entered
  | 4 => c.drained
  | 5 =>
    if (s.tile tile).accPoison.contains (16 * fld v.toNat 24 16 + fld v.toNat 31 28) then Config.freeWord s.drawn
    else (s.tile tile).slot (fld v.toNat 24 16) (fld v.toNat 31 28)
  | 6 => match c.latched with
    | some l => wd (l.n.toNat * 2 ^ 18 + l.pfmt.toNat * 2 ^ 14 + l.ffmt.toNat * 2 ^ 10 + l.psc.toNat * 2 ^ 5 + l.fsc.toNat)
    | none => Config.freeWord s.drawn
  | _ => lead.errVecs

/-- R342: the counters that selectors 1 and 2 clear with sB[4]. -/
def clearCounters (v : Word) (c : Ctx) : Ctx :=
  if !bit v.toNat 4 then c
  else if v.toNat % 16 = 1 then { c with nans := 0, ovfs := 0 }
  else if v.toNat % 16 = 2 then { c with inexact := 0 } else c

/-- R342, R447: MSTAT performed; selector 5 reads its slot, and consumes its poison. (DEDUCED, A90) -/
def mstatPerform (s0 : State) (th k : Nat) (a : Active) : State :=
  let tile := tileOf th
  let n := a.cmd.vb.toNat
  let s := if n % 16 = 5 then accSense s0 (s0.thread th).graph tile (fld n 24 16) [fld n 31 28] else s0
  match regionAt s tile (s.thread th).pctx.toNat with
  | none => s
  | some g =>
    let v := mstatValue s g tile a.cmd.vb
    let poison := n % 16 == 5 && (s.tile tile).accPoison.contains (16 * fld n 24 16 + fld n 31 28)
    let s1 := if poison then poisonOnce s.draw th 3 k a (Config.freeWord (s.drawn + 1)) else s.draw
    finish (s1.draw.mapTile tile (fun t => t.mapCtx g.pctx (clearCounters a.cmd.vb))) th 3 k
      { a with value := v, logged := a.logged || poison } s.cycle.toNat

/-! ### MDRAIN (R341) -/

/-- R83: FP32 bits of 1. -/
def oneF32 : Nat := 0x3F800000

/-- R341, R83: a drain as it starts: the scales of the tile's registers, and the formats in force. -/
def drainBegin (s : State) (th : Nat) (a : Active) : Active :=
  let t := s.tile (tileOf th)
  let k := (s.thread th).pctx.toNat
  match (t.ctx k).latched with
  | some l => { a with value := wd ((t.scale l.fsc.toNat).toNat * 2 ^ 32 + (t.scale l.psc.toNat).toNat), mode := 16 * l.ffmt.toNat + l.pfmt.toNat }
  | none =>
    let d := (t.plane k).desc
    { a with value := wd (oneF32 * 2 ^ 32 + (t.scale (Desc.scale d)).toNat), mode := 16 * 16 + Desc.fmt d }

/-- R83: the scale of a started drain. -/
def drainScale (a : Active) : Val :=
  Val.mul (Fmt.f32.decode false (fld a.value.toNat 63 32)) (Fmt.f32.decode false (fld a.value.toNat 31 0))

/-- R474: the event counts of a context after some elements. -/
def countEvents (es : List DrainEvent) (c : Ctx) : Ctx :=
  let n (e : DrainEvent) : Nat := (es.filter (fun x => x == e)).length
  { c with nans := .ofNat 32 (min (2 ^ 32 - 1) (c.nans.toNat + n .nan)), ovfs := .ofNat 32 (min (2 ^ 32 - 1) (c.ovfs.toNat + n .saturated)),
           inexact := c.inexact + wd (n .inexact) }

/-- R341: the elements of row `row` from column `col`, at most n, up to and with the first NaN where that stops the drain. -/
def drainElems (t : Tile) (a : Active) (row col n : Nat) : List (Nat × DrainEvent × Bool) :=
  let int := intFormat (a.mode % 16)
  let all := (List.range n).map (fun i =>
    let (b, e) := drainSlot (fld a.cmd.va.toNat 20 18) int (Acc.ofWord (t.slot row (col + i))) (drainScale a) a.cmd.fz
    (b, e, t.accPoison.contains (16 * row + col + i)))
  if a.cmd.nan then
    match all.findIdx? (fun x => x.2.1 == .nan && !x.2.2) with
    | some j => all.take (j + 1)
    | none => all
  else all

/-- R72, R341: the end of a drain at an element that raises FP_NAN. With no latched feed format the format code of its first operand
is free (A14). (DEDUCED, A38) -/
def drainNan (s : State) (th k : Nat) (a : Active) (col : Nat) : State :=
  let tile := tileOf th
  let west := match regionAt s tile (s.thread th).pctx.toNat with
    | some g => (g.logicalCols.filter (fun c => decide (c.1 < tileX tile))).length
    | none => 0
  let feed := if 256 ≤ a.mode then (Config.freeWord s.drawn).toNat % 16 else a.mode / 16
  engineTrap (if 256 ≤ a.mode then s.draw else s) th 3 k 0x13 (nanTval (logX s th tile) (logY s th tile) feed (a.mode % 16) (west + col))

/-- R341: after some elements of a row have been accepted: their slots cleared, their events counted, the position and the
cleat advanced. An element delivered as poison counts by the bits of its slot (DESIGN CHOICE, A73). -/
def drainAccepted (s : State) (th k : Nat) (a : Active) (row col w m : Nat) (es : List (Nat × DrainEvent × Bool)) : State :=
  let tile := tileOf th
  let c := (s.thread th).pctx.toNat
  let n := es.length
  let clr := bit a.cmd.va.toNat 22
  let whole := decide (m ≤ col + n)
  let s1 := s.mapTile tile (fun t =>
    let t1 := if clr then (List.range n).foldl (fun t i => t.setSlot row (col + i) 0) t else t
    t1.mapCtx c (fun x => { countEvents (es.map (fun e => e.2.1)) x with
      drained := if whole then wd (a.row + 1) else x.drained, drain := x.drain.fire, sinkBeats := x.sinkBeats + 1,
      sinkErrs := if es.any (fun e => e.2.2) then x.sinkErrs + 1 else x.sinkErrs }))
  let a1 := if whole then { a with row := a.row + 1, pos := 0 } else { a with pos := col + n }
  let stops := a.cmd.nan && (es.getLast?.any (fun e => e.2.1 == .nan && !e.2.2))
  let s2 := moved (complete (setActive s1 th 3 k a1) th 3 k a1 a.cmd.vc (n * w)) (s.thread th).graph
  if stops && ((s.thread th).queue 3).active.length == ((s2.thread th).queue 3).active.length then drainNan s2 th k a (col + n - 1) else s2

/-- R341: the drain unit lacks a permit, a bank grant or an acceptance in this cycle. -/
def drainBlocked (s : State) (th : Nat) : State :=
  s.mapTile (tileOf th) (fun t => t.mapCtx (s.thread th).pctx.toNat (fun c => { c with drain := c.drain.noOutput 0 }))

/-- R447: the first poisoned slot that a drain consumes, recorded. (DEDUCED, A90) -/
def slotPoison (s : State) (th k : Nat) (a : Active) (addr : Word) (es : List (Nat × DrainEvent × Bool)) : State × Active :=
  if es.any (fun e => e.2.2) then (poisonOnce s th 3 k a addr, { a with logged := true }) else (s, a)

/-- R341, DST = 0: the next elements of a row, within one line, written as one event. -/
def drainLine_ (s0 : State) (th k : Nat) (a : Active) (row m w : Nat) : State :=
  let ea := a.cmd.vb + wd (a.row * drainStride a.cmd.va + a.pos * w)
  let n := min (m - a.pos) ((64 - ea.toNat % 64) / w)
  let s := accSense s0 (s0.thread th).graph (tileOf th) row ((List.range n).map (fun i => a.pos + i))
  let es := drainElems (s.tile (tileOf th)) a row a.pos n
  let bytes := es.flatMap (fun e => leBytes w e.1)
  let g := agCmd s th a.cmd
  let (s1, a1) := slotPoison s th k a ea es
  if agentHeld s g true [(ea, bytes.length)] then drainBlocked s th else
  match writePiece s1 g ea bytes false with
  | (s2, 0) =>
    let marks := (sectorParts ea bytes.length).filter (fun p =>
      es.zipIdx.any (fun (e, i) => e.2.2 && decide (i * w < p.1 + p.2) && decide (p.1 < i * w + w)))
    drainAccepted (marks.foldl (fun s p => poisonPiece s g (ea + wd p.1) p.2) s2) th k a1 row a.pos w m es
  | (s2, 5) => drainBlocked (holdOn s2 th 3 k a1 ea) th
  | (s2, c) => engineTrap s2 th 3 k c ea

/-- R341, R56, DST = 1: the next beat handed to the context's PORT = 1 stream, or to the drain endpoint; a stream that has its snapshot already
records it there. -/
def drainBeat (s0 : State) (th k : Nat) (a : Active) (row m w : Nat) : State :=
  let tile := tileOf th
  let n := min (m - a.pos) (32 / w)
  let s := accSense s0 (s0.thread th).graph tile row ((List.range n).map (fun i => a.pos + i))
  let t := s.tile tile
  let c := (s.thread th).pctx.toNat
  let es := drainElems t a row a.pos n
  let beat : Beat := if es.any (fun e => e.2.2) then errorBeat 2 (a.row * m + a.pos) else
    { data := .ofNat 256 (leNat (es.flatMap (fun e => leBytes w e.1))), pred := predBytes (es.length * w), kind := 0, tag := 0 }
  let (s1, a1) := slotPoison s th k a a.cmd.va es
  match drainStream t c with
  | some e =>
    if (t.engine e).drained then drainBlocked s th else
    let n := (s1.graph (s1.thread th).graph).openWave
    let late (x : Engine) : Engine := { x with caught := x.caught ++ [beat] }
    let s2 := if n.isNone || n == some (((s1.tile tile).ctx c).drainMark) then s1
      else s1.mapGraph (s1.thread th).graph (fun g => { g with pending := g.pending.map (fun p =>
        match Assoc.get? p.engines (8 * tile + e) with
        | some x => { p with engines := Assoc.set p.engines (8 * tile + e) (late x) }
        | none => p) })
    drainAccepted (s2.mapTile tile (fun t => t.mapEngine e (fun x => { x with out := some beat }))) th k a1 row a.pos w m es
  | none =>
    match drainEndpoint (t.ctx c) with
    | none => drainBlocked s th
    | some e =>
      if !(t.ep e).q.isEmpty then drainBlocked s th else
      drainAccepted (notePeer (s1.mapTile tile (fun t => t.mapEp e (fun p => { p with q := p.q ++ [beat] }))) th e) th k a1 row a.pos w m es

/-- R341, R342: the next line or beat of the k-th command of slot th's M queue, a running drain, whose rows delivered count from its first
turn. (DEDUCED, A37) -/
def drainStep (s0 : State) (th k : Nat) (a : Active) : State :=
  let s := if a.row = 0 ∧ a.pos = 0 then s0.mapTile (tileOf th) (fun t => t.mapCtx (s0.thread th).pctx.toNat (fun c => { c with drained := 0 })) else s0
  let row := fld a.cmd.va.toNat 8 0 + a.row
  let m := drainCols s (tileOf th) (s.thread th).pctx.toNat
  let w := drainWidth a.cmd.va
  if a.owed ≠ 0 then complete s th 3 k a a.cmd.vc 0
  else if a.row = runCount a.cmd.va then finish s th 3 k a s.cycle.toNat
  else if m = 0 then
    setActive (s.mapTile (tileOf th) (fun t => t.mapCtx (s.thread th).pctx.toNat (fun x => { x with drained := wd (a.row + 1) }))) th 3 k
      { a with row := a.row + 1 }
  else if drainToStrand a.cmd.va then drainBeat s th k a row m w else drainLine_ s th k a row m w

/-- R56, R383: whether a drain is held back: its graph is frozen, or the command belongs to the epoch after a marker that its
drain unit has not passed on. -/
def drainStopped (s : State) (th : Nat) (c : Cmd) : Bool :=
  let g := (s.thread th).graph
  !elementRuns s (tileOf th) g || ((s.tile (tileOf th)).ctx (s.thread th).pctx.toNat).drainFault || match (s.graph g).openWave with
    | some n =>
      let m := ((s.tile (tileOf th)).ctx (s.thread th).pctx.toNat).drainMark
      (c.wave == n && m != n) || cutStops s g m
    | none => false

/-- R341, DRAIN_DELIVER: slot th's running drain converts and delivers its next line or beat. -/
def execDrainDeliver (th : Nat) (s : State) : Out :=
  .next (
    let q := ((s.thread th).queue 3).active
    match q.findIdx? (fun a => match a.cmd.i with | .mdrain _ _ _ _ _ => a.begun && !a.done | _ => false) with
    | some k =>
      match q[k]? with
      | some a => if storeBefore q k || drainStopped s th a.cmd then s else if a.held.isSome then drainBlocked s th else drainStep s th k a
      | none => s
    | none => s)

/-- R364, R339: the start checks of MDRAIN. -/
def mdrainStart (s : State) (th : Nat) (c : Cmd) : Check :=
  let len := fld c.va.toNat 17 9 * drainStride c.va + drainCols s (tileOf th) (s.thread th).pctx.toNat * drainWidth c.va
  firstOf [stopFree (drainerBad s th c.va) 0x18, stopIf (!drainToStrand c.va && windowRefused s th c c.vb len) 6 c.vb]

/-- R338 to R342: the start check of a matrix command. -/
def matrixStart (s : State) (th : Nat) (c : Cmd) : Check :=
  match c.i with
  | .mrun _ _ _ _ _ => mrunStart s th c
  | .mrunAcc _ _ _ _ _ => mrunStart s th c
  | .mzero _ _ _ => stopFree (drainerBad s th c.va) 0x18
  | .mdrain _ _ _ _ _ => mdrainStart s th c
  | .mstat _ _ _ _ => mstatStart s th c
  | _ => none

/-! ### Migration (R398, R399) -/

/-- R398: the entry of its graph's region table whose rectangle a region covers. -/
def tableIndex (s : State) (g : Region) : Option Nat :=
  let x := s.graph g.graph
  x.minShapes.findIdx? (fun m => x.x + m.1 == g.x && x.y + m.2.1 == g.y && m.2.2.1 == g.w && m.2.2.2.1 == g.h)

/-- R398, Table 17-2: whether two entries of the region table of a graph stand in one replica group. -/
def inOneGroup (x : Graph) (i j : Nat) : Bool :=
  i != j && (List.range 8).any (fun n => let m := recDword x (6 + n); bit m i && bit m j)

/-- R398: whether an instruction is an MRUN. -/
def isRun (i : Instr) : Bool := match i with | .mrun _ _ _ _ _ => true | .mrunAcc _ _ _ _ _ => true | _ => false

/-- R398: whether a region is idle: in every context of its rectangle no MRUN is in progress or waits in its lead's M queue, and no migration
targets it. -/
def regionIdle (s : State) (g : Region) : Bool :=
  let here := s.regions.filter (fun r => r.x == g.x && r.y == g.y && r.w == g.w && r.h == g.h)
  here.all (fun r =>
    let q := (s.thread (4 * r.lead + r.pctx)).queue 3
    !q.active.any (fun a => isRun a.cmd.i && !a.done) && !q.waiting.any (fun c => isRun c.i)) &&
  !s.threads.any (fun t => (t.2.queue 3).active.any (fun a => !a.done && a.guest.any (fun k => here.any (fun r => r.x == k.1 && r.y == k.2.1 && r.pctx == k.2.2))))

/-- R399: whether another enabled context of a region's rectangle has an MRUN in progress. -/
def otherBusy (s : State) (g : Region) : Bool :=
  s.rects.any (fun q => g.onRect q && s.regions.any (fun r =>
    r.onRect q && r.pctx != g.pctx && q.enabled.getLsbD r.pctx && !(runsOf s r.lead r.pctx).isEmpty))

/-- R398, R399: whether region b is an idle replica of region a with its logical shape and its plane descriptor. (DEDUCED, A99) -/
def isReplica (s : State) (a b : Region) : Bool :=
  let x := s.graph a.graph
  let desc := ((s.tile a.lead).plane a.pctx).desc
  b.graph == a.graph && b.logicalRows.length == a.logicalRows.length && b.logicalCols.length == a.logicalCols.length &&
  (match tableIndex s a, tableIndex s b with | some i, some j => inOneGroup x i j | _, _ => false) &&
  b.tiles.all (fun ti => ((s.tile ti).plane b.pctx).desc == desc) && regionIdle s b

/-- R399: the replica to which an MRUN that starts on a region migrates: the first in region-table order. -/
def migratesTo (s : State) (a : Region) : Option Region :=
  let x := s.graph a.graph
  if !bit (recDword x 2) 61 || bit (ctxListDword s x.part 0) 63 || !otherBusy s a then none else
  (List.range x.minShapes.length).findSome? (fun j => (List.range 4).findSome? (fun k =>
    s.regions.find? (fun b => b.pctx == k && tableIndex s b == some j && isReplica s a b)))

/-- R399: whether a FEED stream for context k with a global window is open on stream engine e of a tile. -/
def feedsGlobal (t : Tile) (k e : Nat) : Bool :=
  let x := t.engine e
  let w := x.scb.toNat
  claimEn t e == some k && (x.opened || x.running) && Scb.port w == 0 && !isLocal (wd (Scb.wbase w))

/-- R399: the FEED streams of a region's feeders moved to the engines of the same numbers on the corresponding feeders of a replica, where
those are unclaimed: each record says which tile's engine it is now the state of. -/
def moveStreams (s : State) (a b : Region) : State :=
  ((a.feeders.zip b.feeders).flatMap (fun p => (List.range 8).map (fun e => (p, e)))).foldl (fun s x =>
    let ((from_, to_), e) := x
    let taken := (claimEn (s.tile to_) e).isSome || s.tiles.any (fun t => (t.2.engine e).host == some to_)
    if feedsGlobal (s.tile from_) a.pctx e && !taken then s.mapTile from_ (fun t => t.mapEngine e (fun y => { y with host := some to_ })) else s) s

/-- R338, R399: an MRUN begins: its formats are latched, and it runs on its region's array or migrates. -/
def runBegin (s : State) (th k : Nat) (a : Active) : State :=
  match ledRegion s th with
  | none => s
  | some g =>
    match migratesTo s g with
    | some b => setActive (latchRun (if a.cmd.vb = 0 then moveStreams s g b else s) g) th 3 k { a with guest := some (b.x, b.y, b.pctx) }
    | none => setActive (latchRun s g) th 3 k a

/-- R338, R341: a matrix command, its start checks passed, as it begins. -/
def matrixBegin (s : State) (th k : Nat) (a : Active) : State :=
  match a.cmd.i with
  | .mrun _ _ _ _ _ => runBegin s th k a
  | .mrunAcc _ _ _ _ _ => runBegin s th k a
  | .mdrain _ _ _ _ _ =>
    setActive s th 3 k (drainBegin s th a)
  | _ => setActive s th 3 k a

/-- R108, R342: a begun MSTAT: performed as it starts, or, where it reads what stands at the store, once every earlier command of its queue has
acted there. -/
def mstatTurn (s : State) (th k : Nat) (a : Active) : State :=
  if drainerSelector (a.cmd.vb.toNat % 16) && storeBefore ((s.thread th).queue 3).active k then s else mstatPerform s th k a

/-- R108, R339: the begun MZERO of slot th whose turn it is, performed: in a cycle after the reads of every queue, and before the vectors
that are written in it. -/
def mzeroTurn (s : State) (th : Nat) : State :=
  let t := s.thread th
  let q := (t.queue 3).active
  match q.findIdx? (fun a => match a.cmd.i with | .mzero _ _ _ => a.begun && !a.done | _ => false) with
  | some k =>
    match q[k]? with
    | some a => if t.run == .free || !elementRuns s (tileOf th) t.graph || storeBefore q k ||
        accWaits s (tileOf th) (fld a.cmd.va.toNat 8 0) (runCount a.cmd.va) then s else mzeroPerform s th k a
    | none => s
  | none => s

end Sys2Proof.Machine
end

