-- ==== Sys2Proof/Machine/Strand.lean ====
section
/-! DEFINITION. Strand access from a thread: SPUSH, SPOP and SPEEK with their control forms (major 0x39, R349 to R351, R43,
R46, R57). -/

namespace Sys2Proof.Machine

/-- R349: whether endpoint e (32 up: control) is one that the running slot may use in a direction. -/
def strandMine (s : State) (e : Nat) (out : Bool) : Bool :=
  let f := ((s.tile s.myTile).ctx s.me.pctx.toNat).epF e
  EpF.used f && EpF.out f == out && EpF.attach f == 0 && EpF.unit f == slotOf s.cur

/-- R349: the PROT check, with TVAL the endpoint as the instruction numbers it. -/
def strandCheck (s : State) (e : Nat) (out : Bool) : Option (Nat × Word) :=
  if strandMine s e out then none else some (6, wd (e % 32))

/-- R66, R350: the predicate register's bits at the words of the half h. -/
def halfPred (p : Word) (h : Nat) : BitVec 8 :=
  .ofNat 8 ((List.range 8).foldl (fun n j => n + if p.getLsbD (32 * h + 4 * j) then 2 ^ j else 0) 0)

/-- R46, Table 2-2: whether one more push of a strand exceeds a limit. -/
def pushFull (b : Bight) (e : Nat) : Bool := decide (64 ≤ b.pushes.length) || decide (16 ≤ (pushesTo b e).length)

/-- R40, R349, R350: a push of a beat that the reads give. -/
def pushForm (e : Nat) (rd : RegSet) (beat : Beat) (s : State) : State :=
  if s.me.notReady rd then s else
  match strandCheck s e true with
  | some (c, v) => raise s c v
  | none =>
    if pushFull s.me.bight e then raiseFree s 0x0A else
    s.mapMe (fun t => { t.next with bight := { t.bight.read rd with pushes := t.bight.pushes ++ [{ ep := e, beat := beat }] } })

/-- R350, SPUSH. -/
def execSpush (e b : BitVec 5) (h : Bool) (n : BitVec 3) (s : State) : Out :=
  let k : Nat := if h then 1 else 0
  .next (pushForm e.toNat ((RegSet.v1 b).or (RegSet.p1 n))
    { data := .ofNat 256 ((s.me.rv b).toNat / 2 ^ (256 * k)), pred := halfPred (s.me.rp n) k, kind := 0, tag := 0 } s)
/-- R350, SPUSH.C. -/
def execSpushC (e : BitVec 3) (b : BitVec 5) (s : State) : Out :=
  .next (pushForm (32 + e.toNat) (RegSet.s1 b)
    { data := (s.me.rs b).zeroExtend 256, pred := 0, kind := 0, tag := 0 } s)

/-- R43: the beat at the private head of an endpoint. The private head of a handler's bight starts at the committed head, whatever the
suspended bight has popped (DESIGN CHOICE, A76). -/
def privateHead (s : State) (e : Nat) : Option Beat :=
  ((s.tile s.myTile).ep e).q[Assoc.getD s.me.bight.pops e 0]?

/-- R43: one more tentative pop. -/
def Bight.pop (b : Bight) (e : Nat) : Bight := { b with pops := Assoc.set b.pops e (Assoc.getD b.pops e 0 + 1) }

/-- R349, R351, R57: a pop: `wr` the registers written, `put` what a beat writes, `empty` what SPEEK does without one (none for
SPOP, which waits). -/
def popForm (e : Nat) (wr : RegSet) (put : Beat → Thread → Thread) (empty : Option (Thread → Thread)) (s : State) : State :=
  if s.me.notReady wr then s else
  match strandCheck s e false with
  | some (c, v) => raise s c v
  | none =>
    match (s.me.bight.live.inter wr).first with
    | some v => raise s 9 v
    | none =>
      match privateHead s e with
      | some b =>
        if b.isMarker then meetMarker s (.ofNat 16 b.data.toNat) .spop
        else if 16 ≤ Assoc.getD s.me.bight.pops e 0 then raiseFree s 0x0A
        else s.mapMe (fun t => (put b { t with bight := (t.bight.wrote wr).pop e }).next)
      | none =>
        match empty with
        | some f => s.mapMe (fun t => (f { t with bight := t.bight.wrote wr }).next)
        | none => if 16 ≤ Assoc.getD s.me.bight.pops e 0 then raiseFree s 0x0A else waitAs .spop s

/-- R351: the predicate of a popped beat. -/
def beatPred (b : Beat) : Word :=
  wd ((List.range 8).foldl (fun n j => n + if b.pred.getLsbD j then 15 * 2 ^ (4 * j) else 0) 0 +
    b.kind.toNat * 2 ^ 32 + b.tag.toNat * 2 ^ 34)

/-- R351: what a data beat writes. -/
def putBeat (v : BitVec 5) (n : BitVec 3) (b : Beat) (t : Thread) : Thread := (t.wv v (b.data.zeroExtend 512)).wp n (beatPred b)
/-- R351: what a token writes. -/
def putToken (d : BitVec 5) (n : BitVec 3) (b : Beat) (t : Thread) : Thread := (t.ws d (b.data.truncate 64)).wp n (b.kind.zeroExtend 64)
/-- R351: what SPEEK writes without a beat. -/
def putNoBeat (v : BitVec 5) (n : BitVec 3) (t : Thread) : Thread := (t.wv v 0).wp n (wd (3 * 2 ^ 32))
/-- R351: what SPEEK.C writes without a token. -/
def putNoToken (d : BitVec 5) (n : BitVec 3) (t : Thread) : Thread := (t.ws d 0).wp n 3

/-- R351, SPOP. -/
def execSpop (e b : BitVec 5) (n : BitVec 3) (s : State) : Out :=
  .next (popForm e.toNat ((RegSet.v1 b).or (RegSet.p1 n)) (putBeat b n) none s)
/-- R351, SPOP.C. -/
def execSpopC (e : BitVec 3) (b : BitVec 5) (n : BitVec 3) (s : State) : Out :=
  .next (popForm (32 + e.toNat) ((RegSet.s1 b).or (RegSet.p1 n)) (putToken b n) none s)
/-- R351, SPEEK. -/
def execSpeek (e b : BitVec 5) (n : BitVec 3) (s : State) : Out :=
  .next (popForm e.toNat ((RegSet.v1 b).or (RegSet.p1 n)) (putBeat b n) (some (putNoBeat b n)) s)
/-- R351, SPEEK.C. -/
def execSpeekC (e : BitVec 3) (b : BitVec 5) (n : BitVec 3) (s : State) : Out :=
  .next (popForm (32 + e.toNat) ((RegSet.s1 b).or (RegSet.p1 n)) (putToken b n) (some (putNoToken b n)) s)

end Sys2Proof.Machine
end

