-- ==== Sys2Proof/Machine/Stream.lean ====
section
/-! DEFINITION. Stream control blocks (R149, R150, R152, R157) and the stream commands of majors 0x38 and 0x39 (R343 to R348). -/

namespace Sys2Proof.Machine

/-! ### The stream control block (R151 to R153, R157) -/

namespace Scb
/-- R151: the levels whose affine strides count. -/
def affine (w : Nat) : List Nat := if indmode w = 0 then [0, 1, 2, 3] else [0, 1, 2]
/-- R152: the least and greatest byte that an element can touch, counted from BASE. -/
def span (w : Nat) : Int × Int :=
  let term (l : Nat) : Int := if count w l = 0 then 0 else ((count w l : Int) - 1) * stride w l
  let lo := (affine w).foldl (fun n l => n + min 0 (term l)) 0
  let hi := (affine w).foldl (fun n l => n + max 0 (term l)) 0
  let ind : Int := if indmode w = 0 then 0 else ((ibound w - 1) * 2 ^ ishift w : Nat)
  (lo, hi + ind + ew w - 1)

/-- R153, R157: the beats of a bounded stream. -/
def beats (w : Nat) : Nat :=
  let n := count w 0 * count w 1 * count w 2 * count w 3
  let per := 32 / ew w
  if flushen w then
    let run := (List.range (flushlv w)).foldl (fun m l => m * count w l) 1
    if run = 0 then 0 else n / run * ((run + per - 1) / per)
  else (n + per - 1) / per

/-- R152: the ACCOP and FMT that FADD admits: type width. -/
def faddWidth (f : Nat) : Nat := match f with | 5 => 2 | 8 => 4 | 0xA => 8 | _ => 0

/-- R152: what an endpoint field must name: claimed by the context, attached to the engine, in the direction given. -/
def epOk (c : Ctx) (e k : Nat) (out : Bool) : Bool :=
  let f := c.epF k
  EpF.used f && EpF.out f == out && EpF.attach f == 2 && EpF.unit f == e

/-- R152: reserved values and operations that no target can perform; all stand in the first dword but the count words. -/
def reserved (w : Nat) : Check :=
  let isLocalW := wbase w / 2 ^ 60 == 0xE
  firstOf [stopIf (fld w 17 0 != 0 || accop w == 7 || indmode w == 3 || decide (0xA < fmt w)) 0x12 0,
    (List.range 4).findSome? (fun l => stopIf (dword w (0x10 + 16 * l) / 2 ^ 32 != 0) 0x12 (wd (0x10 + 16 * l))),
    stopIf (accop w != 0 && !write w) 0x12 0,
    stopIf (accop w == 6 && (faddWidth (fmt w) != ew w || (fmt w == 0xA && isLocalW))) 0x12 0]

/-- R152: the window checks; of BASE and WBASE the failing field is WBASE where an element lies below the window. (DESIGN CHOICE, A81) -/
def bounds (w : Nat) : Check :=
  let (lo, hi) := span w
  let b : Int := (base w : Nat)
  let wb := wd (wbase w)
  firstOf [stopIf (decide (b + lo < (wbase w : Nat))) 0x12 0x60,
    stopIf (decide (((wbase w + wlen w : Nat) : Int) ≤ b + hi)) 0x12 0x68,
    stopIf (!(spaceOf wb == 0 || spaceOf wb == 0xE) || !addressOk wb 0) 0x12 0x60,
    stopIf (!addressOk wb (wlen w)) 0x12 0x68]

/-- R152: alignment of BASE, the strides, the index scale, and the cleat, and then the cleat's address (R344, R10). -/
def aligns (w : Nat) : Check :=
  firstOf ([stopIf (base w % ew w != 0) 4 0x08] ++
    (List.range 4).map (fun l => stopIf (stride w l % (ew w : Int) != 0) 4 (wd (0x18 + 16 * l))) ++
    [stopIf (indmode w != 0 && 2 ^ ishift w % ew w != 0) 4 0,
     stopIf (cleat w != 0 && (cleat w).toNat % 16 != 0) 4 0x78, stopIf (cleat w != 0 && !addressOk (cleat w) 16) 3 0x78])

/-- R152: the endpoint fields. -/
def endpoints (c : Ctx) (e w : Nat) : Check :=
  stopIf ((port w == 2 && !epOk c e (ep w) (!write w)) || (indmode w == 2 && !epOk c e (iep w) false) ||
    (ownwait w && !epOk c e (ownin w) false) || (ownrel w && !epOk c e (ownout w) true)) 6 0

/-- R157: PORT against DIR and frame 16. -/
def portDir (c : Ctx) (w : Nat) : Check :=
  stopIf ((port w == 0 && (write w || !MpF.feeden c.mpF)) || (port w == 1 && (!write w || !MpF.drainen c.mpF))) 0x12 0

/-- R157: the buffer of PORT 3. -/
def ports (w : Nat) : Check :=
  let lb := wd (lbase w)
  stopIf (port w == 3 && (unbounded w || !(isLocal lb && addressOk lb (32 * beats w)) || lbase w % 32 != 0)) 0x12 0x70

/-- R364: the local ranges that a stream opened at U names: its window, its buffer and its index array. -/
def localRanges (w : Nat) : List (Word × Nat) :=
  [(wd (wbase w), wlen w)] ++ (if port w = 3 then [(wd (lbase w), 32 * beats w)] else []) ++
    if indmode w = 1 then [(wd (ibase w), indBytes w * count w 3)] else []
end Scb

/-- R152, R157, R364, R344: the checks of a control block, for engine e of a context of a tile: those of SCB_BOUNDS, ALIGN, ADDRESS and PROT,
each in the model's order. (DESIGN CHOICE, A81) -/
def scbChecks (s : State) (graph : Nat) (c : Ctx) (e : Nat) (lvl : Bool) (w : Nat) : Check :=
  firstOf [Scb.reserved w, Scb.portDir c w, Scb.bounds w, Scb.ports w, Scb.aligns w, Scb.endpoints c e w,
    (Scb.localRanges w).findSome? (fun r => stopIf (isLocal r.1 && decide (0 < r.2) && !lvl &&
      inWindow (s.graph graph).hwin (r.1.toNat % 2 ^ 18) r.2) 6 r.1)]

/-! ### Issue (R343, R344, R346 to R348) -/

/-- R343: engine e is claimed by the context of the running slot. -/
def engineCheck (s : State) (e : BitVec 3) : Check :=
  stopIf (!EnF.used (((s.tile s.myTile).ctx s.me.pctx.toNat).enF e.toNat)) 6 (e.zeroExtend 64)

/-- R344, SOPEN. -/
def execSopen (e : BitVec 3) (b : BitVec 5) (x y : BitVec 3) (s : State) : Out :=
  .next (
    let d := mkCmd s (.sopen e b x y) b 0 0
    issue 0 (RegSet.s1 b) d (firstOf [engineCheck s e, stopIf (!(isLocal d.va && addressOk d.va 1)) 3 d.va,
      stopIf (d.va.toNat % 128 != 0) 4 d.va]) s)
/-- R345, SSTART. -/
def execSstart (e x y : BitVec 3) (s : State) : Out :=
  .next (issue 0 .empty (mkCmd s (.sstart e x y) 0 0 0) (engineCheck s e) s)
/-- R345, SSTOP. -/
def execSstop (e x y : BitVec 3) (s : State) : Out :=
  .next (issue 0 .empty (mkCmd s (.sstop e x y) 0 0 0) (engineCheck s e) s)
/-- R347, SKNOT. -/
def execSknot (e x y : BitVec 3) (s : State) : Out :=
  .next (issue 0 .empty (mkCmd s (.sknot e x y) 0 0 0) (engineCheck s e) s)

/-- R348: the settings of a COILSET. -/
def coilLimit (v : Word) : Nat := fld v.toNat 15 0
/-- R348: whether settings are refused for a coil whose loaded limit is `loaded`. -/
def coilBad (v : Word) (loaded : Nat) (thresholds : Bool) : Bool :=
  fld v.toNat 63 29 != 0 || decide (coilLimit v < 48) || decide (loaded < coilLimit v) || !thresholds || (bit v.toNat 28 && decide (loaded < 48))

/-- R348, COILSET. -/
def execCoilset (e b : BitVec 5) (x y : BitVec 3) (s : State) : Out :=
  .next (
    let d := mkCmd s (.coilset e b x y) b 0 0
    let f := ((s.tile s.myTile).ctx s.me.pctx.toNat).epF e.toNat
    let hi := fld d.va.toNat 21 16
    let lo := fld d.va.toNat 27 22
    issue 0 (RegSet.s1 b) d (firstOf [stopIf (!(EpF.used f && !EpF.out f)) 6 (e.zeroExtend 64),
      stopFree (coilBad d.va (EpF.climit f) (decide (1 ≤ lo) && decide (lo < hi) && decide (hi ≤ EpF.q f))) 0x18]) s)
/-- R348, COILSET.ND. -/
def execCoilsetNd (n : BitVec 3) (b : BitVec 5) (x y : BitVec 3) (s : State) : Out :=
  .next (
    let d := mkCmd s (.coilsetNd n b x y) b 0 0
    let f := ((s.tile s.myTile).ctx s.me.pctx.toNat).ndF n.toNat
    issue 0 (RegSet.s1 b) d (firstOf [stopIf (!NdF.used f) 6 (n.zeroExtend 64),
      stopFree (coilBad d.va (NdF.nclimit f) (fld d.va.toNat 27 16 == 0)) 0x18]) s)

/-! ### Performing -/

/-- R149, R344: a control block opened on engine e for a slot of a context. -/
def openStream (x : Engine) (w : BitVec 1024) (slot : Nat) (lvl : Bool) (pc : PC) : Engine :=
  { Engine.idle with
    scb := w, opened := true, opener := slot, lvl := lvl, pc := pc, beats := x.beats, errors := x.errors, tlb := x.tlb,
    stall := x.stall, marker := x.marker, epoch := x.epoch, fault := x.fault, errSeen := x.errSeen }

/-- R345, R151, R158: the opened stream starts; an empty one has only its end before it. -/
def startStream (x : Engine) : Engine := { x with opened := false, running := true, ownWait := Scb.ownwait x.scb.toNat && Scb.write x.scb.toNat }

/-- R344: a started SOPEN. (DEDUCED, A40) -/
def sopenPerform (s : State) (th k : Nat) (a : Active) (e : Nat) : State :=
  let tile := tileOf th
  let t := s.thread th
  let x := (s.tile tile).engine e
  if x.running then s else
  let shut (s : State) : State := s.mapTile tile (fun t => t.mapEngine e (fun x => { x with opened := false }))
  if agentHeld s (agCmd s th a.cmd) false [(a.cmd.va, 128)] then s
  else if windowRefused s th a.cmd a.cmd.va 128 then engineTrap (shut s) th 0 k 6 a.cmd.va else
  match readRange s (agCmd s th a.cmd) a.cmd.va 128 with
  | (s1, 0, bs) =>
    let w := leNat bs
    match scbChecks s1 t.graph ((s1.tile tile).ctx t.pctx.toNat) e a.cmd.lvl w with
    | some f => startFails (shut s1) th 0 k f
    | none =>
      finish (s1.mapTile tile (fun t => t.mapEngine e (fun x => openStream x (.ofNat 1024 w) (slotOf th) a.cmd.lvl a.cmd.pc))) th 0 k a
        s.cycle.toNat
  | (s1, c, _) => engineTrap (poisonOnce (shut s1) th 0 k a a.cmd.va) th 0 k c a.cmd.va

/-- R320, R56: whether a stream command of the new epoch waits for its engine to take its snapshot. -/
def engineHolds (s : State) (th e : Nat) (c : Cmd) : Bool :=
  match (s.graph (s.thread th).graph).openWave with
  | some n => c.wave == n && ((s.tile (tileOf th)).engine e).epoch != n
  | none => false

/-- R345: a started SSTART. -/
def sstartPerform (s : State) (th k : Nat) (a : Active) (e : Nat) : State :=
  let tile := tileOf th
  if engineHolds s th e a.cmd then s else
  let x := (s.tile tile).engine e
  finish (if x.opened && !x.running then s.mapTile tile (fun t => t.mapEngine e (fun x => { startStream x with pc := a.cmd.pc })) else s)
    th 0 k a s.cycle.toNat

/-- R345: a started SSTOP. (DEDUCED, A42) -/
def sstopPerform (s : State) (th k : Nat) (a : Active) (e : Nat) : State :=
  let tile := tileOf th
  let x := (s.tile tile).engine e
  if !x.running then finish s th 0 k a s.cycle.toNat
  else if engineHolds s th e a.cmd then s
  else s.mapTile tile (fun t => t.mapEngine e (fun x => { x with ending := true }))

/-- R146, R348: the settings of a coil applied to an endpoint. -/
def coilEndpoint (v : Word) (p : Endpoint) : Endpoint :=
  { p with spill := bit v.toNat 28, lo := fld v.toNat 27 22, hi := fld v.toNat 21 16, climit := coilLimit v }

/-- R146, R348: the settings of a coil applied to a multicast node. -/
def coilNode (v : Word) (n : Node) : Node := { n with spill := bit v.toNat 28, climit := coilLimit v }

/-! ### Commands on a running stream (R345, R347, R348) -/

/-- R347: a started SKNOT: the partial beat is closed, or the lines are sent; it retires when they are accepted. -/
def sknotPerform (s : State) (th k : Nat) (a : Active) (e : Nat) : State :=
  let tile := tileOf th
  let x := (s.tile tile).engine e
  if !x.running then finish s th 0 k a s.cycle.toNat
  else if engineHolds s th e a.cmd then s
  else if Scb.write x.scb.toNat then
    let s1 := sendLines s tile e
    let y := (s1.tile tile).engine e
    if y.spills.isEmpty && y.coal.isEmpty && y.owed == 0 then finish s1 th 0 k a s.cycle.toNat else s1
  else if a.pos = 0 then
    let s1 := mapEng s tile e Engine.close
    let y := (s1.tile tile).engine e
    setActive s1 th 0 k { a with pos := 1 + y.beatNo + y.ready.length }
  else if a.pos ≤ 1 + x.beatNo then finish s th 0 k a s.cycle.toNat
  else s

/-- R344 to R348: a started command of queue S. -/
def streamPerform (s : State) (th k : Nat) (a : Active) : State :=
  let tile := tileOf th
  match a.cmd.i with
  | .sopen e _ _ _ => if engineHolds s th e.toNat a.cmd then s else sopenPerform s th k a e.toNat
  | .sstart e _ _ => sstartPerform s th k a e.toNat
  | .sstop e _ _ => sstopPerform s th k a e.toNat
  | .sknot e _ _ => sknotPerform s th k a e.toNat
  | .coilset e _ _ _ =>
    finish (s.mapTile tile (fun t => t.mapEp e.toNat (coilEndpoint a.cmd.va))) th 0 k a s.cycle.toNat
  | .coilsetNd n _ _ _ =>
    finish (s.mapTile tile (fun t => t.mapNode n.toNat (coilNode a.cmd.va))) th 0 k a s.cycle.toNat
  | _ => s

end Sys2Proof.Machine
end

