-- ==== Sys2Proof/Machine/Fabric.lean ====
section
/-! DEFINITION. The elements of the fabric as they fire: output endpoints, links, input endpoints with their coils, switch nodes,
clock gating and element faults (spec/05 R126 to R147, spec/21 R450, R453). -/

namespace Sys2Proof.Machine

/-! ### Output endpoints (R130, R131, R139, R142, R440) -/

/-- R417: whether the egress buffer of a port has room for one beat more; a marker has an entry of its own. -/
def egressRoom (s : State) (port : Nat) : Bool :=
  decide (32 * (((s.port port).egress.filter (fun x => !x.2.2.beat.isMarker)).length + 1) ≤ Config.egressBytes)

/-- R58, R418: an output endpoint bound to a fabric port is a sink: an error beat of code 0x02 or 0x03 that reaches it is recorded once in a
wave, and triggers. -/
def portSink (s : State) (g tile e : Nat) (b : Beat) : State :=
  if !b.harmful then s else
  let p := (s.tile tile).ep e
  (sinkErrors s g tile (if e < 32 then 0 else 1) (e % 32) (p.errSeen == some (waveNow s g)) [b]).mapTile tile (fun t =>
    t.mapEp e (fun p => { p with errSeen := some (waveNow s g) }))

/-- R417, R440, R453: a beat handed to the fabric port of an output endpoint. A marker closes the epoch before its wave. (DEDUCED, A87) -/
def portBeat (s0 : State) (g tile e f : Nat) (b : Beat) : State :=
  let s := portSink s0 g tile e b
  let x : Outgoing := { sp := EpF.destep f, src := some (40 * tile + e), beat := b }
  let p := (s.tile tile).ep e
  let now (s : State) : State := s.mapPort (EpF.port f) (fun q => { q with stream := q.stream ++ [x] })
  let held (n : BitVec 16) : State := s.mapPort (EpF.port f) (fun q => { q with egress := q.egress ++ [(g, n, x)] })
  if (s.port (EpF.port f)).dead.contains (40 * tile + e) then
    let s1 := s.mapPort (EpF.port f) (fun q => { q with absorbed := q.absorbed + 1 })
    if b.isMarker then s1 else { s1 with permits := s1.permits ++ [{ tile := tile, ep := e, due := s.cycle.toNat + 1 }] }
  else if !contained (s.graph g) then now s
  else if b.isMarker then held (.ofNat 16 b.data.toNat - 1)
  else if !egressRoom s (EpF.port f) then now (s.mapGraph g (fun x => { x with lapsed := true }))
  else held (if (s.graph g).openWave == some p.marker then p.marker else (s.graph g).lastWave)

/-- R130: a beat put into the mesh at an output endpoint, or handed to its fabric port. -/
def launchBeat (s : State) (g tile e f : Nat) (b : Beat) : State :=
  if EpF.toPort f then portBeat s g tile e f b
  else
    let (dt, de) := destOf s g e f
    let x : Flight := { srcTile := tile, srcEp := e, dstTile := dt, dstEp := de, ctx := (claimEp (s.tile tile) e).getD 0, at_ := tile,
                        due := s.cycle.toNat, beat := b }
    { s with flights := s.flights ++ [x] }

/-- R131, R56: an output endpoint sends the marker of the open wave: its snapshot holds the beats that wait before it. -/
def sendMarker (s : State) (g tile e f : Nat) (n : BitVec 16) (b : Beat) : State :=
  let p := (s.tile tile).ep e
  let before := p.q.takeWhile (fun b => !b.isMark n)
  let s1 := mapPending s g (fun x => { x with eps := Assoc.set x.eps (40 * tile + e) { p with q := before } })
  let s2 := s1.mapTile tile (fun t => t.mapEp e (fun p =>
    { p with q := p.q.filter (fun b => !b.isMark n), marker := n, rate := 0, idle := s.cycle.toNat, stall := p.stall.fire }))
  moved (launchBeat s2 g tile e f b) g

/-- R139: the beat as an output endpoint sends it. -/
def stamped (f : Nat) (p : Endpoint) (b : Beat) : Beat := if EpF.taggen f then { b with tag := p.stamp } else b

/-- Table 5-3, R131, R139, R142, R147, R417: output endpoint e of a tile in one cycle. A marker needs no permit and no room in an egress buffer,
and passes beats that have none (R130). -/
def fireOutput (s : State) (g tile e f : Nat) : State :=
  let p := (s.tile tile).ep e
  let set (h : Endpoint → Endpoint) : State := s.mapTile tile (fun t => t.mapEp e h)
  match p.q with
  | [] => s
  | b :: rest =>
    if p.gated then set (fun p => { p with gated := false, wakeAt := s.cycle.toNat + 4 })
    else if s.cycle.toNat < p.wakeAt then s
    else if b.isMarker then sendMarker s g tile e f (.ofNat 16 b.data.toNat) b
    else if 0 < p.permits && !(EpF.toPort f && EpF.attach f == 0 && contained (s.graph g) && !egressRoom s (EpF.port f)) then
      let s1 := set (fun p =>
        { p.counted [b] with
          q := rest, permits := p.permits - 1, stamp := if EpF.taggen f then p.stamp + 1 else p.stamp,
          idle := s.cycle.toNat, stall := p.stall.fire })
      moved (launchBeat s1 g tile e f (stamped f p b)) g
    else match p.q.find? Beat.isMarker with
      | some m => sendMarker s g tile e f (.ofNat 16 m.data.toNat) m
      | none => set (fun p => { p with stall := p.stall.noOutput 0 })

/-- R130, OUTPUT_ENDPOINT_FIRE. (DEDUCED, A71) -/
def execOutputEndpointFire (tile e : Nat) (s : State) : Out :=
  .next (match epGraph (s.tile tile) e with
    | none => s
    | some g =>
      let f := epFrame (s.tile tile) e
      let p := (s.tile tile).ep e
      if !EpF.out f || (feedsNode (s.tile tile) e).isSome || !elementRuns s tile g || p.fault || cutStops s g p.marker then s
      else fireOutput s g tile e f)

/-! ### Links (R134, R453) -/

/-- R453: a beat or marker absorbed before a retired router, and counted there: a beat's permit goes back. -/
def absorb (s : State) (f : Flight) : State :=
  let s1 := { s with flights := s.flights.erase f }.mapTile f.at_ (fun t => { t with absorbed := t.absorbed + 1 })
  if f.beat.isMarker then s1 else
  { s1 with permits := s1.permits ++ [{ tile := f.srcTile, ep := f.srcEp, due := s.cycle.toNat + 1 + latency f.at_ f.srcTile }] }

/-- R453: one error beat of code 0x03 at a consumer endpoint whose edge is lost, which comes over the column scan chain. Its element index is
free (A14). -/
def loseEdge (s : State) (x : Nat × Nat) : State :=
  match epGraph (s.tile x.1) x.2 with
  | none => s
  | some g =>
    let b := if x.2 < 32 then errorBeat 3 (fld (Config.freeWord s.drawn).toNat 31 0) else errorToken 3
    (arriveBeat s.draw g x.1 x.2 b).getD (s.draw.mapTile x.1 (fun t => t.mapEp x.2 (fun p => { p with q := p.q ++ [b], came := p.came + 1 })))

/-- R453: the edges of running graphs whose route crosses a retired router, as consumer tile and endpoint. -/
def lostEdges (s : State) : List (Nat × Nat) :=
  s.tiles.flatMap (fun (ti, t) => (pick 40 (fun e => let f := epFrame t e; EpF.used f && EpF.out f && !EpF.toPort f && (feedsNode t e).isNone)).filterMap
    (fun e => (epGraph t e).bind (fun g =>
      let d := destOf s g e (epFrame t e)
      if (s.graph g).st == .running && ti != d.1 && routeDead s ti d.1 then some d else none)))

/-- R453, R455, Table 18-5: the router of a tile retires: the consumers of the edges that now cross it get their error beats, and the running
graphs that stand there, or have such an edge, roll back. -/
def retireRouter (s : State) (tile : Nat) : State :=
  let s1 := s.mapTile tile (fun t => { t with routerRetired := true })
  let lost := (lostEdges s1).filter (fun d => !(lostEdges s).contains d)
  let here := (s.graphs.filter (fun (_, g) => g.st == .running && (graphTiles g).any (fun x => x.2.2 == tile))).map Prod.fst
  (here ++ lost.filterMap (fun d => epGraph (s.tile d.1) d.2)).eraseDups.foldl (fun s g => trigger s g 0x0B) (lost.foldl loseEdge s1)

/-- R455 kind 2, R456: a corrected flit into the router of a tile is counted; the third retires the router, with a record. -/
def routerEvent (s : State) (tile : Nat) : State :=
  match tallyHit s tile 2 0 with
  | some first => retireRouter (record (tallyDrop s tile 2 0) (Rec.plain 0x0B tile none 2 0 (wd first))) tile
  | none => tallyNote s tile 2 0

/-- R134: the place of a beat's edge in edge order: logical y and x of the producer, output endpoint, context; edges of two graphs that agree
in all four stand in the order of their tiles. (DESIGN CHOICE, A96) -/
def edgeOrder (s : State) (f : Flight) : Nat :=
  let g := s.graph (((s.tile f.srcTile).ctx f.ctx).graph.getD 0)
  ((((tileY f.srcTile - g.y) * 64 + (tileX f.srcTile - g.x)) * 64 + f.srcEp) * 4 + f.ctx) * 8192 + f.srcTile

/-- R134: whether a beat waits at the link from tile a to its neighbour m in this cycle. -/
def atLink (s : State) (a m : Nat) (f : Flight) : Bool :=
  f.at_ == a && f.at_ != f.dstTile && decide (f.due ≤ s.cycle.toNat) && (nextHop a f.dstTile).1 == m

/-- R134: the link from tile a to its neighbour m: the edge that it served last, and the beats that it has carried in this cycle. -/
def linkState (s : State) (a m : Nat) : Option Nat × Nat :=
  match Assoc.get? s.links (8192 * a + m) with
  | some (e, c, n) => (some e, if c = s.cycle.toNat then n else 0)
  | none => (none, 0)

/-- R134: the beat that the link from tile a to m serves next, as its place among the beats under way: the oldest of the first edge after the
one served last, in round robin, and no edge twice in a cycle. The four branches of Program B that share a link (R357) share its two beats a cycle
like any edges. (DEDUCED, A107) -/
def linkNext (s : State) (a m : Nat) : Option Nat :=
  let (last, n) := linkState s a m
  if 2 ≤ n then none else
  let here := s.flights.zipIdx.filter (fun x => atLink s a m x.1)
  let key (x : Flight × Nat) : Nat := edgeOrder s x.1
  let all := here.filter (fun x => n == 0 || some (key x) != last)
  let least (l : List (Flight × Nat)) : Option Nat :=
    (l.foldl (fun (acc : Option (Flight × Nat)) x => match acc with
      | some y => if key x < key y then some x else acc
      | none => some x) none).map Prod.snd
  (least (all.filter (fun x => last.any (fun e => decide (e < key x))))).or (least all)

/-- R134: the link from tile a to m has carried a beat in this cycle. -/
def linkServed (s : State) (a m : Nat) (f : Flight) : State :=
  { s with links := Assoc.set s.links (8192 * a + m) (edgeOrder s f, s.cycle.toNat, (linkState s a m).2 + 1) }

/-- R134, R455, MESH_HOP: the n-th beat under way is served by the link to the next tile of its route, if its turn has come. -/
def execMeshHop (n : Nat) (s : State) : Out :=
  .next (match s.flights[n]? with
    | none => s
    | some f =>
      if f.at_ = f.dstTile ∨ s.cycle.toNat < f.due then s else
      let (m, c) := nextHop f.at_ f.dstTile
      if (s.tile m).routerRetired || (s.tile f.at_).routerRetired then absorb s f
      else if linkNext s f.at_ m ≠ some n then s
      else
        let s1 := { linkServed s f.at_ m f with flights := s.flights.set n { f with at_ := m, due := s.cycle.toNat + c, flips := false } }
        if f.flips then routerEvent s1 m else s1)

/-! ### Input endpoints (R131, R143 to R145, R56) -/

/-- R144, R423: whether a beat of the same edge stands before the n-th beat under way: one that a full coil has refused. -/
def behind (s : State) (n : Nat) (f : Flight) : Bool := (s.flights.take n).any (fun x => x.srcTile == f.srcTile && x.srcEp == f.srcEp)

/-- R131, BEAT_ARRIVAL: the n-th beat on the links has reached its consumer's input endpoint. -/
def execBeatArrival (n : Nat) (s : State) : Out :=
  .next (match s.flights[n]? with
    | none => s
    | some f =>
      if f.at_ ≠ f.dstTile ∨ s.cycle.toNat < f.due ∨ behind s n f then s else
      let s1 := { s with flights := s.flights.eraseIdx n }
      match epGraph (s.tile f.dstTile) f.dstEp with
      | none => s1
      | some g =>
        if f.beat.isMarker then arriveMarker s1 g f.dstTile f.dstEp f.beat
        else match arriveBeat s1 g f.dstTile f.dstEp f.beat with
          | some s2 => returnPermits s2 f.dstTile f.dstEp
          | none => s)

/-- R131, PERMIT_RETURN: the n-th permit under way has reached its producer. -/
def execPermitReturn (n : Nat) (s : State) : Out :=
  .next (match s.permits[n]? with
    | none => s
    | some x =>
      if s.cycle.toNat < x.due then s else
      -- the permits of a stream engine are those that no beat and no permit under way stands for (R157)
      { s with permits := s.permits.eraseIdx n }.mapTile x.tile (fun t =>
        if (Assoc.get? t.eps x.ep).isSome then t.mapEp x.ep (fun p => { p with permits := p.permits + 1 }) else t))

/-- R144, R145, COIL_REFILL: the coil's head moves on-die. -/
def execCoilRefill (tile e : Nat) (s : State) : Out :=
  .next (match epGraph (s.tile tile) e with
    | none => s
    | some g =>
      let p := (s.tile tile).ep e
      let occ := waitingBeats p
      let on := (p.refill || decide (occ ≤ p.lo)) && decide (occ < p.hi)
      let held := (snapEntry s g tile e).isSome
      match p.coil with
      | [] => if p.refill then s.mapTile tile (fun t => t.mapEp e (fun p => { p with refill := false })) else s
      | b :: rest =>
        if p.fault || !on then (if p.refill then s.mapTile tile (fun t => t.mapEp e (fun p => { p with refill := false })) else s)
        else
          let j := p.lines.headD 0
          let (s1, b1) := coilRead (coilActivate s tile g j (!p.refill || j == EpF.cbase (epFrame (s.tile tile) e))) tile g j b
          s1.mapTile tile (fun t => t.mapEp e (fun p =>
            { p with q := p.q ++ [b1], coil := rest, lines := p.lines.drop 1, refill := !rest.isEmpty, spent := if held then p.spent + 1 else p.spent })))

/-! ### Switch nodes (R135 to R141, R362) -/

/-- The input of node m that node n feeds. -/
def inputFrom (t : Tile) (m n : Nat) : Nat :=
  let f := ndFrame t m
  ((pick (NdF.nin f) (fun j => NdF.inp f j == 32 + n)).head?).getD 0

/-- R142: whether the edge to input j of a node is gated. -/
def gatedInput (x : Node) (j : Nat) : Bool := (Assoc.get? x.gates j).any Gate.gated

/-- The head beat at input j of a node. (DEDUCED, A71) -/
def nodeHead (t : Tile) (n f j : Nat) : Option Beat :=
  if namesNode (NdF.inp f j) then (if gatedInput (t.node n) j then none else (Assoc.getD (t.node n).inq j []).head?)
  else
    let e := nodeEp (NdF.kind f) true (NdF.inp f j)
    if (t.ep e).gated then none else
    (t.ep e).q.head?.map (fun b => if EpF.out (epFrame t e) && !b.isMarker then stamped (epFrame t e) (t.ep e) b else b)

/-- R128: a beat that a node takes in counted, if it is an error beat. -/
def Node.takesIn (x : Node) (b : Option Beat) : Node := if b.any (fun b => b.kind == 2) then { x with errors := x.errors + 1 } else x

/-- R56: a beat that a node takes from an output endpoint of its own tile, after its snapshot and before that endpoint's marker, is recorded,
unless the snapshot of the endpoint holds it. -/
def recordTaken (s : State) (g tile e : Nat) : State :=
  let p := (s.tile tile).ep e
  match snapEntry s g tile e, p.q.head? with
  | some x, some b => if x.q.length ≤ (p.beats - x.beats).toNat then recordLate s g tile e b else s
  | _, _ => s

/-- The head beat of input j taken by a node. (DEDUCED, A71) -/
def nodeTake (s : State) (tile n f j : Nat) : State :=
  let now := s.cycle.toNat
  let s1 := s.mapTile tile (fun t => t.mapNode n (fun x => x.takesIn (nodeHead t n f j)))
  if namesNode (NdF.inp f j) then
    s1.mapTile tile (fun t => t.mapNode n (fun x =>
      { x with inq := Assoc.set x.inq j ((Assoc.getD x.inq j []).drop 1), gates := Assoc.set x.gates j { idle := now, wakeAt := 0, gated := false } }))
  else
    let e := nodeEp (NdF.kind f) true (NdF.inp f j)
    let fe := epFrame (s.tile tile) e
    let s2 := match epGraph (s.tile tile) e with
      | some g => if EpF.out fe then recordTaken s1 g tile e else s1
      | none => s1
    (takeHead s2 tile e).mapTile tile (fun t => t.mapEp e (fun p =>
      if EpF.out fe then { p with stamp := if EpF.taggen fe then p.stamp + 1 else p.stamp, idle := now } else p))

/-- R130: whether output j of a node can take a beat: its edge holds a permit, or the node it feeds has room at that input. -/
def nodeRoom (t : Tile) (n f j : Nat) : Bool :=
  let w := NdF.outp f j
  if namesNode w then ((Assoc.getD (t.node (w % 8)).inq (inputFrom t (w % 8) n) []).filter (fun b => !b.isMarker)).isEmpty
  else let p := t.ep (w % 32); decide (waitingBeats p < p.permits)

/-- A beat sent on output j of a node. A node that has its snapshot records what comes to another input before its marker. -/
def nodeSend (s : State) (g tile n f j : Nat) (b : Beat) : State :=
  let w := NdF.outp f j
  if namesNode w then
    let m := w % 8
    let i := inputFrom (s.tile tile) m n
    let late := match (s.graph g).openWave with
      | some v => ((s.tile tile).node m).marker == v && !((s.tile tile).node m).seen.contains i && !b.isMarker
      | none => false
    let add (x : Node) : Node := { x with inq := Assoc.set x.inq i (Assoc.getD x.inq i [] ++ [b]) }
    let s1 := s.mapTile tile (fun t => t.mapNode m add)
    if late then mapPending s1 g (fun y => { y with nodes := (y.nodes.map (fun e => if e.1 = 8 * tile + m then (e.1, add e.2) else e)) }) else s1
  else s.mapTile tile (fun t => t.mapEp (w % 32) (fun p => { p with q := p.q ++ [b] }))

/-- A node changed. -/
def mapNd (s : State) (tile n : Nat) (h : Node → Node) : State := s.mapTile tile (fun t => t.mapNode n h)

/-- R133: output j of a node lacks a permit in this cycle: the node's register says so, and that of the output endpoint at which the edge
begins. `waited`: an input of the node was missing too. (DEDUCED, A72) -/
def nodeBlocked (s : State) (tile n f j : Nat) (waited : Bool) : State :=
  let s1 := mapNd s tile n (fun x => { x with stall := (x.stall.counted waited).noOutput j })
  let w := NdF.outp f j
  if namesNode w || (feedsNode (s.tile tile) (w % 32)).isSome then s1
  else s1.mapTile tile (fun t => t.mapEp (w % 32) (fun p => if p.permits = 0 then { p with stall := p.stall.noOutput 0 } else p))

/-- The inputs of a node that hold a beat. -/
def nodeHeads (t : Tile) (n f : Nat) : List Nat :=
  pick (NdF.nin f) (fun j => (nodeHead t n f j).any (fun b => !b.isMarker))

/-- Table 5-4: whether some, but not all, inputs of a node hold a beat. (DEDUCED, A72) -/
def nodeWaits (t : Tile) (n f : Nat) : Bool :=
  !(nodeHeads t n f).isEmpty && decide ((nodeHeads t n f).length < NdF.nin f)

/-- A node in a cycle in which nothing comes in and nothing goes out. -/
def nodeIdle (s : State) (tile n : Nat) : State :=
  if ((s.tile tile).node n).stall.last == 0 then s else mapNd s tile n (fun x => { x with stall := x.stall.fire })

/-- The graph in which node n of a tile fires in this cycle, if it does. -/
def nodeRuns (s : State) (tile n kind : Nat) : Option (Nat × Nat) :=
  let t := s.tile tile
  match (claimNd t n).bind (fun k => (t.ctx k).graph) with
  | none => none
  | some g =>
    let f := ndFrame t n
    if NdF.kind f = kind ∧ elementRuns s tile g ∧ !(t.node n).fault ∧ !cutStops s g (t.node n).marker then some (g, f) else none

/-- R136: the path of a steer node for a beat. -/
def steerPath (f : Nat) (x : Node) (b : Beat) : Nat :=
  match NdF.sel f with
  | 0 => if b.kind = 2 then 0 else if b.pred.getLsbD (NdF.selpos f) then 1 else 0
  | 1 => if b.kind = 2 then 0 else fld b.data.toNat (NdF.selpos f + 1) (NdF.selpos f)
  | 2 => b.tag.toNat / 2 ^ NdF.selpos f % 4
  | _ => x.path

/-- R136: the run of a COUNT steer after a beat. -/
def steerCount (f : Nat) (x : Node) : Node :=
  if NdF.sel f ≠ 3 then x
  else if x.count + 1 < NdF.selcnt f then { x with count := x.count + 1 }
  else { x with count := 0, path := (x.path + 1) % NdF.nout f }

/-- R136, STEER_NODE_FIRE. The element index of the error beat that a steer makes of a data beat is free (A14). (DESIGN CHOICE, A67) -/
def execSteerNodeFire (tile n : Nat) (s : State) : Out :=
  .next (match nodeRuns s tile n 1 with
    | none => s
    | some (g, f) =>
      match nodeHead (s.tile tile) n f 0 with
      | none => nodeIdle s tile n
      | some b =>
        if b.isMarker then nodeIdle s tile n else
        let p := steerPath f ((s.tile tile).node n) b
        let bad := decide (NdF.nout f ≤ p)
        let j := if bad then 0 else p
        if !nodeRoom (s.tile tile) n f j then nodeBlocked s tile n f j false else
        let b1 : Beat := if bad then { errorBeat 5 (fld (Config.freeWord s.drawn).toNat 31 0) with tag := b.tag } else b
        let s1 := nodeTake (if bad then s.draw else s) tile n f 0
        moved (nodeSend (mapNd s1 tile n (fun x => { steerCount f x with stall := x.stall.fire })) g tile n f j b1) g)

/-- R137: the inputs of a merge in round robin, starting after the one taken last. -/
def robin (nin last : Nat) : List Nat := (List.range nin).map (fun j => (last + 1 + j) % nin)

/-- R137, MERGE_BY_ARRIVAL_FIRE. -/
def execMergeByArrivalFire (tile n : Nat) (s : State) : Out :=
  .next (match nodeRuns s tile n 2 with
    | none => s
    | some (g, f) =>
      let t := s.tile tile
      let real (j : Nat) : Option (Nat × Beat) := match nodeHead t n f j with
        | some b => if b.isMarker then none else some (j, b)
        | none => none
      let waits := nodeWaits t n f
      match (robin (NdF.nin f) (t.node n).last).findSome? real with
      | none => nodeIdle s tile n
      | some (j, b) =>
        if !nodeRoom t n f 0 then nodeBlocked s tile n f 0 waits else
        moved (nodeSend (mapNd (nodeTake s tile n f j) tile n (fun x =>
          { x with last := j, stall := (x.stall.counted waits).fire })) g tile n f 0 b) g)

/-- R138: the heads that a tag merge accepts in this cycle; a second beat of a held tag faults it. -/
def mergeAccept (tile n f : Nat) (s : State) (j : Nat) : State :=
  let t := s.tile tile
  let x := t.node n
  match nodeHead t n f j with
  | none => s
  | some b =>
    if b.isMarker || x.fault || decide (NdF.rwin f ≤ (b.tag - x.next).toNat) then s
    else if x.held.any (fun h => h.tag == b.tag) then post (mapNd s tile n (fun x => { x with fault := true })) (.elementFault tile 2 n 1)
    else mapNd (nodeTake s tile n f j) tile n (fun x => { x with held := x.held ++ [b] })

/-- R138, MERGE_BY_TAG_FIRE. -/
def execMergeByTagFire (tile n : Nat) (s : State) : Out :=
  .next (match nodeRuns s tile n 3 with
    | none => s
    | some (g, f) =>
      let waits := nodeWaits (s.tile tile) n f
      let missing := ((pick (NdF.nin f) (fun j => !(nodeHeads (s.tile tile) n f).contains j)).head?).getD 0
      let s1 := (List.range (NdF.nin f)).foldl (mergeAccept tile n f) s
      let x := (s1.tile tile).node n
      if x.fault then s1 else
      match x.held.find? (fun b => b.tag == x.next) with
      | none =>
        if waits then mapNd s1 tile n (fun x => { x with stall := x.stall.noInput missing true }) else nodeIdle s1 tile n
      | some b =>
        if !nodeRoom (s1.tile tile) n f 0 then nodeBlocked s1 tile n f 0 waits else
        moved (nodeSend (mapNd s1 tile n (fun x =>
          { x with held := x.held.erase b, next := x.next + 1, stall := (x.stall.counted waits).fire })) g tile n f 0 b) g)

/-- R132: the beat buffers of a multicast node. -/
def nodeBuffers (f : Nat) : Nat := (List.range (NdF.nout f)).foldl (fun m b => max m (NdF.win f b)) 0

/-- R146: whether a multicast node spills: by its setting, or as long as its coil holds a beat. -/
def Node.spills (f : Nat) (x : Node) : Bool := x.spill || decide (nodeBuffers f < x.held.length)

/-- R140: the window of branch b of a multicast node. -/
def branchWindow (f : Nat) (x : Node) (b : Nat) : Nat := if x.spills f then x.climit - x.spent else NdF.win f b

/-- R143: the coil-area line of the k-th beat that a multicast node has taken since load. -/
def nodeLine (f k : Nat) : Nat := NdF.ncbase f + k % (NdF.nclimit f + 1)

/-- R140, R143: a beat taken by a multicast node: held on the die, or written to its coil where its buffers are full. -/
def holdTaken (s : State) (g tile n f : Nat) (b : Beat) : State :=
  let x := (s.tile tile).node n
  let j := nodeLine f x.taken
  let s1 := if x.held.length < nodeBuffers f then s else
    coilActivate (coilWrite s tile g j b) tile g j (x.held.length == nodeBuffers f || j == NdF.ncbase f)
  mapNd s1 tile n (fun x => { x with held := x.held ++ [b], taken := x.taken + 1, stall := x.stall.fire })

/-- R143, R362: the i-th held beat of a multicast node, beyond its buffers, read from its coil: once, for the first branch that accepts it or as it
moves on-die. -/
def nodeRefill (g tile n f : Nat) (s : State) (i : Nat) : State :=
  let x := (s.tile tile).node n
  let k := x.taken - x.held.length + i
  match x.held[i]? with
  | none => s
  | some b =>
    if i < nodeBuffers f || (List.range (NdF.nout f)).any (fun j => decide (k < Assoc.getD x.accepted j 0)) then s else
    let (s1, b1) := coilRead (coilActivate s tile g (nodeLine f k) true) tile g (nodeLine f k) b
    mapNd s1 tile n (fun x => { x with held := x.held.set i b1 })

/-- R140, R357: branch b of a multicast node accepts its oldest undelivered held beat. -/
def branchFire (g tile n f : Nat) (s0 : State) (b : Nat) : State :=
  let y := (s0.tile tile).node n
  let a := Assoc.getD y.accepted b 0
  let i := a - (y.taken - y.held.length)
  if !nodeRoom (s0.tile tile) n f b then s0 else
  let s := nodeRefill g tile n f s0 i
  match ((s.tile tile).node n).held[i]? with
  | none => s
  | some h =>
    moved (nodeSend (mapNd s tile n (fun x => { x with accepted := Assoc.set x.accepted b (a + 1), stall := x.stall.fire })) g tile n f b h) g

/-- R133, R140: the branch that held a multicast node in this cycle: one that the windows keep the head beat from, or one with a beat to
accept and no permit; `t1`: the tile once the node has taken its beat. (DEDUCED, A72) -/
def branchHolds (t t1 : Tile) (n f : Nat) : Option Nat :=
  let x := t.node n
  let head := (nodeHead t n f 0).any (fun b => !b.isMarker)
  (pick (NdF.nout f) (fun b => head && decide (branchWindow f x b ≤ x.taken - Assoc.getD x.accepted b 0) ||
    decide (Assoc.getD x.accepted b 0 < (t1.node n).taken) && !nodeRoom t1 n f b)).head?

/-- R140: the held beats of a multicast node that every branch has accepted. -/
def releasable (f : Nat) (x : Node) : Nat :=
  (List.range (NdF.nout f)).foldl (fun m b => min m (Assoc.getD x.accepted b 0)) x.taken - (x.taken - x.held.length)

/-- R140, R145: held beats that every branch has accepted are released. -/
def releaseHeld (f : Nat) (saved : Bool) (x : Node) : Node :=
  let k := releasable f x
  { x with held := x.held.drop k, spent := if saved && x.spills f then x.spent + min k (x.held.length - nodeBuffers f) else x.spent }

/-- R357, MULTICAST_FIRE: the windows are tested with the counts at the start of the cycle; one beat is taken; then the branches
that hold permits accept. -/
def execMulticastFire (tile n : Nat) (s : State) : Out :=
  .next (match nodeRuns s tile n 4 with
    | none => s
    | some (g, f) =>
      let x := (s.tile tile).node n
      let admits := (List.range (NdF.nout f)).all (fun b => decide (x.taken - Assoc.getD x.accepted b 0 < branchWindow f x b))
      let s1 := match nodeHead (s.tile tile) n f 0 with
        | some b => if b.isMarker || !admits then s else moved (holdTaken (nodeTake s tile n f 0) g tile n f b) g
        | none => s
      let s2 := match branchHolds (s.tile tile) (s1.tile tile) n f with
        | some b => nodeBlocked ((List.range (NdF.nout f)).foldl (branchFire g tile n f) s1) tile n f b false
        | none => (List.range (NdF.nout f)).foldl (branchFire g tile n f) (nodeIdle s1 tile n)
      let saved := (s2.graph g).pending.any (fun p => (Assoc.get? p.nodes (8 * tile + n)).isSome)
      let y := (s2.tile tile).node n
      if releasable f y = 0 then s2 else
      let on := (List.range y.held.length).filter (fun i => decide (i < nodeBuffers f + releasable f y))
      mapNd (on.foldl (nodeRefill g tile n f) s2) tile n (releaseHeld f saved))

/-- R141: the beat of a token. -/
def replicated (f : Nat) (b : Beat) : Beat :=
  let v := b.data.toNat % 2 ^ 64
  if b.kind = 2 then { data := .ofNat 256 v, pred := 0, kind := 2, tag := b.tag }
  else if NdF.repmode f = 0 then
    { data := .ofNat 256 (v * (1 + 2 ^ 64 + 2 ^ 128 + 2 ^ 192)), pred := 0xFF, kind := 0, tag := b.tag }
  else
    let l := NdF.replane f
    { data := .ofNat 256 (v * 2 ^ (64 * l)), pred := .ofNat 8 (3 * 2 ^ (2 * l)), kind := 0, tag := b.tag }

/-- R141, REPLICATE_FIRE. -/
def execReplicateFire (tile n : Nat) (s : State) : Out :=
  .next (match nodeRuns s tile n 5 with
    | none => s
    | some (g, f) =>
      match nodeHead (s.tile tile) n f 0 with
      | none => nodeIdle s tile n
      | some b =>
        if b.isMarker then nodeIdle s tile n
        else if b.kind = 3 then post (mapNd s tile n (fun x => { x with fault := true })) (.elementFault tile 2 n 3)
        else if !nodeRoom (s.tile tile) n f 0 then nodeBlocked s tile n f 0 false
        else moved (nodeSend (mapNd (nodeTake s tile n f 0) tile n (fun x => { x with stall := x.stall.fire })) g tile n f 0 (replicated f b)) g)

/-! ### Clock gating, faults (R142, R450) -/

/-- R142: the gating of an edge that ends at a node, after a cycle: gated after 256 cycles with no beat; the first beat that then waits
wakes it, to be taken 4 cycles later. -/
def Gate.next (x : Gate) (now : Nat) (waits : Bool) : Gate :=
  if !waits then (if decide (x.idle + 256 ≤ now) then { x with gated := true, wakeAt := 0 } else x)
  else if !x.gated then x
  else if x.wakeAt = 0 then { x with wakeAt := now + 4 }
  else if x.wakeAt ≤ now + 1 then { x with gated := false, idle := now }
  else x

/-- R142, CLOCK_GATE: an edge that has carried no beat for 256 cycles: that of an output endpoint, or, by 40 + 8 * node + input, the one from
another node to a node. -/
def execClockGate (tile e : Nat) (s : State) : Out :=
  .next (
    let now := s.cycle.toNat
    if 40 ≤ e then
      let n := (e - 40) / 8
      let i := (e - 40) % 8
      let x := (s.tile tile).node n
      match Assoc.get? x.gates i with
      | none => s
      | some y =>
        let z := y.next now (!(Assoc.getD x.inq i []).isEmpty)
        if (claimNd (s.tile tile) n).isNone || z == y then s else mapNd s tile n (fun x => { x with gates := Assoc.set x.gates i z })
    else
    let p := (s.tile tile).ep e
    if (epGraph (s.tile tile) e).isNone || !EpF.out (epFrame (s.tile tile) e) then s
    else if p.q.isEmpty && decide (p.idle + 256 ≤ now) then
      s.mapTile tile (fun t => t.mapEp e (fun p => { p with gated := true, wakeAt := 0 }))
    else if p.gated && (feedsNode (s.tile tile) e).isSome then
      let z := ({ idle := p.idle, wakeAt := p.wakeAt, gated := true } : Gate).next now (!p.q.isEmpty)
      s.mapTile tile (fun t => t.mapEp e (fun p => { p with gated := z.gated, wakeAt := z.wakeAt, idle := z.idle }))
    else s)

/-- Table 5-8: the frame index of a fabric element, by Table 21-1's UKIND: 0 data endpoint, 1 control endpoint, 2 node, 3 stream
engine, else the memory-port frame. -/
def elementFrame (kind unit : Nat) : Nat :=
  match kind with | 0 => 24 + unit | 1 => 56 + unit | 2 => 64 + unit | 3 => 72 + unit | _ => 16

/-- The context that holds a fabric element; the feed port and the drain unit are named by their context. -/
def elementCtx (t : Tile) (kind unit : Nat) : Option Nat :=
  match kind with
  | 0 => claimEp t unit
  | 1 => claimEp t (32 + unit)
  | 2 => claimNd t unit
  | 3 => claimEn t unit
  | _ => if (t.ctx unit).graph.isSome then some (unit % 4) else none

/-- Table 21-2, class 0x06: the beats that wait at an element's inputs, and those held inside. -/
def elementBeats (t : Tile) (k kind unit : Nat) : Nat × Nat :=
  let at_ (es : List Nat) : Nat := es.foldl (fun n e => n + ((t.ep e).q ++ (t.ep e).coil).length) 0
  match kind with
  | 0 => (((t.ep unit).q ++ (t.ep unit).coil).length, 0)
  | 1 => (((t.ep (32 + unit)).q ++ (t.ep (32 + unit)).coil).length, 0)
  | 2 => (at_ (nodeInputs t k unit) + (t.node unit).inq.foldl (fun n e => n + e.2.length) 0, (t.node unit).held.length)
  | 3 =>
    let x := t.engine unit
    (at_ (inputsOf t k 2 unit), x.unwritten + x.ready.length + (if x.part.isEmpty then 0 else 1) + (if x.out.isSome then 1 else 0) + x.caught.length)
  | 4 => ((t.ep (MpF.feedep (t.ctx k).mpF)).q.length, (t.ctx k).recBuf.length)
  | _ => (0, 0)

/-- R450: an element marked as faulted: it stops firing. -/
def Tile.faulted (t : Tile) (kind unit : Nat) : Tile :=
  match kind with
  | 0 => t.mapEp unit (fun p => { p with fault := true })
  | 1 => t.mapEp (32 + unit) (fun p => { p with fault := true })
  | 2 => t.mapNode unit (fun x => { x with fault := true })
  | 3 => t.mapEngine unit (fun x => { x with fault := true })
  | 4 => t.mapCtx unit (fun c => { c with feedFault := true })
  | _ => t.mapCtx unit (fun c => { c with drainFault := true })

/-- R450, ELEMENT_FAULT: a fabric element of a tile faults: it stops firing, a record of class 0x06 names it, and the fault acts as
a rollback trigger. -/
def execElementFault (tile kind unit code : Nat) (s : State) : Out :=
  .next (
    let t := s.tile tile
    match elementCtx t kind unit with
    | none => s
    | some k =>
      let g := ((t.ctx k).graph).getD 0
      let i := elementFrame kind unit
      let (w, h) := elementBeats t k kind unit
      let addr := tileX tile * 2 ^ 26 + tileY tile * 2 ^ 19 + k * 2 ^ 17 + frameKind i * 2 ^ 15 + i * 2 ^ 8
      let s1 := s.mapTile tile (fun t => t.faulted kind unit)
      trigger (record s1 { Rec.plain 6 tile (some g) code (wd addr) (wd (w * 2 ^ 32 + h)) with
        ukind := kind, unit := unit, ctx := (t.ctx k).lctx }) g 6)

end Sys2Proof.Machine
end

