-- ==== Sys2Proof/Machine/Launch.lean ====
section
/-! DEFINITION. Dispatcher queues and their descriptors (R385 to R387, Table 17-1), and LAUNCH (R352, R353). -/

namespace Sys2Proof.Machine

/-! ### Queues (R385) -/

/-- Table 17-1: a queue descriptor. -/
structure QDesc where
  ring   : Nat
  en     : Bool
  prod   : Bool
  ctxi   : Nat
  byp    : Nat
  prio   : Nat
  log2n  : Nat
  tail   : Nat
  head   : Nat
  bypcnt : Nat
  admits : Nat
  fails  : Nat
  deriving DecidableEq, Repr

/-- Table 17-1, R385, R395: the descriptor of queue q as the dispatcher last read it, with the fields that are its own. -/
def queueDesc (s : State) (part q : Nat) : QDesc :=
  let p := s.part part
  let n := (Assoc.getD p.queues q 0).toNat
  let c := Assoc.getD p.counts q (0, 0, 0)
  let d (i : Nat) : Nat := fld n (64 * i + 63) (64 * i)
  { ring := d 0, en := bit (d 1) 63, prod := bit (d 1) 62, ctxi := fld (d 1) 21 16, byp := fld (d 1) 15 12, prio := fld (d 1) 11 8,
    log2n := fld (d 1) 4 0, tail := fld (d 2) 31 0, head := c.1, bypcnt := Assoc.getD p.bypass q 0, admits := c.2.1, fails := c.2.2 }

/-- Table 17-1: records enqueued and not yet taken, modulo 2^32. -/
def QDesc.count (d : QDesc) : Nat := (d.tail + 2 ^ 32 - d.head) % 2 ^ 32
/-- Table 17-1: the queue is full. -/
def QDesc.full (d : QDesc) : Bool := d.count == 2 ^ d.log2n
/-- Table 17-1: the address of record i of the ring. -/
def QDesc.slot (d : QDesc) (i : Nat) : Word := wd (d.ring + 256 * (i % 2 ^ d.log2n))

/-- R476, Table 17-1: a dword of a queue descriptor written by the dispatcher. -/
def queueWrite (s : State) (part q off v : Nat) : State :=
  sysWriteOrDrop s part 0 4 (queueAt s part q + wd off) (leBytes 8 v)

/-- Table 17-4: whether entry i of a partition's context list is in use. -/
def entryValid (s : State) (part i : Nat) : Bool := bit (ctxListDword s part (0x80 + 16 * i)) 63

/-- R371: the partition to which a queue belongs. -/
def queueOwner (s : State) (q : Nat) : Option Nat := (pick 16 (fun p => (s.part p).exists_ && (s.part p).qmask.getLsbD q)).head?

/-- R390: the age of a record slot: the time at which the dispatcher first read it as enqueued. -/
def noteAge (q : Nat) (now : Nat) (s : State) (part i : Nat) : State :=
  let k := 2 ^ 32 * q + i % 2 ^ 32
  s.mapPart part (fun p => { p with ages := if (Assoc.get? p.ages k).isSome then p.ages else Assoc.set p.ages k now })

/-- R386, R393, R395, QUEUE_TAIL_WRITE: the dispatcher of the queue's partition reads the descriptor, TAIL with it, and its entry. -/
def execQueueTailWrite (q : Nat) (s0 : State) : Out :=
  .next (match queueOwner s0 q with
    | none => s0
    | some part =>
      let s := readQueue s0 part q
      let d := queueDesc s part q
      let s1 := (List.range (min d.count (2 ^ d.log2n))).foldl (fun s i => noteAge q s.cycle.toNat s part (d.head + i)) s
      s1.mapPart part (fun p => { p with evalDue := true }))

/-! ### LAUNCH (R352, R387) -/

/-- R352: the issue checks of LAUNCH. -/
def launchChecks (s : State) (d : Cmd) : Check :=
  let part := graphPart s.me.graph
  firstOf [stopIf (!addressOk d.vb 256) 3 d.vb, stopIf (d.vb.toNat % 64 != 0) 4 d.vb,
    stopIf (decide (255 < d.vc.toNat) || !(s.part part).qmask.getLsbD d.vc.toNat) 6 d.vc]

/-- R352, LAUNCH. -/
def execLaunch (a b c : BitVec 5) (x y : BitVec 3) (s : State) : Out :=
  .next (
    let d := mkCmd s (.launch a b c x y) a b c
    issue 1 (((RegSet.s1 a).or (RegSet.s1 b)).or (RegSet.s1 c)) d (launchChecks s d) s)

/-- R352: lines read in order: the first cause that refuses one with its address, and the bytes. -/
def readLines (s : State) (a : Ag) (ea : Word) (n : Nat) : State × Nat × Word × List Byte :=
  (linePieces ea n).foldl (fun (acc : State × Nat × Word × List Byte) (p : Word × Nat × Nat) =>
    if acc.2.1 ≠ 0 then acc else
    let (s', c, b) := readPiece acc.1 a p.1 p.2.2
    (s', c, p.1, acc.2.2.2 ++ b)) (s, 0, ea, [])

/-- R387, R395: a record enqueued by LAUNCH, the descriptor read for it: the status it returns, and the state. -/
def enqueue (s0 : State) (part q : Nat) (bytes : List Byte) : Nat × State :=
  let s := readQueue s0 part q
  let d := queueDesc s part q
  if !d.en || !d.prod || !entryValid s part d.ctxi then (2, s)
  else if d.full then (1, s)
  else
    let s1 := (linePieces (d.slot d.tail) 256).foldl (fun s (p : Word × Nat × Nat) =>
      sysWriteOrDrop s part 0 4 p.1 ((bytes.drop p.2.1).take p.2.2)) s
    (0, post (queueWrite s1 part q 0x10 ((d.tail + 1) % 2 ^ 32)) (.queueTailWrite q))

/-- R352, R353, R387: a begun LAUNCH: a release of what its thread has done, its record read, and enqueued. -/
def launchPerform (s : State) (th k : Nat) (a : Active) : State :=
  match a.cmd.i with
  | .launch _ _ _ _ _ =>
    if agentHeld s (agCmd s th a.cmd) false [(a.cmd.vb, 256)] then s else
    let s0 := drainThread s th
    match readLines s0 (agCmd s0 th a.cmd) a.cmd.vb 256 with
    | (s1, 0, _, bytes) =>
      let (v, s2) := enqueue s1 (graphPart (s1.thread th).graph) a.cmd.vc.toNat bytes
      finish s2 th 1 k { a with value := wd v } s2.cycle.toNat
    | (s1, 5, ea, _) => holdOn s1 th 1 k a ea
    | (s1, c, ea, _) => engineTrap (if c = 8 then poisonOnce s1 th 1 k a ea else s1) th 1 k c ea
  | _ => s

end Sys2Proof.Machine
end

