-- ==== Sys2Proof/Machine/Start.lean ====
section
/-! DEFINITION. Engine commands as they start, are performed and retire (R108, R200, R316, R318, R182), and the traps and held
faults of engines as threads meet them (R42, R318, R365, R433). -/

namespace Sys2Proof.Machine

/-! ### Tokens (R200) -/

/-- R200: the take and give codes of an engine command. -/
def tokensOf (i : Instr) : Nat × Nat :=
  match i with
  | .copy _ _ _ _ x y => (x.toNat, y.toNat)
  | .copym _ _ _ _ x y => (x.toNat, y.toNat)
  | .copy2 _ _ _ x y => (x.toNat, y.toNat)
  | .rowact _ _ x y => (x.toNat, y.toNat)
  | .rowtakePl _ _ x y => (x.toNat, y.toNat)
  | .rowtakeMk _ _ x y => (x.toNat, y.toNat)
  | .rowtakeTm _ _ _ x y => (x.toNat, y.toNat)
  | .rowput _ _ _ x y => (x.toNat, y.toNat)
  | .rowclose _ _ x y => (x.toNat, y.toNat)
  | .rowstat _ _ x y => (x.toNat, y.toNat)
  | .plane _ _ x y => (x.toNat, y.toNat)
  | .planeld _ _ x y => (x.toNat, y.toNat)
  | .planeldMk _ _ x y => (x.toNat, y.toNat)
  | .planeinv _ x y => (x.toNat, y.toNat)
  | .configure _ _ _ x y => (x.toNat, y.toNat)
  | .unfuse x y => (x.toNat, y.toNat)
  | .ctxload _ _ _ x y => (x.toNat, y.toNat)
  | .ctxsel _ x y => (x.toNat, y.toNat)
  | .ctxstat _ _ x y => (x.toNat, y.toNat)
  | .tstdisc _ x y => (x.toNat, y.toNat)
  | .mrun _ _ _ x y => (x.toNat, y.toNat)
  | .mrunAcc _ _ _ x y => (x.toNat, y.toNat)
  | .mzero _ x y => (x.toNat, y.toNat)
  | .mdrain _ _ _ x y => (x.toNat, y.toNat)
  | .mstat _ _ x y => (x.toNat, y.toNat)
  | .sopen _ _ x y => (x.toNat, y.toNat)
  | .sstart _ x y => (x.toNat, y.toNat)
  | .sstop _ x y => (x.toNat, y.toNat)
  | .sknot _ x y => (x.toNat, y.toNat)
  | .coilset _ _ x y => (x.toNat, y.toNat)
  | .coilsetNd _ _ x y => (x.toNat, y.toNat)
  | .launch _ _ _ x y => (x.toNat, y.toNat)
  | _ => (0, 0)

/-- R200: the FIFO from which a command of queue q takes, if it takes. -/
def takeFifo (q : Nat) (i : Instr) : Option Nat := if (tokensOf i).1 = 0 then none else some (fifoIndex (tokensOf i).1 (q + 2))
/-- R200: the FIFO to which a command of queue q gives, if it gives. -/
def giveFifo (q : Nat) (i : Instr) : Option Nat := if (tokensOf i).2 = 0 then none else some (fifoIndex (q + 2) (tokensOf i).2)

/-- R200, R241: whether the give token of a command fits: a give to queue V of a thread in its HALT wait is dropped at 15. -/
def giveFits (t : Thread) (q : Nat) (i : Instr) : Bool :=
  match giveFifo q i with
  | none => true
  | some f => decide (t.fifoAt f < 15) || ((tokensOf i).2 == 1 && t.wait == .haltWait)

/-- R200: the give token of a command delivered. -/
def giveToken (t : Thread) (q : Nat) (i : Instr) : Thread :=
  match giveFifo q i with
  | none => t
  | some f => if t.fifoAt f < 15 then t.setFifo f (t.fifoAt f + 1) else t

/-! ### Which command starts (R199, R316, R320, R56) -/

/-- R316: the commands that may stand started beside others of their queue. -/
def overlaps (i : Instr) : Bool :=
  match i with
  | .mrun _ _ _ _ _ => true
  | .mrunAcc _ _ _ _ _ => true
  | .mzero _ _ _ => true
  | .mdrain _ _ _ _ _ => true
  | .mstat _ _ _ _ => true
  | _ => false

/-- R316, R200: whether the commands that stand started in a queue let the next one start in a cycle. -/
def queueFree (now : Nat) (t : Thread) (q : Nat) (next : Instr) : Bool :=
  let act := (t.queue q).active
  act.isEmpty || (overlaps next && act.all (fun a => overlaps a.cmd.i && (!a.done || giveFits t q a.cmd.i) &&
    (!recordedByElement a.cmd.i || (decide (runCount a.cmd.va ≤ a.pos) && decide (a.mayEnter ≤ now)))))

/-- R56, R320: whether a command would act on an element on the other side of the open wave from its thread: the element has its
snapshot and the thread has not checkpointed, or the other way round. (DEDUCED, A44) -/
def outOfStep (s : State) (th q : Nat) (i : Instr) : Bool :=
  let t := s.thread th
  let tile := tileOf th
  match (s.graph t.graph).openWave with
  | none => false
  | some n =>
    let mine := t.wave == n
    let engine (e : BitVec 3) : Bool := ((s.tile tile).engine e.toNat).epoch == n
    match i with
    | .sopen e _ _ _ => mine != engine e
    | .sstart e _ _ => mine != engine e
    | .sstop e _ _ => mine != engine e
    | .sknot e _ _ => mine != engine e
    | .coilset _ _ _ _ => false
    | .coilsetNd _ _ _ _ => false
    | _ =>
      if q = 3 then
        match regionAt s tile t.pctx.toNat with
        | some r => mine != regionLatched s t.graph r.lead t.pctx.toNat
        | none => false
      else false

/-! ### Performing -/

/-- R317: the start check of a command. -/
def startCheck (s : State) (th : Nat) (c : Cmd) : Check :=
  match c.i with
  | .copy _ _ _ _ _ _ => copyStart s th c
  | .copym _ _ _ _ _ _ => copyStart s th c
  | .copy2 _ _ _ _ _ => copyStart s th c
  | .plane _ _ _ _ => planeStart s th c
  | .planeld _ _ _ _ => planeStart s th c
  | .planeldMk _ _ _ _ => planeStart s th c
  | .planeinv _ _ _ => planeStart s th c
  | .configure _ _ _ _ _ => regionStart s th c
  | .unfuse _ _ => regionStart s th c
  | .ctxsel _ _ _ => regionStart s th c
  | i => match rowAct i with
    | some (x, rg) => rowStart s th c x rg
    | none => matrixStart s th c

/-- R409: a row command starts. -/
def bindRows (s : State) (th : Nat) : State := s.mapGraph (s.thread th).graph (fun g => { g with rowBound := true })

/-- R317: the k-th command of queue q begins, its start checks passed. -/
def beginActive (s : State) (th q k : Nat) (a : Active) : State :=
  let b := { a with begun := true }
  match a.cmd.i with
  | .rowstat _ _ _ _ => setActive (bindRows s th) th q k b
  | i =>
    if (rowAct i).isSome then setActive (bindRows s th) th q k b
    else if overlaps i then matrixBegin s th k b
    else setActive s th q k b

/-- A begun command that a cycle of its engine carries on: rows, planes, regions, reads of state, streams. Copies, drains, region
transfers and the vectors of an MRUN have steps of their own. -/
def performActive (s : State) (th q k : Nat) (a : Active) : State :=
  if !a.begun || a.done || a.held.isSome then s else
  match a.cmd.i with
  | .rowstat _ _ _ _ =>
    finish s th 2 k { a with value := rowstatValue s (tileOf th) (rowBank a.cmd.vb) } s.cycle.toNat
  | .plane _ _ _ _ => if a.fill.isEmpty then planePerform s th a else s
  | .planeld _ _ _ _ => if a.fill.isEmpty then planePerform s th a else s
  | .planeldMk _ _ _ _ => if a.fill.isEmpty then planePerform s th a else s
  | .planeinv _ _ _ => if a.fill.isEmpty then planePerform s th a else s
  | .mzero _ _ _ => s
  | .mstat _ _ _ _ => mstatTurn s th k a
  | .rowtakeTm _ _ r _ _ => if r then s else rowTry s th a .take false
  | .rowput _ _ r _ _ => if r then s else rowTry s th a .put false
  | i =>
    match rowAct i with
    | some (x, rg) => if a.fill.isEmpty then rowTry s th a x rg else s
    | none => if q = 0 then streamPerform s th k a else if q = 1 then launchPerform s th k a else if q = 3 then regionPerform s th a else s

/-- A cycle of the begun commands of a queue, in order. -/
def performQueue (s : State) (th q : Nat) : State :=
  (List.range ((s.thread th).queue q).active.length).foldl (fun s k =>
    match activeAt s th q k with
    | some a => performActive s th q k a
    | none => s) s

/-- R316, R317: the head of queue q leaves it: its take token is taken and its start checks are made. -/
def startHead (s : State) (th q : Nat) : State :=
  let t := s.thread th
  match (t.queue q).waiting with
  | [] => s
  | c :: rest =>
    let token := match takeFifo q c.i with | some f => decide (1 ≤ t.fifoAt f) | none => true
    if !queueFree s.cycle.toNat t q c.i || !token || outOfStep s th q c.i then s else
    let a := Active.start c
    let k := (t.queue q).active.length
    let s1 := s.mapThread th (fun t =>
      let t1 := match takeFifo q c.i with | some f => t.setFifo f (t.fifoAt f - 1) | none => t
      t1.mapQueue q (fun u => { waiting := rest, active := u.active ++ [a] }))
    match startCheck s1 th c with
    | some f => startFails s1 th q k f
    | none => beginActive s1 th q k a

/-- R316, R402, ENGINE_COMMAND_START: a cycle of queue q of slot th: its head starts if it may, and not after the checkpoint of a cut, and
the begun commands go on. -/
def execEngineCommandStart (th q : Nat) (s : State) : Out :=
  .next (
    let t := s.thread th
    let g := s.graph t.graph
    if t.run == .free || g.st != .running || g.frozen || !isActive s t.graph then s else performQueue (if t.run == .cut then s else startHead s th q) th q)

/-! ### Retirement (R182, R200, R319) -/

/-- The cleat of a command. -/
def cleatOf (c : Cmd) : Word :=
  match c.i with
  | .mrun _ _ _ _ _ => c.vc
  | .mrunAcc _ _ _ _ _ => c.vc
  | .mdrain _ _ _ _ _ => c.vc
  | .copy _ _ _ _ _ _ => copyCleat c
  | .copym _ _ _ _ _ _ => copyCleat c
  | _ => 0

/-- R56: whether a finished MRUN stays with its queue until its thread has checkpointed: its region's snapshot holds it in
progress. (DEDUCED, A44) -/
def heldByWave (s : State) (th : Nat) (c : Cmd) : Bool :=
  let t := s.thread th
  match (s.graph t.graph).openWave with
  | some n => recordedByElement c.i && t.wave != n &&
      (s.graph t.graph).pending.any (fun p => ((Assoc.getD p.runs th []).any (fun a => a.cmd == c)))
  | none => false

/-- R182: whether a command retires in this cycle. -/
def retires (s : State) (th q : Nat) (a : Active) : Bool :=
  a.done && decide (a.due ≤ s.cycle.toNat) && a.owed == 0 && giveFits (s.thread th) q a.cmd.i && !heldByWave s th a.cmd

/-- R319, R369: the result of a command that a thread has issued before its trap stands among the registers that an expiry puts back. -/
def Thread.keepWrite (t : Thread) (d : BitVec 5) (w : Word) : Thread :=
  if d = 0 then t else { t with kept := t.kept.map (fun k => { k with s := k.s.set d.toNat w d.isLt }) }

/-- R182, R200, R319: the k-th command of queue q retires. -/
def retireAt (s : State) (th q k : Nat) (a : Active) : State :=
  s.mapThread th (fun t =>
    let t1 := (giveToken (t.mapQueue q (fun u => { u with active := u.active.eraseIdx k })) q a.cmd.i).ws (cmdDest a.cmd.i) a.value
    if a.cmd.lvl then t1 else t1.keepWrite (cmdDest a.cmd.i) a.value)

/-- The first command of queue q that retires in this cycle retires; a completion still owed is tried. -/
def retireOne (th q : Nat) (s : State) : State :=
  let act := ((s.thread th).queue q).active
  let s1 := match act.findIdx? (fun a => a.done && a.owed != 0 && a.held.isNone) with
    | some k => match act[k]? with
      | some a => complete s th q k a (cleatOf a.cmd) 0
      | none => s
    | none => s
  let now := ((s1.thread th).queue q).active
  match now.findIdx? (retires s1 th q) with
  | some k => match now[k]? with
    | some a => retireAt s1 th q k a
    | none => s1
  | none => s1

/-- R182, ENGINE_COMMAND_RETIRE: the commands of queue q of slot th that have done their work retire. -/
def execEngineCommandRetire (th q : Nat) (s : State) : Out :=
  .next ((List.range ((s.thread th).queue q).active.length).foldl (fun s _ => retireOne th q s) s)

/-! ### The engine trap point (R318), held faults (R433) -/

/-- R47, R48: the waits in which no bight is open. (DEDUCED, A49) -/
def Wait.outside (w : Wait) : Bool :=
  match w with
  | .token => true
  | .gbar => true
  | .haltWait => true
  | .knotW => true
  | .release => true
  | .acquire => true
  | _ => false

/-- R318, R365, R433: whether a trap waits to be raised at the next instruction of a slot. -/
def trapWaits (s : State) (th : Nat) : Bool :=
  let t := s.thread th
  t.run == .running && (t.late.isSome || t.pend.isSome || (!t.lvl && (t.held.isSome || !t.gtraps.isEmpty)))

/-- R318, R365, R42, R48, ENGINE_TRAP_POINT: a trap that waits is raised at the next instruction of slot th: a write dropped after its
commit, an engine's trap, a held page fault, a graph-level trap. (DEDUCED, A49) -/
def execEngineTrapPoint (th : Nat) (s0 : State) : Out :=
  .next (
    let s := if trapWaits s0 th then withdraw s0 th else s0
    let t := s.thread th
    let at_ (code : Nat) (val : Word) (e graph : Bool) (q : Nat) (epc : PC) : Trap :=
      { code := code, val := val, pc := t.pc, disc := false, e := e, queue := q, epc := epc, graph := graph, open_ := !t.wait.outside }
    if t.run != .running || (trapWaits s th && arrivalHeld s th) then s else
    match t.late, t.pend with
    | some (c, v), _ => deliver (s.mapThread th (fun t => { t with late := none })) th (at_ c v false false 0 0)
    | none, some p => deliver (s.mapThread th (fun t => { t with pend := none })) th (at_ p.code p.tval true false p.q p.epc)
    | none, none =>
      if t.lvl then s else
      match t.held, t.gtraps with
      | some p, _ => deliver (s.mapThread th (fun t => { t with held := none })) th (at_ p.code p.tval true false p.q p.epc)
      | none, (c, v) :: rest => deliver (s.mapThread th (fun t => { t with gtraps := rest })) th (at_ c v false true 0 0)
      | none, [] => s)

/-- R433: the first fault that an engine holds for slot th: of a command, or of a stream that the slot opened. -/
def firstHeld (s : State) (th : Nat) : Option Pend :=
  let t := s.thread th
  let cmds := (List.range 4).flatMap (fun q => ((t.queue q).active.filterMap (fun a =>
    a.held.map (fun ea => { code := 5, tval := ea, q := q + 2, epc := a.cmd.pc }))))
  let engs := (List.range 8).filterMap (fun e =>
    let x := (s.tile (tileOf th)).engine e
    if x.running && x.opener == slotOf th && (agEngine s (tileOf th) e).graph == t.graph then
      x.held.map (fun ea => ({ code := 5, tval := ea, q := 2, epc := x.pc } : Pend)) else none)
  (cmds ++ engs).head?

/-- R433: the slot to which the faults held for slot th go: itself, or the report thread once it has halted. -/
def faultThread (s : State) (th : Nat) : Option Nat :=
  if (s.thread th).run = .halted then
    match reportThread s (s.thread th).graph with
    | some r => if (s.thread r).run = .halted then none else some r
    | none => none
  else some th

/-- R433, HELD_FAULT: a page fault held for slot th waits to be raised as PAGE; with no thread left to take it the graph is
terminated. -/
def execHeldFault (th : Nat) (s : State) : Out :=
  .next (
    if (s.thread th).run == .free || (s.graph (s.thread th).graph).st != .running then s else
    match firstHeld s th with
    | none => s
    | some p =>
      match faultThread s th with
      | none => endGraph s (s.thread th).graph .terminated 5
      | some r => if (s.thread r).lvl then s else s.mapThread r (fun t => { t with held := some (t.held.getD p) }))

/-- R433: the slots whose held faults are retried after a SYSRET of slot th: itself, and for the report thread those that have
halted. -/
def retrySlots (s : State) (th : Nat) : List Nat :=
  th :: (if reportThread s (s.thread th).graph == some th then
    (graphThreads s (s.thread th).graph).filter (fun j => (s.thread j).run == .halted) else [])

/-- R433, HELD_FAULT_RETRY: after a SYSRET, every engine that holds a fault of the thread tries again. -/
def execHeldFaultRetry (th : Nat) (s : State) : Out :=
  .next ((retrySlots s th).foldl (fun s i =>
    let s1 := s.mapThread i (fun t => { t with
      queues := t.queues.map (fun u => { u with active := u.active.map (fun a => { a with held := none }) }) })
    (List.range 8).foldl (fun s e =>
      let x := (s.tile (tileOf i)).engine e
      if x.running && x.opener == slotOf i && x.held.isSome && (agEngine s (tileOf i) e).graph == (s.thread i).graph then
        post s (.spillQueueRetry (tileOf i) e) else s) s1) s)

end Sys2Proof.Machine
end

