-- ==== Sys2Proof/Machine/Wave.lean ====
section
/-! DEFINITION. Knot waves as the elements of a graph take part in them (R56 to R60, R160), their completion (R58, R148, R459), the
latency limit (R55, R369), accepted accesses as homes perform them (R171, R452), and egress (R417). -/

namespace Sys2Proof.Machine

/-! ### Markers at the elements (R56, R160) -/

/-- The contexts of a tile that a graph holds. -/
def graphCtxs (s : State) (g tile : Nat) : List Nat := pick 4 (fun k => ((s.tile tile).ctx k).graph == some g)

/-- Whether marker n stands in an endpoint. -/
def Endpoint.hasMark (p : Endpoint) (n : BitVec 16) : Bool := (p.q ++ p.coil).any (fun b => b.isMark n)

/-- A marker behind what waits in an endpoint. -/
def putMarker (s : State) (tile e : Nat) (n : BitVec 16) : State :=
  s.mapTile tile (fun t => t.mapEp e (fun p => { p with q := p.q ++ [markerBeat n] }))

/-- The output endpoints of context k that are attached to a unit. -/
def outputsOf (t : Tile) (k attach unit : Nat) : List Nat :=
  pick 40 (fun e => let f := (t.ctx k).epF e; EpF.used f && EpF.out f && EpF.attach f == attach && EpF.unit f == unit)

/-- R56: the marker forwarded on output j of a node. -/
def nodeMarker (n : BitVec 16) (tile nd f : Nat) (s : State) (j : Nat) : State :=
  let w := NdF.outp f j
  if namesNode w then
    let i := inputFrom (s.tile tile) (w % 8) nd
    s.mapTile tile (fun t => t.mapNode (w % 8) (fun x => { x with inq := Assoc.set x.inq i (Assoc.getD x.inq i [] ++ [markerBeat n]) }))
  else putMarker s tile (w % 32) n

/-- R142: the inputs of a node from other nodes at which marker n stands, on an edge that is not gated. -/
def markedInputs (x : Node) (n : BitVec 16) : List Nat :=
  (x.inq.filter (fun e => e.2.any (fun b => b.isMark n) && !gatedInput x e.1)).map Prod.fst

/-- R56 step 3: the markers that stand at a node's inputs from other nodes consumed. -/
def eatMarks (n : BitVec 16) (x : Node) : Node :=
  { x with inq := x.inq.map (fun e => (e.1, if gatedInput x e.1 then e.2 else e.2.filter (fun b => !b.isMark n))), seen := x.seen ++ markedInputs x n }

/-- R56: marker n at the head end of an output endpoint that feeds a node of its own tile, once the node has its snapshot: the beats that wait
before it and are not in the endpoint's snapshot are recorded, and the node consumes it. -/
def closeDirect (g tile : Nat) (n : BitVec 16) (s : State) (e : Nat) : State :=
  let p := (s.tile tile).ep e
  let x := (snapEntry s g tile e).getD .empty
  let left := x.q.length - (p.beats - x.beats).toNat
  let s1 := ((p.q.takeWhile (fun b => !b.isMark n)).drop left).foldl (fun s b => recordLate s g tile e b) s
  (closeEp s1 g tile e n).mapTile tile (fun t => t.mapEp e (fun p => { p with q := p.q.filter (fun b => !b.isMark n) }))

/-- R56: the first marker n at an input of a node: its snapshot, and the marker on every output. (DEDUCED, A71) -/
def markNode (s : State) (g tile k nd : Nat) (n : BitVec 16) : State :=
  let t := s.tile tile
  let x := t.node nd
  let eps := nodeInputs t k nd
  if x.marker = n then
    let s1 := (eps.filter (fun e => EpF.out (epFrame t e) && (t.ep e).hasMark n && !(t.ep e).gated)).foldl (closeDirect g tile n) s
    if (markedInputs x n).isEmpty then s1 else s1.mapTile tile (fun t => t.mapNode nd (eatMarks n))
  else if !eps.any (fun e => (t.ep e).hasMark n && !(t.ep e).gated) && (markedInputs x n).isEmpty then s
  else
    let saved := { x with inq := x.inq.map (fun e => (e.1, e.2.takeWhile (fun b => !b.isMark n))) }
    let s1 := mapPending (snapEps s g tile eps n) g (fun p => { p with nodes := Assoc.set p.nodes (8 * tile + nd) saved })
    let s2 := s1.mapTile tile (fun t => t.mapNode nd (fun x => { eatMarks n { x with seen := [] } with marker := n }))
    let f := ndFrame (s2.tile tile) nd
    (List.range (NdF.nout f)).foldl (nodeMarker n tile nd f) s2

/-- Whether a slot's thread is past wave n for what it opened: it has checkpointed, or no thread of the graph runs there. -/
def slotPast (s : State) (g i : Nat) (n : BitVec 16) : Bool :=
  let t := s.thread i
  !(t.graph == g && t.run == .running) || t.wave == n

/-- R160: whether stream engine e of a context is to take its snapshot of wave n: at the checkpoint of its opener where no input of it
brings a marker; else at the first marker at an input, or the marker of the drain unit that feeds it. -/
def engineDue (s : State) (g tile k e : Nat) (n : BitVec 16) : Bool :=
  let t := s.tile tile
  let x := t.engine e
  let w := x.scb.toNat
  if withOpener t k e then
    (if x.running then slotPast s g (4 * tile + x.opener) n
     else (List.range 4).any (fun j => (s.thread (4 * tile + j)).pctx.toNat == k && slotPast s g (4 * tile + j) n))
  else (inputsOf t k 2 e).any (fun i => (t.ep i).hasMark n) || (x.running && bit w 26 && fld w 28 27 == 1 && (t.ctx k).drainMark == n)

/-- R56, R160: the snapshot of a stream engine; a write stream sends its lines first, which wait for their banks, and lines for which its
spill queue has no room are part of it; the marker goes out on its strands and, from a
stream with PORT 0, to the feed port. -/
def markEngine (s : State) (g tile k e : Nat) (n : BitVec 16) : State :=
  if ((s.tile tile).engine e).epoch = n ∨ !engineDue s g tile k e n then s else
  let s1 := sendLines s tile e
  let y := (s1.tile tile).engine e
  if !y.coal.isEmpty && !y.stopped then s1 else
  let s2 := snapEps s1 g tile (inputsOf (s1.tile tile) k 2 e) n
  let s3 := s2.mapTile tile (fun t => t.mapEngine e (fun x => { x with epoch := n, marker := n }))
  let x := (s3.tile tile).engine e
  let s4 := mapPending s3 g (fun p => { p with engines := Assoc.set p.engines (8 * tile + e) x })
  let s5 := (outputsOf (s4.tile tile) k 2 e).foldl (fun s o => putMarker s tile o n) s4
  let c := (s5.tile tile).ctx k
  if x.running && fld x.scb.toNat 28 26 == 0 && c.marker != n then putMarker s5 tile (MpF.feedep c.mpF) n else s5

/-- R56: a marker at a feed port: its input is held until the region has its snapshot. -/
def markFeed (s : State) (g tile k : Nat) (n : BitVec 16) : State :=
  let t := s.tile tile
  let c := t.ctx k
  let es := ((if MpF.feeden c.mpF then [MpF.feedep c.mpF] else []) ++ inputsOf t k 1 0).eraseDups
  if c.marker = n ∨ !es.any (fun e => (t.ep e).hasMark n) then s else
  (snapEps s g tile es n).mapTile tile (fun t => t.mapCtx k (fun c => { c with marker := n }))

/-- R56: whether the threads of a tile have nothing else under way in the M queue that a region's snapshot would not hold. -/
def regionQuiet (s : State) (tile k : Nat) : Bool :=
  (List.range 4).all (fun j =>
    let t := s.thread (4 * tile + j)
    t.pctx.toNat != k || (t.queue 3).active.all (fun a => recordedByElement a.cmd.i || !a.begun || a.done))

/-- R56, R320: the snapshot of a context over the tiles of its region, or of a context of one tile outside any. -/
def latchOver (s : State) (g k lead : Nat) (tiles feeders : List Nat) (n : BitVec 16) : State :=
  let s1 := feeders.foldl (fun s ti =>
    if ((s.tile ti).ctx k).marker = n then s else
    (snapEps s g ti [MpF.feedep ((s.tile ti).ctx k).mpF] n).mapTile ti (fun t => t.mapCtx k (fun c => { c with marker := n }))) s
  let rows (ti : Nat) : Assoc Word :=
    let f := ((s1.tile ti).ctx k).mpF
    (s1.tile ti).acc.filter (fun e => decide (MpF.accbase f ≤ e.1 / 16) && decide (e.1 / 16 < MpF.accbase f + MpF.acccnt f))
  let runs := (pick 4 (fun j => (s1.thread (4 * lead + j)).pctx.toNat == k && (s1.thread (4 * lead + j)).graph == g)).map (fun j =>
    (4 * lead + j, ((s1.thread (4 * lead + j)).queue 3).active.filter (fun a => recordedByElement a.cmd.i && a.begun)))
  mapPending s1 g (fun p =>
    { p with ctxs := tiles.foldl (fun m ti => Assoc.set m (4 * ti + k) ((s1.tile ti).ctx k)) p.ctxs,
             accs := tiles.foldl (fun m ti => Assoc.set m (4 * ti + k) (rows ti)) p.accs,
             runs := runs.foldl (fun m r => Assoc.set m r.1 r.2) p.runs })

/-- R56: a region, or a context outside any, latches its state once its vectors have left the array. (DEDUCED, A43) -/
def latchTry (s : State) (g tile k : Nat) (n : BitVec 16) : State :=
  match regionAt s tile k with
  | some r =>
    if regionLatched s g r.lead k || !latchDue s r n || inArray s r || !r.tiles.all (fun ti => regionQuiet s ti k) then s
    else latchOver s g k r.lead r.tiles r.feeders n
  | none =>
    let c := (s.tile tile).ctx k
    let due := c.marker == n || (!feedAwaits s tile k &&
      (List.range 4).any (fun j => (s.thread (4 * tile + j)).pctx.toNat == k && slotPast s g (4 * tile + j) n))
    if regionLatched s g tile k || !due || !regionQuiet s tile k then s
    else latchOver s g k tile [tile] (if MpF.feeden c.mpF then [tile] else []) n

/-- R56: whether a context of a tile has its snapshot. -/
def ctxLatched (s : State) (g tile k : Nat) : Bool :=
  match regionAt s tile k with
  | some r => regionLatched s g r.lead k
  | none => regionLatched s g tile k

/-- R56: the drain unit of a context passes the marker on once its context has its snapshot and no thread in the epoch before drains
there. -/
def markDrain (s : State) (g tile k : Nat) (n : BitVec 16) : State :=
  let t := s.tile tile
  let c := t.ctx k
  let busy := (List.range 4).any (fun j =>
    let th := s.thread (4 * tile + j)
    th.graph == g && th.run == .running && th.pctx.toNat == k && th.wave != n && (th.queue 3).active.any (fun a =>
      (match a.cmd.i with | .mdrain _ _ _ _ _ => true | _ => false) && !a.done))
  if c.drainMark = n ∨ !MpF.drainen c.mpF ∨ !ctxLatched s g tile k ∨ busy then s else
  let s1 := s.mapTile tile (fun t => t.mapCtx k (fun c => { c with drainMark := n }))
  match drainEndpoint c with
  | some e => putMarker s1 tile e n
  | none => s1

/-- R54, R56: what is attached to a slot that runs no thread of the graph takes its snapshot. -/
def markSlot (s : State) (g tile j : Nat) (n : BitVec 16) : State :=
  let t := s.thread (4 * tile + j)
  if t.graph == g && t.run == .running then s else
  (graphCtxs s g tile).foldl (fun s k => snapEps s g tile (inputsOf (s.tile tile) k 0 j) n) s

/-- R56: an element of a tile, in the wave that its graph has open. -/
def markStep (s : State) (g tile k kind unit : Nat) : State :=
  match (s.graph g).openWave with
  | none => s
  | some n =>
    if (s.graph g).frozen then s else
    match kind with
    | 2 => if claimNd (s.tile tile) unit = some k then markNode s g tile k unit n else s
    | 3 => if claimEn (s.tile tile) unit = some k then markEngine s g tile k unit n else s
    | 4 => if unit = k then latchTry (markFeed s g tile k n) g tile k n else s
    | 5 => if unit = k then markDrain s g tile k n else s
    | _ => s

/-- R56, MARKER_ARRIVAL: an element of a tile meets the marker of the open wave: `kind` 2 a switch node, 3 a stream engine, 4 the
feed port of a context and with it its region, 5 the drain unit of a context, 6 what is attached to a thread slot. -/
def execMarkerArrival (tile kind unit : Nat) (s : State) : Out :=
  .next ((s.graphs.map Prod.fst).foldl (fun s g =>
    let ks := graphCtxs s g tile
    if kind = 6 then
      match (s.graph g).openWave with
      | some n => if ks.isEmpty then s else markSlot s g tile unit n
      | none => s
    else ks.foldl (fun s k => markStep s g tile k kind unit) s) s)

/-! ### The image of a tile (R59, R60, R125, R364) -/

/-- R125: whether a slot of tile memory is discardable for a context of the graph. -/
def slotDiscarded (s : State) (g tile i : Nat) : Bool := (graphCtxs s g tile).any (fun k => bit (MpF.discard ((s.tile tile).ctx k).thF) i)

/-- R125, R364: whether a slot of tile memory is saved: neither discardable for a context of the graph nor in the handler window. -/
def slotSaved (s : State) (g tile i : Nat) : Bool := !slotDiscarded s g tile i && !inWindow (s.graph g).hwin (4096 * i) 4096

/-- R59: the bytes of a memory within a tile's saved slots. -/
def savedBytes (s : State) (g tile : Nat) (m : Memory) : Memory :=
  m.filter (fun c => c.1 / 2 ^ 18 == tile && slotSaved s g tile (c.1 % 2 ^ 18 / 4096))

/-- R166: a tile with its shared registers as they stood at the checkpoints of its threads. -/
def Tile.withRegs (t : Tile) (regs : List (Nat × Word)) : Tile :=
  regs.foldl (fun t e =>
    let i := e.1 % 64
    { t with sc := if h : i < 32 then t.sc.set i (e.2.truncate 32) h else t.sc,
             sfmt := if h : 32 ≤ i ∧ i - 32 < 32 then t.sfmt.set (i - 32) (e.2.truncate 16) h.2 else t.sfmt }) t

/-- R59, R60, R166: the image of a tile as it stood at its latch. (DESIGN CHOICE, A23) -/
def tileImage (s : State) (g tile : Nat) (late : Assoc Byte) (regs : Assoc Word) : TileSnap :=
  let m := (late.filter (fun e => e.1 / 2 ^ 18 == tile)).foldl (fun m e => Memory.write m e.1 e.2) s.tmem
  { tile := tile, mem := savedBytes s g tile m,
    poison := s.tpoison.filter (fun w => 8 * w / 2 ^ 18 == tile && slotSaved s g tile (8 * w % 2 ^ 18 / 4096)), st := (s.tile tile).withRegs (regs.filter (fun e => e.1 / 64 == tile)), bad := none,
    slots := .ofNat 64 ((pick 64 (slotSaved s g tile)).foldl (fun m i => m + 2 ^ i) 0) }

/-- R59: whether every thread of a graph on a tile has checkpointed wave n. -/
def tilePast (s : State) (g tile : Nat) (n : BitVec 16) : Bool :=
  (List.range 4).all (fun j =>
    let t := s.thread (4 * tile + j)
    t.graph != g || t.run == .free || t.run == .halted || t.wave == n)

/-- R405: whether the threads that lead the planes of a graph on a tile have checkpointed wave n. -/
def leadersPast (s : State) (g tile : Nat) (n : BitVec 16) : Bool :=
  (graphCtxs s g tile).all (fun k =>
    match regionAt s tile k with
    | some r =>
      let t := s.thread (4 * r.lead + k)
      t.graph != g || t.run == .free || t.run == .halted || t.wave == n
    | none => true)

/-- R60: whether every element of a graph on a tile that can write its memory has latched its state for wave n. -/
def tileLatched (s : State) (g tile : Nat) (n : BitVec 16) : Bool :=
  let t := s.tile tile
  tilePast s g tile n && leadersPast s g tile n && (graphCtxs s g tile).all (fun k =>
    let c := t.ctx k
    ctxLatched s g tile k && (!MpF.drainen c.mpF || c.drainMark == n) &&
    (pick 8 (fun e => EnF.used (c.enF e))).all (fun e => (t.engine e).epoch == n))

/-- R405, Table 18-2: plane k of a tile as its leader has latched it. -/
def savedPlane (p : Snap) (x : TileSnap) (k : Nat) : Plane := (Assoc.get? p.planes (4 * x.tile + k)).getD (x.st.plane k)

/-- R405: whether plane k of a tile's image is sparse and LIVE. -/
def sparseLive (p : Snap) (x : TileSnap) (k : Nat) : Bool := Desc.live (savedPlane p x k).desc && Desc.n (savedPlane p x k).desc != 0

/-- R405, Table 18-2: the rows of its slot that hold content of a tile's image. -/
def contentRows (s : State) (g : Nat) (p : Snap) (x : TileSnap) : List Nat :=
  pick 86 (fun r => (List.range 64).any (fun i =>
    decide (4096 * i < 3072 * (r + 1)) && decide (3072 * r < 4096 * (i + 1)) && slotSaved s g x.tile i)) ++
  (List.range 26).map (fun r => 86 + r) ++
  ((List.range 2).filter (fun r => sparseLive p x (2 * r) || sparseLive p x (2 * r + 1))).map (fun r => 112 + r) ++
  (pick 4 (fun j => (s.thread (4 * x.tile + j)).graph == g && (s.thread (4 * x.tile + j)).run != .free)).map (fun j => 114 + j) ++
  [118, 119, 120, 121]

/-- R60: the image of a tile of a graph latched, once all that the graph has there has taken its snapshot; its save begins. -/
def saveTile (s : State) (g tile : Nat) : State :=
  match (s.graph g).openWave, (s.graph g).pending with
  | some n, some p =>
    if (s.graph g).frozen || p.tiles.any (fun t => t.tile == tile) || !tileLatched s g tile n || (graphCtxs s g tile).isEmpty then s else
    let rects := s.rects.filter (fun q => tileAt q.x q.y == tile && s.regions.any (fun r => r.graph == g && r.onRect q))
    let x := tileImage s g tile p.late p.lateRegs
    mapPending s g (fun p => { p with
      tiles := p.tiles ++ [x], rects := p.rects ++ rects,
      saving := Assoc.set p.saving tile { rows := contentRows s g p x, done := 0, posted := false, due := s.cycle.toNat } })
  | _, _ => s

/-! ### The rows of a slot (R404, R405, R60) -/

/-- R406, R59: the shadow slot of a tile that holds a graph's wave n. -/
def shadowOf (x : Graph) (tile : Nat) (n : BitVec 16) : Nat := Assoc.getD x.shadow (2 * tile + n.toNat % 2) 0

/-- R405: a slot of the accumulator store of a tile, as its context has latched it. -/
def savedAcc (p : Snap) (x : TileSnap) (i : Nat) : Word :=
  match (pick 4 (fun k => (Assoc.get? p.ctxs (4 * x.tile + k)).any (fun c =>
    decide (MpF.accbase c.mpF ≤ i / 16) && decide (i / 16 < MpF.accbase c.mpF + MpF.acccnt c.mpF)))).head? with
  | some k => Assoc.getD (Assoc.getD p.accs (4 * x.tile + k) []) i 0
  | none => Assoc.getD x.st.acc i 0

/-- R405, Table 18-2: the slice masks of plane k as a save writes them. -/
def maskBytes (p : Snap) (x : TileSnap) (k : Nat) : List Byte :=
  if sparseLive p x k then leBytes 1536 (savedPlane p x k).m.toNat else List.replicate 1536 0

/-- Table 18-2: the bytes of row r of a slot; of rows 114 to 121 the table gives no layout, and they are free; `draw`: the
number of the draw. (DESIGN CHOICE, A98) -/
def rowBytes (p : Snap) (x : TileSnap) (r draw : Nat) : List Byte :=
  if r < 86 then Memory.readBytes x.mem (tmemKey x.tile (3072 * r)) 3072
  else if r < 108 then (List.range 384).flatMap (fun i => leBytes 8 (savedAcc p x (384 * (r - 86) + i)).toNat)
  else if r < 112 then leBytes 3072 (savedPlane p x (r - 108)).w.toNat
  else if r < 114 then maskBytes p x (2 * (r - 112)) ++ maskBytes p x (2 * (r - 112) + 1)
  else (List.range 384).flatMap (fun i => leBytes 8 (Config.freeRow draw i).toNat)

/-- R60, R405: row r of the image of a tile written to the slot of its wave, whole, under allocation tag 0 (R404). -/
def writeRow (s : State) (g tile r : Nat) : State :=
  let x := s.graph g
  match x.pending with
  | none => s
  | some p =>
    let key := shadowKey s tile (128 * shadowOf x tile p.wave + r)
    let s1 := match p.tiles.find? (fun t => t.tile == tile) with
      | some t => { s with shadow := Memory.writeBytes s.shadow key (rowBytes p t r s.drawn), drawn := if r < 114 then s.drawn else s.drawn + 1 }
      | none => s
    mapPending ((List.range 96).foldl (fun s i => s.setSector (key / 32 + i) .reset) s1) g (fun p => { p with
      tiles := p.tiles.map (fun t => if t.tile = tile then { t with rows := t.rows ++ [r] } else t) })

/-- R60, R113: the background activate of the next row of a save posted. -/
def postSave (s : State) (g tile r : Nat) : State :=
  let x := s.graph g
  let j := match x.pending with | some p => shadowOf x tile p.wave | none => 0
  s.mapTile tile (fun t => t.mapBank (firstShadow s tile + (128 * j + r) / 2048) (fun b =>
    { b with bgSince := some (b.bgSince.getD s.cycle.toNat) }))

/-- R60: a save of a tile taken on: the row whose activate has been performed written, the next one's posted; the save ends with the window
of its last activates, four of which start in one window of 96 cycles. -/
def saveStep (s : State) (g tile : Nat) (v : Saving) : State :=
  let put (s : State) (v : Saving) : State := mapPending s g (fun p => { p with saving := Assoc.set p.saving tile v })
  let next (s : State) (v : Saving) : State :=
    match v.rows with
    | [] => put s v
    | r :: _ => put (postSave s g tile r) { v with posted := true }
  match v.rows with
  | [] => if s.cycle.toNat < v.due then s else mapPending s g (fun p => { p with saving := Assoc.erase p.saving tile })
  | r :: rest =>
    let j := match (s.graph g).pending with | some p => shadowOf (s.graph g) tile p.wave | none => 0
    if !v.posted then next s v
    else if (((s.tile tile).bank (firstShadow s tile + (128 * j + r) / 2048)).bgSince).isSome then s
    else
      let due := if v.done % 4 = 0 then s.cycle.toNat - 1 + Config.actWindow else v.due
      next (writeRow s g tile r) { rows := rest, done := v.done + 1, posted := false, due := due }

/-- R60, SNAPSHOT_ROW_SAVE: the row engine of a tile: the images that can be latched, and the next row of the save that is under way. -/
def execSnapshotRowSave (tile : Nat) (s0 : State) : Out :=
  .next (
    let s := (s0.graphs.map Prod.fst).foldl (fun s g => saveTile s g tile) s0
    match s.graphs.findSome? (fun (g, x) => (x.pending.bind (fun p => Assoc.get? p.saving tile)).map (fun v => (g, v))) with
    | some (g, v) => saveStep s g tile v
    | none => s)

/-! ### The latency limit (R55, R369) -/

/-- R50, R367: REENTRY_LIMIT of slot i after the discard of a latency limit or of a cut, named by its cause, at the bight start. -/
def limitTrap (s : State) (i cause : Nat) (pc : PC) : State :=
  deliver s i { code := 0x0B, val := wd cause, pc := pc, disc := true, e := false, queue := 0, epc := 0, graph := false, open_ := false }

/-- R47, R48: whether a waiting thread has no bight open, or one of which no instruction has been executed, as before an irrevocable
instruction. -/
def Thread.outside (t : Thread) : Bool :=
  t.wait.outside ||
  ((t.wait == .commit || t.wait == .fullQueue || t.wait == .home) && t.bight == .openAt t.pc t.lc t.fpctl)

/-- R369: a thread at S back at U where its trap was taken, with its registers as they stood. -/
def Thread.trapUndone (t : Thread) : Thread :=
  let back : PC := if t.susp.isSome || bit t.tcause.toNat 12 then t.tbs
    else if t.tcause.toNat % 256 = 0x19 ∧ !bit t.tcause.toNat 8 then t.tpc - 4 else t.tpc
  let k : Kept := t.kept.getD { s := t.s, v := t.v, p := t.p, lc := t.lc, fpctl := t.fpctl }
  let lc := match t.susp with | some b => b.lc0 | none => k.lc
  let fp := match t.susp with | some b => b.fp0 | none => k.fpctl
  { t with s := k.s, v := k.v, p := k.p, lc := lc, fpctl := fp, pc := back, lvl := false, kept := none, susp := none, wait := .none,
           bight := .openAt back lc fp }

/-- R55, R49: slot i at U as wave n's limit expires (cause 0x42) or a cut arrives (cause 0x40). A thread that waits outside any bight has
nothing to discard, and its counter stays (R48). A discard that reaches the limit of R50 raises REENTRY_LIMIT, under a cut once the graph is
restored. (DEDUCED, A48) -/
def expireAtU (cause : Nat) (n : BitVec 16) (s : State) (i : Nat) : State :=
  let t := s.thread i
  if t.outside then checkpoint (s.mapThread i (fun t => { t with wait := .none })) i n t.pc
  else
    let d := t.dropBight
    let c := d.rcnt.toNat + 1
    let s1 := checkpoint (s.setThread i { d with rcnt := .ofNat 8 (min c 255) }) i n d.pc
    if c < d.rlim.toNat then s1
    else if (s1.thread i).run == .running then limitTrap s1 i cause d.pc
    else mapPending s1 t.graph (fun p => { p with
      ckpts := p.ckpts.map (fun e => if e.1 = i then (e.1, { e.2 with limit := some cause }) else e) })

/-- R55, R49, R308, R369: slot i, which has not checkpointed wave n, at the expiry: an arrival at a barrier is withdrawn, its bight is
discarded, and it checkpoints at the bight start; at S, at U where its trap was taken. -/
def expire (n : BitVec 16) (s0 : State) (i : Nat) : State :=
  let t0 := s0.thread i
  if t0.run != .running || t0.wave == n || startedHolds t0 then s0 else
  match performed (withdraw s0 i) i with
  | (s, false) => s
  | (s, true) =>
    if arrivalHeld s i then s
    else if t0.lvl then let t := (s.thread i).trapUndone; checkpoint (s.setThread i t) i n t.pc
    else expireAtU 0x42 n s i

/-- R55, LATENCY_LIMIT_EXPIRY: the limit of a forced wave of a graph has expired. -/
def execLatencyLimitExpiry (g : Nat) (s : State) : Out :=
  .next (
    let x := s.graph g
    match x.openWave, x.deadline with
    | some n, some d =>
      if x.frozen || decide (s.mod.ref < d) then s else (graphThreads s g).foldl (expire n) s
    | _, _ => s)

/-- R49, R48: whether slot i is in a blocked wait that a cut interrupts. An SPOP waits on: the marker of the cut's own wave ends it without a
change to the counter (R57). (DEDUCED, A89) -/
def cutInterrupts (s : State) (i : Nat) : Bool :=
  let t := s.thread i
  match t.wait with
  | .cleatWait => true
  | .token => true
  | .gbar => true
  | .commit => (pushEps t.bight).any (fun e => decide ((strandRoom s (tileOf i) e).2 < (pushesTo t.bight e).length))
  | _ => false

/-- R49, R48, R308: slot i as a cut arrives, in the wave n that it opens: a blocked wait at U is left, its bight is discarded with cause 0x40,
and the thread checkpoints at the bight start, or at the instruction that waits outside any; a started command (R320) keeps it from doing so.
(DEDUCED, A89) -/
def preempt (n : BitVec 16) (s0 : State) (i : Nat) : State :=
  let t := s0.thread i
  if t.run != .running || t.wave == n || t.lvl || startedHolds t || !cutInterrupts s0 i then s0 else
  match performed (withdraw s0 i) i with
  | (s, false) => s
  | (s, true) => if arrivalHeld s i then s else expireAtU 0x40 n s i

/-- R402, R49: a graph is cut: its forced wave opens, and reaches the threads that are blocked. -/
def cutWave (s : State) (g : Nat) : State :=
  let s1 := openForced (s.mapGraph g (fun x => { x with cutting := true, cutNext := false })) g
  match (s1.graph g).openWave with
  | some n => (graphThreads s1 g).foldl (preempt n) s1
  | none => s1

/-! ### Completion (R58, R148, R459) -/

/-- R58: whether every element of a tile has its snapshot of wave n and every marker n there has been met. -/
def tileComplete (s : State) (g tile : Nat) (n : BitVec 16) : Bool :=
  let t := s.tile tile
  (graphCtxs s g tile).all (fun k =>
    let c := t.ctx k
    ctxLatched s g tile k && (!MpF.drainen c.mpF || c.drainMark == n) &&
    (pick 40 (fun e => EpF.used (c.epF e))).all (fun e =>
      let p := t.ep e
      !p.hasMark n && (EpF.out (c.epF e) || (producerOf s tile e).isNone || p.marker == n)) &&
    (pick 8 (fun i => NdF.used (c.ndF i))).all (fun i =>
      !(t.node i).inq.any (fun e => e.2.any (fun b => b.isMark n)) && ((t.node i).marker == n || !(nodeInputs t k i).any (fun e => EpF.out (c.epF e) || (producerOf s tile e).isSome))) &&
    (pick 8 (fun e => EnF.used (c.enF e))).all (fun e => (t.engine e).epoch == n))

/-- R58: whether wave n of a graph is complete. -/
def waveDone (s : State) (g : Nat) (n : BitVec 16) : Bool :=
  let tiles := (graphTiles (s.graph g)).map (fun x => x.2.2)
  (graphThreads s g).all (fun i => (s.thread i).run == .halted || (s.thread i).wave == n) &&
  tiles.all (fun ti => tileComplete s g ti n) &&
  !s.flights.any (fun f => f.beat.isMark n && tiles.contains f.dstTile && epGraph (s.tile f.dstTile) f.dstEp == some g) &&
  (s.graph g).pending.any (fun p => p.saving.isEmpty && tiles.all (fun ti => p.tiles.any (fun x => x.tile == ti)))

/-- R147: the members of the rate groups of a graph, as group, weight and count between the markers. -/
def rateMembers (s : State) (g : Nat) (p : Snap) : List (Nat × Int × Nat) :=
  (graphTiles (s.graph g)).flatMap (fun (_, _, ti) => (graphCtxs s g ti).flatMap (fun k =>
    (pick 40 (fun e => let f := ((s.tile ti).ctx k).epF e; EpF.used f && EpF.rgen f)).map (fun e =>
      let f := ((s.tile ti).ctx k).epF e
      (EpF.rgrp f, EpF.rwt f, (Assoc.getD p.eps (40 * ti + e) .empty).rate.toNat))))

/-- R148: the first rate group whose weighted sum is not zero, with its members and its sum; of several the record names the lowest.
(DESIGN CHOICE, A80) -/
def imbalance (ms : List (Nat × Int × Nat)) : Option (Nat × Nat × Nat) :=
  (List.range 64).findSome? (fun r =>
    let mine := ms.filter (fun m => m.1 == r)
    let sum := (wi (mine.foldl (fun a m => a + m.2.1 * (m.2.2 : Int)) 0)).toNat % 2 ^ 32
    if sum = 0 then none else some (r, mine.length, sum))

/-- R122, R459, R460: a block that a graph has written since its last encode, encoded at the completion of a wave: its lanes are then those of
the new encoding, and no graph has written it since. -/
def waveEncode (g : Nat) (s : State) (b : Block) : State :=
  if !b.writers.contains g then s else
  let s1 := encodeBlock s b
  let bits := leNat (Memory.readBytes s1.vault b.off (32 * b.budget))
  let lanes := if b.dirty then ((codecDecode bits (16 * b.budget)).1).map wd else b.lanes
  s1.mapHome (b.off / 2 ^ 28) (fun h => { h with
    cache := h.cache.map (fun c => if c.off = b.off then { c with lanes := lanes, dirty := false, writers := [] } else c) })

/-- R417: the held writes of a graph that wave n releases: those of the epochs before it. -/
def releaseEgress (s : State) (g : Nat) (n : BitVec 16) : State :=
  let s := sendHeld s (fun x => x.1 == g && x.2.1 != n)
  { s with
    ports := s.ports.map (fun (i, p) => (i, { p with
      stream := p.stream ++ (p.egress.filter (fun x => x.1 == g && x.2.1 != n)).map (fun x => x.2.2),
      egress := p.egress.filter (fun x => !(x.1 == g && x.2.1 != n)) })) }

/-- R171: the accepted accesses of a graph's epochs before wave n performed. -/
def drainGraph (s : State) (g : Nat) (n : BitVec 16) : State :=
  ((s.homeQ.filter (fun o => o.graph == g && o.epoch != n)).map (fun o => lineOf o.leaf.toNat o.large o.ea)).foldl drainLine s

/-- R459: the accepted accesses to codec blocks performed, by whatever agent. -/
def drainCodec (s : State) : State :=
  (((s.homeQ.map (fun o => lineOf o.leaf.toNat o.large o.ea)).filter (fun l => l.1 == 2)).eraseDups).foldl drainLine s

/-- R459, R112: whether the encodes of a completion by a graph wait: for an access to a codec block that its home has accepted, or for a bank
in which a block lies. -/
def encodesHeld (s : State) (g : Nat) : Bool :=
  s.homeQ.any (fun o => (lineOf o.leaf.toNat o.large o.ea).1 == 2) ||
    s.homes.any (fun h => h.2.cache.any (fun b => b.writers.contains g && b.dirty && bankHeld s b.off))

/-- R414: the undo entries of a graph's epochs before wave n dropped. -/
def dropUndo (s : State) (g : Nat) (n : BitVec 16) : State :=
  { s with homes := s.homes.map (fun (i, h) => (i, { h with undo := h.undo.filter (fun u => !(u.graph == g && u.epoch != n)) })) }

/-- R145: the coil lines that a wave kept from reuse are free again. -/
def freeSpent (s : State) (g : Nat) : State :=
  (graphTiles (s.graph g)).foldl (fun s (_, _, ti) => s.mapTile ti (fun t =>
    let mine (c : Option Nat) : Bool := c.any (fun k => (t.ctx k).graph == some g)
    { t with eps := t.eps.map (fun (e, p) => (e, if mine (claimEp t e) then { p with spent := 0, caught := [] } else p)),
             nodes := t.nodes.map (fun (i, x) => (i, if mine (claimNd t i) then { x with spent := 0 } else x)) })) s

/-- R181, R402: the local accesses that a graph's releases still hold back, performed in the snapshot with which it is cut. (DESIGN
CHOICE, A88) -/
def settleHeld (s : State) (g : Nat) : State :=
  let mine (o : HomeOp) : Bool := o.graph == g && isLocal o.ea
  (s.held.filter mine).foldl settleSnap { s with held := s.held.filter (fun o => !mine o) }

/-- R406: a graph that holds only the shadow slots of its last complete wave. -/
def Graph.keepSlot (x : Graph) : Graph := { x with shadow := x.shadow.filter (fun e => e.1 % 2 == x.lastWave.toNat % 2) }

/-- R402, R406, R365: the cut of a graph is complete: it is Cut, and holds only its snapshot; the graph-level traps that its report thread has
not taken are raised as it resumes. -/
def cutDone (s : State) (g : Nat) : State :=
  let traps := (graphThreads s g).flatMap (fun i => (s.thread i).gtraps)
  let s1 := (settleHeld s g).mapGraph g (fun x => { x.keepSlot with
    st := .cut, cutting := false, cutNext := false, owedTraps := x.owedTraps ++ traps })
  (releaseGraph (statusBlock s1 g) g).mapPart (graphPart g) (fun p =>
    { p with evalDue := true, pressure := if p.pressure == some g then none else p.pressure })

/-- R58, R459: wave n of a graph recorded as complete. -/
def recordWave (s : State) (g : Nat) (n : BitVec 16) : State :=
  let s2 := (s.homes.flatMap (fun h => h.2.cache)).foldl (waveEncode g) s
  let s3 := s2.mapGraph g (fun x => { x with
    lastWave := n, lastAt := s.timeOf (tileAt x.x x.y), snap := x.pending, pending := none, openWave := none, deadline := none, rollbacks := 0, lapsed := false })
  let s4 := freeSpent (releaseEgress (dropUndo s3 g n) g n) g
  if (s.graph g).cutting then cutDone s4 g
  else if (s.graph g).cutNext then cutWave s4 g
  else s4

/-- R58, R148, R459, WAVE_COMPLETE: the open wave of a graph is recorded as complete, unless a rate group is out of balance, once its encodes can be
performed. -/
def execWaveComplete (g : Nat) (s : State) : Out :=
  .next (
    let x := s.graph g
    match x.openWave, x.pending with
    | some n, some p =>
      if x.st != .running || x.frozen || x.waiting.isSome || !waveDone s g n then s else
      match imbalance (rateMembers s g p) with
      | some (r, m, sum) =>
        trigger (record s (Rec.plain 7 (tileAt x.x x.y) (some g) r 0 (wd (m * 2 ^ 32 + sum)))) g 7
      | none =>
        let s1 := drainCodec (drainGraph s g n)
        if encodesHeld s1 g then s1 else recordWave s1 g n
    | _, _ => s)

/-! ### Commits in progress (R44) -/

/-- R44, COMMIT: the buffers of a slot whose knot waits are released once every strand has room; the knot then finds them empty. -/
def execCommit (th : Nat) (s : State) : Out :=
  .next (
    let t := s.thread th
    let far := contained (s.graph t.graph) && t.bight.stores.any (fun o => decide (8 ≤ o.relScope))
    if t.run != .running || t.wait != .commit || !elementRuns s (tileOf th) t.graph || far then s else
    match epochMetBy s th (deferredReads t.bight.stores) with
    | some n => meetMarkerBy s th n .commit
    | none =>
    match commitBlock s th with
    | (s', none) => release s' th none t.pc
    | _ => s)

/-- R44, R180, R181, KNOT_RETIRE: what the commit of a slot still holds back is released; every home has accepted what it released, and
nothing else holds its knot. -/
def execKnotRetire (th : Nat) (s0 : State) : Out :=
  .next (
    let s := acceptHeld s0 th
    let t := s.thread th
    let b := t.bight
    if t.wait == .commit && b.stores.isEmpty && b.pushes.isEmpty && b.pops.isEmpty && !commitPending s th && !startedHolds t then
      s.mapThread th (fun t => { t with wait := .none })
    else s)

/-! ### Homes (R171, R452) and egress (R417) -/

/-- R171, HOME_PERFORM: the home of the n-th accepted access performs its line's, in the order they were accepted. -/
def execHomePerform (n : Nat) (s : State) : Out :=
  .next (match s.homeQ[n]? with
    | some o => drainLine s (lineOf o.leaf.toNat o.large o.ea)
    | none => s)

/-- R452, R453, DEAD_HOME_ANSWER: the n-th accepted access names a home that does not answer its tile and is answered by a router: a write is
dropped, an atomic is not performed, and a record names it. -/
def execDeadHomeAnswer (n : Nat) (s : State) : Out :=
  .next (match s.homeQ[n]? with
    | some o =>
      if !Pte.host o.leaf.toNat && homeDead s (tileOf o.th) (Pte.tile o.leaf.toNat) && opReady s o then
        performOp { s with homeQ := s.homeQ.eraseIdx n } o
      else s
    | none => s)

/-- R417: the bytes held in the egress buffer of a port; port 128 is the bridge. -/
def egressHeld (s : State) (port : Nat) : Nat := if port = 128 then s.bridge.length 
  else 32 * ((s.port port).egress.filter (fun x => !x.2.2.beat.isMarker)).length

/-- R417: the graphs that hold writes in an egress buffer. -/
def egressGraphs (s : State) (port : Nat) : List Nat :=
  (if port = 128 then s.bridge.map Prod.fst else (s.port port).egress.map Prod.fst).eraseDups

/-- R417, EGRESS_THRESHOLD: an egress buffer that is 75 % full opens a forced wave on each contained graph that holds writes in it. -/
def execEgressThreshold (port : Nat) (s : State) : Out :=
  .next (if egressHeld s port < Config.egressBytes / 4 * 3 then s else
    (egressGraphs s port).foldl (fun s g =>
      if (s.graph g).openWave.isNone && (s.graph g).st == .running && !(s.graph g).frozen then openForced s g else s) s)

end Sys2Proof.Machine
end

