-- ==== Sys2Proof/Machine/Restore.lean ====
section
/-! DEFINITION. Snapshots as they are restored: placement of a snapshot on other tiles, the steps 3 to 7 of R410, and rollback
(R418 to R422, R454). -/

namespace Sys2Proof.Machine

/-! ### The launch state (R53) -/

/-- R53: the launch state of a graph, as the snapshot of wave n with nothing under way. -/
def snapNow (s : State) (g : Nat) (n : BitVec 16) : Snap :=
  let tiles := (graphTiles (s.graph g)).map (fun x => x.2.2)
  let ctxs := tiles.flatMap (fun ti => (graphCtxs s g ti).map (fun k => (ti, k)))
  { Snap.start n with
    tiles := tiles.map (fun ti => tileImage s g ti [] []),
    ckpts := (graphThreads s g).map (fun i => (i, Ckpt.take (s.thread i) (s.thread i).pc n)),
    eps := ctxs.flatMap (fun (ti, k) => (pick 40 (fun e => EpF.used (((s.tile ti).ctx k).epF e))).map (fun e => (40 * ti + e, (s.tile ti).ep e))),
    nodes := ctxs.flatMap (fun (ti, k) => (pick 8 (fun e => NdF.used (((s.tile ti).ctx k).ndF e))).map (fun e => (8 * ti + e, (s.tile ti).node e))),
    engines := ctxs.flatMap (fun (ti, k) => (pick 8 (fun e => EnF.used (((s.tile ti).ctx k).enF e))).map (fun e => (8 * ti + e, (s.tile ti).engine e))),
    ctxs := ctxs.map (fun (ti, k) => (4 * ti + k, (s.tile ti).ctx k)),
    accs := ctxs.map (fun (ti, k) =>
      let f := ((s.tile ti).ctx k).mpF
      (4 * ti + k, (s.tile ti).acc.filter (fun e => decide (MpF.accbase f ≤ e.1 / 16) && decide (e.1 / 16 < MpF.accbase f + MpF.acccnt f)))) }

/-! ### Placement of a snapshot (R410 step 2) -/

/-- A placement: the origin, the physical context of each logical one, and the slot of each thread of a tile by its number. -/
structure Place2 where
  x    : Nat
  y    : Nat
  cmap : Vector (BitVec 2) 4
  /-- By 4 * tile + thread number. -/
  slots : Assoc Nat
  deriving DecidableEq, Repr

/-- The tile to which a tile of a graph moves. -/
def moveTile (g : Graph) (p : Place2) (tile : Nat) : Nat := tileAt (p.x + (tileX tile - g.x)) (p.y + (tileY tile - g.y))
/-- The context to which a context of a graph moves. -/
def moveCtx (g : Graph) (p : Place2) (k : Nat) : Nat :=
  let c := ((pick 4 (fun c => decide (c < g.nctx) && physCtx g c == k)).head?).getD 0
  (p.cmap.get ⟨c % 4, Nat.mod_lt _ (by decide)⟩).toNat
/-- The slot to which a slot of a snapshot moves. -/
def moveSlot (g : Graph) (p : Place2) (sn : Snap) (i : Nat) : Nat :=
  let t := moveTile g p (tileOf i)
  match Assoc.get? sn.ckpts i with
  | some c => 4 * t + Assoc.getD p.slots (4 * t + c.tno.toNat) (slotOf i)
  | none => 4 * t + slotOf i

/-- A 4-bit mask of contexts moved. -/
def moveMask (g : Graph) (p : Place2) (m : BitVec 4) : BitVec 4 :=
  (pick 4 (fun k => m.getLsbD k)).foldl (fun n k => n ||| (1#4 <<< moveCtx g p k)) 0

/-- R410 step 2: a snapshot of a graph as it lies on another placement. -/
def moveSnap (g : Graph) (p : Place2) (sn : Snap) : Snap :=
  let key (n : Nat) (k : Nat) : Nat := n * moveTile g p (k / n) + k % n
  let ckey (k : Nat) : Nat := 4 * moveTile g p (k / 4) + moveCtx g p (k % 4)
  { sn with
    tiles := sn.tiles.map (fun t =>
      let ti := moveTile g p t.tile
      { t with tile := ti, kept := some (t.kept.getD t.tile), mem := t.mem.map (fun c => (tmemKey ti (c.1 % 2 ^ 18), c.2)),
               poison := t.poison.map (fun w => tmemKey ti (8 * w % 2 ^ 18) / 8) }),
    ckpts := sn.ckpts.map (fun c => (moveSlot g p sn c.1, c.2)),
    eps := sn.eps.map (fun e => (key 40 e.1, e.2)),
    nodes := sn.nodes.map (fun e => (key 8 e.1, e.2)),
    engines := sn.engines.map (fun e => (key 8 e.1, { e.2 with opener := slotOf (moveSlot g p sn (4 * (e.1 / 8) + e.2.opener)) })),
    ctxs := sn.ctxs.map (fun e => (ckey e.1, e.2)),
    accs := sn.accs.map (fun e => (ckey e.1, e.2)),
    planes := sn.planes.map (fun e => (ckey e.1, e.2)),
    runs := sn.runs.map (fun e => (moveSlot g p sn e.1, e.2)),
    regions := sn.regions.map (fun r => { r with x := p.x + (r.x - g.x), y := p.y + (r.y - g.y), pctx := moveCtx g p r.pctx }),
    rects := sn.rects.map (fun q =>
      { q with x := p.x + (q.x - g.x), y := p.y + (q.y - g.y), enabled := moveMask g p q.enabled, last := moveCtx g p q.last }) }

/-! ### Restoring (R410 steps 3 to 7) -/

/-- R410 step 4: the logical cell rows and columns of a tile in a context, by its cell-row frames. -/
def logicalCells (c : Ctx) : List Nat × List Nat :=
  (pick 16 (fun r => !bit (c.frame r) 255), pick 16 (fun k => !bit (c.frame 0) (239 + k)))

/-- R410 step 4: the bits of each cell moved from its logical position on the old tile to the same one on the new; a bypassed cell
receives zero. `w`: bits of a cell. -/
def moveCells (w n : Nat) (old new : List Nat × List Nat) (bits : Nat) : Nat :=
  let pos (l : List Nat) (x : Nat) : Option Nat := l.findIdx? (fun y => y == x)
  (List.range n).foldl (fun acc i =>
    match (pos new.1 (i / 16)).bind (fun a => old.1[a]?), (pos new.2 (i % 16)).bind (fun b => old.2[b]?) with
    | some r, some c => acc + bits / 2 ^ (w * (16 * r + c)) % 2 ^ w * 2 ^ (w * i)
    | _, _ => acc) 0

/-- R410 step 4: a plane as it lies in a tile of other bypasses. -/
def movePlane (old new : Ctx) (p : Plane) : Plane :=
  if logicalCells old = logicalCells new then p
  else { p with w := .ofNat 24576 (moveCells 96 256 (logicalCells old) (logicalCells new) p.w.toNat),
                m := .ofNat 12288 (moveCells 48 256 (logicalCells old) (logicalCells new) p.m.toNat) }

/-- R410 step 5: an endpoint refilled with its saved queue and then its recorded beats. -/
def refilled (n : BitVec 16) (now : Nat) (out : Bool) (x : Endpoint) : Endpoint :=
  let y : Endpoint := { x with caught := [], marker := n, spent := 0, fault := false, idle := now, wakeAt := 0, gated := false, rate := 0,
                               errSeen := none, refill := false, stall := .zero,
                               came := x.came + (x.caught.filter (fun (b : Beat) => !b.isMarker)).length }
  if out then { y with q := x.q ++ x.caught }
  else if !x.coil.isEmpty then { y with coil := x.coil ++ x.caught }
  else
    let all := x.q ++ x.caught
    let m := if x.spill then max x.q.length x.hi else all.length
    { y with q := all.take m, coil := all.drop m }

/-- R410 step 7: a thread at its checkpoint. The S registers are not part of it (R369). -/
def Thread.resumed (t : Thread) (c : Ckpt) (n : BitVec 16) (runs : List Active) (now : Nat) : Thread :=
  let back (a : Active) : Active :=
    let whole := decide (runCount a.cmd.va ≤ a.pos)
    { a with row := a.pos, done := whole, due := now, held := none, fill := [], guest := none, mayEnter := 0 }
  { Thread.reset with
    s := c.s, v := c.v, p := c.p, lc := c.lc, fifo := c.fifo, pc := c.pc, fpctl := c.fpctl, wave := n, rlim := t.rlim,
    run := if c.halted then .halted else .running, bight := .openAt c.pc c.lc c.fpctl,
    graph := t.graph, lx := t.lx, ly := t.ly, lctx := t.lctx, pctx := t.pctx, tno := t.tno, nthr := t.nthr, gtraps := t.gtraps,
    queues := .ofFn (fun q => { waiting := (c.cmds.get q).waiting, active := if q.val = 3 then (runs.filter (fun a => a.cmd.wave != n)).map back else [] }) }

/-- R50: a thread whose last discard before the cut reached the re-entry limit does not re-enter. (DEDUCED, A48) -/
def limitReached (s : State) (c : Nat × Ckpt) : State := match c.2.limit with | some cause => limitTrap s c.1 cause c.2.pc | none => s

/-- R104, R354: the words of the instruction buffer of a tile that stand in bytes that a load writes leave it. -/
def dropFetched (s : State) (tile : Nat) (hit : Nat → Bool) : State :=
  s.mapTile tile (fun t => { t with ibuf := t.ibuf.filter (fun w => !hit (tmemKey tile w.1)) })

/-- R462: the handler image of a partition as of its last load, with a window. -/
def State.loadedImage (s : State) (part : Nat) (hwin : Word) (img : List Byte) : State :=
  if bit hwin.toNat 63 then { s with mod := { s.mod with himgs := Assoc.set s.mod.himgs part img } } else s

/-- R364: the handler window of a tile written from the handler image. -/
def writeWindow (hwin : Word) (img : List Byte) (s : State) (tile : Nat) : State :=
  let h := hwin.toNat
  if !bit h 63 then s else
  tmemWrite (dropFetched s tile (fun a => inWindow hwin (a % 2 ^ 18) 4)) (tmemKey tile (4096 * fld h 5 0)) (img.take (4096 * (fld h 13 8 + 1)))

/-- R410 step 4, R354: tile memory from the image of a tile: the slots that the image holds are written, the discardable ones are zero and
marked (R125), and no other is touched. -/
def restoreMemory (g : Nat) (x : TileSnap) (s : State) : State :=
  let hit (a : Nat) : Bool := a / 2 ^ 18 == x.tile &&
    (x.slots.getLsbD (a % 2 ^ 18 / 4096) || slotDiscarded s g x.tile (a % 2 ^ 18 / 4096))
  { dropFetched s x.tile hit with
    tmem := x.mem.foldl (fun m c => Memory.write m c.1 c.2) (s.tmem.filter (fun c => !hit c.1)),
    tpoison := s.tpoison.filter (fun w => !hit (8 * w)) ++ x.poison,
    tbad := s.tbad.filter (fun w => !hit (8 * w)) }

/-- R410 step 4, R166: context k of a tile: its plane, its accumulator window, its counters, its scale registers and its format
entries. (DEDUCED, A47) -/
def restoreCtx (sn : Snap) (x : TileSnap) (k : Nat) (t : Tile) : Tile :=
  let c := t.ctx k
  let key := 4 * x.tile + k
  let old := (Assoc.get? sn.ctxs key).getD c
  let f := c.mpF
  let inWin (r : Nat) : Bool := decide (MpF.accbase f ≤ r) && decide (r < MpF.accbase f + MpF.acccnt f)
  let c1 : Ctx := { old with
    graph := c.graph, lctx := c.lctx, loaded := true, loading := false, failed := false, frames := c.frames,
    discarded := old.discarded ||| .ofNat 64 (MpF.discard c.thF), marker := sn.wave, drainMark := sn.wave, feedFault := false,
    drainFault := false, errSeen := none, feed := .zero, drain := .zero }
  let t1 := t.mapPlane k (fun _ => movePlane old c1 ((Assoc.get? sn.planes key).getD (x.st.plane k)))
  let acc := (Assoc.getD sn.accs key []).foldl (fun m e => Assoc.set m e.1 e.2) (t1.acc.filter (fun e => !inWin (e.1 / 16)))
  let t2 := { t1 with acc := acc, accPoison := t1.accPoison.filter (fun e => !inWin (e / 16)) ++ x.st.accPoison.filter (fun e => inWin (e / 16)),
                      accBad := t1.accBad.filter (fun e => !inWin (e / 16)), tags := x.st.tags }
  let t3 := (pick 32 (fun i => bit (MpF.scown c.thF) i && bit (MpF.scown old.thF) i)).foldl (fun t i =>
    { t with sc := if h : i < 32 then t.sc.set i (x.st.scale i) h else t.sc }) t2
  let t4 := (pick 32 (fun e => EpF.used (c.epF e) && EpF.used (old.epF e))).foldl (fun t e =>
    { t with sfmt := if h : e < 32 then t.sfmt.set e (.ofNat 16 (x.st.fmtEntry e)) h else t.sfmt }) t3
  t4.setCtx k c1

/-- R410 steps 5, 6: the endpoints, nodes and engines of context k of a tile; their stall registers are cleared (R133). -/
def restoreFabric (sn : Snap) (now ti k : Nat) (t : Tile) : Tile :=
  let c := t.ctx k
  let t1 := (pick 40 (fun e => EpF.used (c.epF e))).foldl (fun t e =>
    match Assoc.get? sn.eps (40 * ti + e) with
    | some x => t.mapEp e (fun _ => refilled sn.wave now (EpF.out (c.epF e)) x)
    | none => t.mapEp e (fun x => { x with marker := sn.wave, stall := .zero })) t
  let t2 := (pick 8 (fun i => NdF.used (c.ndF i))).foldl (fun t i =>
    t.mapNode i (fun cur => { (Assoc.get? sn.nodes (8 * ti + i)).getD cur with
      marker := sn.wave, seen := [], spent := 0, fault := false, stall := .zero,
      gates := cur.gates.map (fun x => (x.1, { idle := now, wakeAt := 0, gated := false })) })) t1
  (pick 8 (fun e => EnF.used (c.enF e))).foldl (fun t e =>
    t.mapEngine e (fun cur => { (Assoc.get? sn.engines (8 * ti + e)).getD cur with
      marker := sn.wave, epoch := sn.wave, fault := false, held := none, host := none, tlb := [], errSeen := none, stall := .zero })) t2

/-- R115, R410 step 6, R419: the open-row set of a tile restored: its rows are reactivated, a transfer waiting out T_ACT, and a row opened
since the snapshot is closed where no other graph has a context of the tile. (DEDUCED, A92) -/
def reopenRows (now g : Nat) (st t : Tile) : Tile :=
  let shared := t.ctxs.any (fun c => c.graph.any (fun k => k != g))
  let t0 := if shared then t else { t with banks := t.banks.map (fun b => (b.1, { b.2 with row := none, forced := none })) }
  (st.banks.filter (fun b => (b.2.row.or b.2.forced).isSome)).foldl (fun t b =>
    t.mapBank b.1 (fun x => { x with row := (b.2.row.or b.2.forced).map (fun r => (r.1, now)), readyAt := now + Config.tAct, closed := none })) t0

/-- R410 step 2, R143, R145: the live lines of the coil of endpoint e, or of multicast node e - 40, of a tile written to its coil area. -/
def restoreCoil (g tile : Nat) (s : State) (e : Nat) : State :=
  if 40 ≤ e then
    let n := e - 40
    let f := ndFrame (s.tile tile) n
    let x := (s.tile tile).node n
    if NdF.kind f ≠ 4 then s else
    (x.held.zipIdx.drop (nodeBuffers f)).foldl (fun s b => coilWrite s tile g (nodeLine f (x.taken - x.held.length + b.2)) b.1) s
  else
    let p := (s.tile tile).ep e
    let first := p.lines.headD 0 - EpF.cbase (epFrame (s.tile tile) e)
    p.coil.foldl (fun s b => coilPut s tile g e b)
      (if p.coil.isEmpty then s else s.mapTile tile (fun t => t.mapEp e (fun p => { p with coil := [], lines := [], tail := first })))

/-- R410 step 4 to 6 on one tile. (DEDUCED, A47) -/
def restoreTile (g : Nat) (sn : Snap) (s : State) (x : TileSnap) : State :=
  let ks := graphCtxs s g x.tile
  let s1 := (restoreMemory g x s).mapTile x.tile (fun t =>
    reopenRows s.cycle.toNat g x.st (ks.foldl (fun t k => restoreFabric sn s.cycle.toNat x.tile k (restoreCtx sn x k t)) t))
  (ks.flatMap (fun k =>
    let c := (s.tile x.tile).ctx k
    pick 40 (fun e => EpF.used (c.epF e)) ++ (pick 8 (fun n => NdF.used (c.ndF n))).map (fun n => 40 + n))).foldl (restoreCoil g x.tile) s1

/-- R157: the beats that wait in the queue of a feed port which no strand feeds are those of its stream engine. -/
def restoreMine (ti k : Nat) (s : State) : State :=
  let c := (s.tile ti).ctx k
  let e := MpF.feedep c.mpF
  let p := (s.tile ti).ep e
  match pick 8 (fun n =>
    let x := (s.tile ti).engine n
    EnF.used (c.enF n) && x.running && fld x.scb.toNat 28 26 == 0) with
  | n :: _ =>
    if !MpF.feeden c.mpF || (producerOf s ti e).isSome then s
    else s.mapTile ti (fun t => t.mapEp e (fun p =>
      { p with mine := if p.spills then [] else (List.range (waitingBeats p)).map (fun i => (p.came - waitingBeats p + i, n)) }))
  | [] => if p.mine.isEmpty then s else s.mapTile ti (fun t => t.mapEp e (fun p => { p with mine := [] }))

/-- R410 step 5: each edge's producer holds the permits that no beat stands for. -/
def restorePermits (g : Nat) (s : State) (ti : Nat) : State :=
  (graphCtxs s g ti).foldl (fun s0 k =>
    let s := restoreMine ti k s0
    (pick 40 (fun e => let f := ((s.tile ti).ctx k).epF e; EpF.used f && EpF.out f && !EpF.toPort f)).foldl (fun s e =>
      let (dt, de) := destOf s g e (((s.tile ti).ctx k).epF e)
      let d := (s.tile dt).ep de
      s.mapTile ti (fun t => t.mapEp e (fun p => { p with permits := EpF.q (epFrame (s.tile dt) de) - if d.spills then 0 else waitingBeats d - d.enginesIn d.q }))) s) s

/-- R410 step 3: the regions of a snapshot fused anew under the defect map as it stands, and the enabled sets of their rectangles. -/
def refuse (g : Nat) (sn : Snap) (s : State) : State :=
  let s1 := sn.regions.foldl (fun s r => fuse s (regionOn s g r.pctx r.x r.y r.w r.h)) s
  let mask := (sn.regions.map (fun r => r.pctx)).foldl (fun (m : BitVec 4) k => m ||| (1#4 <<< k)) 0
  { s1 with
      rects := s1.rects.map (fun q =>
      match sn.rects.find? (fun p => p.x == q.x && p.y == q.y && p.w == q.w && p.h == q.h) with
      | some p => { q with enabled := (q.enabled &&& ~~~mask) ||| (p.enabled &&& mask), last := p.last, fresh := false }
      | none => q) }

/-- R364: the handler image at an address of a partition, as many bytes as its window has. -/
def handlerImage (s : State) (part : Nat) (himg hwin : Word) : Option (List Byte) :=
  if !bit hwin.toNat 63 then some [] else
  (linePieces himg (4096 * (fld hwin.toNat 13 8 + 1))).foldl (fun acc p =>
    match acc, sysRead s part p.1 p.2.2 with
    | some bs, some b => some (bs ++ b)
    | _, _ => none) (some [])

/-! ### The kept slots (R406, R407, R410 step 2) -/

/-- R406: the tile and the slot in which the image of a tile of a snapshot lies. -/
def keptSlot (x : Graph) (n : BitVec 16) (t : TileSnap) : Nat × Nat :=
  match t.kept with
  | some k => (k, Assoc.getD x.oldShadow (2 * k + n.toNat % 2) 0)
  | none => (t.tile, shadowOf x t.tile n)

/-- R407: the written rows of the kept slot of a tile's image: the tile, the shadow row, and the key of its first byte. -/
def keptRows (s : State) (x : Graph) (n : BitVec 16) (t : TileSnap) : List (Nat × Nat × Nat) :=
  let (tile, j) := keptSlot x n t
  t.rows.map (fun r => (tile, 128 * j + r, shadowKey s tile (128 * j + r)))

/-- R118, R446, R449: what the reading of the kept slots does to their sectors, where some hold an error. -/
def readKept (s : State) (x : Graph) (sn : Snap) : State :=
  let hurt := (s.sectors.filter (fun e => e.2.cond != .clean)).map Prod.fst
  (sn.tiles.flatMap (keptRows s x sn.wave)).foldl (fun s r =>
    (hurt.filter (fun k => decide (r.2.2 / 32 ≤ k) && decide (k < r.2.2 / 32 + 96))).foldl (fun s k => (readSector s k 0).1) s) s

/-- R407: the first shadow row of a snapshot that reads uncorrectable, with its tile. (DEDUCED, A50) -/
def badRow? (s : State) (x : Graph) (sn : Snap) : Option (Nat × Nat) :=
  sn.tiles.findSome? (fun t =>
    (t.bad.map (fun r => ((keptSlot x sn.wave t).1, r))).or
      (((keptRows s x sn.wave t).find? (fun r => (List.range 96).any (fun i => (s.sector (r.2.2 / 32 + i)).lost 0))).map (fun r => (r.1, r.2.1))))

/-- R410 step 2: the written rows of a kept slot copied to the slot of its parity on the tile to which the image moves. -/
def copyKept (x : Graph) (n : BitVec 16) (s : State) (t : TileSnap) : State :=
  if t.kept.isNone then s else
  (keptRows s x n t).foldl (fun s r =>
    let key := shadowKey s t.tile (128 * shadowOf x t.tile n + r.2.1 % 128)
    (List.range 96).foldl (fun s i => s.setSector (key / 32 + i) .reset)
      { s with shadow := Memory.writeBytes s.shadow key (Memory.readBytes s.shadow r.2.2 3072) }) s

/-- R410 steps 3 to 7, R424: the snapshot of a graph's last complete wave put into its tiles, whose contexts are loaded. (DEDUCED, A53) -/
def restore (s : State) (g : Nat) (sn : Snap) : State :=
  let gr := s.graph g
  let tiles := (graphTiles gr).map (fun x => x.2.2)
  let s1 := refuse g sn s
  let img := (handlerImage s1 gr.part gr.himg gr.hwin).getD []
  let s2 := sn.tiles.foldl (restoreTile g sn) s1
  let s3 := (tiles.foldl (writeWindow gr.hwin img) s2).loadedImage gr.part gr.hwin img
  let s4 := tiles.foldl (restorePermits g) s3
  let s5 := sn.ckpts.foldl (fun s c =>
    s.mapThread c.1 (fun t => t.resumed c.2 sn.wave (Assoc.getD sn.runs c.1 []) s.cycle.toNat)) s4
  let s6 := { s5 with links := s5.links.filter (fun l => !tiles.contains (l.1 / 8192) && !tiles.contains (l.1 % 8192)) }
  sn.ckpts.foldl limitReached (s6.mapGraph g (fun x => { x with
    openWave := none, deadline := none, pending := none, hang := 0 }))

/-- R410, R407: the snapshot restored from its kept slots, or the graph terminated for a shadow row that reads uncorrectable. The slots
that it leaves are released with it. -/
def tryRestore (s0 : State) (g : Nat) (sn : Snap) : State :=
  let x := s0.graph g
  let s := readKept s0 x sn
  match badRow? s0 x sn with
  | some (t, r) => endGraph (record s { Rec.plain 0xE t (some g) 0 (wd r) 0 with graph := some g }) g .terminated 8
  | none =>
    let here := { sn with tiles := sn.tiles.map (fun t => { t with kept := none }) }
    (restore (sn.tiles.foldl (copyKept x sn.wave) s) g sn).mapGraph g (fun y => { y with snap := y.snap.map (fun _ => here), oldShadow := [] })

/-! ### Contributions (R408) -/

/-- R408: the logical contributions of every tile to every region of an image placed at an origin. -/
def contributions (s : State) (shapes : List (Nat × Nat × Nat × Nat × Nat × Nat)) (x0 y0 : Nat) : List (Nat × Nat) :=
  shapes.flatMap (fun (x, y, w, h, _, _) => (List.range h).flatMap (fun j => (List.range w).map (fun i =>
    ((pick 16 (fun r => !badRow s (x0 + x) w (y0 + y + j) r)).length, (pick 16 (fun c => !badCol s (x0 + x + i) (y0 + y) h c)).length))))

/-! ### Rollback (R418 to R422, R454) -/

/-- Table 18-5: STATUS CAUSE of a trigger, by the class of its record. -/
def triggerCause (cls : Nat) : Nat := if cls = 7 then 0x14 else 8

/-- R419 step 3, R421: the undo entries of a graph at one home applied in the reverse of their logging order: of a line with entries of two
epochs, that of the earlier holds. Decoded blocks of an undone frame are dropped without encoding, and each line that is written signals
(R386). -/
def applyUndo (g : Nat) (s : State) (home : Nat) : State :=
  let all := (s.home home).undo.filter (fun u => u.graph == g)
  let mine := all.filter (fun u => !all.any (fun v => v.line == u.line && precedes v.epoch u.epoch))
  let s1 := mine.reverse.foldl (fun s u =>
    let base := vaultKey home (64 * u.line)
    let s' := { s with vault := Memory.writeBytes s.vault base u.old }
    signalLine (u.sects.zipIdx.foldl (fun s (x, i) => s.setSector (base / 32 + i) x) s') (0, base / 64)) s
  let undone (b : Block) : Bool := (sectorsOf (b.off % 2 ^ 28) (32 * b.budget)).any (fun k => mine.any (fun u => u.line == k / 2))
  s1.mapHome home (fun h => { h with undo := h.undo.filter (fun u => u.graph != g), cache := h.cache.filter (fun b => !undone b) })

/-- The graph of the edge to which a permit under way belongs. -/
def permitGraph (s : State) (p : PermitFly) : Option Nat :=
  if p.ep < 40 then epGraph (s.tile p.tile) p.ep
  else (claimEn (s.tile p.tile) (p.ep - 40)).bind (fun k => ((s.tile p.tile).ctx k).graph)

/-- R419 steps 1 to 3: a graph stopped, its held writes dropped and its lines undone. -/
def unwind (s : State) (g : Nat) : State :=
  let tiles := (graphTiles (s.graph g)).map (fun x => x.2.2)
  let mine (ti e : Nat) : Bool := tiles.contains ti && epGraph (s.tile ti) e == some g
  let gone := s.regions.filter (fun r => r.graph == g)
  let s1 := { s with
    regions := s.regions.filter (fun r => r.graph != g),
    rects := s.rects.filter (fun r => s.regions.any (fun q => q.graph != g && q.x == r.x && q.y == r.y && q.w == r.w && q.h == r.h)),
    vecs := s.vecs.filter (fun v => !gone.any (fun r => r.x == v.x && r.y == v.y && r.pctx == v.pctx)),
    flights := s.flights.filter (fun f => !mine f.srcTile f.srcEp), permits := s.permits.filter (fun p => permitGraph s p != some g),
    homeQ := s.homeQ.filter (fun o => o.graph != g || precedes o.epoch (s.graph g).lastWave),
    held := s.held.filter (fun o => o.graph != g || precedes o.epoch (s.graph g).lastWave) }
  ((dropEgress s1 g).homes.map Prod.fst).foldl (applyUndo g) (dropEgress s1 g)

/-- R454, R457: whether a graph can no longer be restored where it stands. -/
def mustMove (s : State) (g : Nat) : Bool :=
  let x := s.graph g
  (graphTiles x).any (fun (_, _, ti) => (s.tile ti).retired || (s.tile ti).routerRetired) || contributions s x.minShapes x.x x.y != x.contrib

/-- R419, R421, R166: the frames of a context as its snapshot holds them; the scale registers that it owns hold 1.0 until its saved
ones are written back. (DEDUCED, A47) -/
def rollFrames (g : Nat) (sn : Snap) (s : State) (ti : Nat) : State :=
  (graphCtxs s g ti).foldl (fun s k => s.mapTile ti (fun t => (t.freeScales k).mapCtx k (fun c =>
    { c with frames := ((Assoc.get? sn.ctxs (4 * ti + k)).getD c).frames }))) s

/-- R419: a rollback to the last complete wave, whose restore takes HWIN and HIMG as they stand (R370); a graph that must move becomes a candidate of the
dispatcher (R454). -/
def rollBack (s : State) (g : Nat) (sn : Snap) : State :=
  let x := s.graph g
  let recut := x.cutting || x.cutNext
  let lostUndo := s.homes.any (fun h => (s.tile h.1).retired && h.2.undo.any (fun u => u.graph == g))
  let s1 := unwind s g
  if mustMove s g then
    if x.rowBound || lostUndo then endGraph s1 g .terminated 8
    else
      let s2 := s1.draw.mapGraph g (fun y => { y with
        st := .cut, shadow := y.keepSlot.shadow, owedTraps := (graphThreads s g).flatMap (fun i => (s.thread i).gtraps) ++ [(0x14, Config.freeWord s1.drawn)],
        openWave := none, deadline := none, pending := none, cutting := false, cutNext := false, displaced := true })
      (releaseGraph (statusBlock s2 g) g).mapPart (graphPart g) (fun p => { p with evalDue := true })
  else
    let tiles := (graphTiles x).map (fun y => y.2.2)
    let s2 := tryRestore (tiles.foldl (rollFrames g sn) (s1.mapGraph g (fun y => { y with hwin := (s1.part x.part).hwin, himg := (s1.part x.part).himg }))) g sn
    if (s2.graph g).st != .running then s2 else
    let s3 := graphTrap s2.draw g 0x14 (Config.freeWord s2.drawn)
    if recut && (s3.graph g).st == .running then cutWave s3 g else s3

/-- R418 to R420, ROLLBACK: a trigger of Table 18-5, named by the class of its record, meets a graph: a contained graph that is not
lapsed goes back to its last complete wave, up to twice, with a record of class 0x12; any other is terminated, with the record of its
trigger. R383: a frozen graph waits for FREEZE.OFF. (DEDUCED, A63) -/
def execRollback (g cause : Nat) (s : State) : Out :=
  .next (
    let x := s.graph g
    if x.st != .running then s
    else if x.frozen then s.mapGraph g (fun y => { y with waiting := some (y.waiting.getD cause) })
    else
      let n := x.rollbacks + 1
      match x.snap with
      | some sn =>
        if !contained x || x.lapsed || decide (3 ≤ n) then endGraph s g .terminated (triggerCause cause)
        else
          let s1 := record s (Rec.plain 0x12 (tileAt x.x x.y) (some g) cause 0 0)
          rollBack (s1.mapGraph g (fun y => { y with rollbacks := n, waiting := none })) g sn
      | none => endGraph s g .terminated (triggerCause cause))

end Sys2Proof.Machine
end

