-- ==== Sys2Proof/Machine/Dispatcher.lean ====
section
/-! DEFINITION. The dispatcher (spec/17_dispatch.md): images and launch records as it reads them (R388, Table 5-15), the fit test
(R391, R406, R408), evaluations with their bypasses, reservations and pressure waves (R390 to R394), admission, loading (R30, R31,
R354, R364), and time-sharing (R395 to R397). -/

namespace Sys2Proof.Machine

/-! ### What the dispatcher reads -/

/-- R476, R388: bytes that the dispatcher reads through its partition's tables; none where it cannot read them. -/
def sysBytes (s : State) (part : Nat) (ea : Word) (n : Nat) : Option (List Byte) :=
  (linePieces ea n).foldl (fun acc p =>
    match acc with
    | none => none
    | some bs => (sysRead s part p.1 p.2.2).map (fun b => bs ++ b)) (some [])

/-- Table 5-15: an image file: its shape, frame records, code segments (logical x and y, offset, bytes), and the regions of its
region table (x, y, w, h and minimum rows and columns). -/
structure Image where
  w      : Nat
  h      : Nat
  frames : List (Nat × BitVec 256)
  segs   : List (Nat × Nat × Nat × List Byte)
  shapes : List (Nat × Nat × Nat × Nat × Nat × Nat)
  deriving DecidableEq, Repr

/-- What the reading of an image comes to. -/
inductive ReadImage where
  /-- R388: it cannot be read, and holds the record. -/
  | held
  /-- R388: not an image of this version. -/
  | bad
  | ok (i : Image)
  deriving DecidableEq, Repr

/-- Table 5-15: the frame records of an image. -/
def readFrames (s : State) (part : Nat) (n : Nat) (ea : Word) : Option (List (Nat × BitVec 256)) :=
  match n with
  | 0 => some []
  | k + 1 =>
    match sysBytes s part ea 40 with
    | none => none
    | some b => (readFrames s part k (ea + 40)).map (fun l => (leNat (b.take 4), .ofNat 256 (leNat ((b.drop 8).take 32))) :: l)

/-- Table 5-15: the code segments of an image; the inner none: one that leaves tile memory. -/
def readSegs (s : State) (part : Nat) (n : Nat) (ea : Word) : Option (Option (List (Nat × Nat × Nat × List Byte))) :=
  match n with
  | 0 => some (some [])
  | k + 1 =>
    match sysBytes s part ea 12 with
    | none => none
    | some b =>
      let off := leNat ((b.drop 4).take 4)
      let len := leNat ((b.drop 8).take 4)
      if 2 ^ 18 < off + len then some none else
      match sysBytes s part (ea + 12) len with
      | none => none
      | some d => (readSegs s part k (ea + wd (12 + len))).map (fun r =>
          r.map (fun l => ((b.getD 0 0).toNat, (b.getD 1 0).toNat, off, d) :: l))

/-- Table 5-15: the bytes of the region table, up to 4096 of them, as far as they can be read. -/
def tableBytes (s : State) (part : Nat) (ea : Word) : List Byte :=
  (((linePieces ea 4096).map (fun p => sysRead s part p.1 p.2.2)).takeWhile Option.isSome).flatMap (fun b => b.getD [])

/-- R168, Table 5-15: an image file read; the fields that the table gives as zero are not looked at (DESIGN CHOICE, A82). (DEDUCED, A51)
(DESIGN CHOICE, A52) -/
def readImage (s : State) (part : Nat) (ea : Word) : ReadImage :=
  match sysBytes s part ea 64 with
  | none => .held
  | some b =>
    let f (o n : Nat) : Nat := leNat ((b.drop o).take n)
    if f 0 4 ≠ 0x4D495244 ∨ f 4 2 ≠ 1 then .bad else
    match readFrames s part (f 8 4) (ea + wd (f 0xC 4)), readSegs s part (f 0x10 4) (ea + wd (f 0x14 4)) with
    | some fs, some (some segs) =>
      let tab := tableBytes s part (ea + wd (f 0x1C 4))
      if tab.isEmpty then .held
      else .ok { w := f 6 1, h := f 7 1, frames := fs, segs := segs, shapes := Config.imageRegions tab }
    | some _, some none => .bad
    | _, _ => .held

namespace Image
/-- The contexts that an image declares. -/
def nctx (i : Image) : Nat := i.frames.foldl (fun n f => max n (fld f.1 18 17 + 1)) 1
/-- Frame 19 of a context of a logical tile, if the image holds one. -/
def frame19 (i : Image) (x y c : Nat) : Option Nat :=
  (i.frames.reverse.find? (fun f => fld f.1 31 26 == x && fld f.1 25 19 == y && fld f.1 18 17 == c && fld f.1 14 8 == 19)).map
    (fun f => f.2.toNat)
/-- R216: the entry PCs of the threads that a context of a logical tile lists; context 0 lists at least one. (DEDUCED, A46) -/
def entries (i : Image) (x y c : Nat) : List Nat :=
  match i.frame19 x y c with
  | some f => (List.range (MpF.nthr f)).map (MpF.entrypc f)
  | none => if c = 0 then [0] else []
/-- R216: the further threads of a logical tile that the strands of a context name as an end, in the order of their numbers. -/
def named (i : Image) (x y c : Nat) : List Nat :=
  (List.range 8).filter (fun t => decide (i.nctx ≤ t) && i.frames.any (fun f =>
    fld f.1 31 26 == x && fld f.1 25 19 == y && fld f.1 18 17 == c && decide (24 ≤ fld f.1 14 8) && decide (fld f.1 14 8 < 64) &&
      EpF.used f.2.toNat && EpF.attach f.2.toNat == 0 && EpF.unit f.2.toNat == t))
/-- R216, R34: the threads of a logical tile: number, context and entry PC. The first of context c is thread c; a further thread belongs to
the context whose strands name it, the others to context 0; the entries of a context stand in the order of its threads' numbers, and entries
for which no number is named take the numbers that remain. (DEDUCED, A46) -/
def threads (i : Image) (x y : Nat) : List (Nat × Nat × Nat) :=
  let cs := List.range i.nctx
  let firsts := cs.filterMap (fun c => ((i.entries x y c).head?).map (fun pc => (c, c, pc)))
  let others := (cs.filter (fun c => decide (0 < c))).map (fun c => (c, i.named x y c, (i.entries x y c).drop 1))
  let taken := others.flatMap (fun o => (o.2.1.zip o.2.2).map (fun p => (p.1, o.1, p.2)))
  let left := ((i.entries x y 0).drop 1).map (fun pc => (0, pc)) ++ others.flatMap (fun o => (o.2.2.drop o.2.1.length).map (fun pc => (o.1, pc)))
  let free := (List.range 32).filter (fun n => !(firsts ++ taken).any (fun t => t.1 == n))
  firsts ++ taken ++ free.zip left
/-- R166: the scale registers that the contexts of a logical tile own. -/
def scales (i : Image) (x y : Nat) : Nat :=
  (List.range i.nctx).foldl (fun m c => Nat.lor m (MpF.scown ((i.frame19 x y c).getD 0))) 0
/-- The logical tiles of an image. -/
def tiles (i : Image) : List (Nat × Nat) := (List.range i.h).flatMap (fun y => (List.range i.w).map (fun x => (x, y)))
end Image

/-! ### Records that fail (R388, R364) -/

/-- Table 17-2, R388: whether a reserved bit of a launch record is set or its HANGK is out of range. -/
def recordReserved (r : Nat) : Bool :=
  let d := fld r (8 * 0x10 + 63) (8 * 0x10)
  let k := fld d 5 0
  fld d 60 27 != 0 || fld d 13 6 != 0 || fld r 2047 (8 * 0x70) != 0 || (k != 0 && (decide (k < 16) || decide (40 < k)))

/-- R388: whether a replica group names an absent region, or regions of unequal minimum shape. -/
def replicasBad (r : Nat) (shapes : List (Nat × Nat × Nat × Nat × Nat × Nat)) : Bool :=
  (List.range 8).any (fun g =>
    let m := fld r (8 * (0x30 + 8 * g) + 63) (8 * (0x30 + 8 * g))
    let names := pick 64 (fun i => bit m i)
    let ms := names.filterMap (fun i => shapes[i]?.map (fun x => x.2.2.2.2))
    names.length != ms.length || ms.any (fun a => ms.any (fun b => a != b)))

/-- R364: whether the code segments or a discard mask of an image touch a window slot. -/
def windowConflict (hwin : Word) (i : Image) : Bool :=
  bit hwin.toNat 63 &&
  (i.segs.any (fun (_, _, off, b) => decide (0 < b.length) && inWindow hwin off b.length) ||
   i.frames.any (fun f => fld f.1 14 8 == 19 && (List.range 64).any (fun k => bit (MpF.discard f.2.toNat) k && inWindow hwin (4096 * k) 4096)))

/-! ### Candidates (R390) -/

/-- R390: a candidate: a queue's head record (`id` the queue) or a Cut graph (`id` 256 more than its key). -/
structure Cand where
  id    : Nat
  queue : Nat
  prio  : Nat
  age   : Nat
  graph : Option Nat
  img   : Image
  rec_  : BitVec 2048
  pin   : Option (Nat × Nat)
  deriving DecidableEq, Repr

/-- R390: whether one candidate ranks before another. -/
def Cand.before (a b : Cand) : Bool :=
  decide (b.prio < a.prio) || (a.prio == b.prio && (decide (a.age < b.age) || (a.age == b.age && decide (a.queue < b.queue))))

/-- R390: a candidate put in its rank. -/
def rankIn (c : Cand) (l : List Cand) : List Cand :=
  match l with
  | [] => [c]
  | d :: r => if c.before d then c :: d :: r else d :: rankIn c r

/-- Table 17-2: the origin that a record pins. -/
def pinOf (r : Nat) : Option (Nat × Nat) :=
  let d := fld r (8 * 0x10 + 63) (8 * 0x10)
  if bit d 63 then some (fld d 19 14, fld d 26 20) else none

/-! ### Fitting (R391, R406, R408) -/

/-- R391: the origins of a partition's rectangle, in the order in which they are tried. -/
def origins (p : Part) (w h : Nat) : List (Nat × Nat) :=
  let r := p.prect.toNat
  if fld r 22 16 < w ∨ fld r 30 24 < h ∨ w = 0 ∨ h = 0 then [] else
  (List.range (fld r 30 24 - h + 1)).reverse.flatMap (fun j =>
    (List.range (fld r 22 16 - w + 1)).map (fun i => (fld r 5 0 + i, fld r 14 8 + j)))

/-- The tiles of a candidate at an origin: logical x, y and tile. -/
def Cand.tilesAt (c : Cand) (o : Nat × Nat) : List (Nat × Nat × Nat) := c.img.tiles.map (fun (x, y) => (x, y, tileAt (o.1 + x) (o.2 + y)))

/-- R404: the shadow slots of a tile. -/
def shadowSlots (p : Part) : Nat := (2048 * (32 - fld p.bankmap.toNat 20 16) - 683) / 128

/-- R406: the shadow slots of a tile that a graph holds. -/
def Graph.shadowAt (g : Graph) (tile : Nat) : List Nat := ((g.shadow ++ g.oldShadow).filter (fun e => e.1 / 2 == tile)).map Prod.snd

/-- R406: the shadow slots of a tile that graphs hold; graph `ignore` would keep the one of its cut wave (R394). -/
def shadowUsed (s : State) (ignore : Option Nat) (tile : Nat) : Nat :=
  s.graphs.foldl (fun n (k, g) =>
    let held := (g.shadowAt tile).length
    n + if some k == ignore then min 1 held else held) 0

/-- R406: graph k takes the lowest free shadow slot of a tile for the waves of a parity. (DESIGN CHOICE, A98) -/
def takeShadow (k : Nat) (s : State) (at_ : Nat × Nat) : State :=
  let held := s.graphs.flatMap (fun g => g.2.shadowAt at_.1)
  match (List.range (held.length + 1)).find? (fun j => !held.contains j) with
  | some j => s.mapGraph k (fun g => { g with shadow := Assoc.set g.shadow (2 * at_.1 + at_.2) j })
  | none => s

/-- R391, R19: whether every region of an image reaches its minimum shape at an origin. -/
def shapesFit (s : State) (i : Image) (o : Nat × Nat) : Bool :=
  i.shapes.all (fun (x, y, w, h, r, c) =>
    decide (r ≤ (logicalRows s (o.1 + x) (o.2 + y) w h).length) && decide (c ≤ (logicalCols s (o.1 + x) (o.2 + y) w h).length))

/-- R388, R408: whether a candidate would fit at an origin with every tile free. -/
def fitsBare (s : State) (part : Nat) (c : Cand) (o : Nat × Nat) : Bool :=
  let p := s.part part
  (match c.pin with | some q => q == o | none => true) &&
  (c.tilesAt o).all (fun (x, y, t) => inPart p t && !(s.tile t).retired && decide ((c.img.threads x y).length ≤ 4)) &&
  decide (2 ≤ shadowSlots p) && shapesFit s c.img o &&
  (match c.graph with | some k => contributions s c.img.shapes o.1 o.2 == (s.graph k).contrib | none => true)

/-- Whether a context and the slot of its number are free at a tile, but for graph `ignore`. -/
def pairFree (s : State) (ignore : Option Nat) (tile k : Nat) : Bool :=
  let t := s.thread (4 * tile + k)
  (match ((s.tile tile).ctx k).graph with | some g => some g == ignore | none => true) && (t.run == .free || some t.graph == ignore)

/-- Whether a slot is free at a tile, but for graph `ignore`. -/
def slotFree (s : State) (ignore : Option Nat) (i : Nat) : Bool := (s.thread i).run == .free || some (s.thread i).graph == ignore

/-- R391, R216: the physical contexts that a candidate would take at an origin: the lowest that are free on every tile. (DEDUCED, A53) -/
def contextsAt (s : State) (ignore : Option Nat) (c : Cand) (o : Nat × Nat) : Option (List Nat) :=
  let ks := (pick 4 (fun k => (c.tilesAt o).all (fun t => pairFree s ignore t.2.2 k))).take c.img.nctx
  if ks.length < c.img.nctx then none else some ks

/-- R391: whether a tile has slots for the further threads of a candidate. -/
def roomFor (s : State) (ignore : Option Nat) (c : Cand) (ks : List Nat) (t : Nat × Nat × Nat) : Bool :=
  let ths := c.img.threads t.1 t.2.1
  let further := ths.length - (ths.filter (fun x => x.1 == x.2.1)).length
  decide (further ≤ (pick 4 (fun j => !ks.contains j && slotFree s ignore (4 * t.2.2 + j))).length)

/-- R391, R166: the scale registers that loaded contexts of a tile own, but for graph `ignore`. (DEDUCED, A53) -/
def scalesOwned (s : State) (ignore : Option Nat) (tile : Nat) : Nat :=
  (pick 4 (fun k => match ((s.tile tile).ctx k).graph with | some g => some g != ignore | none => false)).foldl
    (fun m k => Nat.lor m (MpF.scown ((s.tile tile).ctx k).thF)) 0

/-- R406: whether a tile has the shadow slots that a candidate takes. (DEDUCED, A50) (DEDUCED, A53) -/
def shadowFits (s : State) (part : Nat) (ignore : Option Nat) (c : Cand) (o : Nat × Nat) (tile : Nat) : Bool :=
  let need := match c.graph with
    | some k => if (s.graph k).x = o.1 ∧ (s.graph k).y = o.2 then 1 else 2
    | none => 2
  decide (shadowUsed s ignore tile + need ≤ shadowSlots (s.part part))

/-- R392: whether a tile lies in a reservation held for another candidate. -/
def reservedFor (p : Part) (id tile : Nat) : Bool :=
  match p.reserve with
  | some (j, x, y, w, h) => j != id && decide (x ≤ tileX tile) && decide (tileX tile < x + w) && decide (y ≤ tileY tile) && decide (tileY tile < y + h)
  | none => false

/-- R391: the contexts in which a candidate fits at an origin, with the tiles of graph `ignore` taken as free. -/
def fitsAt (s : State) (part : Nat) (c : Cand) (ignore : Option Nat) (o : Nat × Nat) : Option (List Nat) :=
  if !fitsBare s part c o then none else
  match contextsAt s ignore c o with
  | none => none
  | some ks =>
    if (c.tilesAt o).all (fun t => !reservedFor (s.part part) c.id t.2.2 && roomFor s ignore c ks t && shadowFits s part ignore c o t.2.2 &&
        Nat.land (scalesOwned s ignore t.2.2) (c.img.scales t.1 t.2.1) == 0) then some ks else none

/-- R391: the first origin at which a candidate fits, with its contexts. (DEDUCED, A53) -/
def findFit (s : State) (part : Nat) (c : Cand) (ignore : Option Nat) : Option ((Nat × Nat) × List Nat) :=
  (origins (s.part part) c.img.w c.img.h).findSome? (fun o => (fitsAt s part c ignore o).map (fun ks => (o, ks)))

/-- R388, R408: whether some origin could satisfy a candidate with every tile free. -/
def possible (s : State) (part : Nat) (c : Cand) : Bool := (origins (s.part part) c.img.w c.img.h).any (fitsBare s part c)

/-! ### Heads and Cut graphs as candidates -/

/-- The queues of a partition. -/
def ownQueues (s : State) (part : Nat) : List Nat := pick 256 (fun q => (s.part part).qmask.getLsbD q)

/-- What the head of a queue is. -/
inductive Head where
  /-- No record, or one whose reading is held. -/
  | none
  | fails (rec_ : BitVec 2048)
  | cand (c : Cand)
  deriving DecidableEq, Repr

/-- R388, R390: the head record of a queue. -/
def headOf (s : State) (part q : Nat) : Head :=
  let d := queueDesc s part q
  let p := s.part part
  if !d.en || d.count == 0 || d.ctxi != p.active then .none else
  match sysBytes s part (d.slot d.head) 256 with
  | none => .none
  | some b =>
    let r := leNat b
    if recordReserved r then .fails (.ofNat 2048 r) else
    match readImage s part (wd (fld r 63 0)) with
    | .held => .none
    | .bad => .fails (.ofNat 2048 r)
    | .ok i =>
      let c : Cand := { id := q, queue := q, prio := d.prio, age := (Assoc.getD p.ages (2 ^ 32 * q + d.head) s.cycle.toNat), graph := none,
                        img := i, rec_ := .ofNat 2048 r, pin := pinOf r }
      let strays := i.frames.any (fun f => decide (i.w ≤ fld f.1 31 26) || decide (i.h ≤ fld f.1 25 19))
      if strays || replicasBad r i.shapes || windowConflict p.hwin i || !possible s part c then .fails (.ofNat 2048 r)
      else if (handlerImage s part p.himg p.hwin).isNone then .none
      else .cand c

/-- R390, R409: a Cut graph as a candidate, if its image can be read. -/
def cutCand (s : State) (k : Nat) : Option Cand :=
  let g := s.graph k
  match readImage s g.part (wd (recDword g 0)) with
  | .ok i => some { id := 256 + k, queue := g.queue, prio := g.prio, age := g.age, graph := some k, img := i, rec_ := g.record,
                    pin := if g.rowBound then some (g.x, g.y) else pinOf g.record.toNat }
  | _ => none

/-- The Cut graphs of a context of a partition. -/
def cutGraphs (s : State) (part ctxi : Nat) : List Nat :=
  (s.graphs.filter (fun (_, g) => g.part == part && g.ctxi == ctxi && g.st == .cut)).map Prod.fst

/-! ### Handles and descriptors (R372) -/

/-- R372: whether a handle is in use. -/
def handleUsed (s : State) (part h : Nat) : Bool :=
  match Assoc.get? s.graphs (graphKey part h) with
  | some g => g.st == .queued || g.st == .loading || g.st == .running || g.st == .cut
  | none => false

/-- R372: the next handle that is not in use, from h on. (DEDUCED, A53) -/
def freeHandle (s : State) (part : Nat) (n h : Nat) : Nat :=
  match n with
  | 0 => h
  | k + 1 => if handleUsed s part h then freeHandle s part k ((h + 1) % 65536) else h

/-- R385: HEAD, ADMITS or FAILS of a queue changed by the dispatcher. -/
def mapCounts (s : State) (part q : Nat) (f : Nat × Nat × Nat → Nat × Nat × Nat) : State :=
  s.mapPart part (fun p => { p with counts := Assoc.set p.counts q (f (Assoc.getD p.counts q (0, 0, 0))) })

/-- R388, R393: a record leaves its queue, admitted or failed. -/
def takeRecord (s0 : State) (part q : Nat) (admitted : Bool) : State :=
  let d := queueDesc s0 part q
  let s := mapCounts s0 part q (fun c =>
    ((c.1 + 1) % 2 ^ 32, if admitted then (c.2.1 + 1) % 2 ^ 64 else c.2.1, if admitted then c.2.2 else (c.2.2 + 1) % 2 ^ 64))
  let s1 := queueWrite s part q 0x18 ((d.head + 1) % 2 ^ 32)
  let s2 := queueWrite s1 part q 0x20 0
  let s3 := if admitted then queueWrite s2 part q 0x28 ((d.admits + 1) % 2 ^ 64) else queueWrite s2 part q 0x30 ((d.fails + 1) % 2 ^ 64)
  s3.mapPart part (fun p => { p with
    ages := Assoc.erase p.ages (2 ^ 32 * q + d.head), bypass := Assoc.erase p.bypass q,
    reserve := match p.reserve with | some (j, r) => if j = q then none else some (j, r) | none => none })

/-- A graph of a partition as it is given its handle. -/
def State.newGraph (s : State) (part : Nat) (g : Graph) : Nat × State :=
  let h := freeHandle s part 65535 (s.part part).nextHandle.toNat
  let k := graphKey part h
  (k, ({ s with graphs := Assoc.set s.graphs k { g with part := part, handle := .ofNat 16 h } }).mapPart part (fun p =>
    { p with nextHandle := .ofNat 16 (h + 1) }))

/-- R388, R389: a record fails. TADMIT of a graph that was never admitted is free (A14). (DEDUCED, A46) -/
def failRecord (part : Nat) (s : State) (x : Nat × BitVec 2048) : State :=
  let d := queueDesc s part x.1
  let g : Graph := { Graph.blank with st := .loading, w := 0, h := 0, nctx := 0, record := x.2, queue := x.1, ctxi := d.ctxi, prio := d.prio,
                                      tadmit := Config.freeWord s.drawn }
  let (k, s1) := (takeRecord s.draw part x.1 false).newGraph part g
  endGraph s1 k .failed 0xFD

/-! ### Admission (R393, R30, R31, R354) -/

/-- R34, R216: the slots of a candidate's threads on a tile: slot, thread number, context and entry PC. -/
def slotsAt (s : State) (c : Cand) (ks : List Nat) (t : Nat × Nat × Nat) : List (Nat × Nat × Nat × Nat) :=
  let ths := c.img.threads t.1 t.2.1
  let firsts := (ths.filter (fun x => x.1 == x.2.1)).map (fun x => (ks.getD x.2.1 0, x))
  let free := pick 4 (fun j => !ks.contains j && slotFree s none (4 * t.2.2 + j))
  firsts ++ free.zip ((List.range 32).filterMap (fun n => ths.find? (fun x => x.1 == n && x.1 != x.2.1)))

/-- R50, Table 17-4: the re-entry limit that an entry of a partition's context list gives; 8 where the list cannot be read. (DESIGN
CHOICE, A54) -/
def reentryLimit (s : State) (part ctxi : Nat) : BitVec 8 :=
  match Assoc.get? (s.part part).entries ctxi with
  | some b => let r := fld b.toNat 39 32; if r = 0 then 1 else .ofNat 8 r
  | none => 8

/-- R31: the thread of graph k in a slot of a tile as it starts. -/
def startThread (s : State) (k : Nat) (c : Cand) (ks : List Nat) (t : Nat × Nat × Nat) (n : Nat) (x : Nat × Nat × Nat × Nat) : State :=
  let g := s.graph k
  let pc : PC := .ofNat 18 x.2.2.2
  s.setThread (4 * t.2.2 + x.1) { Thread.reset with
    s := Thread.reset.s.set 1 (wd (recDword g 1)), pc := pc, bight := .openAt pc (.replicate 4 .zero) 0, run := .running, graph := k,
    rlim := reentryLimit s g.part g.ctxi, lx := .ofNat 8 t.1, ly := .ofNat 8 t.2.1, lctx := .ofNat 2 x.2.2.1,
    pctx := .ofNat 2 (ks.getD x.2.2.1 0), tno := .ofNat 2 x.2.1, nthr := .ofNat 2 (n - 1) }

/-- R30: the contexts and slots of a graph taken on its tiles. -/
def takeTiles (s : State) (k : Nat) (c : Cand) (o : Nat × Nat) (ks : List Nat) : State :=
  (c.tilesAt o).foldl (fun s t =>
    let plan := slotsAt s c ks t
    let s1 := s.mapTile t.2.2 (fun ti => (List.range c.img.nctx).foldl (fun ti l => ti.beginLoad k l (ks.getD l 0)) ti)
    plan.foldl (fun s x => startThread s k c ks t plan.length x) s1) s

/-- R354: the slots of tile memory that the code segments of a logical tile touch, zeroed. -/
def clearSlots (i : Image) (s : State) (t : Nat × Nat × Nat) : State :=
  let mine := i.segs.filter (fun g => g.1 == t.1 && g.2.1 == t.2.1 && !g.2.2.2.isEmpty)
  let hit (a : Nat) : Bool := a / 2 ^ 18 == t.2.2 && mine.any (fun g =>
    decide (g.2.2.1 / 4096 ≤ a % 2 ^ 18 / 4096) && decide (a % 2 ^ 18 / 4096 ≤ (g.2.2.1 + g.2.2.2.length - 1) / 4096))
  { dropFetched s t.2.2 hit with
    tmem := s.tmem.filter (fun c => !hit c.1), tpoison := s.tpoison.filter (fun w => !hit (8 * w)), tbad := s.tbad.filter (fun w => !hit (8 * w)) }

/-- R354: the code segments of a logical tile written; a segment of a tile outside the shape is written nowhere (DESIGN CHOICE, A82). -/
def writeSegs (i : Image) (s : State) (t : Nat × Nat × Nat) : State :=
  (i.segs.filter (fun g => g.1 == t.1 && g.2.1 == t.2.1)).foldl (fun s g => tmemWrite s (tmemKey t.2.2 g.2.2.1) g.2.2.2) s

/-- R216: the map of a list of contexts. -/
def cmapOf (ks : List Nat) : Vector (BitVec 2) 4 := .ofFn (fun c => .ofNat 2 (ks.getD c.val 0))

/-- R168, R30: the frames of an image sent onto their chains, and then the end of the load, which a restore takes its time for. -/
def sendFrames (s : State) (k : Nat) (i : Image) : State :=
  { s with agenda := s.agenda ++ i.frames.map (captureOf s k) ++ if (s.graph k).readyAt = 0 then [.loadingComplete k] else [] }

/-- R410, R412: the restores whose time is up come to the end of their load. -/
def restoresDue (s : State) : State :=
  (s.graphs.filter (fun x => x.2.st == .loading && x.2.readyAt != 0 && decide (x.2.readyAt ≤ s.cycle.toNat))).foldl (fun s x =>
    { s.mapGraph x.1 (fun g => { g with readyAt := 0 }) with agenda := s.agenda ++ [.loadingComplete x.1] }) s

/-- R389: the tiles of a graph as its image configures them, for the first write of its status block. -/
def framed (s : State) (k : Nat) (i : Image) : State :=
  let g := s.graph k
  i.frames.foldl (fun s f =>
    let ti := recordTile g f.1
    s.mapTile ti (fun t => t.mapCtx (physCtx g (fld f.1 18 17)) (fun c =>
      { c with frames := Assoc.set c.frames (fld f.1 14 8) (placedFrame s k ti f.1 f.2), loaded := true }))) s

/-- R393, R30: a head record admitted at an origin. -/
def admitRecord (s : State) (part : Nat) (c : Cand) (o : Nat × Nat) (ks : List Nat) : State :=
  let d := queueDesc s part c.queue
  let hwin := (s.part part).hwin
  let himg := (s.part part).himg
  let img := (handlerImage s part himg hwin).getD []
  let g : Graph := { Graph.blank with
    st := .loading, w := c.img.w, h := c.img.h, x := o.1, y := o.2, nctx := c.img.nctx, cmap := cmapOf ks, record := c.rec_,
    queue := c.queue, ctxi := d.ctxi, prio := c.prio, age := c.age, tadmit := s.timeOf (tileAt o.1 o.2), minShapes := c.img.shapes,
    contrib := contributions s c.img.shapes o.1 o.2, hwin := hwin, himg := himg }
  let (k, s1) := (takeRecord s part c.queue true).newGraph part g
  let s2 := ((c.tilesAt o).flatMap (fun t => [(t.2.2, 0), (t.2.2, 1)])).foldl (takeShadow k) (takeTiles s1 k c o ks)
  let s3 := (c.tilesAt o).foldl (clearSlots c.img) s2
  let s4 := (c.tilesAt o).foldl (writeSegs c.img) s3
  let s5 := ((c.tilesAt o).map (fun t => t.2.2)).foldl (writeWindow hwin img) s4
  let s6 := s5.loadedImage part hwin img
  sendFrames (writeStatus s6 k (statusBytes (framed s6 k c.img) k)) k c.img

/-- R134: the links from one tile to another, in order. -/
def routeLinks (fuel a b : Nat) : List (Nat × Nat) :=
  match fuel with
  | 0 => []
  | n + 1 => if a = b then [] else (a, (nextHop a b).1) :: routeLinks n (nextHop a b).1 b

/-- R412: the coil lines of a tile's image. -/
def savedLines (sn : Snap) (tile : Nat) : Nat :=
  let c := (sn.ctxs.filter (fun e => e.1 / 4 == tile)).map Prod.snd
  let eps := (sn.eps.filter (fun e => e.1 / 40 == tile)).map (fun e => e.2.coil.length)
  let nodes := (sn.nodes.filter (fun e => e.1 / 8 == tile)).map (fun e =>
    (c.find? (fun c => NdF.used (c.ndF (e.1 % 8)) && NdF.kind (c.ndF (e.1 % 8)) == 4)).elim 0 (fun c => e.2.held.length - nodeBuffers (c.ndF (e.1 % 8))))
  (eps ++ nodes).foldl (· + ·) 0

/-- Table 18-3: the cycles that a restore of a snapshot as it lies on its new tiles takes: its load, behind its move, or the reload of its
configuration. -/
def restoreTime (g : Graph) (sn : Snap) : Nat :=
  let r := sn.tiles.foldl (fun m t => max m t.rows.length) 0
  let load := Config.actWindow * ((r + 3) / 4)
  let moves := sn.tiles.flatMap (fun t => match t.kept with
    | some k => (routeLinks 158 k t.tile).map (fun l => (l, 48 * t.rows.length + savedLines sn t.tile))
    | none => [])
  let move := moves.foldl (fun m x => max m ((moves.filter (fun y => y.1 == x.1)).foldl (fun n y => n + y.2) 0)) 0
  max (move + load) (384 * g.h * g.nctx)

/-- R408, R410 steps 1 to 3: a Cut graph reserved its tiles, with its snapshot as it lies there. -/
def admitCut (s : State) (part k : Nat) (c : Cand) (o : Nat × Nat) (ks : List Nat) : State :=
  let g := s.graph k
  let p0 := s.part part
  let slots := (c.tilesAt o).flatMap (fun t => (slotsAt s c ks t).map (fun x => (4 * t.2.2 + x.2.1, x.1)))
  let p : Place2 := { x := o.1, y := o.2, cmap := cmapOf ks, slots := slots }
  let moved_ := decide (g.x ≠ o.1 ∨ g.y ≠ o.2)
  let place (sn : Snap) : Snap := if moved_ then moveSnap g p sn else
    let m := moveSnap g p sn
    { m with tiles := m.tiles.map (fun t => { t with kept := none }) }
  let s1 := s.mapGraph k (fun g => { g with
    st := .loading, snap := g.snap.map place, readyAt := s.cycle.toNat + max 1 ((g.snap.map (fun sn => restoreTime g (place sn))).getD 0),
    shadow := if moved_ then [] else g.shadow, oldShadow := if moved_ then g.shadow else [], x := o.1, y := o.2, cmap := cmapOf ks, hwin := p0.hwin, himg := p0.himg,
    gen := if moved_ then g.gen + 1 else g.gen, cutting := false, cutNext := false })
  let here (o : HomeOp) : HomeOp := match o.graph == k, g.snap with | true, some sn => { o with th := moveSlot g p sn o.th } | _, _ => o
  let last := (g.snap.map (fun sn => sn.wave.toNat % 2)).getD 0
  let need (t : Nat × Nat × Nat) : List (Nat × Nat) := if moved_ then [(t.2.2, 0), (t.2.2, 1)] else [(t.2.2, 1 - last)]
  let s2 := ((c.tilesAt o).flatMap need).foldl (takeShadow k)
    (takeTiles { s1 with held := s1.held.map here, homeQ := s1.homeQ.map here } k c o ks)
  let s4 := s2.mapPart part (fun q => { q with
    bypass := Assoc.erase q.bypass c.id, reserve := match q.reserve with | some (j, r) => if j = c.id then none else some (j, r) | none => none })
  sendFrames (statusBlock s4 k) k c.img

/-- R388: a load that a tile has rejected fails its launch. -/
def failLoad (s : State) (k : Nat) : State :=
  let g := s.graph k
  let n := ((queueDesc s g.part g.queue).fails + 1) % 2 ^ 64
  endGraph (queueWrite (mapCounts s g.part g.queue (fun c => (c.1, c.2.1, n))) g.part g.queue 0x30 n) k .failed 0xFD

/-- R393: a candidate admitted; a Cut graph whose code segments or discard mask touch the handler window as it stands fails at Loading (R364).
(DEDUCED, A46) -/
def admitHead (s : State) (part : Nat) (c : Cand) (o : Nat × Nat) (ks : List Nat) : State :=
  (match c.graph with
    | some k => if windowConflict (s.part part).hwin c.img then failLoad (admitCut s part k c o ks) k else admitCut s part k c o ks
    | none => admitRecord s part c o ks).mapPart part (fun p => { p with evalDue := true })

/-! ### Bypasses and reservations (R392) -/

/-- R392: the bypass bound of a candidate: that of its queue. -/
def bypassBound (s : State) (part : Nat) (c : Cand) : Nat := (queueDesc s part c.queue).byp

/-- R392: a candidate bypassed once more, up to its bound. -/
def bypassed (part : Nat) (s : State) (c : Cand) : State :=
  let n := min (bypassBound s part c) (Assoc.getD (s.part part).bypass c.id 0 + 1)
  let s1 := s.mapPart part (fun p => { p with bypass := Assoc.set p.bypass c.id n })
  if c.graph.isNone then queueWrite s1 part c.queue 0x20 n else s1

/-- R392, R394: whether a Loading or Running graph holds a context on a tile. -/
def inUse (s : State) (tile : Nat) : Bool :=
  (pick 4 (fun k => match ((s.tile tile).ctx k).graph with | some g => holdsTiles (s.graph g) | none => false)) != []

/-- R392: the rectangle reserved for a candidate: of the origins that it could take, the one with the fewest tiles in use. -/
def reserveRect (s : State) (part : Nat) (c : Cand) : Option (Nat × Nat × Nat × Nat × Nat) :=
  let all := ((origins (s.part part) c.img.w c.img.h).filter (fitsBare s part c)).map (fun o =>
    (o, ((c.tilesAt o).filter (fun t => inUse s t.2.2)).length))
  let best := all.foldl (fun (m : Option ((Nat × Nat) × Nat)) x => match m with
    | some y => if x.2 < y.2 then some x else some y
    | none => some x) none
  best.map (fun b => (c.id, b.1.1, b.1.2, c.img.w, c.img.h))

/-- R392: the first candidate in rank that has reached its bound without fitting takes the reservation, if none is held. -/
def reserveNext (s : State) (part : Nat) (cs : List Cand) : State :=
  if (s.part part).reserve.isSome then s else
  match cs.find? (fun c => decide (bypassBound s part c ≤ Assoc.getD (s.part part).bypass c.id 0) && (findFit s part c none).isNone) with
  | some c => s.mapPart part (fun p => { p with reserve := reserveRect s part c })
  | none => s

/-- R392: a reservation for a graph that is no longer a candidate falls. -/
def dropReserve (s : State) (part : Nat) : State :=
  match (s.part part).reserve with
  | some (j, _) => if 256 ≤ j ∧ (s.graph (j - 256)).st ≠ .cut then s.mapPart part (fun p => { p with reserve := none }) else s
  | none => s

/-! ### Cuts and pressure (R394, R397) -/

/-- R397, R402: a graph is cut: at once, after the wave it has open, or as it enters Running; a frozen one is not. -/
def cutGraph (s : State) (k : Nat) : State :=
  let g := s.graph k
  if g.frozen || g.hung || g.cutting then s
  else if g.st = .loading then s.mapGraph k (fun g => { g with cutNext := true })
  else if g.st ≠ .running then s
  else if g.openWave.isSome then s.mapGraph k (fun g => { g with cutNext := true })
  else cutWave s k

/-- R394: the occupancy of a column of a partition. -/
def occupancy (s : State) (part col : Nat) : Nat :=
  let r := (s.part part).prect.toNat
  ((List.range (fld r 30 24)).filter (fun j => inUse s (tileAt (fld r 5 0 + col) (fld r 14 8 + j)))).length

/-- R394, Table 17-4: whether the occupancy of every column exceeds its threshold. -/
def crowded (s : State) (part : Nat) : Bool :=
  (List.range (fld (s.part part).prect.toNat 22 16)).all (fun c =>
    let thr := fld (ctxListDword s part (0x40 + c / 8 * 8)) (8 * (c % 8) + 7) (8 * (c % 8))
    decide (thr < 96) && decide (thr < occupancy s part c))

/-- R394: the victim of a pressure wave: of the Running graphs of lower priority whose tiles let the candidate fit, the one of the
lowest priority, and of those the youngest. -/
def victim (s : State) (part : Nat) (c : Cand) : Option Nat :=
  let ok := s.graphs.filter (fun (k, g) => g.part == part && g.st == .running && !g.frozen && decide (g.prio < c.prio) &&
    (findFit s part c (some k)).isSome)
  (ok.foldl (fun (m : Option (Nat × Graph)) x => match m with
    | some y => if x.2.prio < y.2.prio ∨ (x.2.prio = y.2.prio ∧ y.2.age < x.2.age) then some x else some y
    | none => some x) none).map Prod.fst

/-- R394: the pressure rule for the top-ranked candidate, which does not fit. -/
def pressureRule (s : State) (part : Nat) (c : Cand) : State :=
  let busy := (s.part part).pressure.any (fun k => (s.graph k).st == .running && ((s.graph k).cutting || (s.graph k).cutNext))
  if busy || decide (c.prio < fld (s.part part).preprio.toNat 3 0) || !crowded s part then s else
  match victim s part c with
  | some k => (cutGraph s k).mapPart part (fun p => { p with pressure := some k })
  | none => s

/-! ### Evaluations (R392, R393) -/

/-- R408, R454: the Cut graphs for which no origin could match are terminated, with CAUSE 8 one that a retirement has rolled back. (DEDUCED, A46) -/
def dropHopeless (part : Nat) (s : State) (k : Nat) : State :=
  match cutCand s k with
  | some c => if possible s part c then s else endGraph s k .terminated (if (s.graph k).displaced then 8 else 0x18)
  | none => s

/-- R388: the failing heads of a partition's queues. (DEDUCED, A51) -/
def failing (s : State) (part : Nat) : List (Nat × BitVec 2048) :=
  (ownQueues s part).filterMap (fun q => match headOf s part q with | .fails r => some (q, r) | _ => none)

/-- R390: the candidates of a partition in rank. -/
def ranked (s : State) (part : Nat) : List Cand :=
  let heads := (ownQueues s part).filterMap (fun q => match headOf s part q with | .cand c => some c | _ => none)
  let cuts := (cutGraphs s part (s.part part).active).filterMap (cutCand s)
  let cuts' := if (handlerImage s part (s.part part).himg (s.part part).hwin).isNone then [] else cuts
  (heads ++ cuts').foldl (fun l c => rankIn c l) []

/-- R449, R446: whether some sector of a vault holds an error that no read has met. -/
def hasErrors (s : State) : Bool := s.sectors.any (fun x => x.2.cond != .clean && x.2.cond != .poisoned)

/-- R449, R446: what the reading of n bytes by the dispatcher does to their sectors. -/
def noteBytes (s : State) (part : Nat) (ea : Word) (n : Nat) : State :=
  (linePieces ea n).foldl (fun s p => noteRead s part p.1 p.2.2) s

/-- R449, R446: what the reading of the code segments of an image does. -/
def noteSegs (s : State) (part : Nat) : Nat → Word → State
  | 0, _ => s
  | k + 1, ea =>
    let s1 := noteBytes s part ea 12
    match sysBytes s part ea 12 with
    | none => s1
    | some b =>
      let len := leNat ((b.drop 8).take 4)
      if 2 ^ 18 < leNat ((b.drop 4).take 4) + len then s1 else noteSegs (noteBytes s1 part (ea + 12) len) part k (ea + wd (12 + len))

/-- R449, R446: what the reading of an image does. -/
def noteImage (s : State) (part : Nat) (ea : Word) : State :=
  let s1 := noteBytes s part ea 64
  match sysBytes s part ea 64 with
  | none => s1
  | some b =>
    let f (o n : Nat) : Nat := leNat ((b.drop o).take n)
    if f 0 4 ≠ 0x4D495244 ∨ f 4 2 ≠ 1 then s1 else
    noteBytes (noteSegs (noteBytes s1 part (ea + wd (f 0xC 4)) (40 * f 8 4)) part (f 0x10 4) (ea + wd (f 0x14 4))) part (ea + wd (f 0x1C 4)) 4096

/-- R449, R446: what the reading of the head records, of their images and of the handler image does, where a sector holds an error. -/
def noteHeads (s : State) (part : Nat) : State :=
  if !hasErrors s then s else
  let p := s.part part
  let s1 := if bit p.hwin.toNat 63 then noteBytes s part p.himg (4096 * (fld p.hwin.toNat 13 8 + 1)) else s
  (ownQueues s part).foldl (fun s q =>
    let d := queueDesc s part q
    if !d.en || d.count == 0 || d.ctxi != p.active then s else
    let s2 := noteBytes s part (d.slot d.head) 256
    match sysBytes s part (d.slot d.head) 8 with
    | some b => noteImage s2 part (wd (leNat b))
    | none => s2) s1

/-- R392: one evaluation. (DESIGN CHOICE, A19) -/
def evaluate (s0 : State) (part : Nat) : State :=
  let s := noteHeads s0 part
  let s1 := (ownQueues s part).foldl (fun s q =>
    let d := queueDesc s part q
    if d.count = 0 then s else noteAge q s.cycle.toNat s part d.head) (dropReserve s part)
  let s2 := (failing s1 part).foldl (failRecord part) s1
  let s3 := (cutGraphs s2 part (s2.part part).active).foldl (dropHopeless part) s2
  let cs := ranked s3 part
  match cs.findSome? (fun c => (findFit s3 part c none).map (fun f => (c, f))) with
  | some (c, o, ks) =>
    let held := match (s3.part part).reserve with | some (j, _) => some j | none => none
    let over_ := (cs.takeWhile (fun d => d.id != c.id)).filter (fun d => some d.id != held)
    let s4 := admitHead (over_.foldl (bypassed part) s3) part c o ks
    let rest := cs.filter (fun d => d.id != c.id)
    let s5 := reserveNext s4 part rest
    match cs.head? with
    | some top => if top.id = c.id then s5 else pressureRule s5 part top
    | none => s5
  | none =>
    let s4 := reserveNext s3 part cs
    match cs.head? with
    | some top => pressureRule s4 part top
    | none => s4

/-- R393, DISPATCH_EVALUATION: an evaluation of a partition's dispatcher, at least 16 cycles after the one before; none between the
decision to switch and the switch (R396). -/
def execDispatchEvaluation (part : Nat) (s : State) : Out :=
  .next (
    let p := s.part part
    if !p.exists_ || !p.evalDue || decide (s.cycle.toNat < p.evalAt) || p.incoming.isSome then s else
    evaluate (s.mapPart part (fun p => { p with evalDue := false, evalAt := s.cycle.toNat + 16 })) part)

/-! ### The end of a load (R30, R360) -/

/-- R360, R152: an engine with AUTO opens and starts its stream for the first thread of its context. -/
def autoStart (s : State) (i e : Nat) : State :=
  let t := s.thread i
  let tile := tileOf i
  let c := (s.tile tile).ctx t.pctx.toNat
  let ea := wd (0xE * 2 ^ 60 + EnF.scbaddr (c.enF e))
  let trap (s : State) (code : Nat) (v : Word) : State :=
    s.mapThread i (fun t => { t with pend := some (t.pend.getD { code := code, tval := v, q := 2, epc := t.pc }) })
  match readRange s (agOf s i) ea 128 with
  | (s1, 0, bs) =>
    match scbChecks s1 t.graph c e false (leNat bs) with
    | some (k, some v) => trap s1 k v
    | some (k, none) => trap s1.draw k (Config.freeWord s1.drawn)
    | none => s1.mapTile tile (fun ti => ti.mapEngine e (fun x => startStream (openStream x (.ofNat 1024 (leNat bs)) (slotOf i) false t.pc)))
  | (s1, k, _) => trap (if k = 8 then poisonRecord s1 i 3 ea t.pc else s1) k ea

/-- R360: the engines of a thread's context that start with it, if it is the first of the context. -/
def autoStarts (s : State) (i : Nat) : State :=
  let t := s.thread i
  if slotOf i ≠ t.pctx.toNat then s else
  (pick 8 (fun e => let f := ((s.tile (tileOf i)).ctx t.pctx.toNat).enF e; EnF.used f && EnF.auto f)).foldl (fun s e => autoStart s i e) s

/-- R397: a graph that is to be cut as it enters Running. -/
def cutAtStart (s : State) (k : Nat) : State :=
  if (s.graph k).cutNext && (s.graph k).st == .running && (s.graph k).openWave.isNone then
    cutWave s k
  else s

/-- R30, R53: a first load has ended: the threads start, and with them the engines that are to; the launch state of a contained graph
is its wave 0. -/
def enterRunning (s : State) (k : Nat) : State :=
  let s1 := s.mapGraph k (fun g => { g with st := .running })
  let s2 := (graphThreads s1 k).foldl autoStarts s1
  let s3 := if contained (s2.graph k) then s2.mapGraph k (fun g => { g with snap := some (snapNow s2 k 0) }) else s2
  cutAtStart (statusBlock s3 k) k

/-- R410 steps 3 to 7: the load of a restore has ended; the graph-level traps that it owes its report thread are raised (R365, R454). -/
def finishRestore (s : State) (k : Nat) (sn : Snap) : State :=
  let s1 := tryRestore s k sn
  if (s1.graph k).st ≠ .loading then s1 else
  let g := s1.graph k
  let s2 := (graphThreads s1 k).foldl (fun s i => s.mapThread i (fun t => { t with rlim := reentryLimit s1 g.part g.ctxi })) s1
  let s3 := statusBlock (s2.mapGraph k (fun g => { g with st := .running, owedTraps := [], displaced := false })) k
  cutAtStart (g.owedTraps.foldl (fun s x => graphTrap s k x.1 x.2) s3) k

/-- R30, LOADING_COMPLETE: every tile of a graph has captured its frames. A tile or router that has retired under the load meets the graph as it runs
(Table 18-5). (DESIGN CHOICE, A19) -/
def execLoadingComplete (graph : Nat) (s : State) : Out :=
  .next (
    let g := s.graph graph
    if g.st != .loading then s else
    let tiles := (graphTiles g).map (fun x => x.2.2)
    let ks := (List.range g.nctx).map (physCtx g)
    let s1 := ks.foldl (fun s k => endLoad s g.part k tiles false) s
    if tiles.any (fun ti => ks.any (fun k => ((s1.tile ti).ctx k).failed)) then failLoad s1 graph
    else
      let s2 := match g.snap with
        | some sn => finishRestore s1 graph sn
        | none => enterRunning s1 graph
      if tiles.any (fun ti => (s2.tile ti).retired || (s2.tile ti).routerRetired) then trigger s2 graph 0x0B else s2)

/-! ### Retirement (R30, R32) -/

/-- R30: whether the strands of a context of a tile hold nothing. (DEDUCED, A55) -/
def strandsEmpty (s : State) (tile k : Nat) : Bool :=
  let t := s.tile tile
  let real (l : List Beat) : Bool := l.any (fun b => !b.isMarker)
  !(pick 40 (fun e => EpF.used ((t.ctx k).epF e))).any (fun e => real (t.ep e).q || real (t.ep e).coil) &&
  !(pick 8 (fun n => NdF.used ((t.ctx k).ndF n))).any (fun n => !(t.node n).held.isEmpty || (t.node n).inq.any (fun q => real q.2))

/-- R30, R32: whether a graph has halted: every thread, and nothing left in a strand, queue, coil or link. (DEDUCED, A55) -/
def hasHalted (s : State) (k : Nat) : Bool :=
  (graphThreads s k).all (fun i => (s.thread i).run == .halted) &&
  (graphTiles (s.graph k)).all (fun (_, _, ti) => (graphCtxs s k ti).all (strandsEmpty s ti)) &&
  !s.flights.any (fun f => !f.beat.isMarker && epGraph (s.tile f.srcTile) f.srcEp == some k)

/-- R30, GRAPH_RETIRE. -/
def execGraphRetire (graph : Nat) (s : State) : Out :=
  .next (if (s.graph graph).st == .running && !(s.graph graph).frozen && isActive s graph && hasHalted s graph then
    endGraph s graph .retired 0 else s)

/-! ### Time-sharing (R396) -/

/-- R396: whether an entry of a partition has work: a candidate or a Running graph. -/
def hasWork (s : State) (part i : Nat) : Bool :=
  s.graphs.any (fun (_, g) => g.part == part && g.ctxi == i && (g.st == .running || g.st == .cut)) ||
  (ownQueues s part).any (fun q => let d := queueDesc s part q; d.en && d.count != 0 && d.ctxi == i)

/-- R396: the next valid entry with work after the active one, wrapping round. (DESIGN CHOICE, A54) -/
def nextEntry (s : State) (part : Nat) : Option Nat :=
  let n := min 64 (fld (ctxListDword s part 0) 6 0)
  let a := (s.part part).active
  ((List.range n).map (fun j => (a + 1 + j) % n)).find? (fun i => i != a && entryValid s part i && hasWork s part i)

/-- R396: the graphs of an entry that have not stopped. -/
def stillRuns (s : State) (part i : Nat) : List Nat :=
  (s.graphs.filter (fun (_, g) => g.part == part && g.ctxi == i && ((g.st == .running && !g.frozen) || g.st == .loading))).map Prod.fst

/-- R396: whether the slice of the active entry has ended. (DESIGN CHOICE, A54) -/
def sliceOver (s : State) (part : Nat) : Bool :=
  let p := s.part part
  let slice := fld (ctxListDword s part (0x80 + 16 * p.active)) 15 0
  !entryValid s part p.active || (slice != 0 && decide (p.sliceAt + usTicks slice ≤ s.mod.ref))

/-- R396, R395, SLICE_END: the header of the context list is read; at the end of the slice, another entry with work comes in, and the
graphs of the active one are cut; with none, a new slice starts. -/
def execSliceEnd (part : Nat) (s : State) : Out :=
  .next (
    let p := s.part part
    if !p.exists_ || p.incoming.isSome || !sliceOver s part then s else
    let s1 := if entryValid s part p.active then readHeader s part else s
    match nextEntry s1 part with
    | none => s1.mapPart part (fun p => { p with sliceAt := s.mod.ref })
    | some j => (stillRuns s1 part p.active).foldl cutGraph (s1.mapPart part (fun p => { p with incoming := some j })))

/-- R396, R395, CONTEXT_SWITCH: once every graph of the outgoing entry has stopped, the incoming one is active and its REENTRY governs its
threads. -/
def execContextSwitch (part : Nat) (s : State) : Out :=
  .next (
    let p := s.part part
    match p.incoming with
    | none => s
    | some j =>
      if !(stillRuns s part p.active).isEmpty then s else
      let s1 := s.mapPart part (fun p => { p with active := j, incoming := none, sliceAt := s.mod.ref, evalDue := true })
      let s1 := readEntries s1 part
      let r := reentryLimit s1 part j
      let gs := (s1.graphs.filter (fun (_, g) => g.part == part && g.ctxi == j && g.st == .running)).map Prod.fst
      gs.foldl (fun s k => (graphThreads s k).foldl (fun s i => s.mapThread i (fun t => { t with rlim := r })) s) s1)

end Sys2Proof.Machine
end

