-- ==== Sys2Proof/Machine/Memory.lean ====
section
/-! DEFINITION. Loads and stores, scalar and vector: majors 0x14 to 0x16 and 0x20 to 0x22 (R287 to R293). -/

namespace Sys2Proof.Machine

/-! ### Scalar loads (R287, Table 10-2) -/

/-- R287: the value of n loaded bytes, sign- or zero-extended. -/
def extend (signed : Bool) (bs : List Byte) : Word :=
  if signed then wi (sextN (leNat bs) (8 * bs.length)) else wd (leNat bs)

/-- R287: a load of n bytes at ea into sD. -/
def loadScalar (n : Nat) (signed : Bool) (d : BitVec 5) (rd : RegSet) (ea : Word) (s : State) : State :=
  loadOp rd (RegSet.s1 d) n false [(ea, n)] (fun _ => none) (fun bs s => s.mapMe (fun t => (t.ws d (extend signed (bs.headD []))).next)) s

/-- R287, LDB. -/
def execLdb (d a : BitVec 5) (o : BitVec 13) (s : State) : Out := .next (loadScalar 1 true d (RegSet.s1 a) (ea13 s.me a o) s)
/-- R287, LDBU. -/
def execLdbu (d a : BitVec 5) (o : BitVec 13) (s : State) : Out := .next (loadScalar 1 false d (RegSet.s1 a) (ea13 s.me a o) s)
/-- R287, LDH. -/
def execLdh (d a : BitVec 5) (o : BitVec 13) (s : State) : Out := .next (loadScalar 2 true d (RegSet.s1 a) (ea13 s.me a o) s)
/-- R287, LDHU. -/
def execLdhu (d a : BitVec 5) (o : BitVec 13) (s : State) : Out := .next (loadScalar 2 false d (RegSet.s1 a) (ea13 s.me a o) s)
/-- R287, LDW. -/
def execLdw (d a : BitVec 5) (o : BitVec 13) (s : State) : Out := .next (loadScalar 4 true d (RegSet.s1 a) (ea13 s.me a o) s)
/-- R287, LDWU. -/
def execLdwu (d a : BitVec 5) (o : BitVec 13) (s : State) : Out := .next (loadScalar 4 false d (RegSet.s1 a) (ea13 s.me a o) s)
/-- R287, LDD. -/
def execLdd (d a : BitVec 5) (o : BitVec 13) (s : State) : Out := .next (loadScalar 8 false d (RegSet.s1 a) (ea13 s.me a o) s)

/-! ### Scalar stores (R288) -/

/-- R288: a store of the low n bytes of sD at ea; `scope` is that of a STREL (R290), 0 otherwise. -/
def storeScalar (n : Nat) (d : BitVec 5) (rd : RegSet) (ea : Word) (scope : Nat) (s : State) : State :=
  bufferOp (rd.or (RegSet.s1 d)) n .store [(ea, n)] [.store ea (leBytes n (s.me.rs d).toNat) scope] s

/-- R288, STB. -/
def execStb (d a : BitVec 5) (o : BitVec 13) (s : State) : Out := .next (storeScalar 1 d (RegSet.s1 a) (ea13 s.me a o) 0 s)
/-- R288, STH. -/
def execSth (d a : BitVec 5) (o : BitVec 13) (s : State) : Out := .next (storeScalar 2 d (RegSet.s1 a) (ea13 s.me a o) 0 s)
/-- R288, STW. -/
def execStw (d a : BitVec 5) (o : BitVec 13) (s : State) : Out := .next (storeScalar 4 d (RegSet.s1 a) (ea13 s.me a o) 0 s)
/-- R288, STD. -/
def execStd (d a : BitVec 5) (o : BitVec 13) (s : State) : Out := .next (storeScalar 8 d (RegSet.s1 a) (ea13 s.me a o) 0 s)

/-! ### Indexed and ordered forms (R289, R290) -/

/-- Table 10-2: size and extension of a load's form code. -/
def loadForm (f : BitVec 3) : Nat × Bool :=
  match f.toNat with | 0 => (1, true) | 1 => (1, false) | 2 => (2, true) | 3 => (2, false) | 4 => (4, true) | 5 => (4, false) | _ => (8, false)

/-- R289, indexed load. -/
def execIndexedLoad (d a b : BitVec 5) (f : BitVec 3) (k : BitVec 2) (s : State) : Out :=
  .next (loadScalar (loadForm f).1 (loadForm f).2 d (readsSS a b) (eaIndexed s.me a b k) s)
/-- R289, indexed store. -/
def execIndexedStore (d a b : BitVec 5) (f : BitVec 3) (k : BitVec 2) (s : State) : Out :=
  .next (storeScalar (2 ^ (f.toNat % 4)) d (readsSS a b) (eaIndexed s.me a b k) 0 s)
/-- R290, LDACQ: a dword load performed at issue; no later access issues before it has returned. -/
def execLdacq (d a : BitVec 5) (_sc : BitVec 4) (s : State) : Out :=
  .next (loadScalar 8 false d (RegSet.s1 a) (s.me.rs a) s)
/-- R290, STREL: a buffered dword store, released at its commit under R180. -/
def execStrel (d a : BitVec 5) (sc : BitVec 4) (s : State) : Out :=
  .next (storeScalar 8 d (RegSet.s1 a) (s.me.rs a) sc.toNat s)

/-! ### Vector loads and stores (R291 to R293) -/

/-- Table 9-1: width in bytes of a type code. -/
def typeWidth (t : BitVec 4) : Nat := 2 ^ WellFormed.typeLog t

/-- The lanes of w bytes that are active under a predicate. -/
def activeLanes (p : Word) (w : Nat) : List Nat := pick (64 / w) (active p w)

/-- R251: the reads of a governing predicate and, unless it is p0, of the destination it keeps. -/
def governed (d : BitVec 5) (g : BitVec 3) : RegSet := if g = 0 then .empty else (RegSet.p1 g).or (RegSet.v1 d)

/-- R251: lanes of a vector replaced. -/
def setLanes (w : Nat) (old : Vec) (is : List Nat) (vs : List Nat) : Vec :=
  ofLanes w ((is.zip vs).foldl (fun ls p => ls.set p.1 p.2) (lanesOf w old))

/-- R286, R291 to R293: a vector load of the active lanes at the given addresses. -/
def vectorLoad (w : Nat) (d : BitVec 5) (g : BitVec 3) (rd : RegSet) (ea : Nat → Word) (s : State) : State :=
  let is := activeLanes (s.me.rp g) w
  loadOp (rd.or (governed d g)) (RegSet.v1 d) w false (is.map (fun i => (ea i, w)))
    (fun _ => none) (fun bs s => s.mapMe (fun t => (t.wv d (setLanes w (t.rv d) is (bs.map leNat))).next)) s

/-- The runs of successive lane numbers, as first lane and length. -/
def runs : List Nat → List (Nat × Nat)
  | [] => []
  | i :: r => match runs r with
    | (j, n) :: q => if j = i + 1 then (i, n + 1) :: q else (i, 1) :: (j, n) :: q
    | [] => [(i, 1)]

/-- R291: the line offset of VLD and VST. -/
def lineBase (t : Thread) (a : BitVec 5) (o : BitVec 10) : Word := eaLines t a o

/-- R291, VLD. -/
def execVld (d a : BitVec 5) (g : BitVec 3) (w : BitVec 2) (o : BitVec 10) (s : State) : Out :=
  .next (let n := 2 ^ w.toNat
    vectorLoad n d g (RegSet.s1 a) (fun i => lineBase s.me a o + wd (n * i)) s)

/-- R291, VST: successive active lanes are stored together, line by line (R286). -/
def execVst (d a : BitVec 5) (g : BitVec 3) (w : BitVec 2) (o : BitVec 10) (s : State) : Out :=
  .next (
    let n := 2 ^ w.toNat
    let is := activeLanes (s.me.rp g) n
    let rs := runs is
    let ea (i : Nat) : Word := lineBase s.me a o + wd (n * i)
    let bytes (r : Nat × Nat) : List Byte := ((leBytes 64 (s.me.rv d).toNat).drop (n * r.1)).take (n * r.2)
    bufferOp (((RegSet.s1 a).or (RegSet.v1 d)).or (RegSet.p1 g)) n .store (is.map (fun i => (ea i, n)))
      (rs.map (fun r => .store (ea r.1) (bytes r) 0)) s)

/-- R292, R293: a store of each active lane at its own address, in increasing order. -/
def scatter (w : Nat) (d : BitVec 5) (g : BitVec 3) (rd : RegSet) (ea : Nat → Word) (s : State) : State :=
  let is := activeLanes (s.me.rp g) w
  let ls := lanesOf w (s.me.rv d)
  bufferOp ((rd.or (RegSet.v1 d)).or (RegSet.p1 g)) w .store (is.map (fun i => (ea i, w)))
    (is.map (fun i => .store (ea i) (leBytes w (ls.getD i 0)) 0)) s

/-- R292: element i of a strided access. -/
def eaStride (t : Thread) (a b : BitVec 5) (i : Nat) : Word := t.rs a + wd i * t.rs b
/-- R292, VLDS. -/
def execVlds (d a b : BitVec 5) (t : BitVec 4) (g : BitVec 3) (s : State) : Out :=
  .next (vectorLoad (typeWidth t) d g (readsSS a b) (eaStride s.me a b) s)
/-- R292, VSTS. -/
def execVsts (d a b : BitVec 5) (t : BitVec 4) (g : BitVec 3) (s : State) : Out :=
  .next (scatter (typeWidth t) d g (readsSS a b) (eaStride s.me a b) s)

/-- R293: element i of a gather or scatter; the index has the width of the type. -/
def eaGather (t : Thread) (a b : BitVec 5) (w : Nat) (x : Bool) (i : Nat) : Word :=
  t.rs a + wi (sextN ((lanesOf w (t.rv b)).getD i 0) (8 * w) * (if x then w else 1 : Nat))
/-- R293, VGATH. -/
def execVgath (d a b : BitVec 5) (t : BitVec 4) (x : Bool) (g : BitVec 3) (s : State) : Out :=
  .next (vectorLoad (typeWidth t) d g ((RegSet.s1 a).or (RegSet.v1 b)) (eaGather s.me a b (typeWidth t) x) s)
/-- R293, VSCAT. -/
def execVscat (d a b : BitVec 5) (t : BitVec 4) (x : Bool) (g : BitVec 3) (s : State) : Out :=
  .next (scatter (typeWidth t) d g ((RegSet.s1 a).or (RegSet.v1 b)) (eaGather s.me a b (typeWidth t) x) s)

end Sys2Proof.Machine
end

