-- ==== Sys2Proof/Machine/Scalar.lean ====
section
/-! DEFINITION. Integer, immediate, predicate, branch, jump and loop instructions: majors 0x01 to 0x0C and 0x10 to 0x13
(spec/08_isa_scalar_control.md, R218 to R237). -/

namespace Sys2Proof.Machine

/-! ### Majors 0x01 to 0x03 (R221 to R223) -/

/-- R221, ADD. -/
def execAdd (d a b : BitVec 5) (s : State) : Out := .next (scalarOp d (readsSS a b) (s.me.rs a + s.me.rs b) s)
/-- R221, SUB. -/
def execSub (d a b : BitVec 5) (s : State) : Out := .next (scalarOp d (readsSS a b) (s.me.rs a - s.me.rs b) s)
/-- R221, AND. -/
def execAnd (d a b : BitVec 5) (s : State) : Out := .next (scalarOp d (readsSS a b) (s.me.rs a &&& s.me.rs b) s)
/-- R221, OR. -/
def execOr (d a b : BitVec 5) (s : State) : Out := .next (scalarOp d (readsSS a b) (s.me.rs a ||| s.me.rs b) s)
/-- R221, XOR. -/
def execXor (d a b : BitVec 5) (s : State) : Out := .next (scalarOp d (readsSS a b) (s.me.rs a ^^^ s.me.rs b) s)
/-- R221, ANDN. -/
def execAndn (d a b : BitVec 5) (s : State) : Out := .next (scalarOp d (readsSS a b) (s.me.rs a &&& ~~~(s.me.rs b)) s)
/-- R221: a shift amount is b[5:0]. -/
def shamt (b : Word) : Nat := b.toNat % 64
/-- R221, SHL. -/
def execShl (d a b : BitVec 5) (s : State) : Out := .next (scalarOp d (readsSS a b) (s.me.rs a <<< shamt (s.me.rs b)) s)
/-- R221, SHR. -/
def execShr (d a b : BitVec 5) (s : State) : Out := .next (scalarOp d (readsSS a b) (s.me.rs a >>> shamt (s.me.rs b)) s)
/-- R221, SRA. -/
def execSra (d a b : BitVec 5) (s : State) : Out := .next (scalarOp d (readsSS a b) ((s.me.rs a).sshiftRight (shamt (s.me.rs b))) s)
/-- R221, ROTL. -/
def execRotl (d a b : BitVec 5) (s : State) : Out := .next (scalarOp d (readsSS a b) ((s.me.rs a).rotateLeft (shamt (s.me.rs b))) s)
/-- R221, MIN. -/
def execMin (d a b : BitVec 5) (s : State) : Out :=
  .next (scalarOp d (readsSS a b) (if (s.me.rs b).slt (s.me.rs a) then s.me.rs b else s.me.rs a) s)
/-- R221, MAX. -/
def execMax (d a b : BitVec 5) (s : State) : Out :=
  .next (scalarOp d (readsSS a b) (if (s.me.rs a).slt (s.me.rs b) then s.me.rs b else s.me.rs a) s)
/-- R221, MINU. -/
def execMinu (d a b : BitVec 5) (s : State) : Out :=
  .next (scalarOp d (readsSS a b) (if (s.me.rs b).ult (s.me.rs a) then s.me.rs b else s.me.rs a) s)
/-- R221, MAXU. -/
def execMaxu (d a b : BitVec 5) (s : State) : Out :=
  .next (scalarOp d (readsSS a b) (if (s.me.rs a).ult (s.me.rs b) then s.me.rs b else s.me.rs a) s)
/-- R221, SEL. -/
def execSel (d a b : BitVec 5) (n : BitVec 3) (s : State) : Out :=
  .next (scalarOp d ((readsSS a b).or (RegSet.p1 n)) (if (s.me.rp n).getLsbD 0 then s.me.rs a else s.me.rs b) s)

/-- R222, MUL. -/
def execMul (d a b : BitVec 5) (s : State) : Out := .next (scalarOp d (readsSS a b) (s.me.rs a * s.me.rs b) s)
/-- R222, MULH. -/
def execMulh (d a b : BitVec 5) (s : State) : Out :=
  .next (scalarOp d (readsSS a b) (wi ((s.me.rs a).toInt * (s.me.rs b).toInt / 2 ^ 64)) s)
/-- R222, MULHU. -/
def execMulhu (d a b : BitVec 5) (s : State) : Out :=
  .next (scalarOp d (readsSS a b) (wd ((s.me.rs a).toNat * (s.me.rs b).toNat / 2 ^ 64)) s)
/-- R222: the quotient of DIV. -/
def quotient (a b : Word) : Word := if b = 0 then BitVec.allOnes 64 else wi (a.toInt.tdiv b.toInt)
/-- R222, DIV. -/
def execDiv (d a b : BitVec 5) (s : State) : Out := .next (scalarOp d (readsSS a b) (quotient (s.me.rs a) (s.me.rs b)) s)
/-- R222, DIVU. -/
def execDivu (d a b : BitVec 5) (s : State) : Out :=
  .next (scalarOp d (readsSS a b) (if s.me.rs b = 0 then BitVec.allOnes 64 else s.me.rs a / s.me.rs b) s)
/-- R222, REM. -/
def execRem (d a b : BitVec 5) (s : State) : Out :=
  .next (scalarOp d (readsSS a b) (if s.me.rs b = 0 then s.me.rs a else wi ((s.me.rs a).toInt.tmod (s.me.rs b).toInt)) s)
/-- R222, REMU. -/
def execRemu (d a b : BitVec 5) (s : State) : Out :=
  .next (scalarOp d (readsSS a b) (if s.me.rs b = 0 then s.me.rs a else s.me.rs a % s.me.rs b) s)

/-- R223: the zero bits above the highest set bit. -/
def clz (a : Word) : Nat := if a = 0 then 64 else 63 - Nat.log2 a.toNat
/-- R223: the zero bits below the lowest set bit. -/
def ctz (a : Word) : Nat := ((List.range 64).find? (fun i => a.getLsbD i)).getD 64
/-- R223: the set bits. -/
def popc (a : Word) : Nat := (pick 64 (fun i => a.getLsbD i)).length
/-- R223, CLZ. -/
def execClz (d a : BitVec 5) (s : State) : Out := .next (scalarOp d (RegSet.s1 a) (wd (clz (s.me.rs a))) s)
/-- R223, CTZ. -/
def execCtz (d a : BitVec 5) (s : State) : Out := .next (scalarOp d (RegSet.s1 a) (wd (ctz (s.me.rs a))) s)
/-- R223, POPC. -/
def execPopc (d a : BitVec 5) (s : State) : Out := .next (scalarOp d (RegSet.s1 a) (wd (popc (s.me.rs a))) s)
/-- R223, SEXTB. -/
def execSextb (d a : BitVec 5) (s : State) : Out := .next (scalarOp d (RegSet.s1 a) (((s.me.rs a).truncate 8).signExtend 64) s)
/-- R223, SEXTH. -/
def execSexth (d a : BitVec 5) (s : State) : Out := .next (scalarOp d (RegSet.s1 a) (((s.me.rs a).truncate 16).signExtend 64) s)
/-- R223, SEXTW. -/
def execSextw (d a : BitVec 5) (s : State) : Out := .next (scalarOp d (RegSet.s1 a) (((s.me.rs a).truncate 32).signExtend 64) s)

/-! ### Major 0x04 (R228) -/

/-- R228, CMPEQ. -/
def execCmpeq (d : BitVec 3) (a b : BitVec 5) (s : State) : Out := .next (predOp d (readsSS a b) (predOf (s.me.rs a == s.me.rs b)) s)
/-- R228, CMPNE. -/
def execCmpne (d : BitVec 3) (a b : BitVec 5) (s : State) : Out := .next (predOp d (readsSS a b) (predOf (s.me.rs a != s.me.rs b)) s)
/-- R228, CMPLT. -/
def execCmplt (d : BitVec 3) (a b : BitVec 5) (s : State) : Out := .next (predOp d (readsSS a b) (predOf ((s.me.rs a).slt (s.me.rs b))) s)
/-- R228, CMPLE. -/
def execCmple (d : BitVec 3) (a b : BitVec 5) (s : State) : Out := .next (predOp d (readsSS a b) (predOf ((s.me.rs a).sle (s.me.rs b))) s)
/-- R228, CMPLTU. -/
def execCmpltu (d : BitVec 3) (a b : BitVec 5) (s : State) : Out := .next (predOp d (readsSS a b) (predOf ((s.me.rs a).ult (s.me.rs b))) s)
/-- R228, CMPLEU. -/
def execCmpleu (d : BitVec 3) (a b : BitVec 5) (s : State) : Out := .next (predOp d (readsSS a b) (predOf ((s.me.rs a).ule (s.me.rs b))) s)
/-- R228: reads of two predicates. -/
def readsPP (a b : BitVec 3) : RegSet := (RegSet.p1 a).or (RegSet.p1 b)
/-- R228, PAND. -/
def execPand (d a b : BitVec 3) (s : State) : Out := .next (predOp d (readsPP a b) (s.me.rp a &&& s.me.rp b) s)
/-- R228, POR. -/
def execPor (d a b : BitVec 3) (s : State) : Out := .next (predOp d (readsPP a b) (s.me.rp a ||| s.me.rp b) s)
/-- R228, PXOR. -/
def execPxor (d a b : BitVec 3) (s : State) : Out := .next (predOp d (readsPP a b) (s.me.rp a ^^^ s.me.rp b) s)
/-- R228, PNOT. -/
def execPnot (d a : BitVec 3) (s : State) : Out := .next (predOp d (RegSet.p1 a) (~~~(s.me.rp a)) s)
/-- R228, PSET. -/
def execPset (d : BitVec 3) (a : BitVec 5) (s : State) : Out := .next (predOp d (RegSet.s1 a) (s.me.rs a) s)
/-- R228, PGET. -/
def execPget (d : BitVec 5) (a : BitVec 3) (s : State) : Out := .next (scalarOp d (RegSet.p1 a) (s.me.rp a) s)

/-! ### Majors 0x05 to 0x0B (R224 to R227) -/

/-- R224, ADDI. -/
def execAddi (d a : BitVec 5) (i : BitVec 16) (s : State) : Out := .next (scalarOp d (RegSet.s1 a) (s.me.rs a + simm i) s)
/-- R224, ANDI. -/
def execAndi (d a : BitVec 5) (i : BitVec 16) (s : State) : Out := .next (scalarOp d (RegSet.s1 a) (s.me.rs a &&& simm i) s)
/-- R224, ORI. -/
def execOri (d a : BitVec 5) (i : BitVec 16) (s : State) : Out := .next (scalarOp d (RegSet.s1 a) (s.me.rs a ||| zimm i) s)
/-- R224, XORI. -/
def execXori (d a : BitVec 5) (i : BitVec 16) (s : State) : Out := .next (scalarOp d (RegSet.s1 a) (s.me.rs a ^^^ zimm i) s)
/-- R225, SHLI. -/
def execShli (d a : BitVec 5) (k : BitVec 6) (s : State) : Out := .next (scalarOp d (RegSet.s1 a) (s.me.rs a <<< k.toNat) s)
/-- R225, SHRI. -/
def execShri (d a : BitVec 5) (k : BitVec 6) (s : State) : Out := .next (scalarOp d (RegSet.s1 a) (s.me.rs a >>> k.toNat) s)
/-- R225, SRAI. -/
def execSrai (d a : BitVec 5) (k : BitVec 6) (s : State) : Out := .next (scalarOp d (RegSet.s1 a) ((s.me.rs a).sshiftRight k.toNat) s)
/-- R226, LI. -/
def execLi (d : BitVec 5) (i : BitVec 21) (s : State) : Out := .next (scalarOp d .empty (i.signExtend 64) s)
/-- R227, LIS. -/
def execLis (d : BitVec 5) (k : BitVec 2) (i : BitVec 16) (s : State) : Out :=
  .next (scalarOp d (RegSet.s1 d) ((s.me.rs d &&& ~~~(0xFFFF#64 <<< (16 * k.toNat))) ||| (zimm i <<< (16 * k.toNat))) s)

/-! ### Majors 0x10 to 0x13 (R229 to R233) -/

/-- R229, R230: a conditional branch that reads `rd`. -/
def branchIf (rd : RegSet) (taken : Bool) (o : BitVec 13) (s : State) : State :=
  inBight rd .empty none (fun s => s.mapMe (fun t => if taken then t.goto (target13 t.pc o) else t.next)) s

/-- R229, BEQ. -/
def execBeq (a b : BitVec 5) (o : BitVec 13) (s : State) : Out := .next (branchIf (readsSS a b) (s.me.rs a == s.me.rs b) o s)
/-- R229, BNE. -/
def execBne (a b : BitVec 5) (o : BitVec 13) (s : State) : Out := .next (branchIf (readsSS a b) (s.me.rs a != s.me.rs b) o s)
/-- R229, BLT. -/
def execBlt (a b : BitVec 5) (o : BitVec 13) (s : State) : Out := .next (branchIf (readsSS a b) ((s.me.rs a).slt (s.me.rs b)) o s)
/-- R229, BGE. -/
def execBge (a b : BitVec 5) (o : BitVec 13) (s : State) : Out := .next (branchIf (readsSS a b) (!(s.me.rs a).slt (s.me.rs b)) o s)
/-- R229, BLTU. -/
def execBltu (a b : BitVec 5) (o : BitVec 13) (s : State) : Out := .next (branchIf (readsSS a b) ((s.me.rs a).ult (s.me.rs b)) o s)
/-- R229, BGEU. -/
def execBgeu (a b : BitVec 5) (o : BitVec 13) (s : State) : Out := .next (branchIf (readsSS a b) (!(s.me.rs a).ult (s.me.rs b)) o s)
/-- R230, BP: bit 0 set. -/
def execBp (n : BitVec 3) (o : BitVec 13) (s : State) : Out := .next (branchIf (RegSet.p1 n) ((s.me.rp n).getLsbD 0) o s)
/-- R230, BP.any. -/
def execBpAny (n : BitVec 3) (o : BitVec 13) (s : State) : Out := .next (branchIf (RegSet.p1 n) (s.me.rp n != 0) o s)
/-- R230, BP.all. -/
def execBpAll (n : BitVec 3) (o : BitVec 13) (s : State) : Out := .next (branchIf (RegSet.p1 n) (s.me.rp n == BitVec.allOnes 64) o s)
/-- R230, BNP: bit 0 clear. -/
def execBnp (n : BitVec 3) (o : BitVec 13) (s : State) : Out := .next (branchIf (RegSet.p1 n) (!(s.me.rp n).getLsbD 0) o s)
/-- R230, BNP.any. -/
def execBnpAny (n : BitVec 3) (o : BitVec 13) (s : State) : Out := .next (branchIf (RegSet.p1 n) (s.me.rp n == 0) o s)
/-- R230, BNP.all. -/
def execBnpAll (n : BitVec 3) (o : BitVec 13) (s : State) : Out := .next (branchIf (RegSet.p1 n) (s.me.rp n != BitVec.allOnes 64) o s)

/-- R231, J. -/
def execJ (o : BitVec 25) (s : State) : Out :=
  .next (inBight .empty .empty none (fun s => s.mapMe (fun t => t.goto (target25 t.pc o))) s)
/-- R231: the return address of the running slot. -/
def returnAddr (t : Thread) : Word := (t.pc + 4).zeroExtend 64
/-- R231, CALL. -/
def execCall (o : BitVec 25) (s : State) : Out :=
  .next (inBight .empty (RegSet.s1 31) none (fun s => s.mapMe (fun t => (t.ws 31 (returnAddr t)).goto (target25 t.pc o))) s)
/-- R232: the checks of a register jump. -/
def jumpCheck (x : Word) : Option (Nat × Word) :=
  if x.toNat / 2 ^ 18 ≠ 0 then some (3, x) else if x.toNat % 4 ≠ 0 then some (4, x) else none
/-- R232, JR. -/
def execJr (a : BitVec 5) (s : State) : Out :=
  .next (inBight (RegSet.s1 a) .empty (jumpCheck (s.me.rs a)) (fun s' => s'.mapMe (fun t => t.goto ((s.me.rs a).truncate 18))) s)
/-- R232, CALLR: sA is read before s31 is written. -/
def execCallr (a : BitVec 5) (s : State) : Out :=
  .next (inBight (RegSet.s1 a) (RegSet.s1 31) (jumpCheck (s.me.rs a))
    (fun s' => s'.mapMe (fun t => (t.ws 31 (returnAddr t)).goto ((s.me.rs a).truncate 18))) s)

/-! ### Major 0x0C (R234 to R237) -/

/-- R234: counter n. -/
def Thread.ctr (t : Thread) (n : BitVec 2) : LoopCtr := t.lc[n.toNat]'n.isLt
/-- R234: counter n replaced. -/
def Thread.setCtr (t : Thread) (n : BitVec 2) (c : LoopCtr) : Thread := { t with lc := t.lc.set n.toNat c n.isLt }

/-- R237: the chain of a LOOP, at most four counters: the thread with its counters stepped, and whether it branches. -/
def loopStep : Nat → BitVec 2 → Thread → Thread × Bool
  | 0, _, t => (t, false)
  | fuel + 1, k, t =>
    let c := t.ctr k
    let c1 := if c.count ≠ 0 then { c with count := c.count - 1 } else c
    if c1.count ≠ 0 then (t.setCtr k c1, true)
    else if !c1.e then (t.setCtr k c1, false)
    else loopStep fuel c1.outer (t.setCtr k { c1 with count := c1.start })

/-- R237, LOOP. -/
def execLoop (n : BitVec 2) (o : BitVec 13) (s : State) : Out :=
  .next (s.mapMe (fun t =>
    let r := loopStep 4 n t
    if r.2 then r.1.goto (target13 t.pc o) else r.1.next))
/-- R235: COUNT and START set. -/
def Thread.loadCtr (t : Thread) (n : BitVec 2) (v : BitVec 32) : Thread := t.setCtr n { t.ctr n with count := v, start := v }
/-- R235, LCSET from a register, saturating. -/
def execLcsetReg (n : BitVec 2) (b : BitVec 5) (s : State) : Out :=
  .next (inBight (RegSet.s1 b) .empty none
    (fun s' => s'.mapMe (fun t => (t.loadCtr n (.ofNat 32 (min (s.me.rs b).toNat (2 ^ 32 - 1)))).next)) s)
/-- R235, LCSET immediate. -/
def execLcsetImm (n : BitVec 2) (i : BitVec 13) (s : State) : Out :=
  .next (s.mapMe (fun t => (t.loadCtr n (i.zeroExtend 32)).next))
/-- R236, LCCHAIN. -/
def execLcchain (n m : BitVec 2) (s : State) : Out :=
  .next (s.mapMe (fun t => (t.setCtr n { t.ctr n with e := true, outer := m }).next))
/-- R236, LCCHAIN none. -/
def execLcchainNone (n : BitVec 2) (s : State) : Out :=
  .next (s.mapMe (fun t => (t.setCtr n { t.ctr n with e := false }).next))

end Sys2Proof.Machine
end

