-- ==== Sys2Proof/Machine/System.lean ====
section
/-! DEFINITION. TRAP and SYSRET (major 0x3C, R373 to R375), the system instructions of major 0x3D (R376 to R384), the words that
are no instruction (R193, R203), and the hang monitor (R401). -/

namespace Sys2Proof.Machine

/-! ### Words that are not instructions (R193, R203) -/

/-- R203: a word that is no instruction raises ILLEGAL with the word as TVAL. -/
def execIllegalWord (w : IWord) (s : State) : Out := .next (raise s 1 (w.zeroExtend 64))

/-- R193, R447: a fetch that meets poison raises POISON at its PC, precisely. -/
def execPoisonedFetch (pc : PC) (s : State) : Out :=
  .next (
    let ea := wd (0xE * 2 ^ 60 + pc.toNat)
    raise (poisonRecord s s.cur 1 ea pc) 8 (pc.zeroExtend 64))

/-! ### Major 0x3C (R374, R375) -/

/-- R374, TRAP: after its implicit knot, the service request is delivered. -/
def execTrap (n : BitVec 16) (s : State) : Out :=
  .next (irrevocable .empty .empty none (fun s =>
    deliver s s.cur { code := 0x19, val := n.zeroExtend 64, pc := s.me.pc + 4, disc := false, e := false, queue := 0, epc := 0, graph := false,
                      open_ := false }) s)

/-- R375: SYSRET: the handler's bight commits, and the thread returns to U; engines that hold a fault for it try again (R433). -/
def sysret (re : Bool) (s : State) : State :=
  if !s.me.lvl then raiseFree s 2 else
  match knot s s.cur false s.me.pc with
  | .hold s' => s'
  | .go s' => post (sysReturn s' re) (.heldFaultRetry s'.cur)

/-- R375, SYSRET. -/
def execSysret (s : State) : Out := .next (sysret false s)
/-- R375, SYSRET.RE. -/
def execSysretRe (s : State) : Out := .next (sysret true s)

/-! ### Translation (R377, R378) -/

/-- R376, R204: a form of major 0x3D: PRIV at U; then the checks it names, and its effect inside the handler's open bight. -/
def systemOp (rd wr : RegSet) (pre : Option (Nat × Word)) (body : State → State) (s : State) : State :=
  if !s.me.lvl then raiseFree s 2 else inBight rd wr pre body s

/-- R377: the cached translations of a partition that `drop` names leave every cache. -/
def dropTlb (s : State) (drop : TlbEntry → Bool) : State :=
  let keep (l : List TlbEntry) : List TlbEntry := l.filter (fun e => !drop e)
  { s with
    tlb2 := s.tlb2.map (fun e => (e.1, keep e.2)),
    tiles := s.tiles.map (fun e => (e.1, { e.2 with
      tlb := keep e.2.tlb, engines := e.2.engines.map (fun x => (x.1, { x.2 with tlb := keep x.2.tlb })) })) }

/-- R377, R378: the check of an address operand. -/
def globalCheck (v : Word) : Option (Nat × Word) := if fld v.toNat 63 60 != 0 then some (3, v) else none

/-- R377, TLBINV. -/
def execTlbinv (a : BitVec 5) (s : State) : Out :=
  .next (
    let v := s.me.rs a
    let part := graphPart s.me.graph
    systemOp (RegSet.s1 a) .empty (globalCheck v) (fun s => (dropTlb s (tlbHit part (vaOf v))).mapMe Thread.next) s)

/-- R377, TLBINVA. -/
def execTlbinva (s : State) : Out :=
  .next (
    let part := graphPart s.me.graph
    systemOp .empty .empty none (fun s => (dropTlb s (fun e => e.part == part)).mapMe Thread.next) s)

/-- R378: what the caches and tables of the running slot hold for an address, with nothing filled. -/
def lookup (s : State) (va : Nat) : Walk :=
  let part := graphPart s.me.graph
  let a := agOf s s.cur
  match (tlb1 s a).find? (tlbHit part va), (Assoc.getD s.tlb2 (fieldOf a.tile) []).find? (tlbHit part va) with
  | some x, _ => .ok x.entry.toNat x.large
  | none, some x => .ok x.entry.toNat x.large
  | none, none => walk s part va

/-- Table 16-8, R430: the result of PROBE. (DEDUCED, A57) -/
def probeValue (w : Walk) : Word :=
  let b (v : Bool) (i : Nat) : Nat := if v then 2 ^ i else 0
  match w with
  | .ok e large =>
    let place := if Pte.host e then 127 * 2 ^ 19 + fld (Pte.hostAddr e) 27 16 * 2 ^ 4
      else tileX (Pte.tile e) * 2 ^ 26 + tileY (Pte.tile e) * 2 ^ 19 + fld (Pte.off e) 27 16 * 2 ^ 4
    wd (2 ^ 63 + b large 62 + b (Pte.w e) 61 + b (Pte.codec e) 60 + Pte.budget e * 2 ^ 58 + Pte.cidx e * 2 ^ 50 + b (Pte.pin e) 49 + place)
  | .page l => wd (l - 1)
  | .malformed l _ => wd (8 + (l - 1))
  | .poison l _ => wd (4 + (l - 1))

/-- R378, PROBE. -/
def execProbe (d a : BitVec 5) (s : State) : Out :=
  .next (
    let v := s.me.rs a
    let w := probeValue (lookup s (vaOf v))
    systemOp (RegSet.s1 a) (RegSet.s1 d) (globalCheck v) (fun s => s.mapMe (fun t => (t.ws d w).next)) s)

/-! ### Graphs by handle (R372) -/

/-- R372: the graph that a handle operand of the running slot names, if any. -/
def named (s : State) (v : Word) : Option (Nat × Graph) :=
  let k := graphKey (graphPart s.me.graph) (fld v.toNat 15 0)
  (Assoc.get? s.graphs k).map (fun g => (k, g))

/-- R372: a graph that is not absent: Queued, Loading, Running or Cut. -/
def GState.present (st : GState) : Bool := st == .queued || st == .loading || st == .running || st == .cut

/-- R372: the graph that a handle names, unless it is absent. -/
def present (s : State) (v : Word) : Option (Nat × Graph) :=
  match named s v with
  | some (k, g) => if g.st.present then some (k, g) else none
  | none => none

/-- R379: what WAVEREQ writes, and the state with the wave it opens. -/
def requestWave (s : State) (v : Word) : State × Nat :=
  match present s v with
  | some (k, g) =>
    if g.st ≠ .running then (s, 2 * 2 ^ 16)
    else match g.openWave with
      | some n => (s, 2 ^ 16 + n.toNat)
      | none => (openForced s k, (g.lastWave + 1).toNat)
  | none => (s, 2 * 2 ^ 16)

/-- R379, WAVEREQ. -/
def execWavereq (d a : BitVec 5) (s : State) : Out :=
  .next (
    let v := s.me.rs a
    systemOp (RegSet.s1 a) (RegSet.s1 d) none (fun s =>
      let (s1, n) := requestWave s v
      s1.mapMe (fun t => (t.ws d (wd n)).next)) s)

/-! ### CODECINV (R381, R382) -/

/-- R381: a cached block encoded, if it is dirty, and dropped. -/
def dropBlock (s : State) (b : Block) : State :=
  (encodeBlock s b).mapHome (b.off / 2 ^ 28) (fun h => { h with cache := h.cache.filter (fun c => c.off != b.off) })

/-- R381: the cached blocks of every home that `p` names dropped. -/
def dropBlocks (s : State) (p : Block → Bool) : State := ((s.homes.flatMap (fun h => h.2.cache)).filter p).foldl dropBlock s

/-- R381, R112: whether a block that `p` names has to be encoded into a bank in which a row command holds another row open. -/
def dropHeld (s : State) (p : Block → Bool) : Bool :=
  ((s.homes.flatMap (fun h => h.2.cache)).filter p).any (fun b => b.dirty && bankHeld s b.off)

/-- R381: whether a cached block lies on a codec page of a range: pages that are unmapped, or no codec pages, are skipped. (DEDUCED, A57) -/
def blockInRange (s : State) (lo n : Nat) (b : Block) : Bool :=
  b.part == graphPart s.me.graph && decide (lo ≤ b.va) && decide (b.va < lo + n) &&
  match lookup s b.va with
  | .ok e large => match placeOf e large b.va with | .codec _ frame _ => frame == b.off | _ => false
  | _ => false

/-- R381: the checks of the range form. -/
def codecinvCheck (a b : Word) : Option (Nat × Word) :=
  if fld a.toNat 63 60 != 0 then some (3, a)
  else if 2 ^ 40 < b.toNat then some (3, b)
  else if 2 ^ 56 < vaOf a + b.toNat then some (3, a)
  else if a.toNat % 128 != 0 then some (4, a)
  else if b.toNat % 128 != 0 then some (4, b)
  else none

/-- R381, CODECINV. -/
def execCodecinv (a b : BitVec 5) (s : State) : Out :=
  .next (
    let va := s.me.rs a
    let vb := s.me.rs b
    systemOp ((RegSet.s1 a).or (RegSet.s1 b)) .empty (codecinvCheck va vb) (fun s' =>
      let p := blockInRange s (vaOf va) vb.toNat
      if dropHeld s p then waitAs .home s else (dropBlocks s' p).mapMe Thread.next) s)

/-- R381: the check of the descriptor form. -/
def descCheck (s : State) (v : Word) : Option (Nat × Word) :=
  if fld v.toNat 63 8 != 0 || decide ((s.part (graphPart s.me.graph)).codectab.toNat % 256 < v.toNat) then some (3, v) else none

/-- R381, CODECINV.DESC. -/
def execCodecinvDesc (a : BitVec 5) (s : State) : Out :=
  .next (
    let v := s.me.rs a
    let part := graphPart s.me.graph
    systemOp (RegSet.s1 a) .empty (descCheck s v) (fun s' =>
      let p (b : Block) : Bool := b.part == part && b.cidx == v.toNat
      if dropHeld s p then waitAs .home s else
      let s1 := dropBlocks s' p
      let s2 : State := { s1 with homes := s1.homes.map (fun (i, h) => (i, { h with descs := Assoc.erase h.descs (256 * part + v.toNat) })) }
      s2.mapMe Thread.next) s)

/-! ### FREEZE (R383) -/

/-- R383: a graph stopped by the slot i; a frozen one stays as it is. (DEDUCED, A63) -/
def freezeGraph (s : State) (k : Nat) (by_ : Option Nat) : State :=
  if (s.graph k).frozen then s else
  s.mapGraph k (fun g => { g with frozen := true, freezer := by_, frozenAt := s.mod.ref })

/-- R383, R401: a frozen graph resumed; the latency limit has not run meanwhile, and a rollback that waits begins. (DEDUCED, A63) -/
def thawGraph (s : State) (k : Nat) : State :=
  let g := s.graph k
  if !g.frozen then s else
  let s1 := s.mapGraph k (fun g => { g with
    frozen := false, hung := false, freezer := none, hang := 0, deadline := g.deadline.map (fun d => d + (s.mod.ref - g.frozenAt)) })
  match g.waiting with
  | some c => trigger s1 k c
  | none => s1

/-- R383: FREEZE and FREEZE.OFF. -/
def freezeOp (off : Bool) (d a : BitVec 5) (s : State) : State :=
  let v := s.me.rs a
  systemOp (RegSet.s1 a) (RegSet.s1 d) none (fun s =>
    match present s v with
    | some (k, _) => (if off then thawGraph s k else freezeGraph s k (some s.cur)).mapMe (fun t => (t.ws d 0).next)
    | none => s.mapMe (fun t => (t.ws d 1).next)) s

/-- R383, FREEZE. -/
def execFreeze (d a : BitVec 5) (s : State) : Out := .next (freezeOp false d a s)
/-- R383, FREEZE.OFF. -/
def execFreezeOff (d a : BitVec 5) (s : State) : Out := .next (freezeOp true d a s)

/-! ### GRAPHCTL (R384) -/

/-- Table 16-10: the status word of a graph. -/
def graphWord (g : Graph) : Word :=
  let b (v : Bool) (i : Nat) : Nat := if v then 2 ^ i else 0
  wd (b g.frozen 63 + b (contained g) 62 + b g.hung 61 + g.lastWave.toNat * 2 ^ 32 + (g.openWave.getD g.lastWave).toNat * 2 ^ 16 +
    g.part % 32 * 2 ^ 3 + g.st.code)

/-- R384, Table 16-10: the status word for a handle; 7 for one that names no graph of the partition. (DEDUCED, A56) -/
def statusOf (s : State) (v : Word) : Word :=
  match named s v with
  | some (_, g) => graphWord g
  | none => wd (graphPart s.me.graph * 2 ^ 3 + 7)

/-- R384, GRAPHCTL.STAT. -/
def execGraphctlStat (d a : BitVec 5) (s : State) : Out :=
  .next (
    let v := s.me.rs a
    systemOp (RegSet.s1 a) (RegSet.s1 d) none (fun s => s.mapMe (fun t => (t.ws d (statusOf s v)).next)) s)

/-- R142: whether every edge into a node is clock-gated. -/
def nodeGated (t : Tile) (n f : Nat) : Bool :=
  decide (0 < NdF.nin f) && (List.range (NdF.nin f)).all (fun j =>
    if namesNode (NdF.inp f j) then gatedInput (t.node n) j else (t.ep (nodeEp (NdF.kind f) true (NdF.inp f j))).gated)

/-- R475: whether an MDRAIN of a context of a tile runs. -/
def drainRuns (s : State) (tile k : Nat) : Bool :=
  (List.range 4).any (fun j =>
    let t := s.thread (4 * tile + j)
    t.pctx.toNat == k && (t.queue 3).active.any (fun a => match a.cmd.i with | .mdrain _ _ _ _ _ => a.begun && !a.done | _ => false))

/-- R384, R142, R475: the stall register of an element of a context of a tile, in a graph that is frozen or not; `drains`: an MDRAIN of the context
runs; none where the context has no such element. (DEDUCED, A56) (DEDUCED, A72) -/
def stallOf (t : Tile) (k kind n : Nat) (frozen drains : Bool) : Option Word :=
  let c := t.ctx k
  match kind with
  | 0 => if n < 32 ∧ EpF.used (c.epF n) then some ((t.ep n).stall.word (frozen || (t.ep n).gated || (t.ep n).fault)) else none
  | 1 => if n < 8 ∧ EpF.used (c.epF (32 + n)) then
      some ((t.ep (32 + n)).stall.word (frozen || (t.ep (32 + n)).gated || (t.ep (32 + n)).fault)) else none
  | 2 => if n < 8 ∧ NdF.used (c.ndF n) then some ((t.node n).stall.word (frozen || (t.node n).fault || nodeGated t n (c.ndF n))) else none
  | 3 => if n < 8 ∧ EnF.used (c.enF n) then some ((t.engine n).stall.word (frozen || (t.engine n).fault)) else none
  | 4 => if MpF.feeden c.mpF then some (c.feed.word (frozen || c.feedFault)) else none
  | 5 => if MpF.drainen c.mpF then some ((if drains then c.drain else c.drain.fire).word (frozen || c.drainFault)) else none
  | _ => none

/-- R384: the stall register that the operand of GRAPHCTL.STALL names. -/
def namedStall (s : State) (v w : Word) : Option Word :=
  match present s v with
  | none => none
  | some (k, g) =>
    let n := w.toNat
    let x := fld n 7 0
    let y := fld n 15 8
    let ti := tileAt (g.x + x) (g.y + y)
    let c := physCtx g (fld n 25 24)
    if fld n 63 26 ≠ 0 ∨ g.w ≤ x ∨ g.h ≤ y ∨ g.nctx ≤ fld n 25 24 ∨ ((s.tile ti).ctx c).graph ≠ some k then none
    else stallOf (s.tile ti) c (fld n 18 16) (fld n 23 19) g.frozen (drainRuns s ti c)

/-- R384, GRAPHCTL.STALL. -/
def execGraphctlStall (d a b : BitVec 5) (s : State) : Out :=
  .next (
    let va := s.me.rs a
    let vb := s.me.rs b
    let r := if s.me.lvl then namedStall s va vb else none
    systemOp ((RegSet.s1 a).or (RegSet.s1 b)) (RegSet.s1 d) (if r.isNone then some (0x18, vb) else none)
      (fun s => s.mapMe (fun t => (t.ws d (r.getD 0)).next)) s)

/-- Table 16-11: the code of a wait. An access whose end a thread awaits (R180, R181) counts as its commit. (DESIGN CHOICE, A28) -/
def Wait.code (w : Wait) : Nat :=
  match w with
  | .none => 0 | .spop => 1 | .cleatWait => 2 | .token => 3 | .gbar => 4 | .commit => 5 | .knotW => 6 | .haltWait => 7 | .kwait => 8
  | .fullQueue => 9 | .release => 5 | .acquire => 5 | .home => 0

/-- Table 16-11: the slot word of slot i. -/
def slotWord (s : State) (i : Nat) : Word :=
  let t := s.thread i
  let g := s.graph t.graph
  let b (v : Bool) (i : Nat) : Nat := if v then 2 ^ i else 0
  let wait := if g.frozen && !g.hung && g.freezer != some i && t.run == .running then 10 else t.wait.code
  wd (b ((t.run == .running || t.run == .cut) && g.st == .running) 63 + b (t.run == .halted) 62 + b t.lvl 61 + wait * 2 ^ 57 + t.rcnt.toNat * 2 ^ 49 + t.pc.toNat)

/-- R384: the slot of the thread that the operand of GRAPHCTL.SLOT names. -/
def namedSlot (s : State) (v w : Word) : Option Nat :=
  match present s v with
  | none => none
  | some (k, g) =>
    let n := w.toNat
    if fld n 63 18 ≠ 0 ∨ g.w ≤ fld n 7 0 ∨ g.h ≤ fld n 15 8 then none
    else (graphThreads s k).find? (fun i =>
      let t := s.thread i
      t.lx.toNat == fld n 7 0 && t.ly.toNat == fld n 15 8 && t.tno.toNat == fld n 17 16)

/-- R384, GRAPHCTL.SLOT. -/
def execGraphctlSlot (d a b : BitVec 5) (s : State) : Out :=
  .next (
    let va := s.me.rs a
    let vb := s.me.rs b
    let r := if s.me.lvl then namedSlot s va vb else none
    systemOp ((RegSet.s1 a).or (RegSet.s1 b)) (RegSet.s1 d) (if r.isNone then some (0x18, vb) else none)
      (fun s => s.mapMe (fun t => (t.ws d (match r with | some i => slotWord s i | none => 0)).next)) s)

/-- R384, GRAPHCTL.TERM: the graph is terminated; that of the issuing thread's own graph never retires. -/
def execGraphctlTerm (d a : BitVec 5) (s : State) : Out :=
  .next (
    let v := s.me.rs a
    systemOp (RegSet.s1 a) (RegSet.s1 d) none (fun s =>
      match present s v with
      | some (k, _) =>
        let s1 := endGraph s k .terminated 0xFE
        if k = s.me.graph then s1 else s1.mapMe (fun t => (t.ws d 0).next)
      | none => s.mapMe (fun t => (t.ws d 1).next)) s)

/-! ### The hang monitor (R401) -/

/-- R401: whether a beat or token is held anywhere in a graph. -/
def holdsBeats (s : State) (k : Nat) : Bool :=
  let real (l : List Beat) : Bool := l.any (fun b => !b.isMarker)
  (graphTiles (s.graph k)).any (fun (_, _, ti) =>
    let t := s.tile ti
    (pick 4 (fun c => (t.ctx c).graph == some k)).any (fun c =>
      let x := t.ctx c
      !x.recBuf.isEmpty ||
      (pick 40 (fun e => EpF.used (x.epF e))).any (fun e => real (t.ep e).q || real (t.ep e).coil) ||
      (pick 8 (fun n => NdF.used (x.ndF n))).any (fun n => !(t.node n).held.isEmpty || (t.node n).inq.any (fun q => real q.2)))) ||
  s.flights.any (fun f => !f.beat.isMarker && epGraph (s.tile f.srcTile) f.srcEp == some k)

/-- R401, Table 17-2: the cycles without firing after which a graph is hung. -/
def hangLimit (g : Graph) : Nat := let k := fld (recDword g 2) 5 0; 2 ^ (if k = 0 then 20 else k)

/-- R401: a cycle of a graph's hang counter. -/
def hangCount (s : State) (k : Nat) : State :=
  if (s.graph k).st == .running && !(s.graph k).frozen && holdsBeats s k then s.mapGraph k (fun g => { g with hang := g.hang + 1 })
  else s

/-- Table 17-5: one entry of the occupancy map: 1,024 bytes. -/
def mapEntry (s : State) (g : Graph) (x y c : Nat) : List Byte :=
  let ti := tileAt (g.x + x) (g.y + y)
  let t := s.tile ti
  let k := physCtx g c
  let cx := t.ctx k
  let data (e : Nat) : Bool := EpF.used (cx.epF e)
  let beats (l : List Beat) : Nat := (l.filter (fun b => !b.isMarker)).length
  let stall (kind n : Nat) : Nat := match stallOf t k kind n false (drainRuns s ti k) with | some w => w.toNat | none => 0
  leBytes 8 (tileY ti * 2 ^ 40 + tileX ti * 2 ^ 32 + c * 2 ^ 16 + y * 2 ^ 8 + x) ++
  (List.range 40).map (fun e => .ofNat 8 (if data e then beats (t.ep e).q else 0)) ++
  List.replicate 16 0 ++
  (List.range 32).flatMap (fun e => leBytes 2 (if data e then min 65535 (beats (t.ep e).coil) else 0)) ++
  (List.range 32).flatMap (fun e => leBytes 8 (stall 0 e)) ++
  (List.range 8).flatMap (fun e => leBytes 8 (stall 1 e)) ++
  (List.range 8).flatMap (fun e => leBytes 8 (stall 2 e)) ++
  (List.range 8).flatMap (fun e => leBytes 8 (stall 3 e)) ++
  leBytes 8 (stall 4 0) ++ leBytes 8 (stall 5 0) ++ List.replicate (1024 - 0x250) 0

/-- Table 17-5: the occupancy map of a graph. (DEDUCED, A56) -/
def hangMap (s : State) (k : Nat) : List Byte :=
  let g := s.graph k
  let entries := (graphTiles g).flatMap (fun (x, y, _) => (List.range g.nctx).map (fun c => mapEntry s g x y c))
  leBytes 8 g.handle.toNat ++ leBytes 8 (s.timeOf (tileAt g.x g.y)).toNat ++ leBytes 8 entries.length ++ List.replicate 40 0 ++
    entries.flatten

/-- R401, HANG_DETECT: a graph in which nothing has fired for 2^k cycles is stopped, mapped and reported. (DEDUCED, A56) -/
def execHangDetect (graph : Nat) (s : State) : Out :=
  .next (
    let g := s.graph graph
    if g.st != .running || g.frozen || decide (g.hang < hangLimit g) then s else
    let at_ := recDword g 5
    let bytes := hangMap s graph
    let s1 := (freezeGraph s graph none).mapGraph graph (fun g => { g with hung := true })
    let s2 := if at_ = 0 then s1 else (linePieces (wd at_) bytes.length).foldl (fun s p =>
      sysWriteOrDrop s g.part (tileAt g.x g.y) 3 p.1 ((bytes.drop p.2.1).take p.2.2)) s1
    graphTrap (record s2 (Rec.plain 0x0C (tileAt g.x g.y) (some graph) 0 (wd at_) 0)) graph 0x15 (wd at_))

end Sys2Proof.Machine
end

