-- ==== Sys2Proof/Machine/Approx.lean ====
section
/-! DEFINITION. Division, roots and the approximate functions of one element (R271, R272, Table 9-8). An approximate result
is one of the two values of its type that bracket the exact one: which of them is Config.approxUp's (R272, Determinism). -/

namespace Sys2Proof.Machine

/-- An infinity delivered with the events given. -/
def Fmt.infRes (f : Fmt) (neg : Bool) (fl : Flags) : Res := { bits := f.signBits neg + f.infBits, flags := fl, isNan := false }
/-- R70: division by zero alone. -/
def Flags.divZero : Flags := { Flags.none with dz := true }

/-- R271: a / b rounded once. -/
def divElement (f : Fmt) (a b : Val) (rm : Rnd) (fz : Bool) : Res :=
  match a, b with
  | .nan, _ => f.nanRes .invalid
  | _, .nan => f.nanRes .invalid
  | .inf _, .inf _ => f.nanRes .invalid
  | .inf x, .fin y _ _ => f.infRes (x != y) .none
  | .fin x _ _, .inf y => f.round (x != y) 0 0 false rm fz
  | .fin x m1 e1, .fin y m2 e2 =>
    if m2 = 0 then (if m1 = 0 then f.nanRes .invalid else f.infRes (x != y) .divZero)
    else if m1 = 0 then f.round (x != y) 0 0 false rm fz
    else let (q, e, z) := divMag m1 e1 m2 e2; f.round (x != y) q e z rm fz

/-- R271: the square root of a, rounded once. -/
def sqrtElement (f : Fmt) (a : Val) (rm : Rnd) (fz : Bool) : Res :=
  match a with
  | .nan => f.nanRes .invalid
  | .inf n => if n then f.nanRes .invalid else f.infRes false .none
  | .fin n m e =>
    if m = 0 then f.round n 0 0 false rm fz
    else if n then f.nanRes .invalid
    else let (r, q, z) := sqrtMag m e; f.round false r q z rm fz

/-- R272: one of the two values that bracket (-1)^neg * m * 2^e with sticky bit z; an overflow delivers an infinity. -/
def bracket (f : Fmt) (form code bits : Nat) (neg : Bool) (m : Nat) (e : Int) (z fz : Bool) : Res :=
  if (f.round neg m e z .tz fz).flags.of_ then f.infRes neg { Flags.none with of_ := true, nx := true }
  else f.round neg m e z (if Config.approxUp form code bits then .up else .dn) fz

/-- 1 / sqrt(m * 2^e), enough of its bits and a sticky bit. -/
def rsqMag (m : Nat) (e : Int) : Nat × Int × Bool :=
  let odd := e % 2 == 1
  let m' := if odd then 2 * m else m
  let e' := if odd then e - 1 else e
  let k := 200 + Nat.log2 m'
  let r := isqrt (2 ^ (2 * k) / m')
  (r, -(k : Int) - e' / 2, r * r * m' != 2 ^ (2 * k))

/-- Working precision, in bits after the point, of the two transcendental functions. -/
def approxBits : Nat := 256

/-- The product, over bits `i` up to `i + fuel - 1` of a fraction p / 2^k, of 2^(2^-i), truncated: `root` is 2^(2^-i). -/
def exp2Loop (p k : Nat) : Nat → Nat → Nat → Nat → Nat
  | 0, _, _, acc => acc
  | fuel + 1, i, root, acc =>
    let on := if i ≤ k then p / 2 ^ (k - i) % 2 == 1 else false
    exp2Loop p k fuel (i + 1) (isqrt (root * 2 ^ approxBits)) (if on then acc * root / 2 ^ approxBits else acc)

/-- 2^(p / 2^k) for 0 < p < 2^k, truncated to the working precision; the value lies strictly above it. -/
def exp2Frac (p k : Nat) : Nat := exp2Loop p k 240 1 (isqrt (2 * 2 ^ (2 * approxBits))) (2 ^ approxBits)

/-- R272, VEXP2. The exponent is held between -4096 and 4096, beyond every format's range. -/
def exp2Element (f : Fmt) (code bits : Nat) (a : Val) (fz : Bool) : Res :=
  match a with
  | .nan => f.nanRes .invalid
  | .inf n => if n then f.round false 0 0 false .ne fz else f.infRes false .none
  | .fin n m e =>
    let hold (x : Int) : Int := max (-4096) (min 4096 x)
    if 0 ≤ e then
      let x : Int := (m * 2 ^ (min e.toNat 2000) : Nat)
      bracket f 2 code bits false 1 (hold (if n then -x else x)) false fz
    else
      let k := (-e).toNat
      let x : Int := if n then -(m : Int) else m
      let fl := x / (2 ^ k : Nat)
      let p := (x % (2 ^ k : Nat)).toNat
      if p = 0 then bracket f 2 code bits false 1 (hold fl) false fz
      else bracket f 2 code bits false (exp2Frac p k / 2 ^ 32) (hold fl - ((approxBits - 32 : Nat) : Int)) true fz

/-- Bits of log2 of y / 2^w, for 1 <= y / 2^w < 2, most significant first. -/
def log2Loop (w : Nat) : Nat → Nat → Nat → Nat
  | 0, _, acc => acc
  | fuel + 1, y, acc =>
    let q := y * y / 2 ^ w
    if 2 ^ (w + 1) ≤ q then log2Loop w fuel (q / 2) (2 * acc + 1) else log2Loop w fuel q (2 * acc)

/-- R272, VLOG2. -/
def log2Element (f : Fmt) (code bits : Nat) (a : Val) (fz : Bool) : Res :=
  match a with
  | .nan => f.nanRes .invalid
  | .inf n => if n then f.nanRes .invalid else f.infRes false .none
  | .fin n m e =>
    if m = 0 then f.infRes true .divZero
    else if n then f.nanRes .invalid
    else
      let l := Nat.log2 m
      let i : Int := e + (l : Int)
      if m = 2 ^ l then bracket f 3 code bits (decide (i < 0)) i.natAbs 0 false fz
      else
        let frac := log2Loop 512 200 (m * 2 ^ (512 - l)) 0
        let v : Int := i * (2 ^ 200 : Nat) + (frac : Int)
        if 0 ≤ v then bracket f 3 code bits false v.toNat (-200) true fz
        else bracket f 3 code bits true (v.natAbs - 1) (-200) true fz

/-- R272, VRCP. -/
def rcpElement (f : Fmt) (code bits : Nat) (a : Val) (fz : Bool) : Res :=
  match a with
  | .nan => f.nanRes .invalid
  | .inf n => f.round n 0 0 false .ne fz
  | .fin n m e =>
    if m = 0 then f.infRes n .divZero
    else let (q, x, z) := divMag 1 0 m e; bracket f 0 code bits n q x z fz

/-- R272, VRSQ. -/
def rsqElement (f : Fmt) (code bits : Nat) (a : Val) (fz : Bool) : Res :=
  match a with
  | .nan => f.nanRes .invalid
  | .inf n => if n then f.nanRes .invalid else f.round false 0 0 false .ne fz
  | .fin n m e =>
    if m = 0 then f.infRes n .divZero
    else if n then f.nanRes .invalid
    else let (r, q, z) := rsqMag m e; bracket f 1 code bits false r q z fz

end Sys2Proof.Machine
end

