-- ==== Sys2Proof/Machine/Vector.lean ====
section
/-! DEFINITION. The vector unit: majors 0x18 to 0x1E and 0x24 to 0x26 (spec/09_isa_vector.md, R250 to R282). -/

namespace Sys2Proof.Machine

/-! ### The shape of a vector instruction (R253, R254) -/

/-- R219, R253, R254: a form of queue V with registers read and written, its FP_NAN value if it would produce a NaN, and
its effect. A form that raises FP_NAN has read its registers: they are live-in of the suspended bight. (DESIGN CHOICE, A115) -/
def vectorOp (rd wr : RegSet) (nan : Option Word) (body : Thread → Thread) (s : State) : State :=
  if s.me.notReady (rd.or wr) then s else
  let b := s.me.bight.read rd
  match (b.live.inter wr).first with
  | some v => raise s 9 v
  | none => match nan with
    | some v => raise (s.mapMe (fun t => { t with bight := b })) 0x13 v
    | none => s.mapMe (fun t => (body (t.tracked rd wr)).next)

/-- R254: the FP_NAN value of results by element, when FPCTL.NANTRAP is set. -/
def nanOf (t : Thread) (c1 c2 : Nat) (rs : List (Nat × Res)) : Option Word :=
  if Fpctl.nanTrap t.fpctl then
    (rs.find? (fun r => r.2.isNan)).map (fun r => nanTval t.lx.toNat t.ly.toNat c1 c2 r.1)
  else none

/-- R255: the events of results added to FPCTL. -/
def Thread.flagged (t : Thread) (rs : List (Nat × Res)) : Thread :=
  { t with fpctl := raiseFlags t.fpctl (Flags.all (rs.map Prod.snd)) }

/-- R251, R255: the results of elements of w bytes written into vD, the others kept. -/
def Thread.writeLanes (t : Thread) (w : Nat) (d : BitVec 5) (rs : List (Nat × Res)) : Thread :=
  (t.flagged rs).wv d (setLanes w (t.rv d) (rs.map Prod.fst) (rs.map (fun r => r.2.bits)))

/-- R251, R253: an elementwise form of type t under a governing predicate. -/
def lanewise (t : VType) (d : BitVec 5) (g : BitVec 3) (rd : RegSet) (c1 c2 : Nat) (f : Nat → Res) (s : State) : State :=
  let rs := (activeLanes (s.me.rp g) t.w).map (fun i => (i, f i))
  vectorOp (rd.or (governed d g)) (RegSet.v1 d) (nanOf s.me c1 c2 rs) (fun th => th.writeLanes t.w d rs) s

/-- Reads of two vectors. -/
def readsVV (a b : BitVec 5) : RegSet := (RegSet.v1 a).or (RegSet.v1 b)

/-- Lane i of a vector register. -/
def Thread.lane (t : Thread) (a : BitVec 5) (w i : Nat) : Nat := (lanesOf w (t.rv a)).getD i 0

/-- A result that is bits alone (R256). -/
def plain (b : Nat) : Res := { bits := b, flags := .none, isNan := false }

/-- R255: the value of an element under FZ. -/
def VType.val (t : VType) (fpctl : Word) (b : Nat) : Val := t.fmt.decode (Fpctl.fz fpctl) b

/-- R255: a value delivered under FPCTL. -/
def VType.out (t : VType) (fpctl : Word) (v : Val) : Res := t.fmt.deliver v false (Fpctl.rm fpctl) (Fpctl.fz fpctl)

/-- R255: whether the mode rounds down, which fixes the sign of an exact zero sum. (DEDUCED, A64) -/
def roundsDown (r : Rnd) : Bool := match r with | .dn => true | _ => false

/-! ### Majors 0x18 and 0x19 (R258, R259) -/

/-- R258: a form of two operands: its float and its integer function. -/
def arith2 (tc : BitVec 4) (d a b : BitVec 5) (g : BitVec 3) (fl : Bool → Val → Val → Val) (it : Int → Int → Int) (s : State) : State :=
  let t := VType.ofCode tc
  let m := s.me
  lanewise t d g (readsVV a b) t.code t.code (fun i =>
    let x := m.lane a t.w i
    let y := m.lane b t.w i
    if t.isFloat then t.out m.fpctl (fl (roundsDown (Fpctl.rm m.fpctl)) (t.val m.fpctl x) (t.val m.fpctl y))
    else plain (t.ofInt (it (t.toInt x) (t.toInt y)))) s

/-- R258, VADD. -/
def execVadd (d a b : BitVec 5) (t : BitVec 4) (g : BitVec 3) (s : State) : Out :=
  .next (arith2 t d a b g (fun dn x y => Val.add dn x y) (fun x y => x + y) s)
/-- R258, VSUB. -/
def execVsub (d a b : BitVec 5) (t : BitVec 4) (g : BitVec 3) (s : State) : Out :=
  .next (arith2 t d a b g (fun dn x y => Val.add dn x y.negate) (fun x y => x - y) s)
/-- R258, VMUL. -/
def execVmul (d a b : BitVec 5) (t : BitVec 4) (g : BitVec 3) (s : State) : Out :=
  .next (arith2 t d a b g (fun _ x y => Val.mul x y) (fun x y => x * y) s)
/-- R258, VMIN. -/
def execVmin (d a b : BitVec 5) (t : BitVec 4) (g : BitVec 3) (s : State) : Out :=
  .next (arith2 t d a b g (fun _ x y => Val.minV x y) (fun x y => if y < x then y else x) s)
/-- R258, VMAX. -/
def execVmax (d a b : BitVec 5) (t : BitVec 4) (g : BitVec 3) (s : State) : Out :=
  .next (arith2 t d a b g (fun _ x y => Val.maxV x y) (fun x y => if x < y then y else x) s)

/-- R258: VABS and VNEG of a float element change its sign bit alone; a NaN becomes canonical with NV. -/
def signChange (t : VType) (fpctl : Word) (x : Nat) (neg : Bool → Bool) : Res :=
  match t.val fpctl x with
  | .nan => t.fmt.nanRes .invalid
  | v => plain ((if v.isZero then 0 else x % 2 ^ (8 * t.w - 1)) + t.fmt.signBits (neg v.neg?))

/-- R258: a form of one operand. -/
def arith1 (tc : BitVec 4) (d a : BitVec 5) (g : BitVec 3) (sg : Bool → Bool) (it : Int → Int) (s : State) : State :=
  let t := VType.ofCode tc
  let m := s.me
  lanewise t d g (RegSet.v1 a) t.code 0 (fun i =>
    let x := m.lane a t.w i
    if t.isFloat then signChange t m.fpctl x sg else plain (t.ofInt (it (t.toInt x)))) s

/-- R258, VABS. -/
def execVabs (d a : BitVec 5) (t : BitVec 4) (g : BitVec 3) (s : State) : Out :=
  .next (arith1 t d a g (fun _ => false) (fun x => x.natAbs) s)
/-- R258, VNEG. -/
def execVneg (d a : BitVec 5) (t : BitVec 4) (g : BitVec 3) (s : State) : Out :=
  .next (arith1 t d a g (fun n => !n) (fun x => -x) s)

/-- R259: a fused form; `f` takes the rounding direction of zero, the product and the addend. -/
def fused (tc : BitVec 4) (d a b : BitVec 5) (g : BitVec 3) (f : Bool → Val → Val → Val) (s : State) : State :=
  let t := VType.ofCode tc
  let m := s.me
  lanewise t d g ((readsVV a b).or (RegSet.v1 d)) t.code t.code (fun i =>
    t.out m.fpctl (f (roundsDown (Fpctl.rm m.fpctl)) (Val.mul (t.val m.fpctl (m.lane a t.w i)) (t.val m.fpctl (m.lane b t.w i)))
      (t.val m.fpctl (m.lane d t.w i)))) s

/-- R259, VFMA. -/
def execVfma (d a b : BitVec 5) (t : BitVec 4) (g : BitVec 3) (s : State) : Out :=
  .next (fused t d a b g (fun dn p c => Val.add dn p c) s)
/-- R259, VFMS. -/
def execVfms (d a b : BitVec 5) (t : BitVec 4) (g : BitVec 3) (s : State) : Out :=
  .next (fused t d a b g (fun dn p c => Val.add dn p c.negate) s)
/-- R259, VFNMA. -/
def execVfnma (d a b : BitVec 5) (t : BitVec 4) (g : BitVec 3) (s : State) : Out :=
  .next (fused t d a b g (fun dn p c => Val.add dn c p.negate) s)

/-! ### Major 0x1A (R260) -/

/-- R260: a form on the bits of two elements of w bytes. -/
def bitwise (tc : BitVec 4) (d a b : BitVec 5) (g : BitVec 3) (f : VType → Nat → Nat → Nat) (s : State) : State :=
  let t := VType.ofCode tc
  lanewise t d g (readsVV a b) 0 0 (fun i => plain (f t (s.me.lane a t.w i) (s.me.lane b t.w i))) s

/-- R260: a vector shift amount. -/
def vshamt (t : VType) (b : Nat) : Nat := b % (8 * t.w)

/-- R260, VAND. -/
def execVand (d a b : BitVec 5) (t : BitVec 4) (g : BitVec 3) (s : State) : Out := .next (bitwise t d a b g (fun _ => Nat.land) s)
/-- R260, VOR. -/
def execVor (d a b : BitVec 5) (t : BitVec 4) (g : BitVec 3) (s : State) : Out := .next (bitwise t d a b g (fun _ => Nat.lor) s)
/-- R260, VXOR. -/
def execVxor (d a b : BitVec 5) (t : BitVec 4) (g : BitVec 3) (s : State) : Out := .next (bitwise t d a b g (fun _ => Nat.xor) s)
/-- R260, VSHL. -/
def execVshl (d a b : BitVec 5) (t : BitVec 4) (g : BitVec 3) (s : State) : Out :=
  .next (bitwise t d a b g (fun t x y => x * 2 ^ vshamt t y % 2 ^ (8 * t.w)) s)
/-- R260, VSHR. -/
def execVshr (d a b : BitVec 5) (t : BitVec 4) (g : BitVec 3) (s : State) : Out :=
  .next (bitwise t d a b g (fun t x y => x / 2 ^ vshamt t y) s)
/-- R260, VSRA: the element is taken signed whatever its type. -/
def execVsra (d a b : BitVec 5) (t : BitVec 4) (g : BitVec 3) (s : State) : Out :=
  .next (bitwise t d a b g (fun t x y => t.ofInt (sextN x (8 * t.w) / (2 ^ vshamt t y : Nat))) s)

/-! ### Major 0x1B (R261 to R265) -/

/-- R262: the bits of active elements of a predicate replaced by their conditions. -/
def setPred (w : Nat) (old : Word) (cs : List (Nat × Bool)) : Word :=
  let mask (i : Nat) : Word := wd ((2 ^ w - 1) * 2 ^ (w * i))
  cs.foldl (fun p c => if c.2 then p ||| mask c.1 else p &&& ~~~(mask c.1)) old

/-- R262: a compare. `fl` and `it` give the condition; a NaN operand sets NV. -/
def compare (tc : BitVec 4) (d : BitVec 3) (a b : BitVec 5) (g : BitVec 3) (fl : Val → Val → Bool) (it : Int → Int → Bool)
    (s : State) : State :=
  let t := VType.ofCode tc
  let m := s.me
  let is := activeLanes (m.rp g) t.w
  let v (r : BitVec 5) (i : Nat) : Val := t.val m.fpctl (m.lane r t.w i)
  let cs := is.map (fun i => (i, if t.isFloat then fl (v a i) (v b i) else it (t.toInt (m.lane a t.w i)) (t.toInt (m.lane b t.w i))))
  let nv := t.isFloat && is.any (fun i => (v a i).isNan || (v b i).isNan)
  vectorOp ((readsVV a b).or (if g = 0 then .empty else (RegSet.p1 g).or (RegSet.p1 d))) (RegSet.p1 d) none (fun th =>
    { th.wp d (setPred t.w (th.rp d) cs) with fpctl := raiseFlags th.fpctl { Flags.none with nv := nv } }) s

/-- R262, VCMP.EQ. -/
def execVcmpEq (d : BitVec 3) (a b : BitVec 5) (t : BitVec 4) (g : BitVec 3) (s : State) : Out :=
  .next (compare t d a b g Val.eq (fun x y => decide (x = y)) s)
/-- R262, VCMP.NE. -/
def execVcmpNe (d : BitVec 3) (a b : BitVec 5) (t : BitVec 4) (g : BitVec 3) (s : State) : Out :=
  .next (compare t d a b g (fun x y => !Val.eq x y) (fun x y => decide (x ≠ y)) s)
/-- R262, VCMP.LT. -/
def execVcmpLt (d : BitVec 3) (a b : BitVec 5) (t : BitVec 4) (g : BitVec 3) (s : State) : Out :=
  .next (compare t d a b g Val.lt (fun x y => decide (x < y)) s)
/-- R262, VCMP.LE. -/
def execVcmpLe (d : BitVec 3) (a b : BitVec 5) (t : BitVec 4) (g : BitVec 3) (s : State) : Out :=
  .next (compare t d a b g (fun x y => Val.lt x y || Val.eq x y) (fun x y => decide (x ≤ y)) s)
/-- R262, VCMP.UN. -/
def execVcmpUn (d : BitVec 3) (a b : BitVec 5) (t : BitVec 4) (g : BitVec 3) (s : State) : Out :=
  .next (compare t d a b g (fun x y => x.isNan || y.isNan) (fun _ _ => false) s)

/-- A form that writes every lane of vD from bits (R256). -/
def wholeLanes (t : VType) (d : BitVec 5) (rd : RegSet) (f : Nat → Nat) (s : State) : State :=
  vectorOp rd (RegSet.v1 d) none (fun th => th.wv d (ofLanes t.w ((List.range t.lanes).map f))) s

/-- R263, VSEL. -/
def execVsel (d a b : BitVec 5) (t : BitVec 4) (n : BitVec 3) (s : State) : Out :=
  .next (
    let ty := VType.ofCode t
    wholeLanes ty d ((readsVV a b).or (RegSet.p1 n))
      (fun i => if active (s.me.rp n) ty.w i then s.me.lane a ty.w i else s.me.lane b ty.w i) s)

/-- R264, VMOV. -/
def execVmov (d a : BitVec 5) (t : BitVec 4) (g : BitVec 3) (s : State) : Out :=
  .next (let ty := VType.ofCode t
    lanewise ty d g (RegSet.v1 a) 0 0 (fun i => plain (s.me.lane a ty.w i)) s)
/-- R264, VBCAST. -/
def execVbcast (d a : BitVec 5) (t : BitVec 4) (g : BitVec 3) (s : State) : Out :=
  .next (let ty := VType.ofCode t
    lanewise ty d g (RegSet.s1 a) 0 0 (fun _ => plain ((s.me.rs a).toNat % 2 ^ (8 * ty.w))) s)

/-- R265: the element VEXT extracts. -/
def extracted (t : VType) (m : Thread) (a : BitVec 5) (i : Nat) : Word :=
  if i < t.lanes then (if t.signed then wi (t.toInt (m.lane a t.w i)) else wd (m.lane a t.w i)) else 0

/-- R265, VEXT. -/
def execVext (d a b : BitVec 5) (t : BitVec 4) (s : State) : Out :=
  .next (scalarOp d ((RegSet.v1 a).or (RegSet.s1 b)) (extracted (VType.ofCode t) s.me a (s.me.rs b).toNat) s)
/-- R265, VINS. -/
def execVins (d a b : BitVec 5) (t : BitVec 4) (s : State) : Out :=
  .next (
    let ty := VType.ofCode t
    let i := (s.me.rs b).toNat
    vectorOp ((readsSS a b).or (RegSet.v1 d)) (RegSet.v1 d) none (fun th =>
      if i < ty.lanes then th.wv d (setLanes ty.w (th.rv d) [i] [(s.me.rs a).toNat % 2 ^ (8 * ty.w)]) else th) s)

/-! ### Major 0x1C (R266) -/

/-- R266: a permute under a governing predicate. -/
def permute (tc : BitVec 4) (d : BitVec 5) (g : BitVec 3) (rd : RegSet) (f : VType → Nat → Nat) (s : State) : State :=
  let t := VType.ofCode tc
  lanewise t d g rd 0 0 (fun i => plain (f t i)) s

/-- R266, VPERM. -/
def execVperm (d a b : BitVec 5) (t : BitVec 4) (g : BitVec 3) (s : State) : Out :=
  .next (permute t d g (readsVV a b) (fun t i =>
    let j := s.me.lane b t.w i
    if j < t.lanes then s.me.lane a t.w j else 0) s)
/-- R266, VSHUF.LO. -/
def execVshufLo (d a b : BitVec 5) (t : BitVec 4) (g : BitVec 3) (s : State) : Out :=
  .next (permute t d g (readsVV a b) (fun t i => s.me.lane (if i % 2 = 0 then a else b) t.w (i / 2)) s)
/-- R266, VSHUF.HI. -/
def execVshufHi (d a b : BitVec 5) (t : BitVec 4) (g : BitVec 3) (s : State) : Out :=
  .next (permute t d g (readsVV a b) (fun t i => s.me.lane (if i % 2 = 0 then a else b) t.w (t.lanes / 2 + i / 2)) s)
/-- R266: the element that VSHUF.EVEN (o = 0) or VSHUF.ODD (o = 1) delivers. -/
def unzip (m : Thread) (a b : BitVec 5) (o : Nat) (t : VType) (i : Nat) : Nat :=
  if i < t.lanes / 2 then m.lane a t.w (2 * i + o) else m.lane b t.w (2 * (i - t.lanes / 2) + o)
/-- R266, VSHUF.EVEN. -/
def execVshufEven (d a b : BitVec 5) (t : BitVec 4) (g : BitVec 3) (s : State) : Out :=
  .next (permute t d g (readsVV a b) (unzip s.me a b 0) s)
/-- R266, VSHUF.ODD. -/
def execVshufOdd (d a b : BitVec 5) (t : BitVec 4) (g : BitVec 3) (s : State) : Out :=
  .next (permute t d g (readsVV a b) (unzip s.me a b 1) s)
/-- R266, VSLIDE.UP. -/
def execVslideUp (d a b : BitVec 5) (t : BitVec 4) (g : BitVec 3) (s : State) : Out :=
  .next (permute t d g ((RegSet.v1 a).or (RegSet.s1 b)) (fun t i =>
    let k := (s.me.rs b).toNat
    if k ≤ i then s.me.lane a t.w (i - k) else 0) s)
/-- R266, VSLIDE.DN. -/
def execVslideDn (d a b : BitVec 5) (t : BitVec 4) (g : BitVec 3) (s : State) : Out :=
  .next (permute t d g ((RegSet.v1 a).or (RegSet.s1 b)) (fun t i =>
    let k := (s.me.rs b).toNat
    if i + k < t.lanes then s.me.lane a t.w (i + k) else 0) s)

/-! ### Major 0x1D (R267 to R270) -/

/-- R268: one level of the tree over neighbouring pairs. -/
def pairUp (op : Res → Res → Res) : List (Option Res) → List (Option Res)
  | some x :: some y :: r => some (op x y) :: pairUp op r
  | some x :: none :: r => some x :: pairUp op r
  | none :: y :: r => y :: pairUp op r
  | l => l

/-- R268: the tree of a reduction. -/
def redTree (op : Res → Res → Res) : Nat → List (Option Res) → Option Res
  | 0, l => l.head?.join
  | k + 1, l => redTree op k (pairUp op l)

/-- R268, R269: a node that adds: rounded, or wrapped, with the events of what it combined. -/
def addNode (t : VType) (rm : Rnd) (fz : Bool) (x y : Res) : Res :=
  if t.isFloat then
    let r := t.fmt.deliver (Val.add (roundsDown rm) (t.fmt.decode fz x.bits) (t.fmt.decode fz y.bits)) false rm fz
    { r with flags := (x.flags.or y.flags).or r.flags }
  else plain (t.ofInt (t.toInt x.bits + t.toInt y.bits))

/-- R268: a node that takes the larger or the smaller. -/
def pickNode (t : VType) (fz big : Bool) (x y : Res) : Res :=
  if t.isFloat then
    let a := t.fmt.decode fz x.bits
    let b := t.fmt.decode fz y.bits
    let r := t.fmt.deliver (if big then Val.maxV a b else Val.minV a b) false .ne fz
    { r with flags := (x.flags.or y.flags).or r.flags }
  else
    let a := t.toInt x.bits
    let b := t.toInt y.bits
    plain (t.ofInt (if big then (if a < b then b else a) else (if b < a then b else a)))

/-- R268, R269: the last rounding of a delivered float element. -/
def settle (t : VType) (rm : Rnd) (fz : Bool) (x : Res) : Res :=
  if t.isFloat then
    let r := t.fmt.deliver (t.fmt.decode fz x.bits) false rm fz
    { r with flags := x.flags.or r.flags }
  else x

/-- R268: a reduction to element 0 of vD. -/
def reduce (t : VType) (d a : BitVec 5) (g : BitVec 3) (rm : Rnd) (op : Res → Res → Res) (empty : Nat) (s : State) : State :=
  let m := s.me
  let leaves := (List.range t.lanes).map (fun i => if active (m.rp g) t.w i then some (plain (m.lane a t.w i)) else none)
  let r := settle t rm (Fpctl.fz m.fpctl) ((redTree op 6 leaves).getD (plain empty))
  vectorOp ((RegSet.v1 a).or (RegSet.p1 g)) (RegSet.v1 d) (nanOf m t.code 0 [(0, r)])
    (fun th => (th.flagged [(0, r)]).wv d (ofLanes t.w [r.bits])) s

/-- R268: the least value of a type. -/
def leastOf (t : VType) : Nat :=
  if t.isFloat then t.fmt.signBits true + (if t.fmt.hasInf then t.fmt.infBits else t.fmt.maxBits) else t.ofInt t.minInt
/-- R268: the greatest value of a type. -/
def greatestOf (t : VType) : Nat :=
  if t.isFloat then (if t.fmt.hasInf then t.fmt.infBits else t.fmt.maxBits) else t.ofInt t.maxInt

/-- R268, VREDSUM. -/
def execVredsum (d a : BitVec 5) (r : BitVec 3) (t : BitVec 4) (g : BitVec 3) (s : State) : Out :=
  .next (
    let ty := VType.ofCode t
    let rm := roundMode r.toNat s.me.fpctl
    reduce ty d a g rm (addNode ty rm (Fpctl.fz s.me.fpctl)) 0 s)
/-- R268, VREDMAX. -/
def execVredmax (d a : BitVec 5) (t : BitVec 4) (g : BitVec 3) (s : State) : Out :=
  .next (let ty := VType.ofCode t
    reduce ty d a g .ne (pickNode ty (Fpctl.fz s.me.fpctl) true) (leastOf ty) s)
/-- R268, VREDMIN. -/
def execVredmin (d a : BitVec 5) (t : BitVec 4) (g : BitVec 3) (s : State) : Out :=
  .next (let ty := VType.ofCode t
    reduce ty d a g .ne (pickNode ty (Fpctl.fz s.me.fpctl) false) (greatestOf ty) s)

/-- R269: the running sums of the active elements, in order; the run carries no events of its own. -/
def scanLanes (t : VType) (rm : Rnd) (fz : Bool) (m : Thread) (a : BitVec 5) : List Nat → Option Nat → List (Nat × Res)
  | [], _ => []
  | i :: r, run =>
    let x := plain (m.lane a t.w i)
    let y := match run with | none => x | some b => addNode t rm fz (plain b) x
    (i, settle t rm fz y) :: scanLanes t rm fz m a r (some y.bits)

/-- R269, VSCAN. -/
def execVscan (d a : BitVec 5) (r : BitVec 3) (t : BitVec 4) (g : BitVec 3) (s : State) : Out :=
  .next (
    let ty := VType.ofCode t
    let rm := roundMode r.toNat s.me.fpctl
    let rs := scanLanes ty rm (Fpctl.fz s.me.fpctl) s.me a (activeLanes (s.me.rp g) ty.w) none
    vectorOp ((RegSet.v1 a).or (governed d g)) (RegSet.v1 d) (nanOf s.me ty.code 0 rs) (fun th => th.writeLanes ty.w d rs) s)

/-- R270: element j of a dot product. -/
def dotLane (t : VType) (m : Thread) (d a b : BitVec 5) (j : Nat) : Res :=
  let n := 4 / t.w
  let ks := (List.range n).map (fun k => n * j + k)
  if t.isFloat then
    let dn := roundsDown (Fpctl.rm m.fpctl)
    let sum := ks.foldl (fun acc k => Val.add dn acc (Val.mul (t.val m.fpctl (m.lane a t.w k)) (t.val m.fpctl (m.lane b t.w k))))
      (VType.f32.val m.fpctl (m.lane d 4 j))
    VType.f32.out m.fpctl sum
  else
    plain (VType.u32.ofInt (ks.foldl (fun acc k => acc + t.toInt (m.lane a t.w k) * t.toInt (m.lane b t.w k))
      ((m.lane d 4 j : Nat) : Int)))

/-- R270, VDOT. -/
def execVdot (d a b : BitVec 5) (t : BitVec 4) (g : BitVec 3) (s : State) : Out :=
  .next (
    let ty := VType.ofCode t
    lanewise .u32 d g ((readsVV a b).or (RegSet.v1 d)) ty.code ty.code (dotLane ty s.me d a b) s)

/-! ### Major 0x1E (R271, R272) -/

/-- R271, VDIV. -/
def execVdiv (d a b : BitVec 5) (t : BitVec 4) (g : BitVec 3) (s : State) : Out :=
  .next (
    let ty := VType.ofCode t
    let m := s.me
    lanewise ty d g (readsVV a b) ty.code ty.code (fun i =>
      divElement ty.fmt (ty.val m.fpctl (m.lane a ty.w i)) (ty.val m.fpctl (m.lane b ty.w i)) (Fpctl.rm m.fpctl) (Fpctl.fz m.fpctl)) s)

/-- R271, R272: a form of one float operand. -/
def unary (tc : BitVec 4) (d a : BitVec 5) (g : BitVec 3) (f : VType → Nat → Val → Bool → Res) (s : State) : State :=
  let t := VType.ofCode tc
  let m := s.me
  lanewise t d g (RegSet.v1 a) t.code 0 (fun i =>
    f t (m.lane a t.w i) (t.val m.fpctl (m.lane a t.w i)) (Fpctl.fz m.fpctl)) s

/-- R271, VSQRT. -/
def execVsqrt (d a : BitVec 5) (r : BitVec 3) (t : BitVec 4) (g : BitVec 3) (s : State) : Out :=
  .next (unary t d a g (fun ty _ v fz => sqrtElement ty.fmt v (roundMode r.toNat s.me.fpctl) fz) s)
/-- R272, VRCP. -/
def execVrcp (d a : BitVec 5) (t : BitVec 4) (g : BitVec 3) (s : State) : Out :=
  .next (unary t d a g (fun ty b v fz => rcpElement ty.fmt ty.code b v fz) s)
/-- R272, VRSQ. -/
def execVrsq (d a : BitVec 5) (t : BitVec 4) (g : BitVec 3) (s : State) : Out :=
  .next (unary t d a g (fun ty b v fz => rsqElement ty.fmt ty.code b v fz) s)
/-- R272, VEXP2. -/
def execVexp2 (d a : BitVec 5) (t : BitVec 4) (g : BitVec 3) (s : State) : Out :=
  .next (unary t d a g (fun ty b v fz => exp2Element ty.fmt ty.code b v fz) s)
/-- R272, VLOG2. -/
def execVlog2 (d a : BitVec 5) (t : BitVec 4) (g : BitVec 3) (s : State) : Out :=
  .next (unary t d a g (fun ty b v fz => log2Element ty.fmt ty.code b v fz) s)

/-! ### Majors 0x24 to 0x26 (R273 to R282) -/

/-- R274: the source and destination element pairs of part k. -/
def cvtPairs (ls ld k : Nat) : List (Nat × Nat) :=
  if ld ≤ ls then (List.range ld).map (fun i => (k * ld + i, i)) else (List.range ls).map (fun i => (i, k * ls + i))

/-- R273, R274, VCVT. -/
def execVcvt (d a : BitVec 5) (sc t : BitVec 4) (r k : BitVec 3) (s : State) : Out :=
  .next (
    let src := VType.ofCode sc
    let dst := VType.ofCode t
    let m := s.me
    let rm := roundMode r.toNat m.fpctl
    let rs := (cvtPairs src.lanes dst.lanes k.toNat).map (fun p =>
      (p.2, convert src dst (m.lane a src.w p.1) rm (Fpctl.fz m.fpctl)))
    vectorOp (RegSet.v1 a) (RegSet.v1 d) (nanOf m src.code 0 rs)
      (fun th => (th.wv d 0).writeLanes dst.w d rs) s)

/-- R276: the registers of the group that starts at `base`. -/
def groupRegs (base : BitVec 5) (n : Nat) : List (BitVec 5) := (List.range n).map (fun i => base + .ofNat 5 i)
/-- The set of a list of vector registers. -/
def readsVs (rs : List (BitVec 5)) : RegSet := rs.foldl (fun x r => x.or (RegSet.v1 r)) .empty
/-- R276: the wide type of a quantisation: FP32, or BF16. -/
def wideType (w : Bool) : VType := if w then .bf16 else .f32
/-- R276: registers of a group. -/
def groupSize (w : Bool) : Nat := if w then 2 else 4
/-- R276: element e of a group. -/
def groupLane (m : Thread) (base : BitVec 5) (w : Bool) (e : Nat) : Nat :=
  let n := 64 / groupSize w
  m.lane (base + .ofNat 5 (e / n)) (wideType w).w (e % n)

/-- R277: the value of the tile's scale register, never flushed (R69). -/
def scaleVal (s : State) (n : BitVec 5) : Val := Fmt.f32.decode false ((s.tile s.myTile).scale n.toNat).toNat

/-- R84: the butterfly over blocks of 2^h of a list of values. (DEDUCED, A64) -/
def butterfly (dn : Bool) (h : Nat) (xs : List Val) : List Val := (chunks (2 ^ h) 64 xs).flatMap (wht dn h)

/-- R277, VQCVT. -/
def execVqcvt (d a n : BitVec 5) (q : BitVec 4) (w : Bool) (r : BitVec 3) (h : BitVec 2) (s : State) : Out :=
  .next (
    let m := s.me
    let src := wideType w
    let dst := VType.ofCode q
    let rm := roundMode r.toNat m.fpctl
    let fz := Fpctl.fz m.fpctl
    let ys := butterfly (roundsDown rm) (2 * h.toNat) ((List.range 64).map (fun e => src.val m.fpctl (groupLane m a w e)))
    let rs := (List.range 64).zip (ys.map (fun y => quantLane dst (scaleVal s n) y rm fz))
    vectorOp (readsVs (groupRegs a (groupSize w))) (RegSet.v1 d) (nanOf m src.code dst.code rs)
      (fun th => th.writeLanes 1 d rs) s)

/-- R278: the value of an 8-bit element: a subnormal one is honoured whatever FZ, as R278 has it, where R69 names the inputs of VDQCVT among
those that FZ flushes. (DEDUCED, A74) -/
def narrowVal (t : VType) (b : Nat) : Val := if t.isFloat then t.fmt.decode false b else Val.ofInt (t.toInt b)

/-- R278, VDQCVT. An FP_NAN names the format of Q, and 0 for the operand vb, which is no format (R254). (DEDUCED, A114) -/
def execVdqcvt (d a n : BitVec 5) (q : BitVec 4) (w : Bool) (r : BitVec 3) (h : BitVec 2) (s : State) : Out :=
  .next (
    let m := s.me
    let src := VType.ofCode q
    let dst := wideType w
    let rm := roundMode r.toNat m.fpctl
    let xs := (List.range 64).map (fun e => Val.mul (narrowVal src (m.lane a 1 e)) (scaleVal s n))
    let rs := (List.range 64).zip ((butterfly (roundsDown rm) (2 * h.toNat) xs).map
      (fun y => dst.fmt.deliver y false rm (Fpctl.fz m.fpctl)))
    let regs := groupRegs d (groupSize w)
    let per := 64 / groupSize w
    vectorOp (RegSet.v1 a) (readsVs regs) (nanOf m src.code 0 rs) (fun th =>
      ((List.range (groupSize w)).zip regs).foldl (fun th p =>
        th.wv p.2 (ofLanes dst.w (((rs.drop (per * p.1)).take per).map (fun x => x.2.bits)))) (th.flagged rs)) s)

/-- R281, VPACK. -/
def execVpack (d a : BitVec 5) (t : BitVec 4) (n : BitVec 3) (s : State) : Out :=
  .next (
    let ty := VType.ofCode t
    let kept := (activeLanes (s.me.rp n) ty.w).map (s.me.lane a ty.w)
    wholeLanes ty d ((RegSet.v1 a).or (RegSet.p1 n)) (fun i => kept.getD i 0) s)
/-- R281, VUNPACK. -/
def execVunpack (d a : BitVec 5) (t : BitVec 4) (n : BitVec 3) (s : State) : Out :=
  .next (
    let ty := VType.ofCode t
    let is := activeLanes (s.me.rp n) ty.w
    wholeLanes ty d ((RegSet.v1 a).or (RegSet.p1 n))
      (fun i => if active (s.me.rp n) ty.w i then s.me.lane a ty.w (is.filter (fun j => j < i)).length else 0) s)

/-- R88: whether element x outranks element y: a NaN above every number, then by magnitude. -/
def outranks (t : VType) (fpctl : Word) (x y : Nat) : Bool :=
  if t.isFloat then
    let abs (v : Val) : Val := match v with | .nan => .nan | .inf _ => .inf false | .fin _ m e => .fin false m e
    let a := t.val fpctl x
    let b := t.val fpctl y
    if a.isNan then !b.isNan else if b.isNan then false else Val.lt (abs b) (abs a)
  else decide ((t.toInt y).natAbs < (t.toInt x).natAbs)

/-- R88, R282: whether element i of its group of 12 is among the n of highest rank; of equal ranks the lower index wins. -/
def keeps (t : VType) (m : Thread) (a : BitVec 5) (n i : Nat) : Bool :=
  let base := i / 12 * 12
  let x := m.lane a t.w i
  let before := pick 12 (fun k =>
    let j := base + k
    let y := m.lane a t.w j
    j != i && (outranks t m.fpctl y x || (!outranks t m.fpctl x y && decide (j < i))))
  decide (before.length < n)

/-- R282, VMASK12. -/
def execVmask12 (d : BitVec 3) (a n : BitVec 5) (t : BitVec 4) (s : State) : Out :=
  .next (
    let ty := VType.ofCode t
    let kept := pick (12 * (ty.lanes / 12)) (keeps ty s.me a n.toNat)
    vectorOp (RegSet.v1 a) (RegSet.p1 d) none
      (fun th => th.wp d (setPred ty.w 0 (kept.map (fun i => (i, true))))) s)

end Sys2Proof.Machine
end

