-- ==== Sys2Proof/Machine/World.lean ====
section
/-! DEFINITION. The module and the world around it (spec/23_module_and_world.md): fabric ports and their flits (R440, R441, R464,
R465, R453), the host (R466), retirement by firmware (R451 to R455), power-up and identity (R461 to R463), heat and power (R468 to
R471), the device freeze (R472), partitions (R371) and module events (R473). -/

namespace Sys2Proof.Machine

/-! ### Module events (R473) -/

/-- The partitions of the device. (DESIGN CHOICE, A62) -/
def allParts (s : State) : List Nat := pick 16 (fun p => (s.part p).exists_)

/-- R473: a module event in the ring of each of some partitions. (DESIGN CHOICE, A62) -/
def moduleEvent (s : State) (parts : List Nat) (cls tile synd addr detail : Nat) : State :=
  parts.foldl (fun s p => logRecord s p (Rec.plain cls tile none synd (wd addr) (wd detail))) s

/-- R464: the tile nearest a port: 32 ports stand evenly along each edge, north, east, south, west. (PRESUMED, A58) -/
def portTile (port : Nat) : Nat :=
  let i := port % 32
  match port / 32 with
  | 0 => tileAt (2 * i) 0
  | 1 => tileAt 63 (3 * i)
  | 2 => tileAt (2 * i) 95
  | _ => tileAt 0 (3 * i)

/-- R371: the partition that owns a port. -/
def portOwner (s : State) (port : Nat) : Option Nat := (pick 16 (fun p => (s.part p).exists_ && (s.part p).portmask.getLsbD port)).head?

/-! ### Fabric ports (R440, R441, R464, R465) -/

/-- The output endpoints of graphs that are bound to a port, as tile, endpoint and graph. -/
def boundTo (s : State) (port : Nat) : List (Nat × Nat × Nat) :=
  s.tiles.flatMap (fun (ti, t) => (pick 32 (fun e => let f := epFrame t e; EpF.used f && EpF.out f && EpF.toPort f && EpF.port f == port)).filterMap
    (fun e => (epGraph t e).map (fun g => (ti, e, g))))

/-- The Running graphs with an edge through a port: from an output endpoint bound to it, or to an input endpoint that it feeds. -/
def portGraphs (s : State) (port : Nat) : List Nat :=
  ((boundTo s port).map (fun x => x.2.2) ++ (s.port port).inputs.filterMap (fun x => epGraph (s.tile (x.2 / 40)) (x.2 % 40))).eraseDups.filter
    (fun g => (s.graph g).st == .running)

/-- R465, R453: a port goes down: the beats that wait at it are absorbed and counted, and their permits go back; the edges bound to it are
absorbed before it from then on; each endpoint that it feeds gets one error beat; and their graphs roll back. (DEDUCED, A60) -/
def takeDown (s : State) (port : Nat) : State :=
  let p := s.port port
  let edges := (boundTo s port).map (fun x => 40 * x.1 + x.2.1)
  let waits := p.stream ++ p.egress.map (fun x => x.2.2)
  let back := (waits.filter (fun x => !x.beat.isMarker)).filterMap Outgoing.src ++ p.unacked.flatMap Prod.snd
  let s1 := s.mapPort port (fun p => { p with
    up := false, stream := [], egress := [], replay := [], unacked := [], rx := [], early := [], inputs := [], owes := [],
    absorbed := p.absorbed + waits.length + p.rx.length, dead := (p.dead ++ edges).eraseDups })
  let s2 := { s1 with permits := s1.permits ++ back.map (fun e => { tile := e / 40, ep := e % 40, due := s.cycle.toNat + 1 }) }
  (portGraphs s port).foldl (fun s g => trigger s g 0x0B) ((p.inputs.map (fun x => (x.2 / 40, x.2 % 40))).foldl loseEdge s2)

/-- R465, PORT_DOWN: a port whose replay buffer is exhausted goes down. -/
def execPortDown (port : Nat) (s : State) : Out :=
  .next (
    let p := s.port port
    if !p.up || decide (p.replay.length < Config.replayFlits) then s else
    moduleEvent (takeDown s port) (portOwner s port).toList 0x33 (portTile port) port p.replayed.toNat 0)

/-- R464, R455, Table 21-4 kinds 3 and 4: a lane of a port is retired: the port runs on its other lane, or is retired with it.
`first`: the time of the first counted event. (DEDUCED, A60) -/
def retireLane (s : State) (port lane first : Nat) : State :=
  let p := s.port port
  if !(if lane = 0 then p.lane0 else p.lane1) then s else
  let s1 := record s (Rec.plain 0x0B (portTile port) none 3 (wd (port + lane * 2 ^ 8)) (wd first))
  let s2 := s1.mapPort port (fun p =>
    if lane = 0 then { p with lane0 := false, retired := p.retired ||| 1 } else { p with lane1 := false, retired := p.retired ||| 2 })
  if (s2.port port).lane0 || (s2.port port).lane1 then (portGraphs s port).foldl (fun s g => trigger s g 0x0B) s2
  else takeDown (record s2 (Rec.plain 0x0B (portTile port) none 4 (wd port) (wd first))) port

/-- R464, PAIR_LOSES_ALIGNMENT: a pair that loses its alignment takes its whole lane out of service. -/
def execPairLosesAlignment (port lane pair : Nat) (s : State) : Out :=
  .next (if 128 ≤ port ∨ 2 ≤ lane ∨ 4 ≤ pair ∨ !(s.port port).up then s else retireLane s port lane s.cycle.toNat)

/-- R465, PORT_UP: retraining brings a port back, on those of its lanes that are not retired, for the edges bound after it returns. Where two
stand and one has trained, it is lane 0; the other has failed training, and is retired. (DEDUCED, A60) -/
def execPortUp (port lanes : Nat) (s : State) : Out :=
  .next (
    let p := s.port port
    let a := !p.retired.getLsbD 0
    let b := !p.retired.getLsbD 1
    if 128 ≤ port ∨ lanes = 0 ∨ 2 < lanes ∨ p.up ∨ !(a || b) then s else
    let s1 := s.mapPort port (fun p =>
      { p with up := true, lane0 := a, lane1 := b, txSeq := 0, rxSeq := 0, acked := 0, replay := [], unacked := [], stream := [], rx := [], early := [] })
    let s2 := if lanes = 1 ∧ a ∧ b then retireLane s1 port 1 s.cycle.toNat else s1
    moduleEvent s2 (portOwner s port).toList 0x34 (portTile port) port (if lanes = 2 ∧ a ∧ b then 2 else 1) 0)

/-- R464: a flit: its header, six places for beats with their sidebands, and the CRC; `owes`: the permits that it returns. -/
def flitOf (seq ack : BitVec 16) (type_ : Nat) (owes : Assoc Nat) (beats : List (Nat × Beat)) : BitVec 2048 :=
  let at_ (i : Nat) : Nat × Beat := beats.getD i (0, { data := 0, pred := 0, kind := 0, tag := 0 })
  let side (i : Nat) : Nat := (Config.sidebandOf (at_ i).2.pred.toNat (at_ i).2.kind.toNat (at_ i).2.tag.toNat (at_ i).1 beats.length).toNat
  let head := leBytes 8 (seq.toNat + ack.toNat * 2 ^ 16 + type_ * 2 ^ 32 + (Config.permitField owes).toNat * 2 ^ 36)
  let body := head ++ (List.range 6).flatMap (fun i => leBytes 32 (at_ i).2.data.toNat) ++ (List.range 6).flatMap (fun i => leBytes 8 (side i))
  .ofNat 2048 (leNat (body ++ leBytes 8 (Config.crc64 body).toNat))

/-- R464, R441: a port with beats that wait, or permits to return, sends them in one numbered flit, which its replay buffer keeps until
it is acknowledged; with neither, an acknowledgement goes out in an idle flit, which has no number of its own. (DESIGN CHOICE, A59) -/
def sendFlit (s : State) (port : Nat) : State :=
  let p := s.port port
  if !p.up then s
  else if (p.stream.isEmpty && p.owes.isEmpty) || decide (Config.replayFlits ≤ p.replay.length) then
    if p.acked = p.rxSeq then s
    else s.mapPort port (fun p => { p with acked := p.rxSeq, sent := p.sent ++ [flitOf p.txSeq p.rxSeq 1 [] []] })
  else
    let out := p.stream.take 6
    let f := flitOf (p.txSeq + 1) p.rxSeq (if out.isEmpty then 3 else 0) p.owes (out.map (fun x => (x.sp, x.beat)))
    s.mapPort port (fun p =>
      { p with stream := p.stream.drop 6, txSeq := p.txSeq + 1, acked := p.rxSeq, owes := [], replay := p.replay ++ [f],
               unacked := p.unacked ++ [(p.txSeq + 1, out.filterMap Outgoing.src)], sent := p.sent ++ [f] })

/-- R464: the fields of a flit's header. -/
def flitSeq (f : BitVec 2048) : BitVec 16 := .ofNat 16 f.toNat

/-- R465, FLIT_REPLAY: on a retry request the flit named and every later one are sent again; the retry counts toward the retirement of
the lane that carried it. (DEDUCED, A60) -/
def execFlitReplay (port : Nat) (seq : BitVec 16) (s : State) : Out :=
  .next (
    let p := s.port port
    if !p.up then s else
    let again := p.replay.dropWhile (fun f => flitSeq f != seq)
    let s1 := s.mapPort port (fun p => { p with sent := p.sent ++ again, replayed := p.replayed + wd again.length, errors := p.errors + 1 })
    let lane := if p.lane0 && p.lane1 then seq.toNat % 2 else if p.lane0 then 0 else 1
    let unit := 2 * port + lane
    match tallyHit s1 (portTile port) 3 unit with
    | some first => retireLane (tallyDrop s1 (portTile port) 3 unit) port lane first
    | none => tallyNote s1 (portTile port) 3 unit)

/-- R441: the agent that a port is for accesses of its windows: in no graph, of the partition that owns it. -/
def portAg (s : State) (port : Nat) : Ag :=
  { tile := portTile port, eng := none, part := (portOwner s port).getD 0, lvl := false, graph := graphKey 16 0, epoch := 0, th := 4 * portTile port }

/-- R441: a beat that a window does not take: dropped, counted, and recorded in the partition's ring. (DESIGN CHOICE, A59) -/
def dropPeer (s : State) (port sp : Nat) (ea : Word) : State :=
  let s1 := s.mapPort port (fun (p : Port) =>
    Port.owing { p with errors := p.errors + 1, rx := if (p.rx.head?).any (fun x => x.1 == sp) then p.rx.drop 1 else p.rx } sp 1)
  match portOwner s port with
  | some q => logRecord s1 q (Rec.plain 0x14 (portTile port) none port ea 0)
  | none => s1

/-- R441, R66: the live words of a beat, as runs of bytes from their offset. -/
def liveRuns (b : Beat) : List (Nat × List Byte) :=
  let bytes := leBytes 32 b.data.toNat
  (pick 8 (fun w => b.pred.getLsbD w)).map (fun w => (4 * w, (bytes.drop (4 * w)).take 4))

/-- R441: whether every word of a beat can be written: the first cause that refuses one, and its address. -/
def windowCause (s : State) (a : Ag) (ea : Word) (runs : List (Nat × List Byte)) : Nat × Word :=
  runs.foldl (fun c r =>
    if c.1 ≠ 0 then c else
    (if !addressOk (ea + wd r.1) 4 then 3 else (writePiece s a (ea + wd r.1) r.2 false).2, ea + wd r.1)) (0, ea)

/-- R427, R449: what the walk for a refused word of a window does. -/
def windowWalk (s : State) (a : Ag) (ea : Word) : State := if addressOk ea 4 then (translate s a (vaOf ea) true).1 else s

/-- The position of a stream port's window moved past a beat, which leaves the waiting beats. -/
def windowStep (s : State) (port sp : Nat) (waiting : Bool) : State :=
  s.mapPort port (fun (p : Port) => Port.owing { p with
    rx := if waiting && (p.rx.head?).any (fun x => x.1 == sp) then p.rx.drop 1 else p.rx,
    windows := p.windows.map (fun (k, b, l, o, d) => if k = sp then (k, b, l, o + 32, d) else (k, b, l, o, d)) } sp (if waiting then 1 else 0))

/-- R441: a beat that waits at its port, before the later ones of its stream port. -/
def holdBeat (s : State) (port sp : Nat) (data : BitVec 256) (pred : BitVec 8) : State :=
  if (s.port port).rx.any (fun x => x.1 == sp) then s
  else s.mapPort port (fun p => { p with rx := p.rx ++ [(sp, { data := data, pred := pred, kind := 0, tag := 0 })] })

/-- R441, FAR_PORT_BEAT: stream port sp of a port (`port` is 32 * port + sp) writes an arriving beat at the next 32 bytes of its window,
or sends the next 32 bytes of a window that is read. A page fault holds it. -/
def execFarPortBeat (port : Nat) (data : BitVec 256) (pred : BitVec 8) (s : State) : Out :=
  .next (
    let pn := port / 32
    let sp := port % 32
    let a := portAg s pn
    match Assoc.get? (s.port pn).windows sp with
    | none => dropPeer s pn sp 0
    | some (base, len, pos, true) =>
      let ea := base + pos
      let runs := liveRuns { data := data, pred := pred, kind := 0, tag := 0 }
      if len.toNat < pos.toNat + 32 then dropPeer s pn sp ea else
      if agentHeld s a true (runs.map (fun r => (ea + wd r.1, 4))) then holdBeat s pn sp data pred else
      match windowCause s a ea runs with
      | (0, _) => windowStep (runs.foldl (fun s r => (writePiece s a (ea + wd r.1) r.2 false).1) s) pn sp true
      | (5, w) => holdBeat (windowWalk s a w) pn sp data pred
      | (_, w) => windowStep (dropPeer (windowWalk s a w) pn sp ea) pn sp false
    | some (base, len, pos, false) =>
      let ea := base + pos
      if len.toNat < pos.toNat + 32 ∨ Config.replayFlits ≤ (s.port pn).stream.length ∨ agentHeld s a false [(ea, 32)] then s else
      match readRange s a ea 32 with
      | (s1, 0, bs) =>
        let b : Beat := { data := .ofNat 256 (leNat bs), pred := 0xFF, kind := 0, tag := 0 }
        windowStep (s1.mapPort pn (fun p => { p with stream := p.stream ++ [{ sp := sp, src := none, beat := b }] })) pn sp false
      | (s1, 5, _) => s1
      | (s1, _, _) => windowStep (dropPeer s1 pn sp ea) pn sp false)

/-- R131, R464: permits that a flit returns to the edges bound to a port. -/
def returnByFlit (s : State) (port field : Nat) : State :=
  (boundTo s port).foldl (fun s x =>
    let n := Config.permitsReturned field (EpF.destep (epFrame (s.tile x.1) x.2.1))
    s.mapTile x.1 (fun t => t.mapEp x.2.1 (fun p => { p with permits := p.permits + n }))) s

/-- R464: the next flit in order delivered: its permits go back, and its beats reach their stream ports. -/
def takeFlit (s : State) (port : Nat) (flit : BitVec 2048) : State :=
  let n := flit.toNat
  let s1 := returnByFlit s port (fld n 63 36)
  if fld n 35 32 ≠ 0 then s1.mapPort port (fun p => { p with rxSeq := flitSeq flit }) else
  let beats := (List.range 6).filterMap (fun i =>
    (Config.sidebandRead (.ofNat 64 (fld n (64 * (25 + i) + 63) (64 * (25 + i))))).map (fun (pr, kd, tg, sp) =>
      (sp % 32, ({ data := .ofNat 256 (n / 2 ^ (64 + 256 * i)), pred := .ofNat 8 pr, kind := .ofNat 2 kd, tag := .ofNat 6 tg } : Beat))))
  s1.mapPort port (fun p => { p with rxSeq := flitSeq flit, rx := p.rx ++ beats })

/-- R464: the flits that have come early delivered, as far as their sequence goes on. -/
def takeEarly (fuel port : Nat) (s : State) : State :=
  match fuel with
  | 0 => s
  | k + 1 =>
    match (s.port port).early.find? (fun f => flitSeq f == (s.port port).rxSeq + 1) with
    | some f => takeEarly k port (takeFlit (s.mapPort port (fun p => { p with early := p.early.erase f })) port f)
    | none => s

/-- R464, R465, FLIT_RECEIVE: a flit whose CRC fails is not delivered and a retry is requested; another is acknowledged to, and its
beats reach their stream ports, once and in order: one that comes before its turn waits for those of lower sequence numbers. -/
def execFlitReceive (port : Nat) (flit : BitVec 2048) (s : State) : Out :=
  .next (
    let p := s.port port
    if !p.up then s else
    let n := flit.toNat
    let want := p.rxSeq + 1
    let bytes := leBytes 248 n
    if (Config.crc64 bytes).toNat ≠ fld n 2047 1984 then
      s.mapPort port (fun p => { p with sent := p.sent ++ [flitOf want p.rxSeq 2 [] []], errors := p.errors + 1 })
    else
      let ack : BitVec 16 := .ofNat 16 (fld n 31 16)
      let later (q : BitVec 16) : Bool := decide (0 < (q - ack).toNat) && decide ((q - ack).toNat < 2 ^ 15)
      let s0 := s.mapPort port (fun p =>
        { p with replay := p.replay.filter (fun f => later (flitSeq f)), unacked := p.unacked.filter (fun u => later u.1) })
      if fld n 35 32 = 2 then post s0 (.flitReplay port (flitSeq flit))
      else if fld n 35 32 = 1 then returnByFlit s0 port (fld n 63 36)
      else if flitSeq flit = want then takeEarly Config.replayFlits port (takeFlit s0 port flit)
      else if (flitSeq flit - want).toNat < Config.replayFlits ∧ !p.early.any (fun f => flitSeq f == flitSeq flit) then
        s0.mapPort port (fun p => { p with early := p.early ++ [flit] })
      else s0)

/-- R440: a beat from a peer reaches the input endpoint that its stream port feeds, or waits while a full coil refuses it. -/
def peerBeat (s : State) (port ep : Nat) (b : Beat) : State :=
  let tile := ep / 40
  let e := ep % 40
  let took (s : State) : State := s.mapPort port (fun p => { p with rx := p.rx.drop 1 })
  match epGraph (s.tile tile) e with
  | none => took s
  | some g => match arriveBeat s g tile e b with
    | none => s
    | some s1 => returnPermits ((took s1).mapTile tile (fun t => t.mapEp e (fun p => { p with permits := p.permits + 1 }))) tile e

/-- R441, R440: the head of a port's arrived beats goes to its window, or to the input endpoint that it feeds; a peer's marker ends at the
port. (DEDUCED, A87) -/
def takeArrived (s : State) (port : Nat) : State :=
  match (s.port port).rx.head? with
  | none => s
  | some (sp, b) =>
    if b.isMarker then s.mapPort port (fun p => { p with rx := p.rx.drop 1 })
    else match Assoc.get? (s.port port).inputs sp with
      | some ep => peerBeat s port ep b
      | none => match execFarPortBeat (32 * port + sp) b.data b.pred s with | .next t => t | _ => s

/-- R441: a cycle of a port: the head of its arrived beats is taken, each window that is read sends, and a flit goes out. -/
def portCycle (s : State) (port : Nat) : State :=
  let run (o : Out) (s : State) : State := match o with | .next t => t | _ => s
  let s1 := takeArrived s port
  let s2 := ((s1.port port).windows.filter (fun w => !w.2.2.2.2)).foldl (fun s w => run (execFarPortBeat (32 * port + w.1) 0 0 s) s) s1
  sendFlit s2 port

/-! ### The host (R466) -/

/-- R466: the bytes that a request at the bridge covers. -/
def hostSize (r : HostReq) : Nat :=
  match r with
  | .read n => n
  | .write bs => bs.length
  | .amo op _ _ => amoWidth op

/-- R466: the agent that the host is, with the tables of a partition: in no graph. (DESIGN CHOICE, A19) -/
def hostAg (part : Nat) : Ag := { tile := 0, eng := none, part := part, lvl := false, graph := graphKey 16 0, epoch := 0, th := 0 }

/-- R466: what the host's last read returned. -/
def State.hostGot (s : State) (bs : List Byte) : State := { s with mod := { s.mod with hostRead := bs } }

/-- R466: a request performed at the bridge: the host's on device memory, through a partition's tables; another device's on host memory. An atomic
returns what it has found. (DESIGN CHOICE, A109) -/
def serveHost (s : State) (dev : Option Nat) (part : Nat) (va : Word) (req : HostReq) : State :=
  let a := hostAg part
  match dev, req with
  | none, .read n => let (s1, _, bs) := readPiece s a va n; s1.hostGot bs
  | none, .write bs => (writePiece s a va bs false).1
  | none, .amo op cmp val => let (s1, _, bs) := rmwPiece s a va (amoWidth op) (some op) (amoBytes op val cmp); s1.hostGot bs
  | some _, .read n => s.hostGot (hostBytes s va.toNat n)
  | some _, .write bs => signalLine (hostPut s va.toNat bs) (1, va.toNat / 64)
  | some _, .amo op cmp val =>
    let old := hostBytes s va.toNat (amoWidth op)
    signalLine ((hostPut s va.toNat (amoBytes op val cmp old)).hostGot old) (1, va.toNat / 64)

/-- R466: whether a request reaches the device: it is its group's bridge and the port is up; the host's come by a host-facing port, those of
another device of the group by one of the others. -/
def hostArrives (s : State) (port : Nat) (dev : Option Nat) : Bool :=
  s.mod.bridge && decide (port < 128) && (s.port port).up &&
  match dev with
  | none => s.mod.hostPorts.getLsbD port
  | some d => decide (d < 64) && d != s.mod.group.toNat && !s.mod.hostPorts.getLsbD port

/-- R466: whether a request is one that the bridge serves at once: within one line, an atomic aligned; the host's at a global address of an existing
partition. A longer access is several. (DESIGN CHOICE, A109) -/
def hostFits (s : State) (dev : Option Nat) (part : Nat) (va : Word) (req : HostReq) : Bool :=
  let n := hostSize req
  decide (0 < n) && decide (va.toNat % 64 + n ≤ 64) && (match req with | .amo _ _ _ => va.toNat % n == 0 | _ => true) &&
  (dev.isSome || (spaceOf va == 0 && addressOk va n && (s.part part).exists_))

/-- R112: whether a request of the host waits for a bank. -/
def hostHeld (s : State) (dev : Option Nat) (part : Nat) (va : Word) (req : HostReq) : Bool :=
  dev.isNone && agentHeld s (hostAg part) (match req with | .read _ => false | _ => true) [(va, hostSize req)]

/-- R466, HOST_ACCESS: the host reads or writes bytes of device memory through the bridge, or performs an atomic of Table 10-3 there; or another
device of the group does so in host memory. It waits behind those that wait for a bank. (DESIGN CHOICE, A19) -/
def execHostAccess (port : Nat) (dev : Option Nat) (part : Nat) (va : Word) (req : HostReq) (s : State) : Out :=
  .next (
    if !hostArrives s port dev || !hostFits s dev part va req then s
    else if s.mod.hostQ.isEmpty && !hostHeld s dev part va req then serveHost s dev part va req
    else { s with mod := { s.mod with hostQ := s.mod.hostQ ++ [(dev, part, va, req)] } })

/-- R466, R112: a cycle of the bridge: the request that has waited longest is served, once its bank lets it. -/
def hostTurn (s : State) : State :=
  match s.mod.hostQ with
  | [] => s
  | (dev, part, va, req) :: r =>
    if hostHeld s dev part va req then s else serveHost { s with mod := { s.mod with hostQ := r } } dev part va req

/-! ### Retirement by firmware (R451, R455) -/

/-- R455 kind 5, Table 18-5, TILE_RETIREMENT_BY_FIRMWARE. -/
def execTileRetirementByFirmware (tile : Nat) (s : State) : Out :=
  .next (
    if 6144 ≤ tile ∨ (s.tile tile).retired then s else
    let gs := (s.graphs.filter (fun (_, g) => g.st == .running && (graphTiles g).any (fun x => x.2.2 == tile))).map Prod.fst
    let s1 := record (s.mapTile tile (fun t => { t with retired := true })) (Rec.plain 0x0B tile none 5 0 (wd s.cycle.toNat))
    gs.foldl (fun s g => trigger s g 0x0B) s1)

/-! ### Power-up, firmware and identity (R461 to R463) -/

/-- R461: the firmware in module flash. -/
def flashOf (s : State) : List Byte := (s.mod.update.getD (s.mod.flash.getD Config.flashFirmware))

/-- R463, R461, R456: a tile after power-up n: the defect map of flash with the new self-test results, the rows that spares have replaced, and its
time counter's depth. -/
def tileAtPowerUp (s : State) (n i : Nat) : Tile :=
  let old := s.tile i
  let found := Config.selfTest n i
  let dead := Config.selfTestRetires n i
  { Tile.reset with
    cells := old.cells ||| found, spares := old.spares, retired := old.retired || dead, routerRetired := old.routerRetired,
    selftest := old.selftest || found != 0 || dead, skew := Config.timeSkew i % 3,
    banks := (old.banks.filter (fun b => !b.2.remap.isEmpty || b.2.used != 0)).map (fun b => (b.1, { Bank.reset with remap := b.2.remap, used := b.2.used })) }

/-- R461 step 3, R464: a port after the training of its lanes; one that fails is retired, in whose record's place no partition's ring stands yet. -/
def portAtPowerUp (n i : Nat) : Port :=
  let a := Config.laneTrains n (2 * i)
  let b := Config.laneTrains n (2 * i + 1)
  { Port.reset with up := a || b, lane0 := a, lane1 := b, retired := (if a then 0 else 1) ||| (if b then 0 else 2) }

/-- R371: a partition on a rectangle. -/
def partOn (p : Part) (k x y w h : Nat) : Part :=
  { p with exists_ := decide (0 < w) && decide (0 < h), prect := wd (x + y * 2 ^ 8 + w * 2 ^ 16 + h * 2 ^ 24 + k * 2 ^ 32) }

/-- R461, POWER_UP: on input power the firmware is verified; then self test, training, the synchronising pulse and the partitions that the
configuration names, each with event 0x36. A failed check leaves the module in reset. (DESIGN CHOICE, A7) (DESIGN CHOICE, A19) (DESIGN
CHOICE, A61) -/
def execPowerUp (s : State) : Out :=
  .next (
    let n := s.mod.powerUps + 1
    let fw := flashOf s
    let (number, bridge, hosts) := Config.groupOf n
    let m : Module := { Module.reset with
      powered := Config.firmwareVerifies fw, verified := Config.firmwareVerifies fw, powerUps := n, flash := some fw,
      group := number, bridge := bridge, hostPorts := hosts }
    let base : State := { State.reset with host := s.host, drawn := s.drawn, mod := m }
    if !Config.firmwareVerifies fw then { base with tiles := (List.range 6144).map (fun i => (i, s.tile i)) } else
    let s1 : State := { base with
      tiles := (List.range 6144).map (fun i => (i, tileAtPowerUp s n i)),
      ports := (List.range 128).map (fun i => (i, portAtPowerUp n i)) }
    (Config.bootPartitions n).foldl (fun s (k, x, y, w, h) =>
      let (bm, pm, qm) := Config.bootResources n k
      moduleEvent (s.mapPart k (fun p => { partOn p k x y w h with bankmap := bm, portmask := pm, qmask := qm })) [k] 0x36 0 0 (fld (Config.sha384 fw).toNat 63 0) 0) s1)

/-- R461, FIRMWARE_UPDATE: an image for the next power-up. -/
def execFirmwareUpdate (image : List Byte) (s : State) : Out := .next { s with mod := { s.mod with update := some image } }

/-- R463: the defect map entry of a tile. -/
def defectEntry (t : Tile) : List Byte :=
  let b (v : Bool) (i : Nat) : Nat := if v then 2 ^ i else 0
  leBytes 64 (t.cells.toNat * 2 ^ 256 + t.spares.toNat * 2 ^ 192 + b t.retired 2 + b t.routerRetired 1 + b t.selftest 0)

/-- R462: bytes 0x00 to 0x397 of an attestation report. -/
def reportBody (s : State) (nonce : BitVec 384) : List Byte :=
  let sha (bs : List Byte) : List Byte := leBytes 48 (Config.sha384 bs).toNat
  leBytes 48 nonce.toNat ++ sha (s.mod.flash.getD Config.flashFirmware) ++
  sha ((List.range 6144).flatMap (fun i => defectEntry (s.tile i))) ++
  (List.range 16).flatMap (fun p =>
    if (s.part p).exists_ then sha (Assoc.getD s.mod.himgs p []) else List.replicate 48 0) ++ leBytes 8 s.cycle.toNat

/-- R462, ATTESTATION_REQUEST: the report on a nonce, signed. -/
def execAttestationRequest (nonce : BitVec 384) (s : State) : Out :=
  .next (
    let body := reportBody s nonce
    { s with mod := { s.mod with report := some (body ++ leBytes 96 (Config.deviceSignature (Config.sha384 body)).toNat) } })

/-- R473, PLDM_MONITOR_READ: a sensor read over PLDM: the answer goes to the management bus and nothing of the device changes. -/
def execPldmMonitorRead (_ : Nat) (s : State) : Out := .next s

/-! ### Heat and power (R468 to R471) -/

/-- R468: the lowest-numbered tile of a zone. -/
def zoneTile (z : Nat) : Nat := tileAt (16 * (z / 4 % 4) + 8 * (z % 2)) (32 * (z / 16) + 16 * (z / 2 % 2))
/-- R468: whether a rectangle holds a tile of a zone. -/
def zoneMeets (z x y w h : Nat) : Bool :=
  let x0 := tileX (zoneTile z)
  let y0 := tileY (zoneTile z)
  decide (x < x0 + 8) && decide (x0 < x + w) && decide (y < y0 + 16) && decide (y0 < y + h)
/-- R469: the partitions that hold a tile of a zone. -/
def zoneParts (s : State) (z : Nat) : List Nat :=
  (allParts s).filter (fun p => let r := (s.part p).prect.toNat; zoneMeets z (fld r 5 0) (fld r 14 8) (fld r 22 16) (fld r 30 24))
/-- R469: the Running graphs with a tile in a zone. -/
def zoneGraphs (s : State) (z : Nat) : List Nat :=
  (s.graphs.filter (fun (_, g) => g.st == .running && zoneMeets z g.x g.y g.w g.h)).map Prod.fst

/-- R469: a zone reaches WARN. -/
def warnZone (s : State) (z temp : Nat) : State :=
  let us := s.mod.deadlineUs
  let s1 := s.mapZone z (fun x => { x with warned := true, deadline := some (s.mod.ref + usTicks us) })
  let s2 := moduleEvent s1 (zoneParts s z) 0x30 (zoneTile z) z temp us
  (zoneGraphs s z).foldl (fun s g => graphTrap s g 0x1A (wd (us % 2 ^ 16 * 2 ^ 32 + temp % 2 ^ 8 * 2 ^ 8 + z))) s2

/-- R468, R469, R471, THERMAL_SAMPLE: a zone's temperature is read and its valve set; the zone may reach WARN, fall to CLEAR, or reach
TRIP, which stops the device. -/
def execThermalSample (zone temp : Nat) (s : State) : Out :=
  .next (
    if 48 ≤ zone then s else
    let s1 := s.mapZone zone (fun x => { x with temp := temp, valve := Config.valveFor zone temp })
    let warms := decide ((s.zone zone).warn ≤ temp) && !(s.zone zone).warned
    if (s.zone zone).trip ≤ temp then
      let s2 := moduleEvent (if warms then warnZone s1 zone temp else s1) (allParts s) 0x32 (zoneTile zone) zone temp 0
      { s2 with mod := { s2.mod with tripped := true, powered := false } }
    else if warms then warnZone s1 zone temp
    else if temp ≤ (s.zone zone).clear then s1.mapZone zone (fun x => { x with warned := false, deadline := none })
    else s1)

/-- R469: one more clock edge in every 8 is swallowed, up to 4, with its event. -/
def stretchMore (s : State) (zone : Nat) : State :=
  if 4 ≤ swallowed s then s else
  let s1 := { s with mod := { s.mod with stretch := s.mod.stretch + 1 } }
  moduleEvent s1 (allParts s) 0x31 (zoneTile zone) zone (swallowed s1) 0

/-- R469, THERMAL_DEADLINE: the deadline of a zone that is still above CLEAR has passed. -/
def execThermalDeadline (zone : Nat) (s : State) : Out :=
  .next (
    let z := s.zone zone
    match z.deadline with
    | some d =>
      if !z.warned || decide (s.mod.ref < d) || decide (z.temp ≤ z.clear) then s
      else stretchMore (s.mapZone zone (fun x => { x with deadline := none, stepAt := d + usTicks 50 })) zone
    | none => s)

/-- R469: one step of the stretch is released: one that heat has brought, or else one of the power limit. (DESIGN CHOICE, A61) -/
def Module.eased (m : Module) : Module :=
  if 0 < m.stretch then { m with stretch := m.stretch - 1 } else { m with limited := m.limited - 1 }

/-- R469: with every zone below CLEAR, a step is released every 50 µs. -/
def releaseStep (s : State) : State :=
  let m := s.mod
  if !s.zones.all (fun z => decide (z.2.temp < z.2.clear)) || swallowed s == 0 then { s with mod := { m with releaseAt := none } }
  else match m.releaseAt with
    | none => { s with mod := { m with releaseAt := some (m.ref + usTicks 50) } }
    | some r => if m.ref < r then s else { s with mod := { m.eased with releaseAt := some (r + usTicks 50) } }

/-- R469, STRETCH_STEP: a zone that has been past its deadline above CLEAR for a further 50 µs swallows one more edge; with every zone below
CLEAR a step is released once 50 µs have passed. (DESIGN CHOICE, A61) -/
def execStretchStep (zone : Nat) (s : State) : Out :=
  .next (
    let z := s.zone zone
    if z.warned && z.deadline.isNone && decide (z.clear < z.temp) then
      if s.mod.ref < z.stepAt then s else stretchMore (s.mapZone zone (fun x => { x with stepAt := x.stepAt + usTicks 50 })) zone
    else releaseStep s)

/-- R470, POWER_LIMIT_STEP: a busbar draw that exceeds the limit stretches the clock by one more step. -/
def execPowerLimitStep (watts : Nat) (s : State) : Out :=
  .next (
    if watts ≤ s.mod.powerLimit then s else
    let s1 := { s with mod := { s.mod with limited := s.mod.limited + (if swallowed s < 4 then 1 else 0) } }
    moduleEvent s1 (allParts s) 0x35 0 0 watts (swallowed s1))

/-! ### The device freeze (R472) -/

/-- R472, DEVICE_FREEZE: every clock of the die stops. -/
def execDeviceFreeze (s : State) : Out := .next { s with mod := { s.mod with frozen := true } }

/-- R472, R114: the refreshes that fell due in the banks of a tile during a freeze, which ends in the cycle `now`, are owed, up to eight of a bank; with a
ninth the controller takes the bank. (DESIGN CHOICE, A61) -/
def owedInFreeze (now cycles : Nat) (t : Tile) : Tile :=
  let n := cycles / Config.tRefi
  if n = 0 then t else
  (List.range 32).foldl (fun t i => t.mapBank i (fun b =>
    if b.owed + n ≤ 8 then { b with owed := b.owed + n } else takeBank now { b with owed := 8 })) t

/-- R472, R467, DEVICE_FREEZE_RELEASE: the clocks run again after so many cycles, a synchronising pulse is sent, and event 0x37 written.
(DESIGN CHOICE, A61) -/
def execDeviceFreezeRelease (cycles : Nat) (s : State) : Out :=
  .next (
    if !s.mod.frozen then s else
    let s1 := { s with
      mod := { s.mod with frozen := false },
      tiles := s.tiles.map (fun (i, t) => (i, { owedInFreeze s.cycle.toNat cycles t with skew := Config.timeSkew i % 3 })) }
    moduleEvent s1 (allParts s) 0x37 0 0 cycles 0)

/-! ### Partitions (R371) -/

/-- R371: whether a rectangle lies on the die and meets no other partition. -/
def rectFree (s : State) (part x y w h : Nat) : Bool :=
  decide (x + w ≤ 64) && decide (y + h ≤ 96) && (allParts s).all (fun p =>
    let r := (s.part p).prect.toNat
    p == part || !(decide (x < fld r 5 0 + fld r 22 16) && decide (fld r 5 0 < x + w) && decide (y < fld r 14 8 + fld r 30 24) && decide (fld r 14 8 < y + h)))

/-- R371, Table 16-6, PARTITION_CHANGE: a partition created or changed by management firmware, unless it has a Running, Loading or Cut
graph or would meet another. (DESIGN CHOICE, A19) -/
def execPartitionChange (part x y wd ht : Nat) (bankmap : Word) (ports : BitVec 128) (queues : BitVec 256) (s : State) : Out :=
  .next (
    let busy := s.graphs.any (fun (_, g) => g.part == part && (g.st == .running || g.st == .loading || g.st == .cut))
    if 16 ≤ part ∨ busy ∨ !rectFree s part x y wd ht then s else
    let fresh := !(s.part part).exists_
    let s1 := s.mapPart part (fun p =>
      { partOn (if fresh then { Part.reset with sliceAt := s.mod.ref } else p) part x y wd ht with
        bankmap := bankmap, portmask := ports, qmask := queues, evalDue := true })
    let s1 := if fresh || !(s1.part part).exists_ then { s1 with mod := { s1.mod with himgs := Assoc.erase s1.mod.himgs part } } else s1
    if fresh && (s1.part part).exists_ then
      moduleEvent s1 [part] 0x36 0 0 (fld (Config.sha384 (s.mod.flash.getD Config.flashFirmware)).toNat 63 0) 0 else s1)

end Sys2Proof.Machine
end

