-- ==== Sys2Proof/Machine/Dispatch.lean ====
section
/-! DEFINITION. One arm per instruction: the meaning each one has, or its rejection by name. -/

namespace Sys2Proof.Machine

/-- The effect of one instruction of the running slot, or of one device step. -/
def exec (i : Instr) (s : State) : Host.Outcome State Fault Refusal :=
  match i with
  | .nop => Sys2Proof.Machine.execNop s
  | .halt => Sys2Proof.Machine.execHalt s
  | .knot => Sys2Proof.Machine.execKnot s
  | .knotW => Sys2Proof.Machine.execKnotW s
  | .kwait d => Sys2Proof.Machine.execKwait d s
  | .time d => Sys2Proof.Machine.execTime d s
  | .tid d => Sys2Proof.Machine.execTid d s
  | .yield => Sys2Proof.Machine.execYield s
  | .add d a b => Sys2Proof.Machine.execAdd d a b s
  | .sub d a b => Sys2Proof.Machine.execSub d a b s
  | .and d a b => Sys2Proof.Machine.execAnd d a b s
  | .or d a b => Sys2Proof.Machine.execOr d a b s
  | .xor d a b => Sys2Proof.Machine.execXor d a b s
  | .andn d a b => Sys2Proof.Machine.execAndn d a b s
  | .shl d a b => Sys2Proof.Machine.execShl d a b s
  | .shr d a b => Sys2Proof.Machine.execShr d a b s
  | .sra d a b => Sys2Proof.Machine.execSra d a b s
  | .rotl d a b => Sys2Proof.Machine.execRotl d a b s
  | .min d a b => Sys2Proof.Machine.execMin d a b s
  | .max d a b => Sys2Proof.Machine.execMax d a b s
  | .minu d a b => Sys2Proof.Machine.execMinu d a b s
  | .maxu d a b => Sys2Proof.Machine.execMaxu d a b s
  | .sel d a b n => Sys2Proof.Machine.execSel d a b n s
  | .mul d a b => Sys2Proof.Machine.execMul d a b s
  | .mulh d a b => Sys2Proof.Machine.execMulh d a b s
  | .mulhu d a b => Sys2Proof.Machine.execMulhu d a b s
  | .div d a b => Sys2Proof.Machine.execDiv d a b s
  | .divu d a b => Sys2Proof.Machine.execDivu d a b s
  | .rem d a b => Sys2Proof.Machine.execRem d a b s
  | .remu d a b => Sys2Proof.Machine.execRemu d a b s
  | .clz d a => Sys2Proof.Machine.execClz d a s
  | .ctz d a => Sys2Proof.Machine.execCtz d a s
  | .popc d a => Sys2Proof.Machine.execPopc d a s
  | .sextb d a => Sys2Proof.Machine.execSextb d a s
  | .sexth d a => Sys2Proof.Machine.execSexth d a s
  | .sextw d a => Sys2Proof.Machine.execSextw d a s
  | .cmpeq d a b => Sys2Proof.Machine.execCmpeq d a b s
  | .cmpne d a b => Sys2Proof.Machine.execCmpne d a b s
  | .cmplt d a b => Sys2Proof.Machine.execCmplt d a b s
  | .cmple d a b => Sys2Proof.Machine.execCmple d a b s
  | .cmpltu d a b => Sys2Proof.Machine.execCmpltu d a b s
  | .cmpleu d a b => Sys2Proof.Machine.execCmpleu d a b s
  | .pand d a b => Sys2Proof.Machine.execPand d a b s
  | .por d a b => Sys2Proof.Machine.execPor d a b s
  | .pxor d a b => Sys2Proof.Machine.execPxor d a b s
  | .pnot d a => Sys2Proof.Machine.execPnot d a s
  | .pset d a => Sys2Proof.Machine.execPset d a s
  | .pget d a => Sys2Proof.Machine.execPget d a s
  | .addi d a im => Sys2Proof.Machine.execAddi d a im s
  | .andi d a im => Sys2Proof.Machine.execAndi d a im s
  | .ori d a im => Sys2Proof.Machine.execOri d a im s
  | .xori d a im => Sys2Proof.Machine.execXori d a im s
  | .shli d a k => Sys2Proof.Machine.execShli d a k s
  | .shri d a k => Sys2Proof.Machine.execShri d a k s
  | .srai d a k => Sys2Proof.Machine.execSrai d a k s
  | .li d im => Sys2Proof.Machine.execLi d im s
  | .lis d k im => Sys2Proof.Machine.execLis d k im s
  | .loop n o => Sys2Proof.Machine.execLoop n o s
  | .lcsetReg n b => Sys2Proof.Machine.execLcsetReg n b s
  | .lcsetImm n im => Sys2Proof.Machine.execLcsetImm n im s
  | .lcchain n m => Sys2Proof.Machine.execLcchain n m s
  | .lcchainNone n => Sys2Proof.Machine.execLcchainNone n s
  | .mfs d r => Sys2Proof.Machine.execMfs d r s
  | .mts a r => Sys2Proof.Machine.execMts a r s
  | .beq a b o => Sys2Proof.Machine.execBeq a b o s
  | .bne a b o => Sys2Proof.Machine.execBne a b o s
  | .blt a b o => Sys2Proof.Machine.execBlt a b o s
  | .bge a b o => Sys2Proof.Machine.execBge a b o s
  | .bltu a b o => Sys2Proof.Machine.execBltu a b o s
  | .bgeu a b o => Sys2Proof.Machine.execBgeu a b o s
  | .bp n o => Sys2Proof.Machine.execBp n o s
  | .bpAny n o => Sys2Proof.Machine.execBpAny n o s
  | .bpAll n o => Sys2Proof.Machine.execBpAll n o s
  | .bnp n o => Sys2Proof.Machine.execBnp n o s
  | .bnpAny n o => Sys2Proof.Machine.execBnpAny n o s
  | .bnpAll n o => Sys2Proof.Machine.execBnpAll n o s
  | .j o => Sys2Proof.Machine.execJ o s
  | .call o => Sys2Proof.Machine.execCall o s
  | .jr a => Sys2Proof.Machine.execJr a s
  | .callr a => Sys2Proof.Machine.execCallr a s
  | .ldb d a o => Sys2Proof.Machine.execLdb d a o s
  | .ldbu d a o => Sys2Proof.Machine.execLdbu d a o s
  | .ldh d a o => Sys2Proof.Machine.execLdh d a o s
  | .ldhu d a o => Sys2Proof.Machine.execLdhu d a o s
  | .ldw d a o => Sys2Proof.Machine.execLdw d a o s
  | .ldwu d a o => Sys2Proof.Machine.execLdwu d a o s
  | .ldd d a o => Sys2Proof.Machine.execLdd d a o s
  | .stb d a o => Sys2Proof.Machine.execStb d a o s
  | .sth d a o => Sys2Proof.Machine.execSth d a o s
  | .stw d a o => Sys2Proof.Machine.execStw d a o s
  | .std d a o => Sys2Proof.Machine.execStd d a o s
  | .indexedLoad d a b f k => Sys2Proof.Machine.execIndexedLoad d a b f k s
  | .indexedStore d a b f k => Sys2Proof.Machine.execIndexedStore d a b f k s
  | .ldacq d a sc => Sys2Proof.Machine.execLdacq d a sc s
  | .strel d a sc => Sys2Proof.Machine.execStrel d a sc s
  | .vadd d a b t g => Sys2Proof.Machine.execVadd d a b t g s
  | .vsub d a b t g => Sys2Proof.Machine.execVsub d a b t g s
  | .vmul d a b t g => Sys2Proof.Machine.execVmul d a b t g s
  | .vmin d a b t g => Sys2Proof.Machine.execVmin d a b t g s
  | .vmax d a b t g => Sys2Proof.Machine.execVmax d a b t g s
  | .vabs d a t g => Sys2Proof.Machine.execVabs d a t g s
  | .vneg d a t g => Sys2Proof.Machine.execVneg d a t g s
  | .vfma d a b t g => Sys2Proof.Machine.execVfma d a b t g s
  | .vfms d a b t g => Sys2Proof.Machine.execVfms d a b t g s
  | .vfnma d a b t g => Sys2Proof.Machine.execVfnma d a b t g s
  | .vand d a b t g => Sys2Proof.Machine.execVand d a b t g s
  | .vor d a b t g => Sys2Proof.Machine.execVor d a b t g s
  | .vxor d a b t g => Sys2Proof.Machine.execVxor d a b t g s
  | .vshl d a b t g => Sys2Proof.Machine.execVshl d a b t g s
  | .vshr d a b t g => Sys2Proof.Machine.execVshr d a b t g s
  | .vsra d a b t g => Sys2Proof.Machine.execVsra d a b t g s
  | .vcmpEq d a b t g => Sys2Proof.Machine.execVcmpEq d a b t g s
  | .vcmpNe d a b t g => Sys2Proof.Machine.execVcmpNe d a b t g s
  | .vcmpLt d a b t g => Sys2Proof.Machine.execVcmpLt d a b t g s
  | .vcmpLe d a b t g => Sys2Proof.Machine.execVcmpLe d a b t g s
  | .vcmpUn d a b t g => Sys2Proof.Machine.execVcmpUn d a b t g s
  | .vsel d a b t n => Sys2Proof.Machine.execVsel d a b t n s
  | .vmov d a t g => Sys2Proof.Machine.execVmov d a t g s
  | .vbcast d a t g => Sys2Proof.Machine.execVbcast d a t g s
  | .vext d a b t => Sys2Proof.Machine.execVext d a b t s
  | .vins d a b t => Sys2Proof.Machine.execVins d a b t s
  | .vperm d a b t g => Sys2Proof.Machine.execVperm d a b t g s
  | .vshufLo d a b t g => Sys2Proof.Machine.execVshufLo d a b t g s
  | .vshufHi d a b t g => Sys2Proof.Machine.execVshufHi d a b t g s
  | .vshufEven d a b t g => Sys2Proof.Machine.execVshufEven d a b t g s
  | .vshufOdd d a b t g => Sys2Proof.Machine.execVshufOdd d a b t g s
  | .vslideUp d a b t g => Sys2Proof.Machine.execVslideUp d a b t g s
  | .vslideDn d a b t g => Sys2Proof.Machine.execVslideDn d a b t g s
  | .vredsum d a r t g => Sys2Proof.Machine.execVredsum d a r t g s
  | .vredmax d a t g => Sys2Proof.Machine.execVredmax d a t g s
  | .vredmin d a t g => Sys2Proof.Machine.execVredmin d a t g s
  | .vscan d a r t g => Sys2Proof.Machine.execVscan d a r t g s
  | .vdot d a b t g => Sys2Proof.Machine.execVdot d a b t g s
  | .vdiv d a b t g => Sys2Proof.Machine.execVdiv d a b t g s
  | .vsqrt d a r t g => Sys2Proof.Machine.execVsqrt d a r t g s
  | .vrcp d a t g => Sys2Proof.Machine.execVrcp d a t g s
  | .vrsq d a t g => Sys2Proof.Machine.execVrsq d a t g s
  | .vexp2 d a t g => Sys2Proof.Machine.execVexp2 d a t g s
  | .vlog2 d a t g => Sys2Proof.Machine.execVlog2 d a t g s
  | .vld d a g w o => Sys2Proof.Machine.execVld d a g w o s
  | .vst d a g w o => Sys2Proof.Machine.execVst d a g w o s
  | .vlds d a b t g => Sys2Proof.Machine.execVlds d a b t g s
  | .vsts d a b t g => Sys2Proof.Machine.execVsts d a b t g s
  | .vgath d a b t x g => Sys2Proof.Machine.execVgath d a b t x g s
  | .vscat d a b t x g => Sys2Proof.Machine.execVscat d a b t x g s
  | .vcvt d a sc t r k => Sys2Proof.Machine.execVcvt d a sc t r k s
  | .vqcvt d a n q w r h => Sys2Proof.Machine.execVqcvt d a n q w r h s
  | .vdqcvt d a n q w r h => Sys2Proof.Machine.execVdqcvt d a n q w r h s
  | .vpack d a t n => Sys2Proof.Machine.execVpack d a t n s
  | .vunpack d a t n => Sys2Proof.Machine.execVunpack d a t n s
  | .vmask12 d a n t => Sys2Proof.Machine.execVmask12 d a n t s
  | .amo a b o k sc => Sys2Proof.Machine.execAmo a b o k sc s
  | .amor d a b o k sc => Sys2Proof.Machine.execAmor d a b o k sc s
  | .amocas d a b o k sc => Sys2Proof.Machine.execAmocas d a b o k sc s
  | .fence k sc => Sys2Proof.Machine.execFence k sc s
  | .cleatInit a b => Sys2Proof.Machine.execCleatInit a b s
  | .cleatExp a b => Sys2Proof.Machine.execCleatExp a b s
  | .cleatArv a k sc => Sys2Proof.Machine.execCleatArv a k sc s
  | .cleatWait a b k sc => Sys2Proof.Machine.execCleatWait a b k sc s
  | .cleatTest d a b k sc => Sys2Proof.Machine.execCleatTest d a b k sc s
  | .join d a => Sys2Proof.Machine.execJoin d a s
  | .leave a b k sc => Sys2Proof.Machine.execLeave a b k sc s
  | .gbar a b k sc => Sys2Proof.Machine.execGbar a b k sc s
  | .tgive q => Sys2Proof.Machine.execTgive q s
  | .ttake q => Sys2Proof.Machine.execTtake q s
  | .lookup d a => Sys2Proof.Machine.execLookup d a s
  | .tagset a b => Sys2Proof.Machine.execTagset a b s
  | .tagclr a => Sys2Proof.Machine.execTagclr a s
  | .tagread d a => Sys2Proof.Machine.execTagread d a s
  | .copy a b c m x y => Sys2Proof.Machine.execCopy a b c m x y s
  | .copy2 a b c x y => Sys2Proof.Machine.execCopy2 a b c x y s
  | .copym a b c k x y => Sys2Proof.Machine.execCopym a b c k x y s
  | .rowact a r x y => Sys2Proof.Machine.execRowact a r x y s
  | .rowtakePl a r x y => Sys2Proof.Machine.execRowtakePl a r x y s
  | .rowtakeMk a r x y => Sys2Proof.Machine.execRowtakeMk a r x y s
  | .rowtakeTm a b r x y => Sys2Proof.Machine.execRowtakeTm a b r x y s
  | .rowput a b r x y => Sys2Proof.Machine.execRowput a b r x y s
  | .rowclose a r x y => Sys2Proof.Machine.execRowclose a r x y s
  | .rowstat a b x y => Sys2Proof.Machine.execRowstat a b x y s
  | .plane a r x y => Sys2Proof.Machine.execPlane a r x y s
  | .planeld a r x y => Sys2Proof.Machine.execPlaneld a r x y s
  | .planeldMk a r x y => Sys2Proof.Machine.execPlaneldMk a r x y s
  | .planeinv r x y => Sys2Proof.Machine.execPlaneinv r x y s
  | .configure a b c x y => Sys2Proof.Machine.execConfigure a b c x y s
  | .unfuse x y => Sys2Proof.Machine.execUnfuse x y s
  | .ctxload a b c x y => Sys2Proof.Machine.execCtxload a b c x y s
  | .ctxsel a x y => Sys2Proof.Machine.execCtxsel a x y s
  | .ctxstat a b x y => Sys2Proof.Machine.execCtxstat a b x y s
  | .tstdisc a x y => Sys2Proof.Machine.execTstdisc a x y s
  | .mrun a b c x y => Sys2Proof.Machine.execMrun a b c x y s
  | .mrunAcc a b c x y => Sys2Proof.Machine.execMrunAcc a b c x y s
  | .mzero a x y => Sys2Proof.Machine.execMzero a x y s
  | .mdrain a b c x y => Sys2Proof.Machine.execMdrain a b c x y s
  | .mstat a b x y => Sys2Proof.Machine.execMstat a b x y s
  | .sopen e b x y => Sys2Proof.Machine.execSopen e b x y s
  | .sstart e x y => Sys2Proof.Machine.execSstart e x y s
  | .sstop e x y => Sys2Proof.Machine.execSstop e x y s
  | .sknot e x y => Sys2Proof.Machine.execSknot e x y s
  | .coilset e b x y => Sys2Proof.Machine.execCoilset e b x y s
  | .coilsetNd n b x y => Sys2Proof.Machine.execCoilsetNd n b x y s
  | .spush e b h n => Sys2Proof.Machine.execSpush e b h n s
  | .spushC e b => Sys2Proof.Machine.execSpushC e b s
  | .spop e b n => Sys2Proof.Machine.execSpop e b n s
  | .spopC e b n => Sys2Proof.Machine.execSpopC e b n s
  | .speek e b n => Sys2Proof.Machine.execSpeek e b n s
  | .speekC e b n => Sys2Proof.Machine.execSpeekC e b n s
  | .launch a b c x y => Sys2Proof.Machine.execLaunch a b c x y s
  | .trap n => Sys2Proof.Machine.execTrap n s
  | .sysret => Sys2Proof.Machine.execSysret s
  | .sysretRe => Sys2Proof.Machine.execSysretRe s
  | .tlbinv a => Sys2Proof.Machine.execTlbinv a s
  | .tlbinva => Sys2Proof.Machine.execTlbinva s
  | .probe d a => Sys2Proof.Machine.execProbe d a s
  | .wavereq d a => Sys2Proof.Machine.execWavereq d a s
  | .codecinv a b => Sys2Proof.Machine.execCodecinv a b s
  | .codecinvDesc a => Sys2Proof.Machine.execCodecinvDesc a s
  | .freeze d a => Sys2Proof.Machine.execFreeze d a s
  | .freezeOff d a => Sys2Proof.Machine.execFreezeOff d a s
  | .graphctlStat d a => Sys2Proof.Machine.execGraphctlStat d a s
  | .graphctlStall d a b => Sys2Proof.Machine.execGraphctlStall d a b s
  | .graphctlSlot d a b => Sys2Proof.Machine.execGraphctlSlot d a b s
  | .graphctlTerm d a => Sys2Proof.Machine.execGraphctlTerm d a s
  | .illegalWord w => Sys2Proof.Machine.execIllegalWord w s
  | .poisonedFetch pc => Sys2Proof.Machine.execPoisonedFetch pc s
  | .engineTrapPoint th => Sys2Proof.Machine.execEngineTrapPoint th s
  | .heldFault th => Sys2Proof.Machine.execHeldFault th s
  | .heldFaultRetry th => Sys2Proof.Machine.execHeldFaultRetry th s
  | .spillQueueRetry tile e => Sys2Proof.Machine.execSpillQueueRetry tile e s
  | .frameCapture tile addr frame => Sys2Proof.Machine.execFrameCapture tile addr frame s
  | .loadingComplete graph => Sys2Proof.Machine.execLoadingComplete graph s
  | .markerArrival tile kind unit => Sys2Proof.Machine.execMarkerArrival tile kind unit s
  | .rollback graph cause => Sys2Proof.Machine.execRollback graph cause s
  | .elementFault tile kind unit code => Sys2Proof.Machine.execElementFault tile kind unit code s
  | .dispatchEvaluation part => Sys2Proof.Machine.execDispatchEvaluation part s
  | .graphRetire graph => Sys2Proof.Machine.execGraphRetire graph s
  | .contextSwitch part => Sys2Proof.Machine.execContextSwitch part s
  | .waveComplete graph => Sys2Proof.Machine.execWaveComplete graph s
  | .hangDetect graph => Sys2Proof.Machine.execHangDetect graph s
  | .beatArrival n => Sys2Proof.Machine.execBeatArrival n s
  | .flitReplay port seq => Sys2Proof.Machine.execFlitReplay port seq s
  | .portDown port => Sys2Proof.Machine.execPortDown port s
  | .farPortBeat port data pred => Sys2Proof.Machine.execFarPortBeat port data pred s
  | .rowRemap tile bank row => Sys2Proof.Machine.execRowRemap tile bank row s
  | .queueTailWrite q => Sys2Proof.Machine.execQueueTailWrite q s
  | .commit th => Sys2Proof.Machine.execCommit th s
  | .knotRetire th => Sys2Proof.Machine.execKnotRetire th s
  | .engineCommandStart th q => Sys2Proof.Machine.execEngineCommandStart th q s
  | .engineCommandRetire th q => Sys2Proof.Machine.execEngineCommandRetire th q s
  | .sliceEnd part => Sys2Proof.Machine.execSliceEnd part s
  | .latencyLimitExpiry graph => Sys2Proof.Machine.execLatencyLimitExpiry graph s
  | .snapshotRowSave tile => Sys2Proof.Machine.execSnapshotRowSave tile s
  | .egressThreshold port => Sys2Proof.Machine.execEgressThreshold port s
  | .homePerform n => Sys2Proof.Machine.execHomePerform n s
  | .outputEndpointFire tile e => Sys2Proof.Machine.execOutputEndpointFire tile e s
  | .meshHop n => Sys2Proof.Machine.execMeshHop n s
  | .permitReturn n => Sys2Proof.Machine.execPermitReturn n s
  | .coilRefill tile e => Sys2Proof.Machine.execCoilRefill tile e s
  | .steerNodeFire tile n => Sys2Proof.Machine.execSteerNodeFire tile n s
  | .mergeByArrivalFire tile n => Sys2Proof.Machine.execMergeByArrivalFire tile n s
  | .mergeByTagFire tile n => Sys2Proof.Machine.execMergeByTagFire tile n s
  | .multicastFire tile n => Sys2Proof.Machine.execMulticastFire tile n s
  | .replicateFire tile n => Sys2Proof.Machine.execReplicateFire tile n s
  | .clockGate tile e => Sys2Proof.Machine.execClockGate tile e s
  | .feedBeatMove tile ctx => Sys2Proof.Machine.execFeedBeatMove tile ctx s
  | .vectorEntry rect => Sys2Proof.Machine.execVectorEntry rect s
  | .vectorWrite rect => Sys2Proof.Machine.execVectorWrite rect s
  | .planeFillApply th => Sys2Proof.Machine.execPlaneFillApply th s
  | .regionTransfer th => Sys2Proof.Machine.execRegionTransfer th s
  | .streamElement tile e => Sys2Proof.Machine.execStreamElement tile e s
  | .ownerTokenArrival tile e => Sys2Proof.Machine.execOwnerTokenArrival tile e s
  | .ownerTokenSend tile e => Sys2Proof.Machine.execOwnerTokenSend tile e s
  | .coalesceTimeout tile e => Sys2Proof.Machine.execCoalesceTimeout tile e s
  | .copyLine th => Sys2Proof.Machine.execCopyLine th s
  | .drainDeliver th => Sys2Proof.Machine.execDrainDeliver th s
  | .rowOpenTimeout tile bank => Sys2Proof.Machine.execRowOpenTimeout tile bank s
  | .refreshDue tile bank => Sys2Proof.Machine.execRefreshDue tile bank s
  | .owedRefresh tile bank => Sys2Proof.Machine.execOwedRefresh tile bank s
  | .backgroundActivate tile bank => Sys2Proof.Machine.execBackgroundActivate tile bank s
  | .deadHomeAnswer n => Sys2Proof.Machine.execDeadHomeAnswer n s
  | .hostAccess port dev part va req => Sys2Proof.Machine.execHostAccess port dev part va req s
  | .flitReceive port flit => Sys2Proof.Machine.execFlitReceive port flit s
  | .portUp port lanes => Sys2Proof.Machine.execPortUp port lanes s
  | .powerUp => Sys2Proof.Machine.execPowerUp s
  | .attestationRequest nonce => Sys2Proof.Machine.execAttestationRequest nonce s
  | .firmwareUpdate image => Sys2Proof.Machine.execFirmwareUpdate image s
  | .pldmMonitorRead sensor => Sys2Proof.Machine.execPldmMonitorRead sensor s
  | .thermalSample zone temp => Sys2Proof.Machine.execThermalSample zone temp s
  | .thermalDeadline zone => Sys2Proof.Machine.execThermalDeadline zone s
  | .stretchStep zone => Sys2Proof.Machine.execStretchStep zone s
  | .powerLimitStep watts => Sys2Proof.Machine.execPowerLimitStep watts s
  | .deviceFreeze => Sys2Proof.Machine.execDeviceFreeze s
  | .deviceFreezeRelease cycles => Sys2Proof.Machine.execDeviceFreezeRelease cycles s
  | .partitionChange part x y wd ht bankmap ports queues => Sys2Proof.Machine.execPartitionChange part x y wd ht bankmap ports queues s
  | .tileRetirementByFirmware tile => Sys2Proof.Machine.execTileRetirementByFirmware tile s
  | .pairLosesAlignment port lane pair => Sys2Proof.Machine.execPairLosesAlignment port lane pair s

end Sys2Proof.Machine
end

