-- ==== Sys2Proof/Machine/Schedule.lean ====
section
/-! DEFINITION. Who takes the next step (A1): which slot of a tile issues (R35), the fetch of its word (R104, R193), and the
device's turn, which ends a cycle and begins the next. -/

namespace Sys2Proof.Machine

/-- The tiles of the device, and one past the last. -/
def tileCount : Nat := 8192

/-- R35, R383, R402, R451: whether a slot may issue at all: its tile is in service, it holds a running thread of a running graph that is not
frozen, and no commit of its, nor the end of an acquiring atomic (R180), is in progress, nor does it owe a checkpoint whose limit, which does not
run in a frozen graph, has expired (R55). -/
def issuable (s : State) (i : Nat) : Bool :=
  let t := s.thread i
  let g := s.graph t.graph
  t.run == .running && g.st == .running && isActive s t.graph && (!g.frozen || g.hung || g.freezer == some i) && !commitPending s i &&
  (t.wait != .acquire || t.idle) && !(s.tile (tileOf i)).retired &&
  (g.frozen || !(g.deadline.any (fun d => decide (d ≤ s.mod.ref)) && g.openWave != some t.wave))

/-- R104, R193: the word at a PC of a tile, and whether it is delivered as poison. (DEDUCED, A24) -/
def fetchWord (s : State) (tile : Nat) (pc : PC) : Nat × Bool × State :=
  let key := tmemKey tile pc.toNat
  let w := leNat (Memory.readBytes s.tmem key 4)
  let bad := tmemPoison s key 4
  let s1 := tmemSense s key 4
  let keep (s : State) : State := s.mapTile tile (fun t => { t with ibuf := Assoc.set t.ibuf pc.toNat (.ofNat 32 w) })
  match Assoc.get? (s.tile tile).ibuf pc.toNat with
  | some c =>
    if c.toNat = w && !bad then (w, false, s)
    else if Config.fetchNew s.drawn then (w, bad, if bad then s1.draw else keep s.draw)
    else (c.toNat, false, s.draw)
  | none => (w, bad, if bad then s1 else keep s)

/-- R193, R203: the instruction that the slot i issues next. -/
def fetched (s : State) (i : Nat) : Instr × State :=
  let t := s.thread i
  match fetchWord s (tileOf i) t.pc with
  | (_, true, s') => (.poisonedFetch t.pc, s')
  | (w, false, s') => ((decodeWord w).getD (.illegalWord (.ofNat 32 w)), s')

/-- R318, R365, R42, R433: whether a trap waits to be raised at the next instruction of the slot i; a graph-level trap and a
held fault wait while the thread is at S. -/
def dueTrap (t : Thread) : Bool :=
  t.late.isSome || t.pend.isSome || (!t.lvl && (t.held.isSome || !t.gtraps.isEmpty))

/-- R364: whether the fetch of the slot i is refused: at U, from the handler window. -/
def fetchRefused (s : State) (i : Nat) : Bool :=
  let t := s.thread i
  !t.lvl && inWindow (s.graph t.graph).hwin t.pc.toNat 4

/-- The turn of the slot i: a waiting trap, a refused fetch, or the next instruction. -/
def threadTurn (s : State) (i : Nat) : Host.Outcome State Fault Refusal :=
  if dueTrap (s.thread i) then exec (.engineTrapPoint i) s
  else if fetchRefused s i then .next (raise s 6 (wd (0xE * 2 ^ 60 + (s.thread i).pc.toNat)))
  else exec (fetched s i).1 (fetched s i).2

/-! ### Which slot issues (R35, R239) -/

/-- The slot i taken: it issues last on its tile, and its tile has issued in this cycle. (DESIGN CHOICE, A1) -/
def takeSlot (s : State) (i : Nat) : State :=
  { s.mapTile (tileOf i) (fun t => { t with lastSlot := slotOf i }) with cur := i, turn := tileOf i + 1 }

/-- R35: whether the turn of a slot, tried, takes it on: one in a wait that goes on leaves the slot as it was, and so does an instruction
whose operands are owed. An instruction that changes nothing of its slot otherwise, as a branch to itself, is ready. (DEDUCED, A97) -/
def ready (s : State) (i : Nat) : Bool :=
  match threadTurn (takeSlot s i) i with
  | .next u =>
    let t := s.thread i
    let v := u.thread i
    v.pc != t.pc || v.wait != t.wait || v != t || (u.graph t.graph).openWave != (s.graph t.graph).openWave ||
      decide (s.agenda.length < u.agenda.length) || (v.wait == .none && t.owed == .empty)
  | _ => true

/-- R35: whether the next instruction of slot i finds its engine queue full: it is not ready, and has not issued. -/
def meetsFullQueue (s : State) (i : Nat) : Bool :=
  let t := s.thread i
  t.wait == .none && issuable s i && (List.range 4).any (fun q => decide (8 ≤ (t.queue q).waiting.length)) &&
    (match threadTurn (takeSlot s i) i with
     | .next u => (u.thread i).wait == .fullQueue && (u.thread i).pc == t.pc
     | _ => false)

/-- R35: a slot whose next instruction finds its engine queue full waits for it. -/
def noteFullQueue (s : State) (i : Nat) : State :=
  if meetsFullQueue s i then s.mapThread i (fun t => { t with wait := .fullQueue }) else s

/-- R35: the ready slots of a tile, by round robin from the one after the slot that issued last. -/
def candidates (s : State) (tile : Nat) : List Nat :=
  ([1, 2, 3, 4].map (fun k => 4 * tile + ((s.tile tile).lastSlot + k) % 4)).filter (fun i => issuable s i && ready s i)

/-- R239: whether a ready slot is passed over: it yielded within the last three cycles, and another slot of the tile is ready. -/
def passedOver (s : State) (cs : List Nat) (i : Nat) : Bool :=
  decide (s.cycle.toNat < (s.thread i).yield) && cs.any (fun j => j != i)

/-- R35, R239: the slot of a tile that issues in this cycle: a ready one that yielded four cycles ago, or the first by round robin. (DEDUCED,
A97) -/
def slotOfTile (s : State) (tile : Nat) : Option Nat :=
  let cs := candidates s tile
  match cs.find? (fun i => (s.thread i).yield != 0 && (s.thread i).yield == s.cycle.toNat) with
  | some i => some i
  | none => cs.find? (fun i => !passedOver s cs i)

/-- The tiles from which a thread could issue: those of a listed slot. -/
def threadTiles (s : State) : List Nat := (s.threads.map (fun e => tileOf e.1)).eraseDups

/-- DESIGN CHOICE, A1: the slot that issues next in this cycle, of the least tile that has not issued yet. -/
def pickSlot (s : State) : Option Nat :=
  ((threadTiles s).filter (fun t => decide (s.turn ≤ t))).findSome? (slotOfTile s)

/-! ### The device's turn (A1) -/

/-- A device step taken within the device's turn; every one of them goes on. -/
def take (f : State → Out) (s : State) : State := match f s with | .next t => t | _ => s

/-- The device steps of a list taken one after the other. -/
def takeAll (fs : List (State → Out)) (s : State) : State := fs.foldl (fun s f => take f s) s

/-- The listed slots. -/
def slotsOf (s : State) : List Nat := s.threads.map Prod.fst
/-- The listed tiles. -/
def tilesOf (s : State) : List Nat := s.tiles.map Prod.fst
/-- The listed graphs that run. -/
def runningGraphs (s : State) : List Nat := (s.graphs.filter (fun (_, g) => g.st == .running)).map Prod.fst

/-- R401: the end of a cycle for the hang monitor, and then the retirements of engine commands (R182). -/
def endCycle (s : State) : State :=
  let s1 := takeAll ((runningGraphs s).map execHangDetect) s
  takeAll ((slotsOf s1).flatMap (fun th => (List.range 4).map (fun q => execEngineCommandRetire th q))) s1

/-- Table 13-3: an engine moves up to one beat in a cycle: whether, between two of its states, it went on inside one beat. (DEDUCED, A41) -/
def withinBeat (x y : Engine) : Bool :=
  y.running && !y.fault &&
    (decide (x.elem < y.elem) || (x.inb.isNone && y.inb.isSome) || (x.idx.isNone && y.idx.isSome)) &&
    (if Scb.write y.scb.toNat then y.inb.isSome || x.inb.isNone else y.ready.isEmpty)

/-- Table 13-3: the elements that engine e of a tile visits in one cycle. (DEDUCED, A41) -/
def streamRun (fuel tile e : Nat) (s : State) : State :=
  match fuel with
  | 0 => s
  | n + 1 =>
    let s1 := take (execStreamElement tile e) s
    if withinBeat ((s.tile tile).engine e) ((s1.tile tile).engine e) then streamRun n tile e s1 else s1

/-- A cycle of stream engine e of a tile; a beat holds at most 32 elements, each with an index at most. -/
def engineTurn (tile e : Nat) (s : State) : State :=
  take (execOwnerTokenSend tile e)
    (streamRun 66 tile e (takeAll [execCoalesceTimeout tile e, execOwnerTokenArrival tile e] s))

/-! ### The arbiters of tile memory (R101) -/

/-- R101: the machine as it stands, with every bank of tile memory free. -/
def freeBanks (s : State) : State := { s with tiles := s.tiles.map (fun t => (t.1, { t.2 with ports := [] })) }

/-- R101: what a step would ask of the arbiters, tried from a machine whose banks are free: in each tile the requester and the banks. -/
def asksOf (free : State) (f : State → State) : List (Nat × Nat × List Nat) :=
  (f free).tiles.flatMap (fun t =>
    let us := t.2.ports.filter (fun p => decide (free.cycle.toNat < p.2.till))
    ((us.map (fun p => p.2.last)).eraseDups).map (fun w => (t.1, w, (us.filter (fun p => p.2.last == w)).map Prod.fst)))

/-- R101: what the engines ask in this cycle: copy and row engines, drain units and stream engines. (DESIGN CHOICE, A105) -/
def engineAsks (free : State) : List (Nat × Nat × List Nat) :=
  (slotsOf free).flatMap (fun th =>
    asksOf free (take (execCopyLine th)) ++ asksOf free (take (execDrainDeliver th)) ++ asksOf free (take (execRegionTransfer th)) ++
    (List.range 4).flatMap (fun q => asksOf free (take (execEngineCommandStart th q)))) ++
  (List.range free.rects.length).flatMap (fun r => asksOf free (take (execVectorEntry r))) ++
  free.tiles.flatMap (fun t => (t.2.engines.map Prod.fst).flatMap (fun e => asksOf free (engineTurn t.1 e)))

/-- R101: what the sequencer of a tile asks: for the commits in progress, and for the instruction of the slot that would issue. (DESIGN CHOICE,
A105) -/
def sequencerAsks (free : State) (tile : Nat) : List (Nat × Nat × List Nat) :=
  (List.range 4).flatMap (fun j => asksOf free (take (execCommit (4 * tile + j))) ++ asksOf free (take (execKnotRetire (4 * tile + j)))) ++
  (match slotOfTile free tile with
    | some i => asksOf free (take (fun s => threadTurn (takeSlot s i) i))
    | none => [])

/-- R101: whether the banks that a requester asks for at once are granted at once: those of one access of the sequencer, the copy engine or the drain
unit. -/
def grantsJointly (who : Nat) : Bool := who == 0 || who == 9 || who == 10

/-- R101, R322: a bank of a tile grants one of those that ask for it: a row engine whose grant it keeps idle, or the first after the requester granted
last, by round robin. (DESIGN CHOICE, A105) -/
def grantBank (now : Nat) (asks : List (Nat × Nat × List Nat)) (m : Assoc BankPort) (b : Nat) : Assoc BankPort :=
  let port (c : Nat) : BankPort := Assoc.getD m c {}
  let free (c : Nat) : Bool := decide ((port c).busy ≤ now) && (port c).till != now + 1
  let mine := asks.filter (fun a => a.2.2.contains b)
  if !free b || mine.isEmpty then m else
  let kept := if (port b).idle && (port b).till == now then mine.find? (fun a => a.2.1 == 11) else none
  let next := (List.range 12).findSome? (fun k =>
    mine.find? (fun a => a.2.1 == ((port b).last + 1 + k) % 12 && (!grantsJointly a.2.1 || a.2.2.all free)))
  match kept.or next with
  | none => m
  | some a => (if grantsJointly a.2.1 then a.2.2 else [b]).foldl (fun m c =>
      Assoc.set m c { port c with last := a.2.1, till := now + 1, idle := a.2.1 == 11 }) m

/-- R101: the grants of this cycle at every tile of which an engine asks. A bank that grants none of them is free for a sequencer that has not
asked. (DESIGN CHOICE, A105) -/
def arbitrate (s : State) : State :=
  let free := freeBanks s
  let asks := engineAsks free
  ((asks.map (fun a => a.1)).eraseDups).foldl (fun s ti =>
    let here := sequencerAsks free ti ++ asks.filter (fun a => a.1 == ti)
    s.mapTile ti (fun t => { t with ports := [0, 1, 2, 3].foldl (grantBank s.cycle.toNat (here.filter (fun a => a.1 == ti))) t.ports })) s

/-- R38, R316, R312, R99, R108, R338: a cycle of the contexts counters, of the queues and of the engines. The one copy engine, row engine and drain
unit of a tile serve each slot that has work for them. (DESIGN CHOICE, A106) -/
def engineCycle (s : State) : State :=
  let rects := List.range s.rects.length
  let ths := slotsOf s
  let s1 := takeAll (rects.map execVectorEntry ++ ths.flatMap (fun th => (List.range 4).map (fun q => execEngineCommandStart th q)) ++
    ths.map execCopyLine ++ ths.map execRegionTransfer ++ ths.map execPlaneFillApply ++ ths.map execDrainDeliver) s
  takeAll (rects.map execVectorWrite) (ths.foldl mzeroTurn s1)

/-- A cycle of the stream engines of a tile. -/
def streamCycle (tile : Nat) (s : State) : State := ((s.tile tile).engines.map Prod.fst).foldl (fun s e => engineTurn tile e s) s

/-- A cycle of the nodes and output endpoints of a tile, and of the gating of its edges. -/
def fabricCycle (tile : Nat) (s : State) : State :=
  let t := s.tile tile
  let nodes := (t.nodes.map Prod.fst).flatMap (fun n =>
    [execSteerNodeFire tile n, execMergeByArrivalFire tile n, execMergeByTagFire tile n, execMulticastFire tile n, execReplicateFire tile n])
  let eps := t.eps.map Prod.fst
  let gates := t.nodes.flatMap (fun n => n.2.gates.map (fun x => 40 + 8 * n.1 + x.1))
  takeAll (nodes ++ eps.map (execOutputEndpointFire tile) ++ (eps ++ gates).map (execClockGate tile)) s

/-- The beats on the links in order, from the n-th on: one that has reached its endpoint leaves the list. -/
def arrivals (fuel n : Nat) (s : State) : State :=
  match fuel with
  | 0 => s
  | k + 1 =>
    let s1 := take (execBeatArrival n) s
    if s1.flights.length < s.flights.length then arrivals k n s1 else arrivals k (n + 1) s1

/-- R134: the link from tile a to its neighbour m serves the next beat, if one waits at it. -/
def serveLink (s : State) (l : Nat × Nat) : State :=
  match linkNext s l.1 l.2 with
  | some n => take (execMeshHop n) s
  | none => s

/-- R131, R357: a cycle of the permits under way: each that has reached its producer can be used in this cycle. -/
def permitCycle (s : State) : State := takeAll ((List.range s.permits.length).reverse.map execPermitReturn) s

/-- R134, R131, R144, R356: a cycle of the links, each of which serves up to two beats, of the arrivals, of the coils and of the feed ports. A
beat before a retired router is absorbed first (R453). -/
def linkCycle (s : State) : State :=
  let waits (f : Flight) : Bool := f.at_ != f.dstTile && decide (f.due ≤ s.cycle.toNat)
  let dead (f : Flight) : Bool := waits f && ((s.tile f.at_).routerRetired || (s.tile (nextHop f.at_ f.dstTile).1).routerRetired)
  let s0 := takeAll ((s.flights.zipIdx.filter (fun x => dead x.1)).reverse.map (fun x => execMeshHop x.2)) s
  let links := ((s0.flights.filter waits).map (fun f => (f.at_, (nextHop f.at_ f.dstTile).1))).eraseDups
  let s1 := (links ++ links).foldl serveLink s0
  let s2 := arrivals s1.flights.length 0 s1
  let s3 := takeAll (s2.tiles.flatMap (fun (ti, t) => (t.eps.map Prod.fst).map (execCoilRefill ti))) s2
  takeAll ((tilesOf s3).flatMap (fun ti => (List.range 4).map (execFeedBeatMove ti))) s3

/-- R109 to R114: a cycle of the vaults of the listed tiles. (DESIGN CHOICE, A66) -/
def vaultCycle (s0 : State) : State :=
  let s := s0.noted.foldl performNoted { s0 with noted := [] }
  takeAll ((tilesOf s).flatMap (fun ti => (List.range 32).flatMap (fun b =>
    [execRowOpenTimeout ti b, execRefreshDue ti b, execOwedRefresh ti b, execBackgroundActivate ti b]))) s

/-- R56 to R60, R55: a cycle of the open waves. -/
def waveCycle (s : State) : State :=
  (runningGraphs s).foldl (fun s g =>
    if (s.graph g).openWave.isNone then s else
    let tiles := (graphTiles (s.graph g)).map (fun x => x.2.2)
    takeAll (tiles.flatMap (fun ti => (List.range 8).map (execMarkerArrival ti 2) ++ (List.range 8).map (execMarkerArrival ti 3) ++
      (List.range 4).map (execMarkerArrival ti 4) ++ (List.range 4).map (execMarkerArrival ti 5) ++ [execSnapshotRowSave ti]) ++
      [execWaveComplete g, execLatencyLimitExpiry g]) s) s

/-- R44, R433: a cycle of the commits in progress and of the faults held. -/
def threadCycle (s : State) : State :=
  let ths := slotsOf s
  let late := ((s.held.map HomeOp.th).eraseDups.filter (fun i => !ths.contains i)).map execKnotRetire
  ths.foldl noteFullQueue (takeAll (ths.map execCommit ++ ths.map execKnotRetire ++ late ++ ths.map execHeldFault) s)

/-- R171, R172: a cycle of the homes: an accepted access is performed, or waits as its home chooses, though not past every 64th cycle;
an undo log at its threshold opens the waves of R415. (DESIGN CHOICE, A21) -/
def homeCycle (s : State) : State :=
  let s1 := takeAll ((List.range s.homeQ.length).reverse.map execDeadHomeAnswer) s
  let now (n : Nat) : Bool := s1.cycle.toNat % 64 == 63 || !Config.homeWaits s1.cycle.toNat n
  let s2 := takeAll (((List.range s1.homeQ.length).reverse.filter now).map execHomePerform) s1
  (s2.homes.map Prod.fst).foldl undoThreshold s2

/-- R390 to R396, R30, R410, R417, R469: a cycle of the dispatchers, of the egress buffers, of the ports, and of the thermal deadlines
and steps. -/
def moduleCycle (s : State) : State :=
  let parts := s.parts.map Prod.fst
  let s1 := takeAll ((runningGraphs s).map execGraphRetire ++ parts.map execSliceEnd ++ parts.map execContextSwitch ++
    parts.map execDispatchEvaluation ++ (128 :: s.ports.map Prod.fst).map execEgressThreshold ++
    (s.zones.map Prod.fst).map execThermalDeadline ++ (s.zones.map Prod.fst).map execStretchStep) s
  hostTurn ((s1.ports.map Prod.fst).foldl portCycle (restoresDue s1))

/-- R243, R470, R401: the next cycle. -/
def nextCycle (s : State) : State :=
  let s1 := { s with cycle := s.cycle + 1, turn := 0, mod := { s.mod with ref := s.mod.ref + cycleTicks s } }
  (s1.graphs.map Prod.fst).foldl hangCount s1

/-- DESIGN CHOICE, A1: the device's turn: the end of a cycle, and the device's part of the next. (DESIGN CHOICE, A69) -/
def deviceTurn (s : State) : Host.Outcome State Fault Refusal :=
  let s1 := permitCycle (engineCycle (arbitrate (nextCycle (endCycle s))))
  let s2 := (tilesOf s1).foldl (fun s ti => fabricCycle ti (streamCycle ti s)) s1
  .next (moduleCycle (homeCycle (threadCycle (waveCycle (vaultCycle (linkCycle s2))))))

/-- Inputs of the management side, which need no running clock (R461, R471, R472, R473). -/
def managed (i : Instr) : Bool :=
  match i with
  | .powerUp => true
  | .attestationRequest _ => true
  | .firmwareUpdate _ => true
  | .pldmMonitorRead _ => true
  | .deviceFreezeRelease _ => true
  | _ => false

/-- R472, R471: the first input of the management side on the agenda, and the agenda without it. -/
def nextManaged (l : List Instr) : Option (Instr × List Instr) := (l.find? managed).map (fun i => (i, l.erase i))

end Sys2Proof.Machine
end

