-- ==== Sys2Proof/Machine/Step.lean ====
section
/-! DEFINITION. One step of the device (A1), and the placing of a word where the next step fetches. -/

namespace Sys2Proof.Machine

/-- DESIGN CHOICE, A1: one step: the head of the agenda, or the next slot's turn, or the device's. R471, R472: without power, after a trip or in a
freeze nothing runs but the management side, whatever stands before it on the agenda. (DESIGN CHOICE, A69) -/
def step (s : State) : Host.Outcome State Fault Refusal :=
  if !s.mod.powered || s.mod.tripped || s.mod.frozen then
    match nextManaged s.agenda with
    | some (i, r) => exec i { s with agenda := r }
    | none => if !s.mod.powered || s.mod.tripped then .fault .poweredDown else .next s
  else
    match s.agenda with
    | i :: r => exec i { s with agenda := r }
    | [] =>
      match pickSlot s with
      | some i => threadTurn (takeSlot s i) i
      | none => deviceTurn s

/-- The graph that holds the slot 0 of tile 0 while a word is placed: running, on the tile alone, with no open wave. -/
def placedGraph : Graph := { Graph.blank with st := .running }

/-- `s` with an instruction of 32 bits stored at the PC of the slot 0 of tile 0, which runs a thread of graph 0 and issues
next. The word stands in tile memory at local offset 0. (DESIGN CHOICE, A19) -/
def State.withFetchWord (s : State) (nbits w : Nat) : State :=
  let t0 := s.tile 0
  let th : Thread := { Thread.reset with run := .running }
  { s with
    agenda := [], turn := 0,
    mod := { s.mod with powered := true, tripped := false, frozen := false },
    tmem := Memory.writeBytes s.tmem 0 (leBytes 4 (w % 2 ^ nbits)),
    tpoison := s.tpoison.filter (fun k => k != 0),
    tbad := s.tbad.filter (fun k => k != 0),
    homeQ := s.homeQ.filter (fun o => o.th != 0),
    graphs := Assoc.set s.graphs 0 placedGraph,
    threads := [(0, th)],
    tiles := Assoc.set s.tiles 0 { t0 with ibuf := Assoc.erase t0.ibuf 0, lastSlot := 3 } }

end Sys2Proof.Machine
end

