-- ==== Sys2Proof/Safety.lean ====
section
/-! DEFINITION. What counts as a safe run and the conditions on a state, in the terms the claims use. -/

namespace Sys2Proof.Safety

open Sys2Proof.Machine

/-- Every memory stands in its canonical form. -/
def MemoryOk (s : State) : Prop := Memory.wf s.tmem = true ∧ Memory.wf s.vault = true ∧ Memory.wf s.host = true ∧ Memory.wf s.shadow = true

/-- R35, R45, R219, R319: an instruction that reads `rd` and writes `wr` is ready in the running slot and writes no register
that its bight has read before writing. -/
def Ready (s : State) (rd wr : RegSet) : Prop :=
  s.me.notReady (rd.or wr) = false ∧ ((s.me.bight.read rd).live.inter wr).first = none

/-- R44, R47, R52: the running slot's knot commits at once: it runs, its buffers are empty, no wave is open in its graph and no
ordered access of its is still to be performed. -/
def Quiet (s : State) : Prop :=
  s.me.run = .running ∧ s.me.bight.stores = [] ∧ s.me.bight.pushes = [] ∧ s.me.bight.pops = [] ∧
  (s.graph s.me.graph).openWave = none ∧ commitPending s s.cur = false

/-- R44, R47: a thread after a knot with nothing to release: a new bight opens at `npc`, and at U the re-entry counter is
clear; at S it stays, where R50 speaks of every commit. (DEDUCED, A10) -/
def knotted (t : Thread) (npc : PC) : Thread :=
  { t with rcnt := if t.lvl then t.rcnt else 0, bight := .openAt npc t.lc t.fpctl }

end Sys2Proof.Safety
end

