-- ==== Sys2Proof/Certificates/Slice0/Obligations.lean ====
section
/-! DEFINITION. The statements for the provers, and the tables of the spec they are stated by. -/

namespace Sys2Proof.Claims

open Sys2Proof.Machine Sys2Proof.Safety

/-- The low 64 bits of a number. -/
def u (n : Nat) : Word := .ofNat 64 n
/-- An integer modulo 2^64. -/
def z (n : Int) : Word := .ofInt 64 n
/-- R1: sext(x, w) of the low w bits of x. -/
def sx (x w : Nat) : Int := if x % 2 ^ w < 2 ^ (w - 1) then ((x % 2 ^ w : Nat) : Int) else ((x % 2 ^ w : Nat) : Int) - ((2 ^ w : Nat) : Int)
/-- The truncated quotient of DIV (Table 8-2), with its two special cases. -/
def divOf (a b : Word) : Word := if b = 0 then u 0xFFFFFFFFFFFFFFFF else z (Int.tdiv a.toInt b.toInt)

/-- Tables 8-1 and 8-2, R223 to R227, R243, R244, R228 PGET: the destination of a form that writes one scalar from registers, the
registers it reads, and the value. -/
def scalarRule (s : State) (i : Instr) : Option (BitVec 5 × RegSet × Word) :=
  let r (k : BitVec 5) : Word := s.me.rs k
  let n (k : BitVec 5) : Nat := (s.me.rs k).toNat
  let v (k : BitVec 5) : Int := (s.me.rs k).toInt
  match i with
  | .add d a b => some (d, readsSS a b, u (n a + n b))
  | .sub d a b => some (d, readsSS a b, z (v a - v b))
  | .and d a b => some (d, readsSS a b, r a &&& r b)
  | .or d a b => some (d, readsSS a b, r a ||| r b)
  | .xor d a b => some (d, readsSS a b, r a ^^^ r b)
  | .andn d a b => some (d, readsSS a b, r a &&& ~~~(r b))
  | .shl d a b => some (d, readsSS a b, u (n a * 2 ^ (n b % 64)))
  | .shr d a b => some (d, readsSS a b, u (n a / 2 ^ (n b % 64)))
  | .sra d a b => some (d, readsSS a b, z (v a / (2 ^ (n b % 64) : Nat)))
  | .rotl d a b => some (d, readsSS a b, u ((n a * 2 ^ 64 + n a) / 2 ^ (64 - n b % 64)))
  | .min d a b => some (d, readsSS a b, if v a ≤ v b then r a else r b)
  | .max d a b => some (d, readsSS a b, if v a ≤ v b then r b else r a)
  | .minu d a b => some (d, readsSS a b, if n a ≤ n b then r a else r b)
  | .maxu d a b => some (d, readsSS a b, if n a ≤ n b then r b else r a)
  | .sel d a b p => some (d, (readsSS a b).or (RegSet.p1 p), if (s.me.rp p).toNat % 2 = 1 then r a else r b)
  | .mul d a b => some (d, readsSS a b, u (n a * n b))
  | .mulh d a b => some (d, readsSS a b, z (v a * v b / 2 ^ 64))
  | .mulhu d a b => some (d, readsSS a b, u (n a * n b / 2 ^ 64))
  | .div d a b => some (d, readsSS a b, divOf (r a) (r b))
  | .divu d a b => some (d, readsSS a b, if r b = 0 then u 0xFFFFFFFFFFFFFFFF else u (n a / n b))
  | .rem d a b => some (d, readsSS a b, if r b = 0 then r a else z (v a - v b * Int.tdiv (v a) (v b)))
  | .remu d a b => some (d, readsSS a b, if r b = 0 then r a else u (n a % n b))
  | .clz d a => some (d, RegSet.s1 a, u ((List.range 64).filter (fun k => decide (n a < 2 ^ k))).length)
  | .ctz d a => some (d, RegSet.s1 a, u ((List.range 64).filter (fun k => decide (n a % 2 ^ (k + 1) = 0))).length)
  | .popc d a => some (d, RegSet.s1 a, u ((List.range 64).filter (fun k => decide (n a / 2 ^ k % 2 = 1))).length)
  | .sextb d a => some (d, RegSet.s1 a, z (sx (n a) 8))
  | .sexth d a => some (d, RegSet.s1 a, z (sx (n a) 16))
  | .sextw d a => some (d, RegSet.s1 a, z (sx (n a) 32))
  | .addi d a im => some (d, RegSet.s1 a, z (v a + sx im.toNat 16))
  | .andi d a im => some (d, RegSet.s1 a, r a &&& z (sx im.toNat 16))
  | .ori d a im => some (d, RegSet.s1 a, r a ||| u im.toNat)
  | .xori d a im => some (d, RegSet.s1 a, r a ^^^ u im.toNat)
  | .shli d a k => some (d, RegSet.s1 a, u (n a * 2 ^ k.toNat))
  | .shri d a k => some (d, RegSet.s1 a, u (n a / 2 ^ k.toNat))
  | .srai d a k => some (d, RegSet.s1 a, z (v a / (2 ^ k.toNat : Nat)))
  | .li d im => some (d, .empty, z (sx im.toNat 21))
  | .lis d k im => some (d, RegSet.s1 d, (r d &&& ~~~(u (0xFFFF * 2 ^ (16 * k.toNat)))) ||| u (im.toNat * 2 ^ (16 * k.toNat)))
  | .pget d p => some (d, RegSet.p1 p, s.me.rp p)
  | .time d => some (d, .empty, u (s.cycle.toNat + (s.tile (s.cur / 4)).skew))
  | .tid d => some (d, .empty, let t := s.me
      let g := s.graph t.graph
      u (t.lx.toNat + t.ly.toNat * 2 ^ 8 + t.tno.toNat * 2 ^ 16 + s.cur % 4 * 2 ^ 18 + t.nthr.toNat * 2 ^ 20 + g.w % 256 * 2 ^ 32 +
        g.h % 256 * 2 ^ 40))
  | _ => none

/-- A predicate that is all ones or all zeros. -/
def flag (c : Bool) : Word := if c then u 0xFFFFFFFFFFFFFFFF else 0

/-- Table 8-4: the destination of a form that writes one predicate, the registers it reads, and the value. -/
def predicateRule (s : State) (i : Instr) : Option (BitVec 3 × RegSet × Word) :=
  let n (k : BitVec 5) : Nat := (s.me.rs k).toNat
  let v (k : BitVec 5) : Int := (s.me.rs k).toInt
  let p (k : BitVec 3) : Word := s.me.rp k
  match i with
  | .cmpeq d a b => some (d, readsSS a b, flag (decide (n a = n b)))
  | .cmpne d a b => some (d, readsSS a b, flag (decide (n a ≠ n b)))
  | .cmplt d a b => some (d, readsSS a b, flag (decide (v a < v b)))
  | .cmple d a b => some (d, readsSS a b, flag (decide (v a ≤ v b)))
  | .cmpltu d a b => some (d, readsSS a b, flag (decide (n a < n b)))
  | .cmpleu d a b => some (d, readsSS a b, flag (decide (n a ≤ n b)))
  | .pand d a b => some (d, (RegSet.p1 a).or (RegSet.p1 b), p a &&& p b)
  | .por d a b => some (d, (RegSet.p1 a).or (RegSet.p1 b), p a ||| p b)
  | .pxor d a b => some (d, (RegSet.p1 a).or (RegSet.p1 b), p a ^^^ p b)
  | .pnot d a => some (d, RegSet.p1 a, ~~~(p a))
  | .pset d a => some (d, RegSet.s1 a, s.me.rs a)
  | _ => none

/-- R229, R230: the registers a conditional branch reads, whether it is taken, and its word offset. -/
def branchRule (s : State) (i : Instr) : Option (RegSet × Bool × BitVec 13) :=
  let n (k : BitVec 5) : Nat := (s.me.rs k).toNat
  let v (k : BitVec 5) : Int := (s.me.rs k).toInt
  let p (k : BitVec 3) : Nat := (s.me.rp k).toNat
  match i with
  | .beq a b o => some (readsSS a b, decide (n a = n b), o)
  | .bne a b o => some (readsSS a b, decide (n a ≠ n b), o)
  | .blt a b o => some (readsSS a b, decide (v a < v b), o)
  | .bge a b o => some (readsSS a b, decide (v b ≤ v a), o)
  | .bltu a b o => some (readsSS a b, decide (n a < n b), o)
  | .bgeu a b o => some (readsSS a b, decide (n b ≤ n a), o)
  | .bp k o => some (RegSet.p1 k, decide (p k % 2 = 1), o)
  | .bpAny k o => some (RegSet.p1 k, decide (p k ≠ 0), o)
  | .bpAll k o => some (RegSet.p1 k, decide (p k = 2 ^ 64 - 1), o)
  | .bnp k o => some (RegSet.p1 k, decide (p k % 2 = 0), o)
  | .bnpAny k o => some (RegSet.p1 k, decide (p k = 0), o)
  | .bnpAll k o => some (RegSet.p1 k, decide (p k ≠ 2 ^ 64 - 1), o)
  | _ => none

/-- R195: PC + 4 times an offset, modulo 2^18. -/
def jumpTo (pc : PC) (o : Int) : PC := .ofInt 18 (pc.toNat + 4 * o)

/-- R231, R232: of a jump whose target is legal the registers read, the registers written, and the PC. -/
def jumpRule (s : State) (i : Instr) : Option (RegSet × RegSet × PC) :=
  match i with
  | .j o => some (.empty, .empty, jumpTo s.me.pc o.toInt)
  | .call o => some (.empty, RegSet.s1 31, jumpTo s.me.pc o.toInt)
  | .jr a => if (s.me.rs a).toNat < 2 ^ 18 ∧ (s.me.rs a).toNat % 4 = 0 then
      some (RegSet.s1 a, .empty, .ofNat 18 (s.me.rs a).toNat) else none
  | .callr a => if (s.me.rs a).toNat < 2 ^ 18 ∧ (s.me.rs a).toNat % 4 = 0 then
      some (RegSet.s1 a, RegSet.s1 31, .ofNat 18 (s.me.rs a).toNat) else none
  | _ => none

/-- R237: the counters after a LOOP on counter k, and whether it branches; a chain visits at most four. -/
def loopRule (lc : Nat → LoopCtr) : Nat → Nat → (Nat → LoopCtr) × Bool
  | 0, _ => (lc, false)
  | fuel + 1, k =>
    let c := lc k
    let left := if c.count = 0 then 0 else c.count - 1
    if left ≠ 0 then (fun j => if j = k then { c with count := left } else lc j, true)
    else if c.e = false then (fun j => if j = k then { c with count := 0 } else lc j, false)
    else loopRule (fun j => if j = k then { c with count := c.start } else lc j) fuel c.outer.toNat

/-- The loop counters of a thread by number. -/
def counters (t : Thread) (k : Nat) : LoopCtr := if h : k < 4 then t.lc[k]'h else .zero

end Sys2Proof.Claims

open Sys2Proof Sys2Proof.Machine Sys2Proof.Safety Sys2Proof.Claims

/-! ### The scalar core (spec/08_isa_scalar_control.md) -/

/-- R221 to R228, R243, R244: every form of the scalar tables, ready in a bight, writes the value of its table to its destination (nothing
to s0) and steps to the next word; nothing else of the state changes but what the bight records of reads and writes. -/
def Obligations.ScalarResult : Prop :=
  ∀ (i : Instr) (s : State) (d : BitVec 5) (rd : RegSet) (w : Word), scalarRule s i = some (d, rd, w) → Ready s rd (RegSet.s1 d) →
    exec i s = .next (s.mapMe (fun t => ((t.tracked rd (RegSet.s1 d)).ws d w).next))

/-- Table 8-4: every compare and predicate form writes its predicate (nothing to p0) and steps on. -/
def Obligations.PredicateResult : Prop :=
  ∀ (i : Instr) (s : State) (d : BitVec 3) (rd : RegSet) (w : Word), predicateRule s i = some (d, rd, w) → Ready s rd (RegSet.p1 d) →
    exec i s = .next (s.mapMe (fun t => ((t.tracked rd (RegSet.p1 d)).wp d w).next))

/-- R229, R230: a ready branch goes to (PC + 4 * off13) mod 2^18 when taken and to (PC + 4) mod 2^18 when not. -/
def Obligations.BranchResult : Prop :=
  ∀ (i : Instr) (s : State) (rd : RegSet) (c : Bool) (o : BitVec 13), branchRule s i = some (rd, c, o) → Ready s rd .empty →
    exec i s = .next (s.mapMe (fun t => { t.tracked rd .empty with pc := if c then jumpTo t.pc o.toInt else t.pc + 4, wait := .none }))

/-- R231, R232: J, CALL, JR and CALLR with a legal target go there; CALL and CALLR write s31 := (PC + 4) mod 2^18. R232: JR and CALLR to an
address past 18 bits raise ADDRESS, and to one that is no multiple of 4 ALIGN, each with TVAL the address. -/
def Obligations.JumpResult : Prop :=
  (∀ (i : Instr) (s : State) (rd wr : RegSet) (pc : PC), jumpRule s i = some (rd, wr, pc) → Ready s rd wr →
    exec i s = .next (s.mapMe (fun t =>
      { (if wr = .empty then t.tracked rd wr else (t.tracked rd wr).ws 31 (u ((t.pc.toNat + 4) % 2 ^ 18))) with pc := pc, wait := .none }))) ∧
  (∀ (a : BitVec 5) (s : State) (wr : RegSet) (i : Instr), (i = .jr a ∧ wr = .empty ∨ i = .callr a ∧ wr = RegSet.s1 31) →
    s.me.notReady ((RegSet.s1 a).or wr) = false →
    (2 ^ 18 ≤ (s.me.rs a).toNat → exec i s = .next (raise s 3 (s.me.rs a))) ∧
    ((s.me.rs a).toNat < 2 ^ 18 → (s.me.rs a).toNat % 4 ≠ 0 → exec i s = .next (raise s 4 (s.me.rs a))))

/-- R235 to R237: LCSET sets COUNT and START, saturating at 2^32 - 1; LCCHAIN sets E and OUTER; LOOP steps its chain and branches. -/
def Obligations.LoopResult : Prop :=
  ∀ (s : State) (n m : BitVec 2) (b : BitVec 5) (im o : BitVec 13),
    (Ready s (RegSet.s1 b) .empty → ∃ t, exec (.lcsetReg n b) s = .next t ∧ t.me.pc = s.me.pc + 4 ∧
      ∀ k, counters t.me k = if k = n.toNat then
        let v : BitVec 32 := .ofNat 32 (if 2 ^ 32 ≤ (s.me.rs b).toNat then 2 ^ 32 - 1 else (s.me.rs b).toNat)
        { counters s.me k with count := v, start := v } else counters s.me k) ∧
    (∃ t, exec (.lcsetImm n im) s = .next t ∧ t.me.pc = s.me.pc + 4 ∧ ∀ k, counters t.me k = if k = n.toNat then
      { counters s.me k with count := .ofNat 32 im.toNat, start := .ofNat 32 im.toNat } else counters s.me k) ∧
    (∃ t, exec (.lcchain n m) s = .next t ∧ t.me.pc = s.me.pc + 4 ∧ ∀ k, counters t.me k =
      if k = n.toNat then { counters s.me k with e := true, outer := m } else counters s.me k) ∧
    (∃ t, exec (.lcchainNone n) s = .next t ∧ t.me.pc = s.me.pc + 4 ∧ ∀ k, counters t.me k =
      if k = n.toNat then { counters s.me k with e := false } else counters s.me k) ∧
    (∃ t, exec (.loop n o) s = .next t ∧ (∀ k, counters t.me k = (loopRule (counters s.me) 4 n.toNat).1 k) ∧
      t.me.pc = if (loopRule (counters s.me) 4 n.toNat).2 then jumpTo s.me.pc o.toInt else s.me.pc + 4)

/-- R35, R45, R219, R319: a scalar form that names a register an engine command has yet to write changes nothing, and one that writes a
register its bight has read raises BIGHT_CLOBBER with that register as TVAL. -/
def Obligations.ScalarHazards : Prop :=
  ∀ (i : Instr) (s : State) (d : BitVec 5) (rd : RegSet) (w : Word), scalarRule s i = some (d, rd, w) →
    (s.me.notReady (rd.or (RegSet.s1 d)) = true → exec i s = .next s) ∧
    (∀ x, s.me.notReady (rd.or (RegSet.s1 d)) = false → ((s.me.bight.read rd).live.inter (RegSet.s1 d)).first = some x →
      exec i s = .next (raise s 9 x))

/-- R190, R219: the frame of the scalar, predicate and branch forms. Ready, they change no scalar register but sD, no predicate but pD, no
vector register, no FPCTL, no loop counter, no register that a trap writes, no other slot, no byte of any memory and nothing of any tile. -/
def Obligations.ScalarFrame : Prop :=
  ∀ (i : Instr) (s t : State),
    (∃ d rd w, scalarRule s i = some (d, rd, w) ∧ Ready s rd (RegSet.s1 d)) ∨
    (∃ d rd w, predicateRule s i = some (d, rd, w) ∧ Ready s rd (RegSet.p1 d)) ∨
    (∃ rd c o, branchRule s i = some (rd, c, o) ∧ Ready s rd .empty) → exec i s = .next t →
    (∀ a, (∀ d rd w, scalarRule s i = some (d, rd, w) → a ≠ d ∨ d = 0) → t.me.rs a = s.me.rs a) ∧
    (∀ a, (∀ d rd w, predicateRule s i = some (d, rd, w) → a ≠ d ∨ d = 0) → t.me.rp a = s.me.rp a) ∧
    (∀ a, t.me.rv a = s.me.rv a) ∧ t.me.fpctl = s.me.fpctl ∧ (∀ k, counters t.me k = counters s.me k) ∧
    t.me.tpc = s.me.tpc ∧ t.me.tcause = s.me.tcause ∧ t.me.tval = s.me.tval ∧ t.me.tbs = s.me.tbs ∧ t.me.ssave = s.me.ssave ∧
    t.me.lvl = s.me.lvl ∧ t.me.queues = s.me.queues ∧ t.me.fifo = s.me.fifo ∧ t.me.bight.stores = s.me.bight.stores ∧
    (∀ k, k ≠ s.cur → t.thread k = s.thread k) ∧
    (∀ a, Memory.read t.tmem a = Memory.read s.tmem a) ∧ (∀ a, Memory.read t.vault a = Memory.read s.vault a) ∧
    (∀ a, Memory.read t.host a = Memory.read s.host a) ∧ t.tiles = s.tiles ∧ t.graphs = s.graphs ∧ t.parts = s.parts

/-! ### Knots, waves and system registers (spec/02, spec/08) -/

/-- R239, R193: NOP steps to the next word and changes nothing else; YIELD besides lets the round robin pass the slot over up to the third
cycle after it. R44, R240: with nothing to release and no wave open, KNOT closes the bight and opens a new one at the next instruction, and
clears the re-entry counter of a thread at U. (That it stays at S, where R50 speaks of every commit, is the model's reading, log entry 10.) -/
def Obligations.KnotResult : Prop :=
  (∀ s : State, exec .nop s = .next (s.mapMe (fun t => { t with pc := t.pc + 4, wait := .none })) ∧
    exec .yield s = .next (s.mapMe (fun t => { t with pc := t.pc + 4, wait := .none, yield := s.cycle.toNat + 4 }))) ∧
  (∀ s : State, Quiet s → exec .knot s = .next (s.mapMe (fun t => { knotted t (t.pc + 4) with pc := t.pc + 4, wait := .none })))

/-- R44, R58, R60, R171: KNOT, at U or at S, where the bight buffer holds one store, to tile memory, and nothing else, no wave is open, no
block the store touches awaits its save, its banks are granted to no other (R101), and neither its bytes nor an earlier store of the slot is
held back: the store is performed, the buffer is empty after it, and the slot goes on at the next instruction. Each byte of the slot's tile memory that the store covers holds the
byte stored, and every other byte of tile memory, every byte of the vaults and every byte of host memory is as it was. -/
def Obligations.KnotReleasesStores : Prop :=
  ∀ (s : State) (ea : Word) (bs : List Byte), s.me.run = .running → s.me.bight.stores = [.store ea bs 0] →
    s.me.bight.pushes = [] → s.me.bight.pops = [] → (s.graph s.me.graph).openWave = none → commitPending s s.cur = false →
    ea.toNat / 2 ^ 60 = 0xE → s.held.any (fun o => o.th == s.cur) = false → tmemWaits s (s.cur / 4) (ea.toNat % 2 ^ 18) bs.length = false →
    portHeld s (s.cur / 4) 0 (ea.toNat % 2 ^ 18) bs.length = false → tmemPoison s (2 ^ 18 * (s.cur / 4) + ea.toNat % 2 ^ 18) bs.length = false →
    ∃ t, exec .knot s = .next t ∧ t.me.bight.stores = [] ∧ t.me.pc = s.me.pc + 4 ∧
      (∀ a, Memory.read t.tmem a =
        let base := 2 ^ 18 * (s.cur / 4) + ea.toNat % 2 ^ 18
        if base ≤ a ∧ a < base + bs.length then bs.getD (a - base) 0 else Memory.read s.tmem a) ∧
      (∀ a, Memory.read t.vault a = Memory.read s.vault a) ∧ (∀ a, Memory.read t.host a = Memory.read s.host a)

/-- R52, R53, R240: KNOT.W of a thread at U with no wave open and every store it has sent performed opens the next wave of its graph and
checkpoints the thread in it: its wave number advances, and its checkpoint holds its registers and the PC after the knot. -/
def Obligations.KnotWOpensWave : Prop :=
  ∀ s : State, Quiet s → s.me.lvl = false → startedHolds s.me = false → (s.graph s.me.graph).cutting = false →
    s.homeQ.any (fun o => o.th == s.cur) = false →
    ∃ t, exec .knotW s = .next t ∧ t.me.wave = (s.graph s.me.graph).lastWave + 1 ∧ t.me.pc = s.me.pc + 4 ∧
      (t.graph s.me.graph).openWave = some ((s.graph s.me.graph).lastWave + 1) ∧
      ((t.graph s.me.graph).pending.bind (fun p => Assoc.get? p.ckpts s.cur)).map (fun c => (c.s, c.v, c.p, c.pc, c.fpctl)) =
        some (s.me.s, s.me.v, s.me.p, s.me.pc + 4, s.me.fpctl)

/-- R241: HALT of a quiet slot: once every engine command has retired the slot stops with its token FIFOs cleared; until then it waits, not
performed. R242: KWAIT writes the graph's last complete wave once that does not precede, modulo 2^16, the wave the thread last checkpointed;
till then it waits. (The re-entry counter at S: log entry 10.) -/
def Obligations.HaltKwaitResult : Prop :=
  (∀ s : State, Quiet s → s.me.notReady .empty = false →
    (s.me.idle = true → exec .halt s = .next (s.mapMe (fun t =>
      { knotted t t.pc with run := .halted, wait := .none, fifo := .replicate 20 0 }))) ∧
    (s.me.idle = false → exec .halt s = .next (s.mapMe (fun t => { knotted t t.pc with wait := .haltWait })))) ∧
  (∀ (s : State) (d : BitVec 5), Ready s .empty (RegSet.s1 d) →
    let c := (s.graph s.me.graph).lastWave
    let gap := (s.me.wave.toNat + 2 ^ 16 - c.toNat) % 2 ^ 16
    (gap = 0 ∨ 2 ^ 15 ≤ gap → exec (.kwait d) s = .next (s.mapMe (fun t => ((t.tracked .empty (RegSet.s1 d)).ws d (u c.toNat)).next))) ∧
    (¬(gap = 0 ∨ 2 ^ 15 ≤ gap) → ∃ t, exec (.kwait d) s = .next t ∧ t.me.pc = s.me.pc ∧ t.me.wait = .kwait ∧ t.me.s = s.me.s))

/-- R246, R247: MFS of a register that Table 8-10 lets the thread read writes the register's value to sD. Tables 16-1 to 16-4: the value of
a system register that MTS has written: the bits of the value that the register's layout takes; ERRTAIL is taken as ERRHEAD where the value
passes it. That GRAPHID (0x010) and LASTWAVE (0x011) read back what MTS wrote is the model's choice (log entry 83). -/
def Obligations.SysregRead : Prop :=
  (∀ (s : State) (d : BitVec 5) (r : BitVec 12), (r.toNat < 0x200 ∨ r.toNat < 0x800 ∧ s.me.lvl = true) → Ready s .empty (RegSet.s1 d) →
    exec (.mfs d r) s = .next (s.mapMe (fun t => ((t.tracked .empty (RegSet.s1 d)).ws d (sysreg s s.cur r.toNat)).next))) ∧
  (∀ (s : State) (i : Nat) (v : Word),
    let at_ (r : Nat) : Word := sysreg (setSysreg s i r v) i r
    at_ 0x001 = v &&& 0x3EF ∧ (∀ k, k < 32 → at_ (0x100 + k) = v &&& 0xFFFFFFFF ∧ at_ (0x120 + k) = v &&& 0xFC0F) ∧
    at_ 0x201 = v &&& 0x3FFFF ∧ at_ 0x202 = v &&& 0x3FFFF00003FFF ∧ at_ 0x203 = v ∧ at_ 0x204 = v &&& 0x3FFFF ∧ at_ 0x205 = v ∧ at_ 0x206 = v ∧ at_ 0x207 = v ∧ at_ 0x208 = v ∧
    at_ 0x300 = v &&& 0x3FFFF ∧ at_ 0x301 = v &&& 0x8000000000003F3F ∧ at_ 0x302 = v ∧
    (let head := (s.part ((s.thread i).graph / 65536)).errhead
     at_ 0x308 = if head.toNat < v.toNat then head else v) ∧
    at_ 0x303 = (if v.getLsbD 63 then v &&& 0xFFFFFFF80FFFFF00 else v) ∧ at_ 0x304 = v ∧ at_ 0x305 = v ∧ at_ 0x306 = v &&& 0x1F ∧ at_ 0x309 = v ∧
    at_ 0x30A = v ∧ at_ 0x30B = v &&& 0xF ∧
    at_ 0x010 = v &&& 0xFFFF ∧ at_ 0x011 = v &&& 0xFFFF ∧
    (∀ r, r = 0x200 ∨ r = 0x307 ∨ 0x380 ≤ r ∧ r ≤ 0x387 → at_ r = sysreg s i r))

/-- R246, R248, R249: MTS of a register that Table 8-10 lets the thread write, its checks passed, performs its implicit knot and writes the
register from sA; a shared register once every earlier engine command of the thread has started. R364, Table 16-4: a value of HWIN whose
window passes slot 63 raises PROT. R166, R248: a write of a strand format entry whose endpoint the thread's context does not claim, or of a
scale register that it does not own, raises PROT with TVAL the number of the entry, or the register. (The re-entry counter at S: log entry
10.) -/
def Obligations.MtsResult : Prop :=
  (∀ (s : State) (a : BitVec 5) (r : BitVec 12), s.me.notReady (RegSet.s1 a) = false →
    (s.me.lvl = true → r.toNat = 0x301 → 63 < (s.me.rs a).toNat % 64 + (s.me.rs a).toNat / 2 ^ 8 % 64 →
      ∃ v, exec (.mts a r) s = .next (raise s.draw 6 v)) ∧
    (∀ k, k < 32 →
      (r.toNat = 0x120 + k → EpF.used (((s.tile (s.cur / 4)).ctx s.me.pctx.toNat).epF k) = false →
        exec (.mts a r) s = .next (raise s 6 (u k))) ∧
      (r.toNat = 0x100 + k → MpF.scown ((s.tile (s.cur / 4)).ctx s.me.pctx.toNat).thF / 2 ^ k % 2 = 0 →
        exec (.mts a r) s = .next (raise s 6 (u (0x100 + k)))))) ∧
  ∀ (s : State) (a : BitVec 5) (r : BitVec 12), Quiet s → s.me.notReady (RegSet.s1 a) = false →
    (r.toNat = 1 ∨ 0x100 ≤ r.toNat ∧ r.toNat < 0x140 ∨ r.toNat < 0x800 ∧ s.me.lvl = true) →
    hwinBad r.toNat (s.me.rs a) = false → mtsCheck s s.cur r.toNat (s.me.rs a) = none →
    (sharedReg r.toNat = false ∨ ∀ q, q < 4 → (s.me.queue q).waiting = []) →
    exec (.mts a r) s = .next ((setSysreg (s.mapMe (fun t => knotted t t.pc)) s.cur r.toNat (s.me.rs a)).mapMe (fun t =>
      { t with pc := t.pc + 4, wait := .none, bight := .openAt (t.pc + 4) t.lc t.fpctl }))

/-- R204, R246, Table 8-10: a word that is no instruction raises ILLEGAL with TVAL the word, whatever the level; an access of a register
class that the thread's privilege does not reach raises PRIV, and writes nothing. R204, R376: every form of major 0x3D at U raises PRIV. -/
def Obligations.PrivilegeTraps : Prop :=
  (∀ (s : State) (d a : BitVec 5) (r : BitVec 12), (∀ w : IWord, exec (.illegalWord w) s = .next (raise s 1 (u w.toNat))) ∧
    (0x800 ≤ r.toNat ∨ 0x200 ≤ r.toNat ∧ s.me.lvl = false → ∃ v, exec (.mfs d r) s = .next (raise s.draw 2 v)) ∧
    (0x800 ≤ r.toNat ∨ s.me.lvl = false ∧ (r.toNat = 0x010 ∨ r.toNat = 0x011 ∨ 0x200 ≤ r.toNat) →
      ∃ v, exec (.mts a r) s = .next (raise s.draw 2 v))) ∧
  (∀ (s : State) (i : Instr) (d a b : BitVec 5), s.me.lvl = false →
    i = .sysret ∨ i = .sysretRe ∨ i = .tlbinv a ∨ i = .tlbinva ∨ i = .probe d a ∨ i = .wavereq d a ∨ i = .codecinv a b ∨
      i = .codecinvDesc a ∨ i = .freeze d a ∨ i = .freezeOff d a ∨ i = .graphctlStat d a ∨ i = .graphctlStall d a b ∨
      i = .graphctlSlot d a b ∨ i = .graphctlTerm d a →
    ∃ v, exec i s = .next (raise s.draw 2 v))

/-! ### Exceptions (spec/16_privileged_state.md) -/

/-- R203, R366: at U, with handlers in force, a word that is no instruction raises ILLEGAL: the bight is suspended, TPC, TCAUSE, TVAL and
TBS hold the PC, the cause, the word and the bight's start, the thread is at S at TVEC; no other register, slot or memory changes. R193,
R447: a fetch that meets poison raises POISON (cause 8) with TVAL the PC, precisely. -/
def Obligations.TrapEntry : Prop :=
  (∀ (s : State) (w : IWord), s.me.lvl = false → (s.graph s.me.graph).hwin.toNat / 2 ^ 63 % 2 = 1 →
    ∃ t, exec (.illegalWord w) s = .next t ∧ t.me.lvl = true ∧ t.me.susp = some s.me.bight ∧ t.me.tpc = s.me.pc ∧ t.me.tcause = 1 ∧
      t.me.tval = u w.toNat ∧ t.me.tbs = s.me.bight.start ∧
      t.me.pc = (s.part (s.me.graph / 65536)).tvec.truncate 18 ∧ t.me.s = s.me.s ∧ t.me.v = s.me.v ∧ t.me.p = s.me.p ∧ t.me.lc = s.me.lc ∧
      t.me.fpctl = s.me.fpctl ∧ t.me.ssave = s.me.ssave ∧ t.me.rcnt = s.me.rcnt ∧ (∀ k, k ≠ s.cur → t.thread k = s.thread k) ∧
      (∀ a, Memory.read t.tmem a = Memory.read s.tmem a) ∧ (∀ a, Memory.read t.vault a = Memory.read s.vault a) ∧
      (∀ a, Memory.read t.host a = Memory.read s.host a) ∧ t.tiles = s.tiles ∧ t.graphs = s.graphs ∧ t.parts = s.parts) ∧
  (∀ (s : State) (pc : PC), s.me.lvl = false → (s.graph s.me.graph).hwin.toNat / 2 ^ 63 % 2 = 1 →
    ∃ t, exec (.poisonedFetch pc) s = .next t ∧ t.me.lvl = true ∧ t.me.tcause = 8 ∧ t.me.tval = u pc.toNat ∧ t.me.tpc = s.me.pc ∧
      t.me.susp = some s.me.bight ∧ t.me.s = s.me.s)

/-- R365, R368: a synchronous trap at S, of whatever cause, writes a record of class double trap (0x0D) that names its slot, the first cause
and this one, the first TVAL, and the tile; it stops the slot for good and terminates its graph with the cause, and so does, at U, a trap of
a graph loaded with no handler window, whose record has class 0x13. A word that is no instruction is such a trap, of cause 1. R442, R370: a
record of a tile of a partition is written at ERRHEAD of the partition's ring, which advances; with the ring full ERRLOST counts it, up to
its greatest value. -/
def Obligations.TrapWithoutHandler : Prop :=
  (∀ (s : State) (c : Nat) (v : Word), (s.me.lvl = true ∨ (s.graph s.me.graph).hwin.toNat / 2 ^ 63 % 2 = 0) →
    ∃ (r : Rec) (t : State), raise s c v = t ∧
      r.tile = s.cur / 4 ∧ r.graph = some s.me.graph ∧ r.ukind = 6 ∧ r.slot = s.cur % 4 ∧ r.ctx = s.me.lctx.toNat ∧
      (s.me.lvl = true → r.cls = 0x0D ∧ r.synd = s.me.tcause.toNat % 256 + 256 * c ∧ r.addr = s.me.tval ∧
        t = endGraph ((record s r).mapThread s.cur (fun x => { x with run := .dead })) s.me.graph .terminated c) ∧
      (s.me.lvl = false → r.cls = 0x13 ∧ r.synd = c ∧ r.addr = v ∧ t = endGraph (record s r) s.me.graph .terminated c) ∧
      (t.graph s.me.graph).st = .terminated ∧ (t.graph s.me.graph).cause = c ∧
      (s.cur ∈ graphThreads s s.me.graph → (t.thread s.cur).run = .free)) ∧
  (∀ (s : State) (w : IWord), exec (.illegalWord w) s = .next (raise s 1 (u w.toNat))) ∧
  (∀ (s : State) (part : Nat) (r : Rec), partOfTile s r.tile = some part →
    let p := s.part part
    let size := 2 ^ (p.errsize.toNat % 32)
    ((p.errhead - p.errtail).toNat = size → record s r = s.mapPart part (fun p =>
      { p with errlost := u (min (p.errlost.toNat + 1) (2 ^ 64 - 1)) })) ∧
    ((p.errhead - p.errtail).toNat ≠ size → ∀ s',
      sysWrite s part (p.errbase + u (64 * (p.errhead.toNat % size))) ((recordDwords s part r).flatMap (leBytes 8)) = (0, s') →
      record s r = s'.mapPart part (fun p => { p with errhead := p.errhead + 1 })))

/-- R374: TRAP #n at U, after its implicit knot, delivers the service request: TCAUSE 0x19, TVAL n, TPC the next instruction, and no bight
is suspended. -/
def Obligations.TrapInstruction : Prop :=
  ∀ (s : State) (n : BitVec 16), Quiet s → s.me.notReady .empty = false → s.me.lvl = false → (s.graph s.me.graph).hwin.toNat / 2 ^ 63 % 2 = 1 →
    ∃ t, exec (.trap n) s = .next t ∧ t.me.lvl = true ∧ t.me.susp = none ∧ t.me.tpc = s.me.pc + 4 ∧ t.me.tcause = 0x19 ∧
      t.me.tval = u n.toNat ∧ t.me.pc = (s.part (s.me.graph / 65536)).tvec.truncate 18 ∧ t.me.rcnt = 0 ∧ t.me.s = s.me.s ∧
      t.me.v = s.me.v ∧ t.me.p = s.me.p

/-- R375: SYSRET at S returns to U at TPC and puts back the suspended bight, if one is held; held faults are retried. R375, R50: SYSRET.RE
at S discards the suspended bight and re-enters it at TBS: loop counters and FPCTL as that bight found them, its buffers empty, the re-entry
counter one higher; where that brings the counter to its limit, REENTRY_LIMIT with TVAL 0x43 is raised there instead. (That the handler's
commit leaves the counter is log entry 10, that the whole of FPCTL returns log entry 77: the model's readings.) -/
def Obligations.SysretResult : Prop :=
  (∀ s : State, Quiet s → s.me.lvl = true →
    ∃ t, exec .sysret s = .next t ∧ t.me.lvl = false ∧ t.me.pc = s.me.tpc ∧ t.me.susp = none ∧
      t.me.bight = (match s.me.susp with | some b => b | none => .openAt s.me.tpc s.me.lc s.me.fpctl) ∧
      t.me.s = s.me.s ∧ t.me.v = s.me.v ∧ t.me.p = s.me.p ∧ t.me.rcnt = s.me.rcnt ∧ t.agenda = s.agenda ++ [.heldFaultRetry s.cur] ∧
      (∀ a, Memory.read t.tmem a = Memory.read s.tmem a)) ∧
  (∀ (s : State) (b : Bight), Quiet s → s.me.lvl = true → s.me.susp = some b → s.me.rcnt.toNat + 1 < s.me.rlim.toNat →
    ∃ t, exec .sysretRe s = .next t ∧ t.me.lvl = false ∧ t.me.pc = s.me.tbs ∧ t.me.susp = none ∧ t.me.lc = b.lc0 ∧ t.me.fpctl = b.fp0 ∧
      t.me.bight.stores = [] ∧ t.me.bight.pushes = [] ∧ t.me.bight.pops = [] ∧ t.me.bight.start = s.me.tbs ∧
      t.me.rcnt = s.me.rcnt + 1 ∧ t.me.s = s.me.s) ∧
  (∀ (s : State) (b : Bight), Quiet s → s.me.lvl = true → s.me.susp = some b → s.me.rlim.toNat ≤ s.me.rcnt.toNat + 1 →
    (s.graph s.me.graph).hwin.toNat / 2 ^ 63 % 2 = 1 →
    ∃ t, exec .sysretRe s = .next t ∧ t.me.lvl = true ∧ t.me.pc = (s.part (s.me.graph / 65536)).tvec.truncate 18 ∧ t.me.susp = none ∧
      t.me.tcause = u (0x1000 + 0x0B) ∧ t.me.tval = 0x43 ∧ t.me.tpc = s.me.tbs ∧ t.me.tbs = s.me.tbs ∧ t.me.lc = b.lc0 ∧ t.me.fpctl = b.fp0 ∧
      t.me.rcnt.toNat = min (s.me.rcnt.toNat + 1) 255 ∧ t.me.s = s.me.s)

/-! ### Memory, atomics, cleats, groups, tokens, tags (spec/10_isa_memory_sync.md) -/

namespace Sys2Proof.Claims
open Sys2Proof.Machine Sys2Proof.Safety

/-- R2: a number from its bytes, the first the least significant. -/
def littleEndian (bs : List Byte) : Nat := bs.foldr (fun b n => b.toNat + 256 * n) 0

/-- Table 10-2: size in bytes and sign of a load's form code. -/
def loadShape (f : Nat) : Nat × Bool :=
  if f = 0 then (1, true) else if f = 1 then (1, false) else if f = 2 then (2, true) else if f = 3 then (2, false)
  else if f = 4 then (4, true) else if f = 5 then (4, false) else (8, false)

/-- R287, R289, R290, Table 10-2: of a scalar load the destination, the registers read, the size, whether it extends the sign, and the address. -/
def loadRule (s : State) (i : Instr) : Option (BitVec 5 × RegSet × Nat × Bool × Word) :=
  let n (k : BitVec 5) : Nat := (s.me.rs k).toNat
  let off (k : BitVec 5) (o : BitVec 13) : Word := z (n k + o.toInt)
  match i with
  | .ldb d a o => some (d, RegSet.s1 a, 1, true, off a o)
  | .ldbu d a o => some (d, RegSet.s1 a, 1, false, off a o)
  | .ldh d a o => some (d, RegSet.s1 a, 2, true, off a o)
  | .ldhu d a o => some (d, RegSet.s1 a, 2, false, off a o)
  | .ldw d a o => some (d, RegSet.s1 a, 4, true, off a o)
  | .ldwu d a o => some (d, RegSet.s1 a, 4, false, off a o)
  | .ldd d a o => some (d, RegSet.s1 a, 8, false, off a o)
  | .indexedLoad d a b f k => some (d, readsSS a b, (loadShape f.toNat).1, (loadShape f.toNat).2, u (n a + n b * 2 ^ k.toNat))
  | .ldacq d a _ => some (d, RegSet.s1 a, 8, false, s.me.rs a)
  | _ => none

/-- R288 to R290: of a scalar store the register stored, the registers read for its address, the size, the address, and the scope of STREL. -/
def storeRule (s : State) (i : Instr) : Option (BitVec 5 × RegSet × Nat × Word × Nat) :=
  let n (k : BitVec 5) : Nat := (s.me.rs k).toNat
  let off (k : BitVec 5) (o : BitVec 13) : Word := z (n k + o.toInt)
  match i with
  | .stb d a o => some (d, RegSet.s1 a, 1, off a o, 0)
  | .sth d a o => some (d, RegSet.s1 a, 2, off a o, 0)
  | .stw d a o => some (d, RegSet.s1 a, 4, off a o, 0)
  | .std d a o => some (d, RegSet.s1 a, 8, off a o, 0)
  | .indexedStore d a b f k => some (d, readsSS a b, 2 ^ (f.toNat % 4), u (n a + n b * 2 ^ k.toNat), 0)
  | .strel d a sc => some (d, RegSet.s1 a, 8, s.me.rs a, sc.toNat)
  | _ => none

/-- R24, R284: n bytes at ea lie in an address space, and ea is a multiple of n. -/
def Placed (n : Nat) (ea : Word) : Prop :=
  ea.toNat % n = 0 ∧ ((ea.toNat / 2 ^ 60 = 0 ∧ ea.toNat % 2 ^ 56 + n ≤ 2 ^ 56) ∨
    (ea.toNat / 2 ^ 60 = 0xE ∧ ea.toNat / 2 ^ 18 % 2 ^ 42 = 0 ∧ ea.toNat % 2 ^ 18 + n ≤ 2 ^ 18))

/-- R24, R108, R364: ea is a local address of n bytes within one line, open to the running slot and free of poison. -/
def LocalOpen (s : State) (n : Nat) (ea : Word) : Prop :=
  ea.toNat / 2 ^ 18 = 0xE * 2 ^ 42 ∧ 0 < n ∧ ea.toNat % 64 + n ≤ 64 ∧
  (s.me.lvl = true ∨ inWindow (s.graph s.me.graph).hwin (ea.toNat % 2 ^ 18) n = false) ∧
  tmemPoison s (2 ^ 18 * (s.cur / 4) + ea.toNat % 2 ^ 18) n = false

/-- R35, R45, R219, R285: a read of these elements, which reads `rd` and writes `wr`, is ready, and is made in `s1`: in `s` itself where no
element names a byte of a deferred update of its own bight, else after the implicit knot of the read. -/
def ReadsIn (s : State) (els : List (Word × Nat)) (rd wr : RegSet) (s1 : State) : Prop :=
  s.me.notReady (rd.or wr) = false ∧
  (if els.any (fun e => hitsDeferred s.me.bight.stores e.1 e.2) then knot s s.cur false s.me.pc = .go s1 else s1 = s) ∧
  ((s1.me.bight.read rd).live.inter wr).first = none

/-- R42: the thread with updates entered into its bight's store buffer. -/
def buffered (t : Thread) (rd : RegSet) (ops : List BufOp) : Thread :=
  { t with pc := t.pc + 4, wait := .none, bight := { t.bight.read rd with stores := t.bight.stores ++ ops } }

/-- R44, R47: the running slot after the implicit knot of an irrevocable instruction. -/
def atKnot (s : State) : State := s.mapMe (fun t => knotted t t.pc)

/-- R47, R180: an irrevocable instruction done: a new bight opens at the next word; an acquire of a scope wider than BIGHT waits for the
engine commands of the slot. -/
def doneAt (t : Thread) (k : BitVec 2) (sc : BitVec 4) : Thread :=
  { t with pc := t.pc + 4, bight := .openAt (t.pc + 4) t.lc t.fpctl,
           wait := if k.toNat % 2 = 1 ∧ 2 ≤ sc.toNat then .acquire else .none }

end Sys2Proof.Claims

/-- R41, R283 to R290, R432: a ready scalar load with a legal address that meets no line of an open wave reads its element: the bytes,
extended as its form says, go to sD. A failed check of the read raises its trap. Where a row command holds another row of the bank open
(R112), or another has the grant of its bank (R101), it waits, and reads nothing. R285: a load that names a byte of a deferred update of its
own bight performs an implicit knot first, and reads in the state after it, with its address as it stood; while that knot waits, or where it
traps, so does the load. -/
def Obligations.LoadResult : Prop :=
  ∀ (s : State) (i : Instr) (d : BitVec 5) (rd : RegSet) (n : Nat) (sg : Bool) (ea : Word), loadRule s i = some (d, rd, n, sg, ea) →
    Placed n ea →
    (∀ s1, s.me.notReady (rd.or (RegSet.s1 d)) = false → hitsDeferred s.me.bight.stores ea n = true → knot s s.cur false s.me.pc = .hold s1 →
      exec i s = .next s1) ∧
    ∀ s1, ReadsIn s [(ea, n)] rd (RegSet.s1 d) s1 → epochMet s1 [(ea, n)] = none →
    (homeBusy s1 false [(ea, n)] = true → exec i s = .next (s1.mapMe (fun t => { t with wait := .home }))) ∧
    (homeBusy s1 false [(ea, n)] = false → ∀ (s' : State) (c : Nat) (bs : List Byte), readElement s1 false ea n = (s', c, bs) →
      (c = 0 → exec i s = .next (s'.mapMe (fun t => ((t.tracked rd (RegSet.s1 d)).ws d
        (if sg then z (sx (littleEndian bs) (8 * bs.length)) else u (littleEndian bs))).next))) ∧
      (c ≠ 0 → exec i s = .next (accessTrap s' c ea)))

/-- R283, R284, Table 10-1: a scalar load or store outside every address space raises ADDRESS, and one at no multiple of its size ALIGN,
with TVAL its address. -/
def Obligations.AccessTraps : Prop :=
  ∀ (s : State) (i : Instr) (n : Nat) (ea : Word) (rd wr : RegSet),
    ((∃ d sg r, loadRule s i = some (d, r, n, sg, ea) ∧ rd = r ∧ wr = RegSet.s1 d) ∨
     (∃ d sc r, storeRule s i = some (d, r, n, ea, sc) ∧ rd = r.or (RegSet.s1 d) ∧ wr = .empty)) → s.me.notReady (rd.or wr) = false →
    (addressOk ea n = false → exec i s = .next (raise s 3 ea)) ∧
    (addressOk ea n = true → ea.toNat % n ≠ 0 → exec i s = .next (raise s 4 ea))

/-- R118, R427, R429, R431: what a read of a global element finds where the tile's translation cache maps its page to a vault whose home
answers the tile, no accepted access waits and every sector it touches is clean with the address's tag: the bytes of that vault. A mismatched tag of
a clean sector refuses it with TAGCHK. -/
def Obligations.GlobalRead : Prop :=
  ∀ (s : State) (n : Nat) (ea : Word) (x : TlbEntry), ea.toNat / 2 ^ 60 = 0 → 0 < n → ea.toNat % 64 + n ≤ 64 → s.homeQ = [] →
    ((s.tile (s.cur / 4)).tlb.find? (tlbHit (s.me.graph / 65536) (ea.toNat % 2 ^ 56))) = some x →
    (s.me.lvl = true ∨ Pte.sup x.entry.toNat = false) → Pte.host x.entry.toNat = false → Pte.codec x.entry.toNat = false →
    homeDead s (s.cur / 4) (Pte.tile x.entry.toNat) = false → s.me.bight.stores = [] →
    let key := 2 ^ 28 * Pte.tile x.entry.toNat + (Pte.off x.entry.toNat + ea.toNat % 2 ^ 56 % (if x.large then 2 ^ 26 else 2 ^ 16))
    (∀ k, key / 32 ≤ k → k ≤ (key + n - 1) / 32 → (s.sector k).cond = .clean) →
    ∃ s' bs, (((∀ k, key / 32 ≤ k → k ≤ (key + n - 1) / 32 → (s.sector k).tag.toNat = ea.toNat / 2 ^ 56 % 16) →
        readElement s false ea n = (s', 0, bs)) ∧
      ((∃ k, key / 32 ≤ k ∧ k ≤ (key + n - 1) / 32 ∧ (s.sector k).tag.toNat ≠ ea.toNat / 2 ^ 56 % 16) → readElement s false ea n = (s', 7, bs))) ∧
      s'.vault = s.vault ∧ s'.threads = s.threads ∧ bs.length = n ∧ ∀ k, k < n → bs[k]? = some (Memory.read s.vault (key + k))

/-- R40, R42, R46, R288 to R290: a ready scalar store at a legal address, within the limits, whose checks on entry pass enters the store
buffer with the low bytes of its register; a failed check raises its trap. R46, Table 2-2: a store that would need a thirty-third entry, or
a fifth deferred update of a line, raises BIGHT_OVERFLOW, unless it covers a sector of a tag-setting page in part (R429), which raises ALIGN
first. R112: where the translation of its address has to walk through a bank that a row command holds, it waits. -/
def Obligations.StoreResult : Prop :=
  (∀ (s s' : State) (i : Instr) (d : BitVec 5) (rd : RegSet) (n : Nat) (ea : Word) (sc c : Nat), storeRule s i = some (d, rd, n, ea, sc) →
    s.me.notReady (rd.or (RegSet.s1 d)) = false → Placed n ea →
    (walkBusy s [(ea, n)] = true → exec i s = .next (s.mapMe (fun t => { t with wait := .home }))) ∧
    (walkBusy s [(ea, n)] = false →
    let op : BufOp := .store ea (leBytes n (s.me.rs d).toNat) sc
    buffersFit (s.me.bight.stores ++ [op]) = true → enterElement [op] s .store ea n = (s', c) →
    (c = 0 → exec i s = .next (s'.mapMe (fun t => buffered t (rd.or (RegSet.s1 d)) [op]))) ∧ (c ≠ 0 → exec i s = .next (accessTrap s' c ea)) ∧
    littleEndian (leBytes n (s.me.rs d).toNat) = (s.me.rs d).toNat % 2 ^ (8 * n))) ∧
  (∀ (s : State) (i : Instr) (d : BitVec 5) (rd : RegSet) (n : Nat) (ea : Word) (sc : Nat), storeRule s i = some (d, rd, n, ea, sc) →
    s.me.notReady (rd.or (RegSet.s1 d)) = false → Placed n ea → walkBusy s [(ea, n)] = false →
    buffersFit (s.me.bight.stores ++ [.store ea (leBytes n (s.me.rs d).toNat) sc]) = false →
    (enterElement [.store ea (leBytes n (s.me.rs d).toNat) sc] s .store ea n).2 ≠ 4 →
    ∃ v, exec i s = .next (raise s.draw 0x0A v))

/-- R42, R296, R364: the checks of a local element as it enters the store buffer change nothing: at U one that touches the handler window is
refused with PROT, and so is an atomic of code 18, 21 or 22; any other passes. R41, R107, R287: what a read of open local bytes finds: the
bytes of its tile's memory, those that the bight has stored in their place; nothing changes but that the grant of their bank is the
sequencer's for this cycle (R101). -/
def Obligations.LocalAccess : Prop :=
  (∀ (s : State) (ops : List BufOp) (up : Update) (ea : Word) (n : Nat), ea.toNat / 2 ^ 60 = 0xE →
    enterElement ops s up ea n = (s, if (s.me.lvl = false ∧ inWindow (s.graph s.me.graph).hwin (ea.toNat % 2 ^ 18) n = true) ∨
      up = .amo 18 ∨ up = .amo 21 ∨ up = .amo 22 then 6 else 0)) ∧
  (∀ (s : State) (n : Nat) (ea : Word), LocalOpen s n ea →
    ∃ bs, readElement s false ea n = (portUse s (s.cur / 4) 0 (ea.toNat % 2 ^ 18) n, 0, bs) ∧ bs.length = n ∧
      ∀ k, k < n → bs[k]? = some ((bufByte s.me.bight.stores 0xE (ea.toNat % 2 ^ 18 + k)).getD
        (Memory.read s.tmem (2 ^ 18 * (s.cur / 4) + ea.toNat % 2 ^ 18 + k))))

/-- R285, R294, R297: AMO at a legal address, ready and within the limits, whose checks on entry pass enters the store buffer: nothing is
performed before the commit. A failed check raises its trap. Its read half meets no line of an open wave (R416), and no walk of its waits
(R112). -/
def Obligations.AmoResult : Prop :=
  ∀ (s s' : State) (a b : BitVec 5) (o : BitVec 5) (k : BitVec 2) (sc : BitVec 4) (c : Nat), s.me.notReady (readsSS a b) = false →
    let ea := s.me.rs a
    let op : BufOp := .amo ea o.toNat (s.me.rs b) k.toNat sc.toNat
    Placed (amoWidth o.toNat) ea → epochMet s [(ea, amoWidth o.toNat)] = none → walkBusy s [(ea, amoWidth o.toNat)] = false → buffersFit (s.me.bight.stores ++ [op]) = true →
    enterElement [op] s (.amo o.toNat) ea (amoWidth o.toNat) = (s', c) →
    (c = 0 → exec (.amo a b o k sc) s = .next (s'.mapMe (fun t => buffered t (readsSS a b) [op]))) ∧
    (c ≠ 0 → exec (.amo a b o k sc) s = .next (accessTrap s' c ea))

/-- R285, R302: a cleat update at a legal address, ready and within the limits, whose checks on entry pass and which meets no line of an open
wave (R416) enters the store buffer; CLEAT.INIT with more than 0xFFFF, and CLEAT.EXP with a negative value or one of 2^47 or more, raise
CLEAT_OVER with TVAL sB instead: ahead of BIGHT_OVERFLOW and of the checks of the page, which is the model's choice (log entry 75). -/
def Obligations.CleatUpdates : Prop :=
  ∀ (s s' : State) (a b : BitVec 5) (k : BitVec 2) (sc : BitVec 4), s.me.notReady (readsSS a b) = false → s.me.notReady (RegSet.s1 a) = false →
    let ea := s.me.rs a
    let v := s.me.rs b
    let enters (c : CleatUpd) (n : Nat) : Prop :=
      buffersFit (s.me.bight.stores ++ [.cleat ea c n]) = true ∧ epochMet s [(ea, 16)] = none ∧ walkBusy s [(ea, 16)] = false ∧ enterElement [.cleat ea c n] s .cleat ea 16 = (s', 0)
    Placed 16 ea →
    (v.toNat ≤ 0xFFFF → enters (.init v.toNat) 0 →
      exec (.cleatInit a b) s = .next (s'.mapMe (fun t => buffered t (readsSS a b) [.cleat ea (.init v.toNat) 0]))) ∧
    (0xFFFF < v.toNat → exec (.cleatInit a b) s = .next (raise s 0x17 v)) ∧
    (v.toNat < 2 ^ 47 → enters (.rmw v.toNat 0) 0 →
      exec (.cleatExp a b) s = .next (s'.mapMe (fun t => buffered t (readsSS a b) [.cleat ea (.rmw v.toNat 0) 0]))) ∧
    (2 ^ 47 ≤ v.toNat → exec (.cleatExp a b) s = .next (raise s 0x17 v)) ∧
    (enters (.rmw 0 1) sc.toNat →
      exec (.cleatArv a k sc) s = .next (s'.mapMe (fun t => buffered t (RegSet.s1 a) [.cleat ea (.rmw 0 1) sc.toNat])))

/-- R303, Table 10-4: CLEAT.WAIT and CLEAT.TEST read the cleat once: phase p has flipped when (PHASE - p) mod 2^31 lies from 1 to 2^30. WAIT
then goes on, and else waits; TEST writes 1 or 0 to sD. A cleat with OVF raises CLEAT_OVER with TVAL its address. R285: where the bight has
updated the cleat, an implicit knot comes first, and the read is made after it. -/
def Obligations.CleatReads : Prop :=
  ∀ (s s1 s' : State) (d a b : BitVec 5) (k : BitVec 2) (sc : BitVec 4) (bs : List Byte),
    ReadsIn s [(s.me.rs a, 16)] (readsSS a b) (RegSet.s1 d) s1 → s.me.notReady ((readsSS a b).or .empty) = false →
    (s.me.wait = .cleatWait → homeBusy s false [(s.me.rs a, 16)] = false) →
    let ea := s.me.rs a
    let c := littleEndian bs
    let x := (c / 2 ^ 96 % 2 ^ 31 + 2 ^ 31 - (s.me.rs b).toNat % 2 ^ 31) % 2 ^ 31
    Placed 16 ea → epochMet s1 [(ea, 16)] = none → homeBusy s1 false [(ea, 16)] = false → readElement s1 true ea 16 = (s', 0, bs) →
    (c / 2 ^ 127 % 2 = 0 →
      (1 ≤ x ∧ x ≤ 2 ^ 30 → exec (.cleatWait a b k sc) s = .next (s'.mapMe (fun t => (t.tracked (readsSS a b) .empty).next)) ∧
        exec (.cleatTest d a b k sc) s = .next (s'.mapMe (fun t => ((t.tracked (readsSS a b) (RegSet.s1 d)).ws d 1).next))) ∧
      (¬(1 ≤ x ∧ x ≤ 2 ^ 30) → exec (.cleatWait a b k sc) s = .next (s'.mapMe (fun t => { t.tracked (readsSS a b) .empty with wait := .cleatWait })) ∧
        exec (.cleatTest d a b k sc) s = .next (s'.mapMe (fun t => ((t.tracked (readsSS a b) (RegSet.s1 d)).ws d 0).next)))) ∧
    (c / 2 ^ 127 % 2 = 1 → exec (.cleatWait a b k sc) s = .next (raise (s'.mapMe (fun t => { t with bight := s1.me.bight.read (readsSS a b) })) 0x17 ea) ∧
      exec (.cleatTest d a b k sc) s = .next (raise (s'.mapMe (fun t => { t with bight := s1.me.bight.read (readsSS a b) })) 0x17 ea))

/-- R301, Table 10-4: cleat_rmw on the 16 bytes of a cleat: with OVF set nothing changes; a count out of range sets OVF alone; else the
counts change, and when both come to 0 the phase flips. R294, Table 10-3: the new value that an integer atomic leaves in its location, from the
old one and the low bits of sB. -/
def Obligations.UpdateArithmetic : Prop :=
  (∀ (old : List Byte) (db : Int) (da : Nat), old.length = 16 →
    let c := littleEndian old
    let new := littleEndian (cleatBytes (.rmw db da) old)
    let nb := sx (c % 2 ^ 64) 64 + db
    let na : Int := ((c / 2 ^ 64 % 2 ^ 16 : Nat) : Int) - (da : Int)
    (c / 2 ^ 127 = 1 → new = c) ∧
    (c / 2 ^ 127 = 0 → na < 0 ∨ 2 ^ 47 ≤ nb ∨ nb ≤ -2 ^ 47 → new = c + 2 ^ 127) ∧
    (c / 2 ^ 127 = 0 → 0 ≤ na → nb < 2 ^ 47 → -2 ^ 47 < nb → ¬(nb = 0 ∧ na = 0) →
      ((new : Nat) : Int) = (c / 2 ^ 80 * 2 ^ 80 : Nat) + na * 2 ^ 64 + nb % 2 ^ 64) ∧
    (c / 2 ^ 127 = 0 → nb = 0 → na = 0 →
      new = (c / 2 ^ 96 % 2 ^ 31 + 1) % 2 ^ 31 * 2 ^ 96 + c / 2 ^ 80 % 2 ^ 16 * 2 ^ 80 + c / 2 ^ 80 % 2 ^ 16 * 2 ^ 64)) ∧
  (∀ (old : List Byte) (b cmp : Word) (op : Nat), old.length = amoWidth op →
    let w := 8 * amoWidth op
    let x := littleEndian old
    let y := b.toNat % 2 ^ w
    let new := littleEndian (amoBytes op b cmp old)
    (op = 0 ∨ op = 1 → new = (x + y) % 2 ^ w) ∧ (op = 2 ∨ op = 3 → new = if sx x w ≤ sx y w then x else y) ∧
    (op = 4 ∨ op = 5 → new = if sx x w ≤ sx y w then y else x) ∧ (op = 6 ∨ op = 7 → new = if x ≤ y then x else y) ∧
    (op = 8 ∨ op = 9 → new = if x ≤ y then y else x) ∧ (op = 10 ∨ op = 11 → new = x &&& y) ∧ (op = 12 ∨ op = 13 → new = x ||| y) ∧
    (op = 14 ∨ op = 15 → new = x ^^^ y) ∧ (op = 16 ∨ op = 17 → new = y) ∧
    (op = 23 ∨ op = 24 → new = if x = cmp.toNat % 2 ^ w then y else x))

/-- R102, R170, R296: an atomic or object update of an open local address is one read-modify-write of its bytes: they take the new value,
and no other byte of any memory changes. -/
def Obligations.LocalUpdate : Prop :=
  ∀ (s : State) (n : Nat) (ea : Word) (op : Option Nat) (f : List Byte → List Byte), LocalOpen s n ea →
    op ≠ some 18 → op ≠ some 21 → op ≠ some 22 → (∀ l, l.length = n → (f l).length = n) →
    ∃ s' old, rmwPiece s (agOf s s.cur) ea n op f = (s', 0, old) ∧ s'.threads = s.threads ∧ s'.vault = s.vault ∧ s'.host = s.host ∧
      old = Memory.readBytes s.tmem (2 ^ 18 * (s.cur / 4) + ea.toNat % 2 ^ 18) n ∧
      Memory.readBytes s'.tmem (2 ^ 18 * (s.cur / 4) + ea.toNat % 2 ^ 18) n = f old ∧
      ∀ a, a < 2 ^ 18 * (s.cur / 4) + ea.toNat % 2 ^ 18 ∨ 2 ^ 18 * (s.cur / 4) + ea.toNat % 2 ^ 18 + n ≤ a →
        Memory.read s'.tmem a = Memory.read s.tmem a

/-- R47, R294, R295, R298: AMOR and AMOCAS of a quiet slot, at an address of their width, once what their ordering asks is met: the old
value, extended by the operation code, goes to sD, and the thread goes on in a new bight. (The re-entry counter at S: log entry 10.) -/
def Obligations.ReturningAtomics : Prop :=
  ∀ (s s' : State) (d a b : BitVec 5) (o : BitVec 5) (k : BitVec 2) (sc : BitVec 4) (old : List Byte), Quiet s → s.homeQ = [] →
    s.me.notReady (((readsSS a b).or (RegSet.s1 d)).or (RegSet.s1 d)) = false → s.me.notReady ((readsSS a b).or (RegSet.s1 d)) = false →
    Placed (amoWidth o.toNat) (s.me.rs a) → epochMet (atKnot s) [(s.me.rs a, amoWidth o.toNat)] = none →
    homeBusy (atKnot s) true [(s.me.rs a, amoWidth o.toNat)] = false →
    (k.toNat < 2 ∨ fenceMet (atKnot s) k sc = true ∧ farRelease s k sc = false) → old.length = amoWidth o.toNat →
    let x := littleEndian old
    let w := 8 * amoWidth o.toNat
    let v : Word := if o.toNat ∈ [1, 3, 5, 11, 13, 15, 17, 24] then z (sx x w) else u x
    (rmwPiece (atKnot s) (agOf (atKnot s) s.cur) (s.me.rs a) (amoWidth o.toNat) (some o.toNat) (amoBytes o.toNat (s.me.rs b) 0) = (s', 0, old) →
      exec (.amor d a b o k sc) s = .next (s'.mapMe (fun t => doneAt (t.ws d v) k sc))) ∧
    (rmwPiece (atKnot s) (agOf (atKnot s) s.cur) (s.me.rs a) (amoWidth o.toNat) (some o.toNat) (amoBytes o.toNat (s.me.rs b) (s.me.rs d)) =
        (s', 0, old) →
      exec (.amocas d a b o k sc) s = .next (s'.mapMe (fun t => doneAt (t.ws d v) k sc)))

/-- R299, R104, Table 6-4: a FENCE of a quiet slot whose condition is met goes on in a new bight; of a scope of 2 or wider it empties the
tile's instruction buffer. (The re-entry counter at S: log entry 10.) -/
def Obligations.FenceResult : Prop :=
  ∀ (s : State) (k : BitVec 2) (sc : BitVec 4), Quiet s → s.homeQ = [] → s.me.notReady .empty = false → fenceMet (atKnot s) k sc = true →
    farRelease s k sc = false →
    exec (.fence k sc) s = .next ((if 2 ≤ sc.toNat then (atKnot s).mapTile (s.cur / 4) (fun t => { t with ibuf := [] }) else atKnot s).mapMe
      (fun t => doneAt t 0 0))

/-- R304, R307, Table 10-6: JOIN of a quiet slot on an object that counts below 65,536 writes the ticket 2^63 + (GEN + 1) mod 2^32 to sD,
and one that would pass the limit raises CLEAT_OVER with TVAL its address. R305, R307, R308: LEAVE and GBAR of a quiet slot with a ticket of
a member: LEAVE goes on; GBAR goes on when its arrival completes the generation, and else waits with its arrival on record. An invalid
ticket raises CLEAT_OVER with TVAL the ticket. (The re-entry counter at S: log entry 10.) -/
def Obligations.GroupResult : Prop :=
  (∀ (s s' : State) (d a : BitVec 5) (old : List Byte), Quiet s → s.me.notReady ((RegSet.s1 a).or (RegSet.s1 d)) = false →
    Placed 16 (s.me.rs a) → epochMet (atKnot s) [(s.me.rs a, 16)] = none → homeBusy (atKnot s) true [(s.me.rs a, 16)] = false →
    rmwPiece (atKnot s) (agOf (atKnot s) s.cur) (s.me.rs a) 16 none (groupRmw groupJoin) = (s', 0, old) →
    let g := littleEndian old
    let joins := g / 2 ^ 64 % 2 ^ 16
    let members := g / 2 ^ 32 % 2 ^ 16
    (members + joins < 65535 → exec (.join d a) s = .next (s'.mapMe (fun t => doneAt (t.ws d (u (2 ^ 63 + (g % 2 ^ 32 + 1) % 2 ^ 32))) 0 0))) ∧
    (65535 ≤ members + joins → exec (.join d a) s = .next (raiseOutside s' 0x17 (s.me.rs a)))) ∧
  (∀ (s s' : State) (a b : BitVec 5) (k : BitVec 2) (sc : BitVec 4) (old : List Byte), Quiet s → s.homeQ = [] → s.me.gbar = none →
    s.me.notReady (readsSS a b) = false → Placed 16 (s.me.rs a) → epochMet (atKnot s) [(s.me.rs a, 16)] = none →
    homeBusy (atKnot s) true [(s.me.rs a, 16)] = false →
    (k.toNat = 0 ∨ fenceMet (atKnot s) k sc = true ∧ farRelease s k sc = false) →
    (kindBefore k = 0 ∨ fenceMet (atKnot s) (kindBefore k) sc = true ∧ farRelease s (kindBefore k) sc = false) →
    let t := s.me.rs b
    let gen := littleEndian old % 2 ^ 32
    let arrived := littleEndian old / 2 ^ 48 % 2 ^ 16
    let members := littleEndian old / 2 ^ 32 % 2 ^ 16
    let joins := littleEndian old / 2 ^ 64 % 2 ^ 16
    let member : Prop := t.toNat / 2 ^ 32 = 2 ^ 31 ∧ (gen + 2 ^ 32 - t.toNat % 2 ^ 32) % 2 ^ 32 < 2 ^ 31
    (rmwPiece (atKnot s) (agOf (atKnot s) s.cur) (s.me.rs a) 16 none (groupRmw (groupLeave t)) = (s', 0, old) →
      (member → exec (.leave a b k sc) s = .next (s'.mapMe (fun t => doneAt t 0 0))) ∧
      (t.toNat / 2 ^ 32 ≠ 2 ^ 31 → exec (.leave a b k sc) s = .next (raiseOutside s' 0x17 t))) ∧
    (rmwPiece (atKnot s) (agOf (atKnot s) s.cur) (s.me.rs a) 16 none (groupRmw (groupArrive t)) = (s', 0, old) →
      (member → arrived + 1 = members → exec (.gbar a b k sc) s = .next (s'.mapMe (fun t => doneAt t k sc))) ∧
      (member → arrived + 1 ≠ members → ¬(members = 0 ∧ joins = 0) → exec (.gbar a b k sc) s =
        .next (s'.mapMe (fun t => { t with gbar := some (s.me.rs a, .ofNat 32 gen), wait := .gbar }))) ∧
      (t.toNat / 2 ^ 32 ≠ 2 ^ 31 → exec (.gbar a b k sc) s = .next (raiseOutside s' 0x17 t))))

/-- R200, R309: TGIVE of a quiet slot adds a token to the FIFO from queue V to the named queue, if it holds fewer than 15; TTAKE takes one
from the FIFO of the named queue to V, if it holds one; else each waits. (The re-entry counter at S: log entry 10.) -/
def Obligations.TokenResult : Prop :=
  ∀ (s : State) (q : BitVec 5), Quiet s → s.me.notReady .empty = false → 2 ≤ q.toNat → q.toNat ≤ 5 →
    let give := q.toNat - 2
    let take := 4 * (q.toNat - 1)
    (s.me.fifoAt give < 15 → exec (.tgive q) s = .next (s.mapMe (fun t => doneAt ((knotted t t.pc).setFifo give (t.fifoAt give + 1)) 0 0))) ∧
    (15 ≤ s.me.fifoAt give → exec (.tgive q) s = .next (s.mapMe (fun t => { knotted t t.pc with wait := .token }))) ∧
    (0 < s.me.fifoAt take → exec (.ttake q) s = .next (s.mapMe (fun t => doneAt ((knotted t t.pc).setFifo take (t.fifoAt take - 1)) 0 0))) ∧
    (s.me.fifoAt take = 0 → exec (.ttake q) s = .next (s.mapMe (fun t => { knotted t t.pc with wait := .token })))

/-- R106, R310: LOOKUP writes the lowest slot whose entry, as the bight sees it, is valid and holds bits 55:12 of sA, or -1; TAGREAD writes
the entry with bits 7:0 zero; TAGSET and TAGCLR are buffered; an index past 63 raises ADDRESS. -/
def Obligations.TagTableResult : Prop :=
  ∀ (s : State) (d a b : BitVec 5),
    let x := s.me.rs a
    let hit (i : Nat) : Prop := (tagSeen s i).toNat / 2 ^ 63 = 1 ∧ (tagSeen s i).toNat / 2 ^ 12 % 2 ^ 44 = x.toNat / 2 ^ 12 % 2 ^ 44
    (Ready s (RegSet.s1 a) (RegSet.s1 d) →
      (∀ i, i < 64 → hit i → (∀ j, j < i → ¬hit j) →
        exec (.lookup d a) s = .next (s.mapMe (fun t => ((t.tracked (RegSet.s1 a) (RegSet.s1 d)).ws d (u i)).next))) ∧
      ((∀ i, i < 64 → ¬hit i) →
        exec (.lookup d a) s = .next (s.mapMe (fun t => ((t.tracked (RegSet.s1 a) (RegSet.s1 d)).ws d (u (2 ^ 64 - 1))).next))) ∧
      (x.toNat ≤ 63 → exec (.tagread d a) s = .next (s.mapMe (fun t =>
        ((t.tracked (RegSet.s1 a) (RegSet.s1 d)).ws d (u ((tagSeen s x.toNat).toNat / 2 ^ 8 * 2 ^ 8))).next))) ∧
      (63 < x.toNat → exec (.tagread d a) s = .next (raise s 3 x))) ∧
    (s.me.notReady (readsSS a b) = false → s.me.notReady ((RegSet.s1 a).or .empty) = false → s.me.notReady ((readsSS a b).or .empty) = false →
      (x.toNat ≤ 63 → buffersFit (s.me.bight.stores ++ [.tagset x.toNat (s.me.rs b)]) = true →
        exec (.tagset a b) s = .next (s.mapMe (fun t => { t with pc := t.pc + 4, wait := .none, bight :=
          { (t.tracked (readsSS a b) .empty).bight with stores := t.bight.stores ++ [.tagset x.toNat (s.me.rs b)] } }))) ∧
      (x.toNat ≤ 63 → buffersFit (s.me.bight.stores ++ [.tagclr x.toNat]) = true →
        exec (.tagclr a) s = .next (s.mapMe (fun t => { t with pc := t.pc + 4, wait := .none, bight :=
          { (t.tracked (RegSet.s1 a) .empty).bight with stores := t.bight.stores ++ [.tagclr x.toNat] } }))) ∧
      (63 < x.toNat → exec (.tagset a b) s = .next (raise s 3 x) ∧ exec (.tagclr a) s = .next (raise s 3 x)))

/-! ### The vector unit (spec/09_isa_vector.md) -/

namespace Sys2Proof.Claims
open Sys2Proof.Machine Sys2Proof.Safety

/-- An element that is bits alone. -/
def rawBits (n : Nat) : Res := { bits := n, flags := .none, isNan := false }

/-- Tables 9-2 to 9-10 (R258 to R266, R270 to R272): of a form that acts element by element its type, destination, governing predicate, the registers
read besides the governed ones, and the result of element k. Floating forms deliver one rounded value (R255); integer ones wrap (R256). -/
def laneRule (s : State) (i : Instr) : Option (VType × BitVec 5 × BitVec 3 × RegSet × (Nat → Res)) :=
  let m := s.me
  let fp := m.fpctl
  let dn := roundsDown (Fpctl.rm fp)
  let two (tc : BitVec 4) (d a b : BitVec 5) (g : BitVec 3) (fl : Val → Val → Val) (it : Int → Int → Int) :
      Option (VType × BitVec 5 × BitVec 3 × RegSet × (Nat → Res)) :=
    let t := VType.ofCode tc
    some (t, d, g, readsVV a b, fun k =>
      if t.isFloat then t.out fp (fl (t.val fp (m.lane a t.w k)) (t.val fp (m.lane b t.w k)))
      else rawBits (t.ofInt (it (t.toInt (m.lane a t.w k)) (t.toInt (m.lane b t.w k)))))
  let mac (tc : BitVec 4) (d a b : BitVec 5) (g : BitVec 3) (f : Val → Val → Val) :
      Option (VType × BitVec 5 × BitVec 3 × RegSet × (Nat → Res)) :=
    let t := VType.ofCode tc
    some (t, d, g, (readsVV a b).or (RegSet.v1 d), fun k =>
      t.out fp (f (Val.mul (t.val fp (m.lane a t.w k)) (t.val fp (m.lane b t.w k))) (t.val fp (m.lane d t.w k))))
  let raw (tc : BitVec 4) (d : BitVec 5) (g : BitVec 3) (rd : RegSet) (f : VType → Nat → Nat) :
      Option (VType × BitVec 5 × BitVec 3 × RegSet × (Nat → Res)) :=
    let t := VType.ofCode tc
    some (t, d, g, rd, fun k => rawBits (f t k))
  let one (tc : BitVec 4) (d a : BitVec 5) (g : BitVec 3) (f : VType → Nat → Val → Res) :
      Option (VType × BitVec 5 × BitVec 3 × RegSet × (Nat → Res)) :=
    let t := VType.ofCode tc
    some (t, d, g, RegSet.v1 a, fun k => f t (m.lane a t.w k) (t.val fp (m.lane a t.w k)))
  match i with
  | .vadd d a b t g => two t d a b g (Val.add dn) (fun x y => x + y)
  | .vsub d a b t g => two t d a b g (fun x y => Val.add dn x y.negate) (fun x y => x - y)
  | .vmul d a b t g => two t d a b g Val.mul (fun x y => x * y)
  | .vmin d a b t g => two t d a b g Val.minV (fun x y => min x y)
  | .vmax d a b t g => two t d a b g Val.maxV (fun x y => max x y)
  | .vabs d a t g => one t d a g (fun t b _ => if t.isFloat then signChange t fp b (fun _ => false) else rawBits (t.ofInt (t.toInt b).natAbs))
  | .vneg d a t g => one t d a g (fun t b _ => if t.isFloat then signChange t fp b (fun n => !n) else rawBits (t.ofInt (-(t.toInt b))))
  | .vfma d a b t g => mac t d a b g (fun p c => Val.add dn p c)
  | .vfms d a b t g => mac t d a b g (fun p c => Val.add dn p c.negate)
  | .vfnma d a b t g => mac t d a b g (fun p c => Val.add dn c p.negate)
  | .vand d a b t g => raw t d g (readsVV a b) (fun t k => m.lane a t.w k &&& m.lane b t.w k)
  | .vor d a b t g => raw t d g (readsVV a b) (fun t k => m.lane a t.w k ||| m.lane b t.w k)
  | .vxor d a b t g => raw t d g (readsVV a b) (fun t k => m.lane a t.w k ^^^ m.lane b t.w k)
  | .vshl d a b t g => raw t d g (readsVV a b) (fun t k => m.lane a t.w k * 2 ^ (m.lane b t.w k % (8 * t.w)) % 2 ^ (8 * t.w))
  | .vshr d a b t g => raw t d g (readsVV a b) (fun t k => m.lane a t.w k / 2 ^ (m.lane b t.w k % (8 * t.w)))
  | .vsra d a b t g => raw t d g (readsVV a b) (fun t k => t.ofInt (sextN (m.lane a t.w k) (8 * t.w) / (2 ^ (m.lane b t.w k % (8 * t.w)) : Nat)))
  | .vmov d a t g => raw t d g (RegSet.v1 a) (fun t k => m.lane a t.w k)
  | .vbcast d a t g => raw t d g (RegSet.s1 a) (fun t _ => (m.rs a).toNat % 2 ^ (8 * t.w))
  | .vperm d a b t g => raw t d g (readsVV a b) (fun t k => if m.lane b t.w k < t.lanes then m.lane a t.w (m.lane b t.w k) else 0)
  | .vshufLo d a b t g => raw t d g (readsVV a b) (fun t k => if k % 2 = 0 then m.lane a t.w (k / 2) else m.lane b t.w (k / 2))
  | .vshufHi d a b t g => raw t d g (readsVV a b) (fun t k =>
      if k % 2 = 0 then m.lane a t.w (t.lanes / 2 + k / 2) else m.lane b t.w (t.lanes / 2 + k / 2))
  | .vshufEven d a b t g => raw t d g (readsVV a b) (fun t k =>
      if k < t.lanes / 2 then m.lane a t.w (2 * k) else m.lane b t.w (2 * (k - t.lanes / 2)))
  | .vshufOdd d a b t g => raw t d g (readsVV a b) (fun t k =>
      if k < t.lanes / 2 then m.lane a t.w (2 * k + 1) else m.lane b t.w (2 * (k - t.lanes / 2) + 1))
  | .vslideUp d a b t g => raw t d g ((RegSet.v1 a).or (RegSet.s1 b)) (fun t k =>
      if k < (m.rs b).toNat then 0 else m.lane a t.w (k - (m.rs b).toNat))
  | .vslideDn d a b t g => raw t d g ((RegSet.v1 a).or (RegSet.s1 b)) (fun t k =>
      if k + (m.rs b).toNat < t.lanes then m.lane a t.w (k + (m.rs b).toNat) else 0)
  | .vdot d a b t g => some (.u32, d, g, (readsVV a b).or (RegSet.v1 d), dotLane (VType.ofCode t) m d a b)
  | .vdiv d a b t g =>
    let ty := VType.ofCode t
    some (ty, d, g, readsVV a b, fun k =>
      divElement ty.fmt (ty.val fp (m.lane a ty.w k)) (ty.val fp (m.lane b ty.w k)) (Fpctl.rm fp) (Fpctl.fz fp))
  | .vsqrt d a r t g => one t d a g (fun ty _ v => sqrtElement ty.fmt v (roundMode r.toNat fp) (Fpctl.fz fp))
  | .vrcp d a t g => one t d a g (fun ty b v => rcpElement ty.fmt ty.code b v (Fpctl.fz fp))
  | .vrsq d a t g => one t d a g (fun ty b v => rsqElement ty.fmt ty.code b v (Fpctl.fz fp))
  | .vexp2 d a t g => one t d a g (fun ty b v => exp2Element ty.fmt ty.code b v (Fpctl.fz fp))
  | .vlog2 d a t g => one t d a g (fun ty b v => log2Element ty.fmt ty.code b v (Fpctl.fz fp))
  | _ => none

/-- R251: the elements that a governing predicate makes active, each with its result. -/
def activeResults (s : State) (t : VType) (g : BitVec 3) (f : Nat → Res) : List (Nat × Res) :=
  ((List.range (64 / t.w)).filter (fun k => (s.me.rp g).getLsbD (t.w * k))).map (fun k => (k, f k))

/-- R254: no result would raise FP_NAN. -/
def Quieted (s : State) (rs : List (Nat × Res)) : Prop := s.me.fpctl.toNat / 8 % 2 = 0 ∨ ∀ r ∈ rs, r.2.isNan = false

/-- R262: the condition of a compare form on two elements of a float or an integer type. -/
def compareRule (i : Instr) : Option (BitVec 4 × BitVec 3 × BitVec 5 × BitVec 5 × BitVec 3 × (Val → Val → Bool) × (Int → Int → Bool)) :=
  match i with
  | .vcmpEq d a b t g => some (t, d, a, b, g, Val.eq, fun x y => decide (x = y))
  | .vcmpNe d a b t g => some (t, d, a, b, g, fun x y => !Val.eq x y, fun x y => decide (x ≠ y))
  | .vcmpLt d a b t g => some (t, d, a, b, g, Val.lt, fun x y => decide (x < y))
  | .vcmpLe d a b t g => some (t, d, a, b, g, fun x y => Val.lt x y || Val.eq x y, fun x y => decide (x ≤ y))
  | .vcmpUn d a b t g => some (t, d, a, b, g, fun x y => x.isNan || y.isNan, fun _ _ => false)
  | _ => none

/-- R263, R265, R268, R269, R273, R277, R278, R281, R282: of the other vector forms the registers read and written, the results that may be NaN, and what
the thread becomes. -/
def wholeRule (s : State) (i : Instr) : Option (RegSet × RegSet × List (Nat × Res) × (Thread → Thread)) :=
  let m := s.me
  let fz := Fpctl.fz m.fpctl
  let all (t : VType) (d : BitVec 5) (f : Nat → Nat) : Thread → Thread := fun th => th.wv d (ofLanes t.w ((List.range t.lanes).map f))
  let reduction (t : VType) (d a : BitVec 5) (g : BitVec 3) (rm : Rnd) (op : Res → Res → Res) (none_ : Nat) :
      Option (RegSet × RegSet × List (Nat × Res) × (Thread → Thread)) :=
    let leaves := (List.range t.lanes).map (fun k => if active (m.rp g) t.w k then some (rawBits (m.lane a t.w k)) else none)
    let r := settle t rm fz ((redTree op 6 leaves).getD (rawBits none_))
    some ((RegSet.v1 a).or (RegSet.p1 g), RegSet.v1 d, [(0, r)], fun th => (th.flagged [(0, r)]).wv d (ofLanes t.w [r.bits]))
  match i with
  | .vsel d a b t n => let ty := VType.ofCode t
    some ((readsVV a b).or (RegSet.p1 n), RegSet.v1 d, [], all ty d (fun k =>
      if (m.rp n).getLsbD (ty.w * k) then m.lane a ty.w k else m.lane b ty.w k))
  | .vins d a b t => let ty := VType.ofCode t
    some ((readsSS a b).or (RegSet.v1 d), RegSet.v1 d, [], fun th => if (m.rs b).toNat < ty.lanes then
      th.wv d (setLanes ty.w (th.rv d) [(m.rs b).toNat] [(m.rs a).toNat % 2 ^ (8 * ty.w)]) else th)
  | .vredsum d a r t g => let rm := roundMode r.toNat m.fpctl
    reduction (VType.ofCode t) d a g rm (addNode (VType.ofCode t) rm fz) 0
  | .vredmax d a t g => reduction (VType.ofCode t) d a g .ne (pickNode (VType.ofCode t) fz true) (leastOf (VType.ofCode t))
  | .vredmin d a t g => reduction (VType.ofCode t) d a g .ne (pickNode (VType.ofCode t) fz false) (greatestOf (VType.ofCode t))
  | .vscan d a r t g => let ty := VType.ofCode t
    let rs := scanLanes ty (roundMode r.toNat m.fpctl) fz m a (activeLanes (m.rp g) ty.w) none
    some ((RegSet.v1 a).or (governed d g), RegSet.v1 d, rs, fun th => th.writeLanes ty.w d rs)
  | .vcvt d a sc t r k => let src := VType.ofCode sc
    let dst := VType.ofCode t
    let rs := (cvtPairs src.lanes dst.lanes k.toNat).map (fun p => (p.2, convert src dst (m.lane a src.w p.1) (roundMode r.toNat m.fpctl) fz))
    some (RegSet.v1 a, RegSet.v1 d, rs, fun th => (th.wv d 0).writeLanes dst.w d rs)
  | .vqcvt d a n q w r h => let rm := roundMode r.toNat m.fpctl
    let ys := butterfly (roundsDown rm) (2 * h.toNat) ((List.range 64).map (fun e => (wideType w).val m.fpctl (groupLane m a w e)))
    let rs := (List.range 64).zip (ys.map (fun y => quantLane (VType.ofCode q) (scaleVal s n) y rm fz))
    some (readsVs (groupRegs a (groupSize w)), RegSet.v1 d, rs, fun th => th.writeLanes 1 d rs)
  | .vdqcvt d a n q w r h => let rm := roundMode r.toNat m.fpctl
    let xs := (List.range 64).map (fun e => Val.mul (narrowVal (VType.ofCode q) (m.lane a 1 e)) (scaleVal s n))
    let rs := (List.range 64).zip ((butterfly (roundsDown rm) (2 * h.toNat) xs).map (fun y => (wideType w).fmt.deliver y false rm fz))
    some (RegSet.v1 a, readsVs (groupRegs d (groupSize w)), rs, fun th =>
      ((List.range (groupSize w)).zip (groupRegs d (groupSize w))).foldl (fun th p => th.wv p.2 (ofLanes (wideType w).w
        (((rs.drop (64 / groupSize w * p.1)).take (64 / groupSize w)).map (fun x => x.2.bits)))) (th.flagged rs))
  | .vpack d a t n => let ty := VType.ofCode t
    let kept := ((List.range (64 / ty.w)).filter (fun k => (m.rp n).getLsbD (ty.w * k))).map (m.lane a ty.w)
    some ((RegSet.v1 a).or (RegSet.p1 n), RegSet.v1 d, [], all ty d (fun k => kept.getD k 0))
  | .vunpack d a t n => let ty := VType.ofCode t
    some ((RegSet.v1 a).or (RegSet.p1 n), RegSet.v1 d, [], all ty d (fun k => if (m.rp n).getLsbD (ty.w * k) then
      m.lane a ty.w (((List.range k).filter (fun j => (m.rp n).getLsbD (ty.w * j))).length) else 0))
  | .vmask12 d a n t => let ty := VType.ofCode t
    let kept := (List.range (12 * (ty.lanes / 12))).filter (keeps ty m a n.toNat)
    some (RegSet.v1 a, RegSet.p1 d, [], fun th => th.wp d (setPred ty.w 0 (kept.map (fun k => (k, true)))))
  | _ => none

/-- R291 to R293: of a vector load the destination, governing predicate, element width, other registers read, and the address of element k. -/
def gatherRule (s : State) (i : Instr) : Option (BitVec 5 × BitVec 3 × Nat × RegSet × (Nat → Word)) :=
  let n (k : BitVec 5) : Nat := (s.me.rs k).toNat
  match i with
  | .vld d a g w o => some (d, g, 2 ^ w.toNat, RegSet.s1 a, fun k => z (n a + 64 * o.toInt + (2 ^ w.toNat * k : Nat)))
  | .vlds d a b t g => some (d, g, typeWidth t, readsSS a b, fun k => u (n a + k * n b))
  | .vgath d a b t x g => some (d, g, typeWidth t, (RegSet.s1 a).or (RegSet.v1 b), fun k =>
      z (n a + sx (s.me.lane b (typeWidth t) k) (8 * typeWidth t) * (if x then typeWidth t else 1 : Nat)))
  | _ => none

/-- R292, R293: the same of the stores that take each element to an address of its own. -/
def scatterRule (s : State) (i : Instr) : Option (BitVec 5 × BitVec 3 × Nat × RegSet × (Nat → Word)) :=
  let n (k : BitVec 5) : Nat := (s.me.rs k).toNat
  match i with
  | .vsts d a b t g => some (d, g, typeWidth t, readsSS a b, fun k => u (n a + k * n b))
  | .vscat d a b t x g => some (d, g, typeWidth t, (RegSet.s1 a).or (RegSet.v1 b), fun k =>
      z (n a + sx (s.me.lane b (typeWidth t) k) (8 * typeWidth t) * (if x then typeWidth t else 1 : Nat)))
  | _ => none

/-- R251: the active elements of width w. -/
def activeOnes (s : State) (g : BitVec 3) (w : Nat) : List Nat := (List.range (64 / w)).filter (fun k => (s.me.rp g).getLsbD (w * k))

end Sys2Proof.Claims

/-- R251 to R266, R270 to R272: every form that acts element by element, ready and with no trapping NaN, writes the results of its active
elements to vD, keeps the others, adds the events of the results to FPCTL and steps on. With FPCTL.NANTRAP and a NaN result of an active
element it writes nothing and raises FP_NAN (R254). -/
def Obligations.VectorResult : Prop :=
  ∀ (s : State) (i : Instr) (t : VType) (d : BitVec 5) (g : BitVec 3) (rd : RegSet) (f : Nat → Res), laneRule s i = some (t, d, g, rd, f) →
    let reads := rd.or (if g = 0 then .empty else (RegSet.p1 g).or (RegSet.v1 d))
    Ready s reads (RegSet.v1 d) →
    (Quieted s (activeResults s t g f) →
      exec i s = .next (s.mapMe (fun th => ((th.tracked reads (RegSet.v1 d)).writeLanes t.w d (activeResults s t g f)).next))) ∧
    (¬Quieted s (activeResults s t g f) → ∃ v, exec i s = .next (raise (s.mapMe (fun th => { th with bight := th.bight.read reads })) 0x13 v))

/-- R251, R255: what the write of elements does to a thread: element k of vD becomes the result listed for k, else stays; FPCTL gains the
events of the results; no other register of any file, no PC and no trap register changes. -/
def Obligations.LaneFrame : Prop :=
  ∀ (th : Thread) (w : Nat) (d : BitVec 5) (rs : List (Nat × Res)), (w = 1 ∨ w = 2 ∨ w = 4 ∨ w = 8) → (rs.map Prod.fst).Nodup →
    (∀ r ∈ rs, r.1 < 64 / w) →
    let t := th.writeLanes w d rs
    (∀ r ∈ rs, t.lane d w r.1 = r.2.bits % 2 ^ (8 * w)) ∧
    (∀ k, k < 64 / w → k ∉ rs.map Prod.fst → t.lane d w k = th.lane d w k) ∧
    (∀ a, a ≠ d → t.rv a = th.rv a) ∧ t.fpctl = th.fpctl ||| (Flags.all (rs.map Prod.snd)).word ∧
    t.s = th.s ∧ t.p = th.p ∧ t.lc = th.lc ∧ t.pc = th.pc ∧ t.tpc = th.tpc ∧ t.tcause = th.tcause ∧ t.tval = th.tval ∧ t.bight = th.bight

/-- R262: the vector compares, ready: the bits of each active element in pD are all set or all clear by its condition, the others stay as
read from pD; a NaN operand of an active float element sets NV, and nothing traps. The unordered condition with an integer type is no
instruction. -/
def Obligations.VectorCompare : Prop :=
  (∀ (s : State) (i : Instr) (tc : BitVec 4) (d : BitVec 3) (a b : BitVec 5) (g : BitVec 3) (fl : Val → Val → Bool) (it : Int → Int → Bool),
    compareRule i = some (tc, d, a, b, g, fl, it) →
    let reads := (readsVV a b).or (if g = 0 then .empty else (RegSet.p1 g).or (RegSet.p1 d))
    Ready s reads (RegSet.p1 d) →
    let t := VType.ofCode tc
    let val (r : BitVec 5) (k : Nat) : Val := t.val s.me.fpctl (s.me.lane r t.w k)
    let cond (k : Nat) : Bool := if t.isFloat then fl (val a k) (val b k) else it (t.toInt (s.me.lane a t.w k)) (t.toInt (s.me.lane b t.w k))
    let nv := t.isFloat && (activeOnes s g t.w).any (fun k => (val a k).isNan || (val b k).isNan)
    exec i s = .next (s.mapMe (fun th =>
      let p := ((th.tracked reads (RegSet.p1 d)).wp d (setPred t.w (th.rp d) ((activeOnes s g t.w).map (fun k => (k, cond k)))))
      { p with fpctl := raiseFlags th.fpctl { Flags.none with nv := nv }, pc := th.pc + 4, wait := .none }))) ∧
  (∀ (t : BitVec 4) (d : BitVec 3) (a b : BitVec 5) (g : BitVec 3), 6 ≤ t.toNat → Instr.wellFormed (.vcmpUn d a b t g) = false)

/-- R263, R265, R268, R269, R273 to R282: the vector forms that act on whole registers, ready and with no trapping NaN, have the effect of
their rule; VEXT writes the element that sB names, sign-extended for a signed type, or 0 past the last. -/
def Obligations.VectorWhole : Prop :=
  (∀ (s : State) (i : Instr) (rd wr : RegSet) (rs : List (Nat × Res)) (f : Thread → Thread), wholeRule s i = some (rd, wr, rs, f) → Ready s rd wr →
    (Quieted s rs → exec i s = .next (s.mapMe (fun th => (f (th.tracked rd wr)).next))) ∧
    (¬Quieted s rs → ∃ v, exec i s = .next (raise (s.mapMe (fun th => { th with bight := th.bight.read rd })) 0x13 v))) ∧
  (∀ (s : State) (d a b : BitVec 5) (t : BitVec 4), Ready s ((RegSet.v1 a).or (RegSet.s1 b)) (RegSet.s1 d) →
    let ty := VType.ofCode t
    let x : Word := if (s.me.rs b).toNat < ty.lanes then
      (if ty.signed then z (ty.toInt (s.me.lane a ty.w (s.me.rs b).toNat)) else u (s.me.lane a ty.w (s.me.rs b).toNat)) else 0
    exec (.vext d a b t) s = .next (s.mapMe (fun th => ((th.tracked ((RegSet.v1 a).or (RegSet.s1 b)) (RegSet.s1 d)).ws d x).next)))

/-- R284 to R286, R291 to R293: a vector load, ready, whose active elements are legal and aligned reads them in order and writes them to their
places in vD; with a failed check it raises the trap that Table 10-1 makes first. R285: where an active element names a byte of a deferred
update of the bight, an implicit knot comes first, and the elements are read after it, at the addresses as they stood. -/
def Obligations.VectorLoad : Prop :=
  ∀ (s s1 s' : State) (i : Instr) (d : BitVec 5) (g : BitVec 3) (w : Nat) (rd : RegSet) (ea : Nat → Word) (c : Nat) (at_ : Word) (bs : List (List Byte)),
    gatherRule s i = some (d, g, w, rd, ea) →
    let reads := rd.or (if g = 0 then .empty else (RegSet.p1 g).or (RegSet.v1 d))
    let els := (activeOnes s g w).map (fun k => (ea k, w))
    ReadsIn s els reads (RegSet.v1 d) s1 → (∀ e ∈ els, Placed w e.1) → epochMet s1 els = none →
    homeBusy s1 false els = false → readElements s1 false els = (s', (c, at_), bs) →
    (c = 0 → exec i s = .next (s'.mapMe (fun th =>
      ((th.tracked reads (RegSet.v1 d)).wv d (setLanes w (th.rv d) (activeOnes s g w) (bs.map littleEndian))).next))) ∧
    (c ≠ 0 → exec i s = .next (accessTrap s' c at_))

/-- R286, R292, R293: VSTS and VSCAT, ready, whose active elements are legal and aligned and pass their checks, put one store of each into
the store buffer, in increasing order; nothing is performed before the commit. -/
def Obligations.VectorScatter : Prop :=
  ∀ (s s' : State) (i : Instr) (d : BitVec 5) (g : BitVec 3) (w : Nat) (rd : RegSet) (ea : Nat → Word) (c : Nat) (at_ : Word),
    scatterRule s i = some (d, g, w, rd, ea) →
    let reads := (rd.or (RegSet.v1 d)).or (RegSet.p1 g)
    let ops := (activeOnes s g w).map (fun k => BufOp.store (ea k) (leBytes w (s.me.lane d w k)) 0)
    let els := (activeOnes s g w).map (fun k => (ea k, w))
    s.me.notReady reads = false → (∀ e ∈ els, Placed w e.1) → walkBusy s els = false → buffersFit (s.me.bight.stores ++ ops) = true →
    enterElements ops s .store els = (s', (c, at_)) →
    (c = 0 → exec i s = .next (s'.mapMe (fun th => buffered th reads ops))) ∧ (c ≠ 0 → exec i s = .next (accessTrap s' c at_))

/-- R286, R291: VST, ready, to a line of the tile's own memory open to it and with an empty store buffer, puts into the buffer stores that
cover exactly the bytes of the active elements, each byte that of vD at its place. -/
def Obligations.VectorStore : Prop :=
  ∀ (s : State) (d a : BitVec 5) (g : BitVec 3) (w : BitVec 2) (o : BitVec 10),
    let n := 2 ^ w.toNat
    let reads := ((RegSet.s1 a).or (RegSet.v1 d)).or (RegSet.p1 g)
    let ea (k : Nat) : Word := z ((s.me.rs a).toNat + 64 * o.toInt + (n * k : Nat))
    s.me.notReady reads = false → (s.me.rs a).toNat % 64 = 0 → (ea 0).toNat / 2 ^ 18 = 0xE * 2 ^ 42 →
    (s.me.lvl = true ∨ inWindow (s.graph s.me.graph).hwin ((ea 0).toNat % 2 ^ 18) 64 = false) → s.me.bight.stores = [] →
    ∃ ops, exec (.vst d a g w o) s = .next (s.mapMe (fun th => buffered th reads ops)) ∧
      ∀ j, j < 64 → bufByte ops 0xE ((ea 0).toNat % 2 ^ 18 + j) =
        if (s.me.rp g).getLsbD (j / n * n) then some (.ofNat 8 ((s.me.rv d).toNat / 2 ^ (8 * j))) else none

/-! ### Strand access, engine commands and system forms (spec/12, spec/11, spec/16) -/

namespace Sys2Proof.Claims
open Sys2Proof.Machine Sys2Proof.Safety

/-- R349: endpoint e (32 up: control) is claimed by the running slot's context for the slot, in a direction. -/
def Mine (s : State) (e : Nat) (out : Bool) : Prop := strandMine s e out = true

/-- R350: of a push the endpoint, the registers read, the data and the predicate bits of the beat. -/
def pushRule (s : State) (i : Instr) : Option (Nat × RegSet × Nat × (Nat → Bool)) :=
  match i with
  | .spush e b h n => some (e.toNat, (RegSet.v1 b).or (RegSet.p1 n), (s.me.rv b).toNat / 2 ^ (if h then 256 else 0) % 2 ^ 256,
      fun j => decide (j < 8) && (s.me.rp n).getLsbD ((if h then 32 else 0) + 4 * j))
  | .spushC e b => some (32 + e.toNat, RegSet.s1 b, (s.me.rs b).toNat, fun _ => false)
  | _ => none

/-- R351: of a pop the endpoint, the registers written, what a beat writes, and what a form that does not wait writes without one. -/
def popRule (i : Instr) : Option (Nat × RegSet × (Beat → Thread → Thread) × Option (Thread → Thread)) :=
  let word (b : Beat) : Word := u (((List.range 32).filter (fun j => b.pred.getLsbD (j / 4))).foldl (fun n j => n + 2 ^ j) 0 +
    b.kind.toNat * 2 ^ 32 + b.tag.toNat * 2 ^ 34)
  let data (v : BitVec 5) (n : BitVec 3) (b : Beat) (t : Thread) : Thread := (t.wv v (.ofNat 512 b.data.toNat)).wp n (word b)
  let token (d : BitVec 5) (n : BitVec 3) (b : Beat) (t : Thread) : Thread := (t.ws d (u b.data.toNat)).wp n (u b.kind.toNat)
  match i with
  | .spop e v n => some (e.toNat, (RegSet.v1 v).or (RegSet.p1 n), data v n, none)
  | .speek e v n => some (e.toNat, (RegSet.v1 v).or (RegSet.p1 n), data v n, some (fun t => (t.wv v 0).wp n (u (3 * 2 ^ 32))))
  | .spopC e d n => some (32 + e.toNat, (RegSet.s1 d).or (RegSet.p1 n), token d n, none)
  | .speekC e d n => some (32 + e.toNat, (RegSet.s1 d).or (RegSet.p1 n), token d n, some (fun t => (t.ws d 0).wp n 3))
  | _ => none

/-- R312: a completion cleat of a command: none, or 16 aligned bytes of an address space. -/
def cleatOk (c : Word) : Prop := c = 0 ∨ (addressOk c 16 = true ∧ c.toNat % 16 = 0)

/-- R311 to R352: of an engine command its queue, the registers it reads, the registers of its operands from the first on, and when its
issue checks pass. COPY2, whose operands a descriptor extends, stands apart. -/
def engineRule (s : State) (i : Instr) : Option (Nat × RegSet × List (BitVec 5) × Prop) :=
  let n (k : BitVec 5) : Nat := (s.me.rs k).toNat
  let c := (s.tile (s.cur / 4)).ctx s.me.pctx.toNat
  let g := s.graph s.me.graph
  let p := s.part (s.me.graph / 65536)
  let row (a : BitVec 5) : Prop := n a / 2 ^ 20 = 0 ∧ n a / 2 ^ 11 % 32 ≤ p.bankmap.toNat % 32
  let window (b : BitVec 5) : Prop := addressOk (s.me.rs b) 1 = true ∧ n b % 256 = 0 ∧ n b % 2 ^ 16 + 3072 ≤ 2 ^ 16
  let ranges (a b d : BitVec 5) : Prop := n d < 2 ^ 40 ∧ addressOk (s.me.rs a) (n d) = true ∧ addressOk (s.me.rs b) (n d) = true
  let run (a b d : BitVec 5) : Prop := n a < 2 ^ 18 ∧
    (n b = 0 ∨ n b / 2 ^ 60 = 0xE ∧ addressOk (s.me.rs b) 1 = true ∧ n b % 64 = 0) ∧ cleatOk (s.me.rs d)
  let engine (e : BitVec 3) : Prop := EnF.used (c.enF e.toNat) = true
  let coil (v : Nat) (loaded : Nat) : Prop := v / 2 ^ 29 = 0 ∧ 48 ≤ v % 2 ^ 16 ∧ v % 2 ^ 16 ≤ loaded ∧ (v / 2 ^ 28 % 2 = 1 → 48 ≤ loaded)
  match i with
  | .copy a b d m _ _ => some (1, ((readsSS a b).or (RegSet.s1 d)).or (RegSet.s1 (d + 1)), [a, b, d, d + 1], (cleatOk (s.me.rs (d + 1)) ∧
      if m then n d < 2 ^ 40 ∧ n a < 32 ∧ addressOk (s.me.rs b) (n d) = true ∧ claimsOutput c (n a) = true else ranges a b d))
  | .copym a b d _ _ _ => some (1, (((readsSS a b).or (RegSet.s1 d)).or (RegSet.s1 (d + 1))).or (RegSet.s1 (d + 2)), [a, b, d, d + 1, d + 2],
      (ranges a b d ∧ cleatOk (s.me.rs (d + 1)) ∧ n (d + 2) < 2 ^ 18))
  | .launch a b d _ _ => some (1, ((RegSet.s1 a).or (RegSet.s1 b)).or (RegSet.s1 d), [a, b, d],
      (addressOk (s.me.rs b) 256 = true ∧ n b % 64 = 0 ∧ n d ≤ 255 ∧ p.qmask.getLsbD (n d) = true))
  | .rowact a _ _ _ => some (2, RegSet.s1 a, [a], row a)
  | .rowtakePl a _ _ _ => some (2, RegSet.s1 a, [a], row a)
  | .rowtakeMk a _ _ _ => some (2, RegSet.s1 a, [a], row a)
  | .rowclose a _ _ _ => some (2, RegSet.s1 a, [a], row a)
  | .rowtakeTm a b _ _ _ => some (2, readsSS a b, [a, b], (row a ∧ window b))
  | .rowput a b _ _ _ => some (2, readsSS a b, [a, b], (row a ∧ window b))
  | .rowstat a b _ _ => some (2, RegSet.s1 b, [a, b], (n b / 2 ^ 20 = 0))
  | .plane a _ _ _ => some (2, RegSet.s1 a, [a], (n a / 2 ^ 12 = 0 ∧ n a / 16 % 2 = 0 ∧ 1 ≤ n a % 16 ∧ n a % 16 ≤ 6 ∧ n a / 2 ^ 10 % 4 ≠ 3))
  | .planeld a _ _ _ => some (2, RegSet.s1 a, [a], window a)
  | .planeldMk a _ _ _ => some (2, RegSet.s1 a, [a], window a)
  | .planeinv _ _ _ => some (2, .empty, [], True)
  | .mrun a b d _ _ => some (3, (readsSS a b).or (RegSet.s1 d), [a, b, d], run a b d)
  | .mrunAcc a b d _ _ => some (3, (readsSS a b).or (RegSet.s1 d), [a, b, d], run a b d)
  | .mzero a _ _ => some (3, RegSet.s1 a, [a], n a < 2 ^ 18)
  | .mdrain a b d _ _ => some (3, (readsSS a b).or (RegSet.s1 d), [a, b, d],
      (let out := n a / 2 ^ 21 % 2 = 1
       let w := drainWidth (s.me.rs a)
       n a / 2 ^ 23 % 2 ^ 9 = 0 ∧ n a / 2 ^ 18 % 8 ≤ 4 ∧ n a / 2 ^ 32 % w = 0 ∧ cleatOk (s.me.rs d) ∧
       (out → n b = 0 ∧ ((drainEndpoint c).isSome = true ∨ (drainStream (s.tile (s.cur / 4)) s.me.pctx.toNat).isSome = true)) ∧
       (¬out → addressOk (s.me.rs b) 1 = true ∧ n b % w = 0 ∧
         addressOk (s.me.rs b) (n a / 2 ^ 9 % 2 ^ 9 * (n a / 2 ^ 32) + drainCols s (s.cur / 4) s.me.pctx.toNat * w) = true)))
  | .mstat a b _ _ => some (3, RegSet.s1 b, [a, b], (n b % 16 < 8 ∧
      if n b % 16 = 1 ∨ n b % 16 = 2 then n b < 2 ^ 5
      else if n b % 16 = 5 then n b < 2 ^ 32 ∧ n b / 2 ^ 25 % 8 = 0 ∧ n b / 2 ^ 4 % 2 ^ 12 = 0 else n b < 2 ^ 4))
  | .configure a b d _ _ => some (3, readsSS b d, [a, b, d], (n b < 2 ^ 32 ∧ n d < 2 ^ 32 ∧ 0 < n b / 2 ^ 16 % 256 ∧ 0 < n b / 2 ^ 24 ∧
      n b % 256 + n b / 2 ^ 16 % 256 ≤ g.w ∧ n b / 2 ^ 8 % 256 + n b / 2 ^ 24 ≤ g.h ∧ n b % 256 = s.me.lx.toNat ∧
      n b / 2 ^ 8 % 256 = s.me.ly.toNat))
  | .unfuse _ _ => some (3, .empty, [], True)
  | .ctxload a b d _ _ => some (3, (readsSS a b).or (RegSet.s1 d), [a, b, d], (addressOk (s.me.rs a) (40 * n b) = true ∧ n a % 8 = 0 ∧
      1 ≤ n b ∧ n b ≤ 2 ^ 20 ∧ n d < 4 ∧ n d < g.nctx))
  | .ctxsel a _ _ => some (3, RegSet.s1 a, [a], n a < 16)
  | .ctxstat a b _ _ => some (3, RegSet.s1 b, [a, b], (n b < 4 ∧ n b < g.nctx))
  | .tstdisc a _ _ => some (3, .empty, [a], True)
  | .sopen e b _ _ => some (0, RegSet.s1 b, [b], (engine e ∧ n b / 2 ^ 60 = 0xE ∧ addressOk (s.me.rs b) 1 = true ∧ n b % 128 = 0))
  | .sstart e _ _ => some (0, .empty, [], engine e)
  | .sstop e _ _ => some (0, .empty, [], engine e)
  | .sknot e _ _ => some (0, .empty, [], engine e)
  | .coilset e b _ _ => some (0, RegSet.s1 b, [b],
      (EpF.used (c.epF e.toNat) = true ∧ EpF.out (c.epF e.toNat) = false ∧ coil (n b) (EpF.climit (c.epF e.toNat)) ∧
       1 ≤ n b / 2 ^ 22 % 64 ∧ n b / 2 ^ 22 % 64 < n b / 2 ^ 16 % 64 ∧ n b / 2 ^ 16 % 64 ≤ EpF.q (c.epF e.toNat)))
  | .coilsetNd e b _ _ => some (0, RegSet.s1 b, [b],
      (NdF.used (c.ndF e.toNat) = true ∧ coil (n b) (NdF.nclimit (c.ndF e.toNat)) ∧ n b / 2 ^ 16 % 2 ^ 12 = 0))
  | _ => none

/-- Table 16-8: the word of PROBE for what the caches and tables hold for an address: a leaf, or the level at which the walk stops. -/
def probeWord (w : Walk) : Word :=
  match w with
  | .ok e large => u (2 ^ 63 + (if large then 2 ^ 62 else 0) + (if Pte.w e then 2 ^ 61 else 0) + (if Pte.codec e then 2 ^ 60 else 0) +
      Pte.budget e * 2 ^ 58 + Pte.cidx e * 2 ^ 50 + (if Pte.pin e then 2 ^ 49 else 0) +
      (if Pte.host e then 127 * 2 ^ 19 + Pte.hostAddr e / 2 ^ 16 % 2 ^ 12 * 2 ^ 4
       else tileX (Pte.tile e) * 2 ^ 26 + tileY (Pte.tile e) * 2 ^ 19 + Pte.off e / 2 ^ 16 % 2 ^ 12 * 2 ^ 4))
  | .page l => u (l - 1)
  | .poison l _ => u (4 + (l - 1))
  | .malformed l _ => u (8 + (l - 1))

/-- Table 16-10: the status word of a graph. -/
def statusWordOf (g : Graph) : Word :=
  u ((if g.frozen then 2 ^ 63 else 0) + (if contained g then 2 ^ 62 else 0) + (if g.hung then 2 ^ 61 else 0) + g.lastWave.toNat * 2 ^ 32 +
    (match g.openWave with | some n => n.toNat | none => g.lastWave.toNat) * 2 ^ 16 + g.part % 32 * 2 ^ 3 + g.st.code)

/-- Table 16-11: the slot word of slot i, of a graph that is frozen or not. -/
def slotWordOf (s : State) (i : Nat) : Word :=
  let t := s.thread i
  let g := s.graph t.graph
  u ((if (t.run = .running ∨ t.run = .cut) ∧ g.st = .running then 2 ^ 63 else 0) + (if t.run = .halted then 2 ^ 62 else 0) + (if t.lvl then 2 ^ 61 else 0) +
    (if g.frozen = true ∧ g.hung = false ∧ g.freezer ≠ some i ∧ t.run = .running then 10 else t.wait.code) * 2 ^ 57 + t.rcnt.toNat * 2 ^ 49 +
    t.pc.toNat)

/-- R376 to R384: of a system form that only reads, the destination, the registers read, and the value, or the trap of its checks. -/
def systemRule (s : State) (i : Instr) : Option (BitVec 5 × RegSet × ((Nat × Word) ⊕ Word)) :=
  let r (a : BitVec 5) : Word := s.me.rs a
  match i with
  | .probe d a => some (d, RegSet.s1 a, if (r a).toNat / 2 ^ 60 = 0 then .inr (probeWord (lookup s ((r a).toNat % 2 ^ 56))) else .inl (3, r a))
  | .graphctlStat d a => some (d, RegSet.s1 a, .inr (match Assoc.get? s.graphs (s.me.graph / 65536 * 65536 + (r a).toNat % 65536) with
      | some g => statusWordOf g
      | none => u (s.me.graph / 65536 * 8 + 7)))
  | .graphctlStall d a b => some (d, readsSS a b, match namedStall s (r a) (r b) with | some w => .inr w | none => .inl (0x18, r b))
  | .graphctlSlot d a b => some (d, readsSS a b, match namedSlot s (r a) (r b) with | some i => .inr (slotWordOf s i) | none => .inl (0x18, r b))
  | _ => none

/-- R377: a list of cached translations without those that `drop` names. -/
def without (l : List TlbEntry) (drop : TlbEntry → Bool) : List TlbEntry := l.filter (fun e => !drop e)

/-- R377: every translation cache of t is that of s without the entries that `drop` names, and nothing else of a memory or a graph differs. -/
def CachesDrop (s t : State) (drop : TlbEntry → Bool) : Prop :=
  (∀ i, (t.tile i).tlb = without (s.tile i).tlb drop ∧ ∀ e, ((t.tile i).engine e).tlb = without ((s.tile i).engine e).tlb drop) ∧
  (∀ f, Assoc.getD t.tlb2 f [] = without (Assoc.getD s.tlb2 f []) drop) ∧ t.vault = s.vault ∧ t.tmem = s.tmem ∧ t.graphs = s.graphs

/-- R381: the homes of t hold of s's decoded blocks exactly those whose frame no block that `drop` names has. -/
def BlocksDrop (s t : State) (drop : Block → Bool) : Prop :=
  ∀ h b, b ∈ (t.home h).cache ↔ b ∈ (s.home h).cache ∧ ¬(b.off / 2 ^ 28 = h ∧ ∃ e ∈ s.homes, ∃ c ∈ e.2.cache, drop c = true ∧ c.off = b.off)

end Sys2Proof.Claims

/-- R40, R46, R349, R350: SPUSH and SPUSH.C, ready, on an output endpoint of the slot below the bight's limits, put their beat last among
the pushes of the bight; nothing leaves the tile before the knot. On another endpoint they raise PROT. R43, R57, R349, R351: SPOP, SPEEK and
their control forms, ready, on an input endpoint of the slot: with a beat past those the bight has popped, and fewer than 16 popped, they
write it and count one more pop; without one SPEEK writes 0 and its mark, and SPOP waits. (Where the pops of a handler begin is log entry 76.) -/
def Obligations.StrandResult : Prop :=
  (∀ (s : State) (i : Instr) (e : Nat) (rd : RegSet) (data : Nat) (pred : Nat → Bool), pushRule s i = some (e, rd, data, pred) →
    s.me.notReady rd = false →
    (Mine s e true → s.me.bight.pushes.length < 64 → (pushesTo s.me.bight e).length < 16 →
      ∃ b : Beat, exec i s = .next (s.mapMe (fun t => { t with pc := t.pc + 4, wait := .none, bight := { t.bight.read rd with pushes := t.bight.pushes ++ [{ ep := e, beat := b }] } })) ∧
        b.data.toNat = data ∧ (∀ j, b.pred.getLsbD j = pred j) ∧ b.kind = 0 ∧ b.tag = 0) ∧
    (¬Mine s e true → exec i s = .next (raise s 6 (u (e % 32))))) ∧
  (∀ (s : State) (i : Instr) (e : Nat) (wr : RegSet) (put : Beat → Thread → Thread) (none_ : Option (Thread → Thread)),
    popRule i = some (e, wr, put, none_) → s.me.notReady wr = false → Mine s e false → (s.me.bight.live.inter wr).first = none →
    let popped := Assoc.getD s.me.bight.pops e 0
    (∀ b, ((s.tile (s.cur / 4)).ep e).q[popped]? = some b → b.isMarker = false → popped < 16 →
      exec i s = .next (s.mapMe (fun t => (put b { t with bight := { t.bight.wrote wr with pops := Assoc.set t.bight.pops e (popped + 1) } }).next))) ∧
    (((s.tile (s.cur / 4)).ep e).q[popped]? = none →
      (∀ f, none_ = some f → exec i s = .next (s.mapMe (fun t => (f { t with bight := t.bight.wrote wr }).next))) ∧
      (none_ = none → popped < 16 → exec i s = .next (s.mapMe (fun t => { t with wait := .spop })))))

/-- R316, R317, R319: an engine command of a quiet slot whose registers are ready, with room in its queue and its checks passed, stands last
in its queue with its operands as they are; no command acts before it starts. A failed check raises a trap; with eight commands waiting the
slot waits. R313, R316: COPY2 of a quiet slot reads its 32-byte descriptor as it issues, and stands last in queue 1 with the ranges it
gives; while the descriptor's bank is granted to another (R101) it waits. (The re-entry counter at S: log entry 10.) -/
def Obligations.EngineIssue : Prop :=
  (∀ (s : State) (i : Instr) (q : Nat) (rd : RegSet) (ops : List (BitVec 5)) (legal : Prop), engineRule s i = some (q, rd, ops, legal) →
    s.me.notReady (rd.or (RegSet.s1 (cmdDest i))) = false →
    ((s.me.queue q).waiting.length < 8 → legal → Quiet s →
      ∃ c : Cmd, exec i s = .next (s.mapMe (fun t =>
          doneAt ((knotted t t.pc).mapQueue q (fun x => { x with waiting := x.waiting ++ [c] })) 0 0)) ∧
        c.i = i ∧ c.pc = s.me.pc ∧ c.lvl = s.me.lvl ∧ c.wave = s.me.wave ∧
        ∀ (k : Nat) (r : BitVec 5), ops[k]? = some r → [c.va, c.vb, c.vc, c.vd, c.ve][k]? = some (s.me.rs r)) ∧
    ((s.me.queue q).waiting.length < 8 → ¬legal → ∃ x v, exec i s = .next (raise s x v) ∨ exec i s = .next (raise s.draw x v)) ∧
    (8 ≤ (s.me.queue q).waiting.length → exec i s = .next (s.mapMe (fun t => { t with wait := .fullQueue })))) ∧
  (∀ (s s' : State) (a b d : BitVec 5) (x y : BitVec 3) (bs : List Byte), (s.me.queue 1).waiting.length < 8 →
    s.me.notReady (((readsSS a b).or (RegSet.s1 d)).or (RegSet.s1 0)) = false → s.me.notReady ((readsSS a b).or (RegSet.s1 d)) = false →
    (s.me.rs d).toNat / 2 ^ 60 = 0xE → addressOk (s.me.rs d) 32 = true → (s.me.rs d).toNat % 8 = 0 →
    (homeBusy s false [(s.me.rs d, 32)] = true → exec (.copy2 a b d x y) s = .next (s.mapMe (fun t => { t with wait := .home }))) ∧
    (homeBusy s false [(s.me.rs d, 32)] = false →
    readElement s false (s.me.rs d) 32 = (s', 0, bs) → s'.me = s.me → Quiet s' →
    let w (k : Nat) : Nat := littleEndian ((bs.drop (8 * k)).take 8)
    1 ≤ w 0 → w 0 ≤ 2 ^ 24 → 1 ≤ w 1 → w 1 ≤ 65536 →
    (blockRange (s.me.rs a) (w 1) (w 0) (u (w 2)).toInt).isSome = true → (blockRange (s.me.rs b) (w 1) (w 0) (u (w 3)).toInt).isSome = true →
    ∃ c : Cmd, exec (.copy2 a b d x y) s = .next (s'.mapMe (fun t =>
        doneAt ((knotted t t.pc).mapQueue 1 (fun x => { x with waiting := x.waiting ++ [c] })) 0 0)) ∧
      c.i = .copy2 a b d x y ∧ c.va = s.me.rs a ∧ c.vb = s.me.rs b ∧ c.vc = u (w 0 + w 1 * 2 ^ 32) ∧ c.vd = u (w 2) ∧ c.ve = u (w 3)))

/-- R376, R378, R384, Tables 16-8, 16-10 and 16-11: PROBE and the reading forms of GRAPHCTL at S, ready, write the word of their table to
sD, step on and change nothing else; where a check fails they raise its trap with the operand as TVAL, ADDRESS for PROBE and SHAPE for
.stall and .slot. R372, R377, R379, R381, R383, R384: the acting system forms at S, ready, step on and write their code to sD. TLBINV and
TLBINVA drop the partition's translations, of one page or all, from every cache. CODECINV and CODECINV.DESC drop the decoded blocks of a
range, or of a descriptor with its cached copy, from every home; with no dirty block among them nothing is encoded; where a dirty one is to
be encoded into a bank that a row command holds (R112) they wait. FREEZE stops the graph
that its handle names, all its slots but the one that issues it, and FREEZE.OFF resumes it; a graph that is so already is left as it is.
WAVEREQ opens the next wave of a Running graph that has none open, and else names the open one. GRAPHCTL.TERM ends a graph as Terminated;
that of its own graph never retires: its slot is free, its destination is not written and its PC does not advance. An absent graph is left
alone and reported; the word of .stat for a handle that names no graph, PARTNO beside STATE 7, is the model's reading (log entry 56). -/
def Obligations.SystemForms : Prop :=
  (∀ (s : State) (i : Instr) (d : BitVec 5) (rd : RegSet), s.me.lvl = true → Ready s rd (RegSet.s1 d) →
    (∀ w, systemRule s i = some (d, rd, .inr w) → exec i s = .next (s.mapMe (fun t => ((t.tracked rd (RegSet.s1 d)).ws d w).next))) ∧
    (∀ c v, systemRule s i = some (d, rd, .inl (c, v)) → exec i s = .next (raise s c v))) ∧
  (∀ (s : State) (d a b : BitVec 5), s.me.lvl = true →
    let v := s.me.rs a
    let part := s.me.graph / 65536
    let me (rd wr : RegSet) (f : Thread → Thread) : Thread := (f (s.me.tracked rd wr)).next
    let clean (drop : Block → Bool) : Prop := ∀ e ∈ s.homes, ∀ c ∈ e.2.cache, drop c = true → c.dirty = false
    (Ready s (RegSet.s1 a) .empty → v.toNat / 2 ^ 60 = 0 → ∃ t, exec (.tlbinv a) s = .next t ∧ t.me = me (RegSet.s1 a) .empty id ∧
      CachesDrop s t (fun e => decide (e.part = part ∧ e.page = v.toNat % 2 ^ 56 / (if e.large then 2 ^ 26 else 2 ^ 16)))) ∧
    (Ready s .empty .empty → ∃ t, exec .tlbinva s = .next t ∧ t.me = me .empty .empty id ∧ CachesDrop s t (fun e => decide (e.part = part))) ∧
    (Ready s (readsSS a b) .empty → codecinvCheck v (s.me.rs b) = none →
      let drop := blockInRange s (v.toNat % 2 ^ 56) (s.me.rs b).toNat
      (dropHeld s drop = true → exec (.codecinv a b) s = .next (s.mapMe (fun t => { t with wait := .home }))) ∧
      (dropHeld s drop = false →
        ∃ t, exec (.codecinv a b) s = .next t ∧ t.me = me (readsSS a b) .empty id ∧ (clean drop → BlocksDrop s t drop ∧ t.vault = s.vault))) ∧
    (Ready s (RegSet.s1 a) .empty → v.toNat < 2 ^ 8 → v.toNat ≤ (s.part part).codectab.toNat % 256 →
      let drop := fun c : Block => decide (c.part = part ∧ c.cidx = v.toNat)
      (dropHeld s drop = true → exec (.codecinvDesc a) s = .next (s.mapMe (fun t => { t with wait := .home }))) ∧
      (dropHeld s drop = false → ∃ t, exec (.codecinvDesc a) s = .next t ∧ t.me = me (RegSet.s1 a) .empty id ∧ (clean drop → BlocksDrop s t drop ∧ t.vault = s.vault) ∧
        ∀ h, Assoc.get? (t.home h).descs (256 * part + v.toNat) = none)) ∧
    (Ready s (RegSet.s1 a) (RegSet.s1 d) →
      (∀ k g, present s v = some (k, g) →
        (∃ t, exec (.freeze d a) s = .next t ∧ t.me = me (RegSet.s1 a) (RegSet.s1 d) (fun t => t.ws d 0) ∧ (t.graph k).frozen = true ∧
          (g.frozen = true → t.graph k = g) ∧ (∀ j, j ≠ k → t.graph j = s.graph j) ∧
          (g.frozen = false → g.hung = false → ∀ i, i ≠ s.cur → (s.thread i).graph = k → issuable t i = false)) ∧
        (∃ t, exec (.freezeOff d a) s = .next t ∧ t.me = me (RegSet.s1 a) (RegSet.s1 d) (fun t => t.ws d 0) ∧ (t.graph k).frozen = false ∧
          (g.frozen = false → t.graph k = g) ∧ (∀ j, j ≠ k → t.graph j = s.graph j) ∧ (t.graph k).st = g.st) ∧
        (∃ t, exec (.graphctlTerm d a) s = .next t ∧ (t.graph k).st = .terminated ∧
          (k ≠ s.me.graph → t.me.pc = s.me.pc + 4 ∧ t.me.rs d = 0) ∧
          (k = s.me.graph → t.me.pc = s.me.pc ∧ t.me.s = s.me.s ∧ (s.cur ∈ graphThreads s k → t.me.run = .free))) ∧
        (g.st = .running → ∀ n, g.openWave = some n → ∃ t, exec (.wavereq d a) s = .next t ∧
          t.me = me (RegSet.s1 a) (RegSet.s1 d) (fun t => t.ws d (u (2 ^ 16 + n.toNat)))) ∧
        (g.st = .running → g.openWave = none → g.cutting = false → ∃ t, exec (.wavereq d a) s = .next t ∧
          (t.graph k).openWave = some (g.lastWave + 1) ∧ t.me.rs d = (if d = 0 then 0 else u (g.lastWave + 1).toNat) ∧ t.me.pc = s.me.pc + 4) ∧
        (g.st ≠ .running → exec (.wavereq d a) s = .next (s.mapMe (fun t => ((t.tracked (RegSet.s1 a) (RegSet.s1 d)).ws d (u 0x20000)).next)))) ∧
      (present s v = none → ∀ i w, (i = .freeze d a ∨ i = .freezeOff d a ∨ i = .graphctlTerm d a) ∧ w = u 1 ∨ i = .wavereq d a ∧ w = u 0x20000 →
        exec i s = .next (s.mapMe (fun t => ((t.tracked (RegSet.s1 a) (RegSet.s1 d)).ws d w).next)))))

/-! ### Device steps (spec/02 to spec/07, spec/16 to spec/23)

The device acts beside its threads. Each of its actions is one constructor of Instr, and the agenda of the state, or the device turn, runs
them: in which order, and in which cycle where the spec gives none, is the model's (log entry 1). The statements below say what each action
does once it runs. -/

namespace Sys2Proof.Claims
open Sys2Proof.Machine Sys2Proof.Safety

/-- R454 to R456: what the record of an event says: its class, its tile and its syndrome. -/
def Says (r : Rec) (cls tile synd : Nat) : Prop := r.cls = cls ∧ r.tile = tile ∧ r.synd = synd

/-- R366: slot th of t is in the handler for the cause of its low byte, with a value. -/
def Trapped (s t : State) (th code : Nat) (v : Word) : Prop :=
  (t.thread th).lvl = true ∧ (t.thread th).tcause.toNat % 256 = code ∧ (t.thread th).tval = v ∧ (t.thread th).tpc = (s.thread th).pc ∧
  (t.thread th).pc = (s.part ((s.thread th).graph / 65536)).tvec.truncate 18 ∧ (t.thread th).s = (s.thread th).s

/-- R130, R135: where a beat waits in a tile: at input j of node n, or in an endpoint. -/
inductive Spot where
  | input (n j : Nat)
  | endpoint (e : Nat)
  deriving DecidableEq, Repr

/-- The beats at a place of a tile. -/
def beatsAt (t : Tile) (p : Spot) : List Beat :=
  match p with
  | .input n j => Assoc.getD (t.node n).inq j []
  | .endpoint e => (t.ep e).q

/-- Table 5-13: where input i of node n takes its beats from. -/
def inSpot (n f i : Nat) : Spot :=
  if 32 ≤ NdF.inp f i then .input n i else .endpoint (if NdF.kind f = 5 then 32 + NdF.inp f i % 8 else NdF.inp f i % 32)

/-- Table 5-13: where output j of node n sends its beats to. -/
def outSpot (t : Tile) (n f j : Nat) : Spot :=
  if 32 ≤ NdF.outp f j then .input (NdF.outp f j % 8) (inputFrom t (NdF.outp f j % 8) n) else .endpoint (NdF.outp f j % 32)

/-- A node of a tile has taken the beat at input i, and b stands last at its output j. -/
def Passes (s t : State) (tile n f i j : Nat) (b : Beat) : Prop :=
  inSpot n f i ≠ outSpot (s.tile tile) n f j →
    beatsAt (t.tile tile) (inSpot n f i) = (beatsAt (s.tile tile) (inSpot n f i)).drop 1 ∧
    beatsAt (t.tile tile) (outSpot (s.tile tile) n f j) = beatsAt (s.tile tile) (outSpot (s.tile tile) n f j) ++ [b] ∧
    ∀ p, p ≠ inSpot n f i → p ≠ outSpot (s.tile tile) n f j → beatsAt (t.tile tile) p = beatsAt (s.tile tile) p

/-- R24, R101: ea is a local address of n bytes within one line, in tile memory that no save holds (R60), with no word of it in error, in banks that
are held against no request of port `who`, and outside the handler window, if that is closed to the agent. -/
def LocalSite (s : State) (tile who g : Nat) (lvl : Bool) (ea : Word) (n : Nat) : Prop :=
  portHeld s tile who (ea.toNat % 2 ^ 18) n = false ∧
  ea.toNat / 2 ^ 18 = 0xE * 2 ^ 42 ∧ 0 < n ∧ ea.toNat % 64 + n ≤ 64 ∧ (lvl = true ∨ inWindow (s.graph g).hwin (ea.toNat % 2 ^ 18) n = false) ∧
  tmemPoison s (2 ^ 18 * tile + ea.toNat % 2 ^ 18) n = false ∧ tmemWaits s tile (ea.toNat % 2 ^ 18) n = false

/-- R24, R118, R425, R430: n bytes at a global address lie in one line that a translation entry, writable and open to U, maps to the clean, tag-matched
sectors of a vault that answers the agent's tile (R452, R453), in a bank that no row command holds. -/
def GlobalSite (s : State) (at_ : Nat) (e : Word) (large : Bool) (ea : Word) (n : Nat) : Prop :=
  ea.toNat / 2 ^ 60 = 0 ∧ 0 < n ∧ ea.toNat % 64 + n ≤ 64 ∧ Pte.w e.toNat = true ∧ Pte.sup e.toNat = false ∧ Pte.ts e.toNat = false ∧
  Pte.host e.toNat = false ∧ Pte.codec e.toNat = false ∧ homeDead s at_ (Pte.tile e.toNat) = false ∧
  accessHeld s e.toNat large ea = false ∧
  let key := 2 ^ 28 * Pte.tile e.toNat + (Pte.off e.toNat + ea.toNat % 2 ^ 56 % (if large then 2 ^ 26 else 2 ^ 16))
  ∀ k, key / 32 ≤ k → k ≤ (key + n - 1) / 32 → (s.sector k).cond = .clean ∧ (s.sector k).tag.toNat = ea.toNat / 2 ^ 56 % 16

/-- The vault byte at which a global address stands under a leaf. -/
def vaultByte (e : Word) (large : Bool) (ea : Word) : Nat :=
  2 ^ 28 * Pte.tile e.toNat + (Pte.off e.toNat + ea.toNat % 2 ^ 56 % (if large then 2 ^ 26 else 2 ^ 16))

end Sys2Proof.Claims

/-- R101, R110 to R114, R456: the device steps of the bank controller. A row open for T_OPEN cycles closes; a refresh that falls due (in
which cycles is the model's choice: log entry 78) is performed on a closed bank, owed while a row is open and fewer than eight are, and
forced at the ninth, its row closed, which is reactivated once the bank is refreshed; an owed refresh is performed on a closed, idle bank
that no ROWACT awaits; a background access takes a free activate slot, ahead of the program's after 384 cycles; a retired row takes the next
of 32 spares while its bank is taken as for a refresh, and the last spare sets the bank's bit of the defect map; a region-form transfer runs
in all its tiles at once, once none of their window banks is granted to another (R101), and is done T_TAKE - 1 cycles after it starts (log
entry 34). -/
def Obligations.BankSteps : Prop :=
  ∀ (s : State) (tile bank row : Nat),
    let b := (s.tile tile).bank bank
    let now := s.cycle.toNat
    let put (f : Bank → Bank) : State := s.mapTile tile (fun t => t.mapBank bank f)
    (∀ r since, b.row = some (r, since) → since + Config.tOpen ≤ now →
      exec (.rowOpenTimeout tile bank) s = .next (put (fun x => { x with row := none }))) ∧
    (s.cycle ≠ 0 → now % Config.tRefi = 0 →
      (b.row = none → exec (.refreshDue tile bank) s = .next (put (fun x => { x with busyTill := max x.busyTill now + Config.tRfc }))) ∧
      (b.row.isSome = true → b.owed < 8 → exec (.refreshDue tile bank) s = .next (put (fun x => { x with owed := x.owed + 1 }))) ∧
      (b.row.isSome = true → 8 ≤ b.owed →
        exec (.refreshDue tile bank) s = .next (put (fun x => { x with row := none, forced := x.row, busyTill := max x.busyTill now + Config.tRfc })))) ∧
    (∀ r since, b.forced = some (r, since) → b.busyTill ≤ now → exec (.owedRefresh tile bank) s = .next (put (fun x =>
      { x with row := if now < since + Config.tOpen then some (r, since) else none, forced := none, readyAt := now + Config.tAct }))) ∧
    (b.forced = none → b.row = none → 0 < b.owed → b.busyTill ≤ now → actWaits s tile bank = false →
      exec (.owedRefresh tile bank) s = .next (put (fun x => { x with owed := x.owed - 1, busyTill := now + Config.tRfc }))) ∧
    (∀ since, b.bgSince = some since → (since + 384 ≤ now ∨ ∀ k, k < 32 → actWaits s tile k = false) → b.busyTill ≤ now →
      (inWindowActs now (s.tile tile).acts).length + (inWindowActs now (s.tile tile).bgActs).length < Config.actLimit →
      ∃ t, exec (.backgroundActivate tile bank) s = .next t ∧ (t.tile tile).bank bank = { b with bgSince := none } ∧
        (t.tile tile).bgActs = inWindowActs now (s.tile tile).bgActs ++ [now]) ∧
    (b.used < 32 → ∃ r, Says r 0x0B tile 1 ∧ exec (.rowRemap tile bank row) s = .next ((record s r).mapTile tile (fun t =>
      { t.mapBank bank (fun x => { x with remap := Assoc.set x.remap row x.used, used := x.used + 1, row := none, forced := x.row.or x.forced,
                                          busyTill := max x.busyTill now + Config.tRfc }) with
        spares := if b.used = 31 then t.spares ||| (1#32 <<< bank) else t.spares }))) ∧
    (32 ≤ b.used → ∃ r, Says r 0x0B tile (2 ^ 31 + 1) ∧ exec (.rowRemap tile bank row) s = .next (record s r)) ∧
    (∀ (th : Nat) (a : Active) (x y : BitVec 5) (k v : BitVec 3) (tiles : List Nat), activeAt s th 2 0 = some a → a.begun = true → a.done = false →
      slotStands s th = false → a.cmd.i = .rowput x y true k v → formTiles s th true = some tiles → (∀ i ∈ tiles,
        rowHazard now (a.cmd.va.toNat % 2 ^ 11) true (s.tile i) ((s.tile i).bank (a.cmd.va.toNat / 2 ^ 11 % 32)) = .clear ∧
        portHeld s i 11 (a.cmd.vb.toNat % 2 ^ 18) 3072 = false ∧ tmemPoison s (2 ^ 18 * i + a.cmd.vb.toNat % 2 ^ 18) 3072 = false) →
      let s0 := tiles.foldl (fun s i => portRow s i (a.cmd.vb.toNat % 2 ^ 18)) s
      exec (.regionTransfer th) s = .next (finish (tiles.foldl (putRow (agCmd s th a.cmd) a.cmd.va a.cmd.vb)
        (moved (tiles.foldl busTaken s0) (s.thread th).graph)) th 2 0 a (now + Config.tTake - 1)))

/-- R130, R131, R134, R139, R142, R144, R145, R450, R453, R455: endpoints and links. A beat on the links goes on by one tile, x first, when its
link serves it, two beats of a link in a cycle at most (which of two edges that agree in their order goes first is the model's choice: log
entry 96), or is absorbed before a retired router, and counted there; a flit that is corrected on its way is counted at the router that it enters,
and the third within the window retires that router, with a record of class 0x0B; an arriving beat joins the queue of its endpoint; a permit that arrives is its producer's
again; an output endpoint sends its head beat for one permit, tagged with its stamp where its frame says so; a coil's head moves on-die, as
its line in the vault holds it; the edge of an output endpoint idle for 256 cycles is gated; a faulted element stops, is recorded with class
0x06, and triggers a rollback. -/
def Obligations.EndpointSteps : Prop :=
  ∀ (s : State) (n tile e : Nat),
    let now := s.cycle.toNat
    let p := (s.tile tile).ep e
    let f := epFrame (s.tile tile) e
    (∀ x, s.flights[n]? = some x → x.at_ ≠ x.dstTile → x.due ≤ now → let h := nextHop x.at_ x.dstTile
      ((s.tile h.1).routerRetired = false → (s.tile x.at_).routerRetired = false → linkNext s x.at_ h.1 = some n →
        let s1 : State := { linkServed s x.at_ h.1 x with flights := s.flights.set n { x with at_ := h.1, due := now + h.2, flips := false } }
        exec (.meshHop n) s = .next (if x.flips then routerEvent s1 h.1 else s1)) ∧
      ((s.tile h.1).routerRetired = false → (s.tile x.at_).routerRetired = false → linkNext s x.at_ h.1 ≠ some n →
        exec (.meshHop n) s = .next s) ∧
      (2 ≤ (linkState s x.at_ h.1).2 → linkNext s x.at_ h.1 = none) ∧
      ((s.tile h.1).routerRetired = true ∨ (s.tile x.at_).routerRetired = true → ∃ t, exec (.meshHop n) s = .next t ∧
        t.flights = s.flights.erase x ∧ t.permits.length = (s.permits.length + if x.beat.isMarker then 0 else 1) ∧
        (t.tile x.at_).absorbed = (s.tile x.at_).absorbed + 1)) ∧
    ((tallyHit s tile 2 0).isSome = true →
      ∃ r, Says r 0x0B tile 2 ∧ routerEvent s tile = retireRouter (record (tallyDrop s tile 2 0) r) tile ∧
        ((retireRouter s tile).tile tile).routerRetired = true) ∧
    (∀ x g, s.flights[n]? = some x → x.at_ = x.dstTile → x.due ≤ now → epGraph (s.tile x.dstTile) x.dstEp = some g →
      x.beat.isMarker = false → ((s.tile x.dstTile).ep x.dstEp).spills = false → behind s n x = false →
      ∃ t, exec (.beatArrival n) s = .next t ∧ t.flights = s.flights.eraseIdx n ∧
        ((t.tile x.dstTile).ep x.dstEp).q = ((s.tile x.dstTile).ep x.dstEp).q ++ [x.beat]) ∧
    (∀ x, s.permits[n]? = some x → x.due ≤ now → (Assoc.get? (s.tile x.tile).eps x.ep).isSome = true →
      exec (.permitReturn n) s = .next ({ s with permits := s.permits.eraseIdx n }.mapTile x.tile (fun t =>
        t.mapEp x.ep (fun p => { p with permits := p.permits + 1 })))) ∧
    (∀ g b rest, epGraph (s.tile tile) e = some g → EpF.out f = true → feedsNode (s.tile tile) e = none → elementRuns s tile g = true → p.fault = false →
      cutStops s g p.marker = false → p.q = b :: rest → p.gated = false → p.wakeAt ≤ now → b.isMarker = false → 0 < p.permits →
      EpF.toPort f = false →
      ∃ t x, exec (.outputEndpointFire tile e) s = .next t ∧ t.flights = s.flights ++ [x] ∧ (x.dstTile, x.dstEp) = destOf s g e f ∧
        x.beat = { b with tag := if EpF.taggen f then p.stamp else b.tag } ∧ ((t.tile tile).ep e).q = rest ∧
        ((t.tile tile).ep e).permits = p.permits - 1) ∧
    (∀ g b rest, epGraph (s.tile tile) e = some g → p.coil = b :: rest → p.fault = false → waitingBeats p ≤ p.lo → waitingBeats p < p.hi →
      ∃ t b1, exec (.coilRefill tile e) s = .next t ∧ ((t.tile tile).ep e).q = p.q ++ [b1] ∧ ((t.tile tile).ep e).coil = rest ∧
        (b.isMarker = true → b1 = b) ∧
        (let key := coilKey s tile g (p.lines.headD 0)
         b.isMarker = false → (∀ j, j < 2 → (s.sector (key / 32 + j)).cond = .clean ∧ (s.sector (key / 32 + j)).tag = 0) →
          b1.data.toNat = littleEndian (Memory.readBytes s.vault key 32) ∧ b1.pred.toNat = (Memory.read s.vault (key + 32)).toNat ∧
          b1.kind.toNat = (Memory.read s.vault (key + 33)).toNat / 64 ∧ b1.tag.toNat = (Memory.read s.vault (key + 33)).toNat % 64)) ∧
    (e < 40 → (epGraph (s.tile tile) e).isSome = true → EpF.out f = true → p.q = [] → p.idle + 256 ≤ now →
      exec (.clockGate tile e) s = .next (s.mapTile tile (fun t => t.mapEp e (fun p => { p with gated := true, wakeAt := 0 })))) ∧
    (∀ kind unit code k g, elementCtx (s.tile tile) kind unit = some k → ((s.tile tile).ctx k).graph = some g →
      ∃ r, Says r 6 tile code ∧ exec (.elementFault tile kind unit code) s =
        .next (trigger (record (s.mapTile tile (fun t => t.faulted kind unit)) r) g 6))

/-- R136 to R141, R357: the switch nodes. Each, where its graph runs and its output has room, takes the head beat of an input and sends it
on: a steer on the path that its rule gives, a merge by arrival from the next input with a beat, a merge by tag in the order of the tags, a
replicate spread over the lanes of a data beat; the beat leaves the place of its input and stands last at the place of the output, and no
other beat of the tile moves. Without room a node moves nothing. A multicast takes a beat while every branch's window admits it, and each
branch whose edge has room accepts its oldest beat that it has not accepted yet: one that the node's buffers hold, or one as its coil line holds it,
where no branch has accepted it before (R143, R362). (What counts as a cycle of waiting in the node's stall register is log entry 72.) -/
def Obligations.NodeSteps : Prop :=
  ∀ (s : State) (tile n g f : Nat),
    let x := (s.tile tile).node n
    let fired (s : State) (j : Nat) (h : Node → Node) (b : Beat) : State :=
      moved (nodeSend (mapNd s tile n (fun x => { h x with stall := (h x).stall.fire })) g tile n f j b) g
    let still (t : State) : Prop := ∀ p, beatsAt (t.tile tile) p = beatsAt (s.tile tile) p
    (∀ b, nodeRuns s tile n 1 = some (g, f) → nodeHead (s.tile tile) n f 0 = some b → b.isMarker = false → steerPath f x b < NdF.nout f →
      (nodeRoom (s.tile tile) n f (steerPath f x b) = true → ∃ t, exec (.steerNodeFire tile n) s = .next t ∧
        t = fired (nodeTake s tile n f 0) (steerPath f x b) (steerCount f) b ∧ Passes s t tile n f 0 (steerPath f x b) b) ∧
      (nodeRoom (s.tile tile) n f (steerPath f x b) = false → ∃ t, exec (.steerNodeFire tile n) s = .next t ∧ still t)) ∧
    (∀ j b, nodeRuns s tile n 2 = some (g, f) →
      (robin (NdF.nin f) x.last).findSome? (fun j => (nodeHead (s.tile tile) n f j).bind (fun b => if b.isMarker then none else some (j, b))) =
        some (j, b) →
      (nodeRoom (s.tile tile) n f 0 = true → ∃ t, exec (.mergeByArrivalFire tile n) s = .next t ∧
        t = fired (nodeTake s tile n f j) 0 (fun x => { x with last := j, stall := x.stall.counted (nodeWaits (s.tile tile) n f) }) b ∧
        Passes s t tile n f j 0 b ∧ ((t.tile tile).node n).last = j) ∧
      (nodeRoom (s.tile tile) n f 0 = false → ∃ t, exec (.mergeByArrivalFire tile n) s = .next t ∧ still t)) ∧
    (∀ s1 b, nodeRuns s tile n 3 = some (g, f) → (List.range (NdF.nin f)).foldl (mergeAccept tile n f) s = s1 →
      ((s1.tile tile).node n).fault = false → ((s1.tile tile).node n).held.find? (fun b => b.tag == ((s1.tile tile).node n).next) = some b →
      nodeRoom (s1.tile tile) n f 0 = true → ∃ t, exec (.mergeByTagFire tile n) s = .next t ∧
        t = fired s1 0 (fun x =>
          { x with held := x.held.erase b, next := x.next + 1, stall := x.stall.counted (nodeWaits (s.tile tile) n f) }) b ∧
        beatsAt (t.tile tile) (outSpot (s1.tile tile) n f 0) = beatsAt (s1.tile tile) (outSpot (s1.tile tile) n f 0) ++ [b] ∧
        ((t.tile tile).node n).held = ((s1.tile tile).node n).held.erase b ∧ ((t.tile tile).node n).next = ((s1.tile tile).node n).next + 1) ∧
    (∀ j b, (nodeHead (s.tile tile) n f j) = some b → b.isMarker = false → x.fault = false → (b.tag - x.next).toNat < NdF.rwin f →
      (∀ h ∈ x.held, h.tag ≠ b.tag) → let t := mergeAccept tile n f s j
      ((t.tile tile).node n).held = x.held ++ [b] ∧
        beatsAt (t.tile tile) (inSpot n f j) = (beatsAt (s.tile tile) (inSpot n f j)).drop 1) ∧
    (∀ b, nodeRuns s tile n 4 = some (g, f) → nodeHead (s.tile tile) n f 0 = some b → b.isMarker = false →
      (∀ j, j < NdF.nout f → x.taken - Assoc.getD x.accepted j 0 < branchWindow f x j) →
      ∃ t, exec (.multicastFire tile n) s = .next t ∧ ((t.tile tile).node n).taken = x.taken + 1 ∧
        (x.held.length < nodeBuffers f → (∀ i j, i < NdF.nout f → j < NdF.nout f → outSpot (s.tile tile) n f i ≠ inSpot n f 0 ∧
            (outSpot (s.tile tile) n f i = outSpot (s.tile tile) n f j → i = j)) →
          beatsAt (t.tile tile) (inSpot n f 0) = (beatsAt (s.tile tile) (inSpot n f 0)).drop 1 ∧
          ∀ j h, j < NdF.nout f → (x.held ++ [b])[Assoc.getD x.accepted j 0 - (x.taken - x.held.length)]? = some h →
            beatsAt (t.tile tile) (outSpot (s.tile tile) n f j) = beatsAt (s.tile tile) (outSpot (s.tile tile) n f j) ++
              (if nodeRoom (s.tile tile) n f j then [h] else []) ∧
            Assoc.getD ((t.tile tile).node n).accepted j 0 = Assoc.getD x.accepted j 0 + (if nodeRoom (s.tile tile) n f j then 1 else 0))) ∧
    (∀ j h s1 h1, let i := Assoc.getD x.accepted j 0 - (x.taken - x.held.length)
      let k := x.taken - x.held.length + i
      x.held[i]? = some h → nodeBuffers f ≤ i → (∀ b, b < NdF.nout f → Assoc.getD x.accepted b 0 ≤ k) → nodeRoom (s.tile tile) n f j = true →
      coilRead (coilActivate s tile g (nodeLine f k) true) tile g (nodeLine f k) h = (s1, h1) → let t := branchFire g tile n f s j
      beatsAt (t.tile tile) (outSpot (s.tile tile) n f j) = beatsAt (s.tile tile) (outSpot (s.tile tile) n f j) ++ [h1] ∧
        Assoc.getD ((t.tile tile).node n).accepted j 0 = Assoc.getD x.accepted j 0 + 1) ∧
    (∀ b, nodeRuns s tile n 5 = some (g, f) → nodeHead (s.tile tile) n f 0 = some b → b.isMarker = false → b.kind ≠ 3 →
      (nodeRoom (s.tile tile) n f 0 = true → ∃ t b1, exec (.replicateFire tile n) s = .next t ∧
        t = fired (nodeTake s tile n f 0) 0 id b1 ∧ Passes s t tile n f 0 0 b1 ∧ b1.tag = b.tag ∧
        (b.kind = 2 → b1.kind = 2 ∧ b1.data.toNat = b.data.toNat % 2 ^ 64) ∧
        (b.kind ≠ 2 → b1.kind = 0 ∧ ∀ l, l < 4 → b1.data.toNat / 2 ^ (64 * l) % 2 ^ 64 =
          if NdF.repmode f = 0 ∨ NdF.replane f = l then b.data.toNat % 2 ^ 64 else 0)) ∧
      (nodeRoom (s.tile tile) n f 0 = false → ∃ t, exec (.replicateFire tile n) s = .next t ∧ still t))

/-- R44, R55, R58, R60, R148, R164, R401, R418 to R420, R459: waves, loads and the end of a graph. A frame that passes its checks is
captured; a graph whose load fails in no tile runs, and rolls back where a tile of it or its router is retired; the marker of a wave is met at an element; a tile all of whose elements have latched is
imaged, and its rows are written one by one to the shadow slot of the wave (in which order is the model's choice: log entry 98); a complete
wave is recorded, once the codec blocks that the graph has written can be encoded; the expiry of the limit checkpoints the threads that have not; a held commit is released; a retired knot goes on; a
rollback goes back or terminates the graph; a graph that has halted retires; one in which nothing fires is hung. -/
def Obligations.WaveSteps : Prop :=
  ∀ (s : State) (g tile th : Nat),
    let x := s.graph g
    let t0 := s.thread th
    (∀ (addr : BitVec 32) (fr : BitVec 256) (gk : Nat), let k := addr.toNat / 2 ^ 17 % 4
      let i := addr.toNat / 2 ^ 8 % 2 ^ 7
      ((s.tile tile).ctx k).graph = some gk → ((s.tile tile).ctx k).loading = true →
      tileAt (addr.toNat / 2 ^ 26) (addr.toNat / 2 ^ 19 % 2 ^ 7) = tile → addr.toNat % 256 = 0 → i ≤ 95 →
      frameKind i = addr.toNat / 2 ^ 15 % 4 → frameOk (s.graph gk) (s.part (gk / 65536)).portmask i fr.toNat = true →
      claimedElsewhere (s.tile tile) k i fr.toNat = false →
      exec (.frameCapture tile addr fr) s = .next (s.mapTile tile (fun t => t.mapCtx k (fun c =>
        { c with frames := Assoc.set c.frames i (.ofNat 256 (frameWritable i fr.toNat)) })))) ∧
    (x.st = .loading → x.snap = none →
      let tiles := (graphTiles x).map (fun x => x.2.2)
      let ks := (List.range x.nctx).map (physCtx x)
      let s1 := ks.foldl (fun s k => endLoad s x.part k tiles false) s
      let s2 := enterRunning s1 g
      (∀ ti ∈ tiles, ∀ k ∈ ks, ((s1.tile ti).ctx k).failed = false) →
      ((∀ ti ∈ tiles, (s2.tile ti).retired = false ∧ (s2.tile ti).routerRetired = false) → exec (.loadingComplete g) s = .next s2) ∧
      (∀ ti ∈ tiles, (s2.tile ti).retired = true ∨ (s2.tile ti).routerRetired = true →
        exec (.loadingComplete g) s = .next (trigger s2 g 0x0B))) ∧
    (∀ k n unit, s.graphs.map Prod.fst = [g] → graphCtxs s g tile = [k] → x.openWave = some n → x.frozen = false →
      (claimNd (s.tile tile) unit = some k → exec (.markerArrival tile 2 unit) s = .next (markNode s g tile k unit n)) ∧
      (claimEn (s.tile tile) unit = some k → exec (.markerArrival tile 3 unit) s = .next (markEngine s g tile k unit n)) ∧
      exec (.markerArrival tile 4 k) s = .next (latchTry (markFeed s g tile k n) g tile k n) ∧
      exec (.markerArrival tile 5 k) s = .next (markDrain s g tile k n) ∧
      exec (.markerArrival tile 6 unit) s = .next (markSlot s g tile unit n)) ∧
    (∀ n p, s.graphs.map Prod.fst = [g] → graphCtxs s g tile ≠ [] → x.openWave = some n → x.pending = some p → x.frozen = false →
      (∀ y ∈ p.tiles, y.tile ≠ tile) → tileLatched s g tile n = true →
      ∃ t, exec (.snapshotRowSave tile) s = .next t ∧
        (t.graph g).pending.map (fun p => p.tiles) = some (p.tiles ++ [tileImage s g tile p.late p.lateRegs])) ∧
    (∀ n p y v r rest, s.graphs.map Prod.fst = [g] → x.openWave = some n → x.pending = some p → p.tiles.find? (fun y => y.tile == tile) = some y →
      Assoc.get? p.saving tile = some v → v.rows = r :: rest → v.posted = true →
      ((s.tile tile).bank (firstShadow s tile + (128 * shadowOf x tile p.wave + r) / 2048)).bgSince = none →
      ∃ t, exec (.snapshotRowSave tile) s = .next t ∧
        t.shadow = Memory.writeBytes s.shadow (shadowKey s tile (128 * shadowOf x tile p.wave + r)) (rowBytes p y r s.drawn) ∧
        ((t.graph g).pending.bind (fun p => Assoc.get? p.saving tile)).map (fun v => v.rows) = some rest) ∧
    (∀ n p, x.openWave = some n → x.pending = some p → x.st = .running → x.frozen = false → x.waiting = none → waveDone s g n = true →
      imbalance (rateMembers s g p) = none → let s1 := drainCodec (drainGraph s g n)
      (encodesHeld s1 g = true → exec (.waveComplete g) s = .next s1) ∧
      (encodesHeld s1 g = false → (s1.graph g).cutting = false → (s1.graph g).cutNext = false →
        ∃ t, exec (.waveComplete g) s = .next t ∧ (t.graph g).lastWave = n ∧ (t.graph g).openWave = none ∧ (t.graph g).deadline = none ∧
          (t.graph g).rollbacks = 0)) ∧
    (∀ n d, x.openWave = some n → x.deadline = some d → x.frozen = false → d ≤ s.mod.ref →
      exec (.latencyLimitExpiry g) s = .next ((graphThreads s g).foldl (expire n) s)) ∧
    (∀ s1, t0.run = .running → t0.wait = .commit → elementRuns s (th / 4) t0.graph = true →
      contained (s.graph t0.graph) = false → epochMetBy s th (deferredReads t0.bight.stores) = none → commitBlock s th = (s1, none) → exec (.commit th) s = .next (release s1 th none t0.pc)) ∧
    (t0.wait = .commit → s.held.any (fun o => o.th == th) = false → t0.bight.stores = [] → t0.bight.pushes = [] → t0.bight.pops = [] → commitPending s th = false →
      startedHolds t0 = false → exec (.knotRetire th) s = .next (s.mapThread th (fun t => { t with wait := .none }))) ∧
    (∀ cause, x.st = .running → x.frozen = true →
      exec (.rollback g cause) s = .next (s.mapGraph g (fun y => { y with waiting := some (y.waiting.getD cause) }))) ∧
    (∀ cause, x.st = .running → x.frozen = false → x.snap = none ∨ contained x = false ∨ x.lapsed = true ∨ 2 ≤ x.rollbacks →
      ∃ t, exec (.rollback g cause) s = .next t ∧ (t.graph g).st = .terminated) ∧
    (∀ cause sn, x.st = .running → x.frozen = false → x.snap = some sn → contained x = true → x.lapsed = false → x.rollbacks < 2 →
      ∃ r, Says r 0x12 (tileAt x.x x.y) cause ∧ exec (.rollback g cause) s =
        .next (rollBack ((record s r).mapGraph g (fun y => { y with rollbacks := x.rollbacks + 1, waiting := none })) g sn)) ∧
    (x.st = .running → x.frozen = false → isActive s g = true → hasHalted s g = true →
      ∃ t, exec (.graphRetire g) s = .next t ∧ (t.graph g).st = .retired ∧ (t.graph g).cause = 0) ∧
    (x.st = .running → x.frozen = false → hangLimit x ≤ x.hang →
      ∃ s1 r, Says r 0x0C (tileAt x.x x.y) 0 ∧ exec (.hangDetect g) s = .next (graphTrap (record s1 r) g 0x15 (u (recDword x 5))) ∧
        (s1.graph g).hung = true ∧ (s1.graph g).frozen = true ∧ s1.threads = s.threads)

/-- R38, R99, R182, R312, R316 to R318, R338, R341, R356, R365, R433: the engines of a slot and the array. While the graph runs, a queue's
turn starts its head and performs its started commands; the head of a queue that is free and whose take token is there leaves the queue and
begins where its start check passes, and fails as its start check says where it does not; a command alone in its queue that retires leaves
the queue, with its destination register written. A COPY moves its next line, an MDRAIN delivers its next elements. A plane fill is applied
in every tile it covers once no vector of its context is in them. A feeder moves the beat at the head of its input into its record buffer,
and frees its slot. In a rectangle the context counter lets the first context in its order that has a vector ready enter it, and a vector
whose time has come is written at every drainer. At a trap point the slot is in its handler for the first of: a trap that a SYSRET has put
off, an engine trap, a held fault, a graph-level trap (that order is log entry 49). A held fault is raised to the thread it belongs to unless that is at S or holds one;
a retry frees every command of the slot's queues of its fault. The order in which engines act within a cycle is the model's (log entry 1). -/
def Obligations.EngineSteps : Prop :=
  ∀ (s : State) (th q tile k : Nat) (a : Active),
    let t0 := s.thread th
    (t0.run ≠ .free → (s.graph t0.graph).st = .running → (s.graph t0.graph).frozen = false → isActive s t0.graph = true →
      (t0.run ≠ .cut → exec (.engineCommandStart th q) s = .next (performQueue (startHead s th q) th q)) ∧
      (t0.run = .cut → exec (.engineCommandStart th q) s = .next (performQueue s th q))) ∧
    (∀ c rest, q < 4 → (t0.queue q).waiting = c :: rest → queueFree s.cycle.toNat t0 q c.i = true → takeFifo q c.i = none → outOfStep s th q c.i = false →
      let s1 := s.mapThread th (fun t => t.mapQueue q (fun u => { waiting := rest, active := u.active ++ [Active.start c] }))
      (startCheck s1 th c = none → startHead s th q = beginActive s1 th q (t0.queue q).active.length (Active.start c)) ∧
      (∀ x, startCheck s1 th c = some x → startHead s th q = startFails s1 th q (t0.queue q).active.length x)) ∧
    (q < 4 → (t0.queue q).active = [a] → retires s th q a = true →
      ∃ t, exec (.engineCommandRetire th q) s = .next t ∧ ((t.thread th).queue q).active = [] ∧
        (t.thread th).rs (cmdDest a.cmd.i) = if cmdDest a.cmd.i = 0 then 0 else a.value) ∧
    (activeAt s th 1 0 = some a → a.begun = true → a.done = false → a.held = none → slotStands s th = false →
      exec (.copyLine th) s = .next (copyStep s th 0 a)) ∧
    (∀ x y z u v, (t0.queue 3).active = [a] → a.cmd.i = .mdrain x y z u v → a.begun = true → a.done = false → a.held = none →
      drainStopped s th a.cmd = false → exec (.drainDeliver th) s = .next (drainStep s th 0 a)) ∧
    (∀ x, activeAt s th 2 0 = some a → planeAct a.cmd.i = some x → a.fill ≠ [] → a.done = false → a.due ≤ s.cycle.toNat →
      slotStands s th = false → (∀ f ∈ a.fill, vectorsIn s f.1 t0.pctx.toNat = false) →
      exec (.planeFillApply th) s = .next (finish (moved (a.fill.foldl (applyPlane x a.cmd.va t0.pctx.toNat) s) t0.graph) th 2 0
        { a with fill := [] } s.cycle.toNat)) ∧
    (∀ g b rest, let c := (s.tile tile).ctx k
      c.graph = some g → c.loaded = true → MpF.feeden c.mpF = true → elementRuns s tile g = true → feedHolds s g tile k = false →
      c.feedFault = false → ((s.tile tile).ep (MpF.feedep c.mpF)).q = b :: rest → c.recBuf.length < recordBeats (s.tile tile) k →
      b.isMarker = false → k < 4 →
      ∃ t, exec (.feedBeatMove tile k) s = .next t ∧ ((t.tile tile).ctx k).recBuf = c.recBuf ++ [b] ∧
        ((t.tile tile).ep (MpF.feedep c.mpF)).q = rest) ∧
    (∀ n rect r r0 j l, s.rects[n]? = some rect → (s.regions.filter (fun r => r.onRect rect)).head? = some r0 →
      ((counterOrder s rect (r0.graph / 65536)).findSome? (fun k => ((s.regions.filter (fun r => r.onRect rect)).find? (fun r => r.pctx == k)).bind
        (fun r => (nextRun s r).map (fun x => (r, x))))) = some (r, (th, j, a)) → runLatch s r th = some l →
      exec (.vectorEntry n) s = .next (enterVector s r th j a l)) ∧
    (∀ n rect v r, s.rects[n]? = some rect → s.vecs = [v] → (∀ d ∈ v.cols, accWaits s d.1 v.row 1 = false) → v.x = rect.x → v.y = rect.y → v.due ≤ s.cycle.toNat → r ∈ s.regions →
      r.onRect rect = true → r.pctx = v.pctx → fabricRuns s r.graph = true →
      exec (.vectorWrite n) s = .next (let s0 := { s with vecs := [] }
        moved (vectorDone (writeColumns s0 v) v) (s.thread v.th).graph)) ∧
    (t0.run = .running → t0.gbar = none → t0.lvl = false → (s.graph t0.graph).hwin.toNat / 2 ^ 63 % 2 = 1 →
      (∀ c v, t0.late = some (c, v) → c < 256 → ∃ t, exec (.engineTrapPoint th) s = .next t ∧ Trapped s t th c v ∧ (t.thread th).late = none) ∧
      (∀ p, t0.late = none → t0.pend = some p → p.code < 256 → ∃ t, exec (.engineTrapPoint th) s = .next t ∧ Trapped s t th p.code p.tval ∧
        (t.thread th).pend = none) ∧
      (∀ p, t0.late = none → t0.pend = none → t0.held = some p → p.code < 256 → ∃ t, exec (.engineTrapPoint th) s = .next t ∧
        Trapped s t th p.code p.tval ∧ (t.thread th).held = none) ∧
      (∀ c v rest, t0.late = none → t0.pend = none → t0.held = none → t0.gtraps = (c, v) :: rest → c < 256 →
        ∃ t, exec (.engineTrapPoint th) s = .next t ∧ Trapped s t th c v ∧ (t.thread th).gtraps = rest)) ∧
    (∀ p r, t0.run ≠ .free → (s.graph t0.graph).st = .running → firstHeld s th = some p → faultThread s th = some r → (s.thread r).lvl = false →
      exec (.heldFault th) s = .next (s.mapThread r (fun t => { t with held := some (t.held.getD p) }))) ∧
    (∃ t, exec (.heldFaultRetry th) s = .next t ∧ ∀ q, q < 4 → ∀ b ∈ ((t.thread th).queue q).active, b.held = none)

/-- R101, R151, R153 to R158, R433, R434: the stream engines. A running stream acts in each cycle, takes a retry that waited for a bank on first,
and then pays the completion it owes: what it
has moved is taken off its cleat. A read stream puts the bytes of its next element behind those that it has read, and sends its oldest
closed beat to its strand where that is empty. A write stream takes the beat at the head of its strand, and puts each live element of it
into the line of its address in the coalescing buffer; a dead element is passed. A line that no element has come to for 64 cycles is sent:
its bytes stand in memory, unless an element waits before it. After a page fault the elements that waited are tried again, and the others stay as
they are: a plain element of an ordered stream is written, with what its line holds. A stream takes the
owner token it awaits, fails on another, and pushes its own once it has ended. (In which cycle each element comes is log entry 41; a line that meets
a refusal, log entry 93.) -/
def Obligations.StreamSteps : Prop :=
  ∀ (s : State) (tile e : Nat),
    let x := (s.tile tile).engine e
    let w := x.scb.toNat
    let ew := Scb.ew w
    let a := agEngine s tile e
    let cells (y : Engine) : List Cell := y.ready.flatMap Prod.snd ++ y.part
    let lineOfByte (y : Engine) (ea : Word) (v : Byte) : Prop :=
      ∃ l ∈ y.coal, l.ea = u (ea.toNat / 64 * 64) ∧ Assoc.get? l.bytes (ea.toNat % 64) = some v
    (x.running = true → x.fault = false → x.ownOwed = false → engineRuns s tile e = true → x.retry = true → x.held = none →
      exec (.streamElement tile e) s = .next (retrySpills s tile e)) ∧
    (x.running = true → x.fault = false → engineRuns s tile e = true → x.retry = false →
      (x.ownOwed = false → x.owed = 0 → Scb.write w = true → exec (.streamElement tile e) s = .next (writeStep s tile e)) ∧
      (x.ownOwed = false → x.owed = 0 → Scb.write w = false → exec (.streamElement tile e) s = .next (readStep s tile e)) ∧
      (x.ownOwed = false → x.owed ≠ 0 → x.held = none → exec (.streamElement tile e) s = .next (payOwed s tile e) ∧
        (Scb.cleat w ≠ 0 → agentHeld s a true [(Scb.cleat w, 16)] = false →
          ∀ s1 old, rmwPiece s a (Scb.cleat w) 16 none (cleatBytes (.rmw (-(x.owed : Int)) 0)) = (s1, 0, old) →
          payOwed s tile e = mapEng s1 tile e (fun x => { x with owed := 0 }))) ∧
      (x.ownOwed = false → x.owed = 0 → Scb.write w = false → x.ready = [] → x.ending = false → x.done = false → x.stopped = false →
        Scb.indmode w = 0 → x.idxErr = 0 → LocalSite s tile (1 + e) a.graph a.lvl x.addr ew →
        ∃ t, exec (.streamElement tile e) s = .next t ∧ cells ((t.tile tile).engine e) = cells x ++ [⟨x.addr, 0, Memory.readBytes s.tmem (2 ^ 18 * tile + x.addr.toNat % 2 ^ 18) ew⟩] ∧
          ((t.tile tile).engine e).elem = x.elem + 1) ∧
      (∀ first cs rest, x.ownOwed = false → x.owed = 0 → Scb.write w = false → x.ready = (first, cs) :: rest → (∀ c ∈ cs, c.code = 0) →
        Scb.port w = 2 → waitingBeats ((s.tile tile).ep (Scb.ep w)) = 0 → Scb.cleat w = 0 → x.done = true ∨ x.ending = true ∨ x.stopped = true →
        ∃ t b, exec (.streamElement tile e) s = .next t ∧
          ((t.tile tile).ep (Scb.ep w)).q = ((s.tile tile).ep (Scb.ep w)).q ++ [b] ∧ b.kind = 0 ∧
          b.data.toNat = littleEndian (cs.flatMap Cell.bytes) % 2 ^ 256 ∧ ((t.tile tile).engine e).beatNo = x.beatNo + 1) ∧
      (∀ b, x.ownOwed = false → x.owed = 0 → Scb.write w = true → x.stopped = false → x.inb = none → x.ending = false → x.done = false →
        x.ownWait = false → Scb.port w ≠ 1 → Scb.port w ≠ 3 → ((s.tile tile).ep (Scb.ep w)).q.head? = some b → b.kind = 0 →
        ∃ t, exec (.streamElement tile e) s = .next t ∧ ((t.tile tile).engine e).inb = some b ∧ ((t.tile tile).engine e).inPos = 0 ∧
          ((t.tile tile).ep (Scb.ep w)).q = ((s.tile tile).ep (Scb.ep w)).q.drop 1) ∧
      (∀ b, x.ownOwed = false → x.owed = 0 → Scb.write w = true → x.stopped = false → x.inb = some b → x.done = false →
        Scb.indmode w = 0 → x.idxErr = 0 →
        (beatLive b x.inPos ew = false → Scb.cleat w = 0 → ∃ t, exec (.streamElement tile e) s = .next t ∧
          ((t.tile tile).engine e).elem = x.elem + 1 ∧ ((t.tile tile).engine e).coal = x.coal ∧ t.tmem = s.tmem ∧ t.vault = s.vault) ∧
        (beatLive b x.inPos ew = true → Scb.accop w = 0 → x.spills = [] → x.held = none → isLocal x.addr = true → x.addr.toNat % 64 + ew ≤ 64 →
          x.coal.length < 4 → (∀ l ∈ x.coal, l.ea = u (x.addr.toNat / 64 * 64) → l.bytes.length + ew < 64) → 0 < ew → ew < 64 →
          ∃ t, exec (.streamElement tile e) s = .next t ∧ ((t.tile tile).engine e).elem = x.elem + 1 ∧
            ∀ j, j < ew → lineOfByte ((t.tile tile).engine e) (x.addr + u j) (.ofNat 8 (b.data.toNat / 2 ^ (8 * (ew * x.inPos + j)))))) ∧
      (∀ l, x.coal.filter (fun l => decide (l.since + 64 ≤ s.cycle.toNat ∨ 64 ≤ l.bytes.length)) = [l] →
        (x.linesWait = true → exec (.coalesceTimeout tile e) s = .next s) ∧
        (x.linesWait = false → exec (.coalesceTimeout tile e) s = .next (sendLine s tile e l)) ∧
        (l.ea.toNat % 64 = 0 → LocalSite s tile (1 + e) a.graph a.lvl l.ea 64 → Scb.cleat w = 0 → (l.bytes.map Prod.fst).Nodup →
          (∀ p ∈ l.bytes, p.1 < 64) →
          (∀ p ∈ l.bytes, Memory.read (sendLine s tile e l).tmem (2 ^ 18 * tile + l.ea.toNat % 2 ^ 18 + p.1) = p.2) ∧
          (∀ k, (∀ p ∈ l.bytes, k ≠ 2 ^ 18 * tile + l.ea.toNat % 2 ^ 18 + p.1) →
            Memory.read (sendLine s tile e l).tmem k = Memory.read s.tmem k) ∧
          ∀ c ∈ (((sendLine s tile e l).tile tile).engine e).coal, c.ea ≠ l.ea)) ∧
      (∀ b, x.ownWait = true → ((s.tile tile).ep (Scb.ownin w)).q.head? = some b → b.kind = 3 →
        b.data.toNat % 256 = Scb.winid w →
        ∃ t, exec (.ownerTokenArrival tile e) s = .next t ∧ (t.tile tile).engine e = { x with ownWait := false } ∧
          ((t.tile tile).ep (Scb.ownin w)).q = ((s.tile tile).ep (Scb.ownin w)).q.drop 1) ∧
      (∀ b, x.ownWait = true → ((s.tile tile).ep (Scb.ownin w)).q.head? = some b → b.kind = 3 →
        b.data.toNat % 256 ≠ Scb.winid w → exec (.ownerTokenArrival tile e) s = .next (post s (.elementFault tile 3 e 2))) ∧
      (x.ownOwed = true → waitingBeats ((s.tile tile).ep (Scb.ownout w)) = 0 →
        ∃ t, exec (.ownerTokenSend tile e) s = .next t ∧ ((t.tile tile).engine e).running = false ∧ ((t.tile tile).engine e).ownOwed = false ∧
          ((t.tile tile).ep (Scb.ownout w)).q = ((s.tile tile).ep (Scb.ownout w)).q ++ [{ data := .ofNat 256 (Scb.winid w), pred := 0, kind := 3, tag := 0 }])) ∧
    (x.running = false → exec (.spillQueueRetry tile e) s = .next (mapEng s tile e (fun x => { x with held := none, stopped := false, retry := false }))) ∧
    (x.running = true → Scb.write w = false →
      exec (.spillQueueRetry tile e) s = .next (retryRead (mapEng s tile e (fun x => { x with held := none, stopped := false, retry := false })) tile e)) ∧
    (∀ p, x.running = true → Scb.write w = true → Scb.accop w = 0 → x.spills = [p] → Scb.cleat w = 0 → x.owed = 0 →
      let base := u (p.ea.toNat / 64 * 64)
      p.ea.toNat % 64 + p.data.length ≤ 64 → LocalSite s tile (1 + e) a.graph a.lvl base 64 →
      (∀ l ∈ x.coal, l.ea = base → (l.bytes.map Prod.fst).Nodup ∧ ∀ q ∈ l.bytes, q.1 < 64) →
      ∃ t, exec (.spillQueueRetry tile e) s = .next t ∧ ((t.tile tile).engine e).spills = [] ∧ ((t.tile tile).engine e).held = none ∧
        (∀ l ∈ ((t.tile tile).engine e).coal, l.ea ≠ base) ∧
        ∀ j v, p.data[j]? = some v → Memory.read t.tmem (2 ^ 18 * tile + p.ea.toNat % 2 ^ 18 + j) = v)

/-- R171, R386, R393, R396, R417, R452, R466: the dispatcher, the homes and the host. An evaluation that is due runs, and the next is at
least 16 cycles later. A context switch ends once no graph of the outgoing context runs: the incoming one is active, its slice starts, and
an evaluation is due. At the end of a slice the header is read again, and where no other entry has work the slice starts again, and where
one has, each running graph of the active context is cut. A write to a queue's tail makes an evaluation due in the partition that owns the
queue. A home performs what it accepted for the line of a waiting access; a router answers for a home that is retired, or that no route
reaches. Egress below three quarters of its buffer changes nothing, and at three quarters it opens a forced wave on a contained graph that holds writes there. An
access of the host that comes by a host-facing port of its group's bridge is a read, a write or an atomic within a line of a partition's address
space; what it reads goes back to the host; one that does not come so, or does not fit, does nothing, and one whose bank is held waits. What an
access of another device of the group does, and its limits, are the model's choice (log entry 109); so are the host's agent (log entry 19), that the
header is not read at a slice end whose active entry is invalid (log entry 54), and the copies that the dispatcher keeps (log entry 94). -/
def Obligations.DispatcherSteps : Prop :=
  ∀ (s : State) (part n : Nat),
    let p := s.part part
    (p.exists_ = true → p.evalDue = true → p.evalAt ≤ s.cycle.toNat → p.incoming = none →
      exec (.dispatchEvaluation part) s = .next (evaluate (s.mapPart part (fun p =>
        { p with evalDue := false, evalAt := s.cycle.toNat + 16 })) part)) ∧
    (∀ j, p.incoming = some j → stillRuns s part p.active = [] →
      ∃ t, exec (.contextSwitch part) s = .next t ∧ (t.part part).active = j ∧ (t.part part).incoming = none ∧
        (t.part part).sliceAt = s.mod.ref ∧ (t.part part).evalDue = true) ∧
    (p.exists_ = true → p.incoming = none → sliceOver s part = true →
      let s1 := if entryValid s part p.active then readHeader s part else s
      (nextEntry s1 part = none → exec (.sliceEnd part) s = .next (s1.mapPart part (fun p => { p with sliceAt := s.mod.ref }))) ∧
      (∀ j, nextEntry s1 part = some j → exec (.sliceEnd part) s =
        .next ((stillRuns s1 part p.active).foldl cutGraph (s1.mapPart part (fun p => { p with incoming := some j }))))) ∧
    (queueOwner s n = some part → ∃ t, exec (.queueTailWrite n) s = .next t ∧ (t.part part).evalDue = true) ∧
    (∀ o, s.homeQ[n]? = some o →
      exec (.homePerform n) s = .next (drainLine s (lineOf o.leaf.toNat o.large o.ea)) ∧
      (Pte.host o.leaf.toNat = false → homeDead s (o.th / 4) (Pte.tile o.leaf.toNat) = true → opReady s o = true →
        exec (.deadHomeAnswer n) s = .next (performOp { s with homeQ := s.homeQ.eraseIdx n } o))) ∧
    (∀ port, (egressHeld s port < Config.egressBytes / 4 * 3 → exec (.egressThreshold port) s = .next s) ∧
      (∀ g, Config.egressBytes / 4 * 3 ≤ egressHeld s port → egressGraphs s port = [g] → (s.graph g).openWave = none →
        (s.graph g).st = .running → (s.graph g).frozen = false → exec (.egressThreshold port) s = .next (openForced s g))) ∧
    (∀ (port : Nat) (dev : Option Nat) (va : Word) (req : HostReq),
      (s.mod.bridge = false ∨ 128 ≤ port ∨ (s.port port).up = false ∨ dev.isNone = !s.mod.hostPorts.getLsbD port →
        exec (.hostAccess port dev part va req) s = .next s) ∧
      (hostArrives s port dev = true → hostFits s dev part va req = true → s.mod.hostQ = [] → hostHeld s dev part va req = false →
        exec (.hostAccess port dev part va req) s = .next (serveHost s dev part va req)) ∧
      (hostArrives s port dev = true → hostFits s dev part va req = true → s.mod.hostQ ≠ [] ∨ hostHeld s dev part va req = true →
        exec (.hostAccess port dev part va req) s = .next { s with mod := { s.mod with hostQ := s.mod.hostQ ++ [(dev, part, va, req)] } })) ∧
    (∀ (port : Nat) (va : Word), s.mod.bridge = true → port < 128 → (s.port port).up = true → s.mod.hostPorts.getLsbD port = true → s.mod.hostQ = [] →
      va.toNat < 2 ^ 60 → p.exists_ = true →
      let a : Ag := { tile := 0, eng := none, part := part, lvl := false, graph := graphKey 16 0, epoch := 0, th := 0 }
      (∀ n, 0 < n → va.toNat % 64 + n ≤ 64 → agentHeld s a false [(va, n)] = false → let r := readPiece s a va n
        exec (.hostAccess port none part va (.read n)) s = .next { r.1 with mod := { r.1.mod with hostRead := r.2.2 } }) ∧
      (∀ bs, 0 < bs.length → va.toNat % 64 + bs.length ≤ 64 → agentHeld s a true [(va, bs.length)] = false →
        exec (.hostAccess port none part va (.write bs)) s = .next (writePiece s a va bs false).1) ∧
      (∀ k cmp val, va.toNat % amoWidth k = 0 → agentHeld s a true [(va, amoWidth k)] = false →
        let r := rmwPiece s a va (amoWidth k) (some k) (amoBytes k val cmp)
        exec (.hostAccess port none part va (.amo k cmp val)) s = .next { r.1 with mod := { r.1.mod with hostRead := r.2.2 } }))

/-- R440, R441, R464, R465: the fabric ports. A port goes down once its replay buffer is exhausted, and comes back on those of its lanes that are
not retired; a pair that loses its alignment retires its lane; a retry sends the named flit and every later one again; a flit whose CRC fails is not
delivered and asks for a retry; one that comes before its turn waits for those of lower numbers, and is delivered after them; a beat is written at
the next 32 bytes of its window, and dropped where the port has none (a stream port without a window: log entry 59; which lane fails training: log
entry 60). -/
def Obligations.PortSteps : Prop :=
  ∀ (s : State) (port : Nat),
    let p := s.port port
    (p.up = true → Config.replayFlits ≤ p.replay.length → ∃ t, exec (.portDown port) s = .next t ∧ (t.port port).up = false ∧
      (t.port port).replay = []) ∧
    (∀ lanes, port < 128 → 1 ≤ lanes → lanes ≤ 2 → p.up = false →
      (p.retired = 0 → ∃ t, exec (.portUp port lanes) s = .next t ∧ (t.port port).up = true ∧
        (t.port port).lane0 = true ∧ (t.port port).lane1 = decide (lanes = 2) ∧ (t.port port).txSeq = 0 ∧ (t.port port).rxSeq = 0) ∧
      (p.retired = 1 ∨ p.retired = 2 → ∃ t, exec (.portUp port lanes) s = .next t ∧ (t.port port).up = true ∧
        (t.port port).lane0 = decide (p.retired = 2) ∧ (t.port port).lane1 = decide (p.retired = 1) ∧
        (t.port port).retired = p.retired ∧ (t.port port).txSeq = 0 ∧ (t.port port).rxSeq = 0) ∧
      (p.retired = 3 → exec (.portUp port lanes) s = .next s)) ∧
    (∀ pair, port < 128 → pair < 4 → p.up = true → p.lane0 = true → p.lane1 = true →
      (∃ t, exec (.pairLosesAlignment port 0 pair) s = .next t ∧ (t.port port).lane0 = false ∧ (t.port port).lane1 = true ∧
        (t.port port).retired = p.retired ||| 1) ∧
      (∃ t, exec (.pairLosesAlignment port 1 pair) s = .next t ∧ (t.port port).lane1 = false ∧ (t.port port).lane0 = true ∧
        (t.port port).retired = p.retired ||| 2)) ∧
    (∀ seq, p.up = true → tallyHit (s.mapPort port (fun p => { p with sent := p.sent ++ p.replay.dropWhile (fun f => flitSeq f != seq), replayed := p.replayed + u (p.replay.dropWhile (fun f => flitSeq f != seq)).length, errors := p.errors + 1 }))
        (portTile port) 3 (2 * port + if p.lane0 && p.lane1 then seq.toNat % 2 else if p.lane0 then 0 else 1) = none →
      ∃ t, exec (.flitReplay port seq) s = .next t ∧ (t.port port).sent = p.sent ++ p.replay.dropWhile (fun f => flitSeq f != seq)) ∧
    (∀ flit : BitVec 2048, p.up = true → (Config.crc64 (leBytes 248 flit.toNat)).toNat ≠ flit.toNat / 2 ^ 1984 →
      ∃ t f, exec (.flitReceive port flit) s = .next t ∧ (t.port port).sent = p.sent ++ [f] ∧ (t.port port).rx = p.rx ∧
        (t.port port).rxSeq = p.rxSeq) ∧
    (∀ flit : BitVec 2048, p.up = true → (Config.crc64 (leBytes 248 flit.toNat)).toNat = flit.toNat / 2 ^ 1984 → flit.toNat / 2 ^ 32 % 16 = 0 →
      (flitSeq flit = p.rxSeq + 1 → p.early = [] → ∃ t, exec (.flitReceive port flit) s = .next t ∧ (t.port port).rxSeq = p.rxSeq + 1) ∧
      (∀ g, flitSeq flit = p.rxSeq + 1 → p.early = [g] → flitSeq g = p.rxSeq + 2 →
        ∃ t, exec (.flitReceive port flit) s = .next t ∧ (t.port port).rxSeq = p.rxSeq + 2 ∧ (t.port port).early = []) ∧
      (flitSeq flit ≠ p.rxSeq + 1 → (flitSeq flit - (p.rxSeq + 1)).toNat < Config.replayFlits → (∀ g ∈ p.early, flitSeq g ≠ flitSeq flit) →
        ∃ t, exec (.flitReceive port flit) s = .next t ∧ (t.port port).rxSeq = p.rxSeq ∧ (t.port port).rx = p.rx ∧
          (t.port port).early = p.early ++ [flit])) ∧
    (∀ sp data pred, sp < 32 → Assoc.get? p.windows sp = none → exec (.farPortBeat (32 * port + sp) data pred) s = .next (dropPeer s port sp 0)) ∧
    (∀ sp data pred base len pos, sp < 32 → Assoc.get? p.windows sp = some (base, len, pos, true) → pos.toNat + 32 ≤ len.toNat →
      let runs := liveRuns { data := data, pred := pred, kind := 0, tag := 0 }
      agentHeld s (portAg s port) true (runs.map (fun r => (base + pos + u r.1, 4))) = false →
      (windowCause s (portAg s port) (base + pos) runs).1 = 0 →
      exec (.farPortBeat (32 * port + sp) data pred) s =
        .next (windowStep (runs.foldl (fun s r => (writePiece s (portAg s port) (base + pos + u r.1) r.2 false).1) s) port sp true))

/-- R371, R451, R461 to R473: the module. Power is on after a power-up where the firmware in flash verifies; an update waits for the next
power-up. An attestation report is 1,016 bytes, and holds the nonce and the time counter; a sensor read changes nothing. A sample of a zone
at TRIP removes power; one at WARN warns the zone and starts its deadline, which runs in time that the stretch does not change; one at or below
CLEAR ends the warned state; any other only records the temperature. A deadline that passes above CLEAR stretches the clock by one step, as does
each further 50 microseconds while the zone stays above CLEAR, up to four edges in eight; with every zone below CLEAR a step is released after 50
microseconds. A draw above the power limit adds a step, up to four, and any other does nothing. A freeze stops the device and its release lets it go
on. A partition with no running, loading or cut graph takes the rectangle, banks, ports and queues it is given; a tile that firmware retires is
retired. When samples and draws come is the outside world's, and when in a cycle the steps do the model's (log entry 1); that steps of several zones
add up, when the first release comes, and that a release lowers the power limit's step where heat has brought none, are the model's choice (log
entry 61), as is the power limit (log entry 7). -/
def Obligations.ModuleSteps : Prop :=
  ∀ (s : State) (zone tile : Nat),
    let m := s.mod
    let z := s.zone zone
    (∃ t, exec .powerUp s = .next t ∧ t.mod.powerUps = m.powerUps + 1 ∧ t.mod.flash = some (flashOf s) ∧
      t.mod.powered = Config.firmwareVerifies (flashOf s)) ∧
    (∀ image, exec (.firmwareUpdate image) s = .next { s with mod := { m with update := some image } }) ∧
    (∀ nonce, ∃ r, exec (.attestationRequest nonce) s = .next { s with mod := { m with report := some r } } ∧ r.length = 1016 ∧
      littleEndian (r.take 48) = nonce.toNat ∧ littleEndian ((r.drop 912).take 8) = s.cycle.toNat) ∧
    (∀ k, exec (.pldmMonitorRead k) s = .next s) ∧
    (∀ temp, zone < 48 → let s1 := s.mapZone zone (fun x => { x with temp := temp, valve := Config.valveFor zone temp })
      (z.trip ≤ temp → ∃ t, exec (.thermalSample zone temp) s = .next t ∧ t.mod.tripped = true ∧ t.mod.powered = false) ∧
      (temp < z.trip → z.warn ≤ temp → z.warned = false → ∃ t, exec (.thermalSample zone temp) s = .next t ∧
        (t.zone zone).warned = true ∧ (t.zone zone).deadline = some (m.ref + usTicks m.deadlineUs)) ∧
      (temp < z.trip → temp < z.warn → temp ≤ z.clear →
        exec (.thermalSample zone temp) s = .next (s1.mapZone zone (fun x => { x with warned := false, deadline := none }))) ∧
      (temp < z.trip → temp < z.warn ∨ z.warned = true → z.clear < temp → exec (.thermalSample zone temp) s = .next s1)) ∧
    (∀ d, z.deadline = some d → z.warned = true → d ≤ m.ref → z.clear < z.temp → ∃ t, exec (.thermalDeadline zone) s = .next t ∧
      t.mod.stretch = (if m.stretch + m.limited < 4 then m.stretch + 1 else m.stretch) ∧ (t.zone zone).deadline = none ∧
      (t.zone zone).stepAt = d + usTicks 50) ∧
    (∀ d, z.deadline = some d → m.ref < d ∨ z.temp ≤ z.clear → exec (.thermalDeadline zone) s = .next s) ∧
    (z.warned = true → z.deadline = none → z.clear < z.temp →
      (z.stepAt ≤ m.ref → ∃ t, exec (.stretchStep zone) s = .next t ∧
        t.mod.stretch = (if m.stretch + m.limited < 4 then m.stretch + 1 else m.stretch) ∧ (t.zone zone).stepAt = z.stepAt + usTicks 50) ∧
      (m.ref < z.stepAt → exec (.stretchStep zone) s = .next s)) ∧
    (z.warned = false → (∀ e ∈ s.zones, e.2.temp < e.2.clear) → 0 < m.stretch + m.limited →
      (m.releaseAt = none → exec (.stretchStep zone) s = .next { s with mod := { m with releaseAt := some (m.ref + usTicks 50) } }) ∧
      (∀ r, m.releaseAt = some r → m.ref < r → exec (.stretchStep zone) s = .next s) ∧
      (∀ r, m.releaseAt = some r → r ≤ m.ref → exec (.stretchStep zone) s = .next { s with mod := { m with
        stretch := m.stretch - 1, limited := if 0 < m.stretch then m.limited else m.limited - 1, releaseAt := some (r + usTicks 50) } })) ∧
    (∀ watts, (watts ≤ m.powerLimit → exec (.powerLimitStep watts) s = .next s) ∧
      (m.powerLimit < watts → ∃ t, exec (.powerLimitStep watts) s = .next t ∧ t.mod.stretch = m.stretch ∧
        t.mod.limited = if m.stretch + m.limited < 4 then m.limited + 1 else m.limited)) ∧
    exec .deviceFreeze s = .next { s with mod := { m with frozen := true } } ∧
    (∀ cycles, m.frozen = true → ∃ t, exec (.deviceFreezeRelease cycles) s = .next t ∧ t.mod.frozen = false) ∧
    (∀ part x y wd ht bankmap ports queues, part < 16 → (∀ e ∈ s.graphs, e.2.part = part → e.2.st ≠ .running ∧ e.2.st ≠ .loading ∧ e.2.st ≠ .cut) →
      rectFree s part x y wd ht = true → 0 < wd → 0 < ht →
      ∃ t, exec (.partitionChange part x y wd ht bankmap ports queues) s = .next t ∧ (t.part part).exists_ = true ∧
        (t.part part).prect = u (x + y * 2 ^ 8 + wd * 2 ^ 16 + ht * 2 ^ 24 + part * 2 ^ 32) ∧
        (t.part part).bankmap = bankmap ∧ (t.part part).portmask = ports ∧ (t.part part).qmask = queues) ∧
    (tile < 6144 → (s.tile tile).retired = false → ∃ t, exec (.tileRetirementByFirmware tile) s = .next t ∧ (t.tile tile).retired = true)

/-! ### Encoding, steps, reset and the invariant -/

namespace Sys2Proof.Claims
open Sys2Proof.Machine Sys2Proof.Safety

/-- A device step, or a fetch that found no instruction: it has no word. -/
def wordless (i : Instr) : Prop := encode i = none

/-- R193, R203: the instruction of a word: what it decodes to, or the word itself where it encodes none. -/
def wordInstr (w : Nat) : Instr := (decodeWord w).getD (.illegalWord (.ofNat 32 w))

/-- R31, A1: the slot i issues now: no device step is due, the device runs, it is the slot's turn, and no trap waits for it. -/
def Issues (s : State) (i : Nat) : Prop :=
  s.agenda = [] ∧ s.mod.powered = true ∧ s.mod.tripped = false ∧ s.mod.frozen = false ∧ pickSlot s = some i ∧
  dueTrap (s.thread i) = false

end Sys2Proof.Claims

/-- R195 to R204, R246: words written out field by field from the encoding tables decode to their instructions. -/
def Obligations.DecodedWords : Prop :=
  decodeWord 0x00000001 = some .nop ∧ decodeWord 0x04831000 = some (.add 4 3 2) ∧ decodeWord 0x04E1103E = some (.sel 7 1 2 3) ∧
  decodeWord 0x14A5FFFF = some (.addi 5 5 0xFFFF) ∧ decodeWord 0x44881FFD = some (.bpAny 2 0x1FFD) ∧
  decodeWord 0x60611080 = some (.vadd 3 1 2 1 0) ∧ decodeWord 0x58C740C3 = some (.indexedLoad 6 7 8 6 3) ∧
  decodeWord 0xA8030225 = some (.cleatArv 3 2 5) ∧ decodeWord 0xC0853025 = some (.copy 4 5 6 false 4 5) ∧
  decodeWord 0xD0800445 = some (.rowtakePl 4 true 0 5) ∧ decodeWord 0xE5231080 = some (.spush 9 3 false 2) ∧
  decodeWord 0xF4A63826 = some (.graphctlSlot 5 6 7) ∧ decodeWord 0x00000000 = none ∧ decodeWord 0xFC000000 = none

/-- R194 to R204: for every well-formed instruction that has a word, with every operand at every value its encoding admits, the word is of
32 bits and decodes to the instruction. -/
def Obligations.EncodeDecode : Prop :=
  ∀ (i : Instr) (w : Nat), i.wellFormed = true → encode i = some w → w < 2 ^ 32 ∧ decodeWord w = some i

/-- R202, R203: a word that decodes is the word of the well-formed instruction that it decodes to: no two words share an instruction, and no
reserved bit is ignored. -/
def Obligations.DecodeEncode : Prop :=
  ∀ (i : Instr) (w : Nat), w < 2 ^ 32 → decodeWord w = some i → encode i = some w ∧ i.wellFormed = true

/-- R35, R104, R193, R203, R318, R364, R461, R471: one step. The device step at the head of the agenda runs first (the order of device and threads
is the model's choice: log entry 1). A slot that issues, its
PC outside the handler window or at S, runs the instruction that the four bytes at its PC encode, little-endian, the word kept in its tile's
instruction buffer; of a word that the buffer holds and that memory no longer does, the old or the new one runs; bytes that encode none
raise ILLEGAL, poisoned bytes POISON; a trap that waits is taken first; a fetch from the window at U raises PROT. Without power nothing
runs. -/
def Obligations.StepRunsDecoded : Prop :=
  (∀ (s : State) (i : Nat), Issues s i → fetchRefused s i = false →
    let pc := (s.thread i).pc
    let w := littleEndian (Memory.readBytes s.tmem (2 ^ 18 * (i / 4) + pc.toNat) 4)
    let bad := tmemPoison s (2 ^ 18 * (i / 4) + pc.toNat) 4
    let kept (s : State) : State := s.mapTile (i / 4) (fun t => { t with ibuf := Assoc.set t.ibuf pc.toNat (.ofNat 32 w) })
    let sensed (s : State) : State := tmemSense s (2 ^ 18 * (i / 4) + pc.toNat) 4
    (Assoc.get? (s.tile (i / 4)).ibuf pc.toNat = none →
      step s = if bad then exec (.poisonedFetch pc) (sensed (takeSlot s i)) else exec (wordInstr w) (kept (takeSlot s i))) ∧
    (∀ c, Assoc.get? (s.tile (i / 4)).ibuf pc.toNat = some c →
      (c.toNat = w → bad = false → step s = exec (wordInstr w) (takeSlot s i)) ∧
      (c.toNat ≠ w ∨ bad = true → step s = exec (wordInstr c.toNat) (takeSlot s i).draw ∨
        step s = if bad then exec (.poisonedFetch pc) (sensed (takeSlot s i)).draw else exec (wordInstr w) (kept (takeSlot s i).draw)))) ∧
  (∀ (s : State) (i : Nat), Issues s i → fetchRefused s i = true → ∃ v, step s = .next (raise (takeSlot s i) 6 v)) ∧
  (∀ (s : State) (i : Nat), s.agenda = [] → s.mod.powered = true → s.mod.tripped = false → s.mod.frozen = false → pickSlot s = some i →
    dueTrap (s.thread i) = true → step s = exec (.engineTrapPoint i) (takeSlot s i)) ∧
  (∀ (s : State) (x : Instr) (rest : List Instr), s.agenda = x :: rest → s.mod.powered = true → s.mod.tripped = false → s.mod.frozen = false →
    step s = exec x { s with agenda := rest }) ∧
  (∀ s : State, s.agenda = [] → s.mod.powered = false ∨ s.mod.tripped = true → step s = .fault .poweredDown) ∧
  (∀ s : State, s.agenda = [] → s.mod.powered = true → s.mod.tripped = false → s.mod.frozen = true → step s = .next s)

/-- R25, R50, R67, R83, R97, R105, R110, R165, R364, R461: what reset leaves, where the spec gives it: every scale register 1.0, no tag
table entry valid, every strand format entry 0, every plane descriptor 0, no row open; FPCTL 0 and a re-entry limit of 8 in every slot;
BANKMAP with banks 0 to 27 for row commands, coils from 28 and shadows from 30; no handler window; the thermal thresholds at their defaults;
no graph and no partition (that partitions come with a power-up, and that the machine starts without one, are the model's choice: log entries 5 and
7). -/
def Obligations.ResetState : Prop :=
  (∀ i k, (State.reset.tile i).scale k = 0x3F800000 ∧ (∀ h : k < 64, (State.reset.tile i).tags[k]'h = 0) ∧
    (State.reset.tile i).fmtEntry k = 0 ∧ ((State.reset.tile i).plane k).desc = 0 ∧ ((State.reset.tile i).bank k).row = none) ∧
  (∀ k, (State.reset.part k).bankmap.toNat = 27 + 28 * 2 ^ 8 + 30 * 2 ^ 16 ∧ (State.reset.part k).hwin.toNat / 2 ^ 63 = 0 ∧
    (State.reset.part k).exists_ = false) ∧
  (∀ i, (State.reset.thread i).fpctl = 0 ∧ (State.reset.thread i).rlim = 8) ∧
  (∀ i, (State.reset.zone i).warn = 95 ∧ (State.reset.zone i).clear = 90 ∧ (State.reset.zone i).trip = 110) ∧ State.reset.graphs = []

/-- Every memory of the machine is a list of bytes at strictly rising addresses with no byte equal to what an unlisted address reads as
(which byte that is, is the model's choice: log entry 3). -/
def Obligations.MemoryAtReset : Prop := MemoryOk State.reset

/-- Every step of the machine, of a thread or of the device, keeps every memory in its canonical form (what an unlisted address reads as is
the model's choice: log entry 3). -/
def Obligations.MemoryKept : Prop := ∀ s s' : State, MemoryOk s → step s = .next s' → MemoryOk s'


/-- R38, R44, R55, R108, R110, R171, R312, R338, R341, R393, R466: the effect of the device's actions where it is simplest to see: on one
access, one row, one thread, one drainer. (The latency of a region is log entry 35; that a discard puts all of FPCTL back is log entry 77.) A store
that its home performs, and a write of the host, put their bytes, and no other, into the
vault. A copy between two local lines moves its next unit. A started ROWCLOSE closes its row. A vector that enters the array is under way
for the latency of its region. A vector that is written replaces the slots of its row at its drainer. A drain to a strand hands its endpoint
the converted slots of its row. A commit that was waiting for room puts its push into the strand. The expiry of a wave's limit discards the
bight of a thread that has not checkpointed, and checkpoints it at the bight's start. After an evaluation the next is 16 cycles later. -/
def Obligations.DeviceEffects : Prop :=
  ∀ (s : State) (th : Nat) (a : Active),
    let tile := th / 4
    let t0 := s.thread th
    let loc (x : Word) : Nat := 2 ^ 18 * tile + x.toNat % 2 ^ 18
    let under : Prop := t0.run ≠ .free ∧ (s.graph t0.graph).st = .running ∧ (s.graph t0.graph).frozen = false ∧ isActive s t0.graph = true
    (∀ o bs pz, s.homeQ = [o] → o.act = .store bs pz → o.hw = false → o.settled s = false → contained (s.graph o.graph) = false →
      GlobalSite s (o.th / 4) o.leaf o.large o.ea bs.length →
      ∃ t, exec (.homePerform 0) s = .next t ∧ t.homeQ = [] ∧ t.vault = Memory.writeBytes s.vault (vaultByte o.leaf o.large o.ea) bs ∧
        t.tmem = s.tmem ∧ t.threads = s.threads) ∧
    (∀ port part va bs (x : TlbEntry), s.mod.bridge = true → port < 128 → (s.port port).up = true → s.mod.hostPorts.getLsbD port = true →
      s.mod.hostQ = [] → va.toNat < 2 ^ 60 → (s.part part).exists_ = true → s.homeQ = [] → contained (s.graph (graphKey 16 0)) = false → (s.tile 0).tlb.find? (tlbHit part (va.toNat % 2 ^ 56)) = some x →
      GlobalSite s 0 x.entry x.large va bs.length →
      ∃ t, exec (.hostAccess port none part va (.write bs)) s = .next t ∧
        t.vault = Memory.writeBytes s.vault (vaultByte x.entry x.large va) bs ∧ t.tmem = s.tmem ∧ t.threads = s.threads) ∧
    (∀ p q r u_ v, activeAt s th 1 0 = some a → a.begun = true → a.done = false → a.held = none → a.owed = 0 → slotStands s th = false → a.cmd.i = .copy p q r false u_ v →
      a.cmd.vd = 0 → a.pos < a.cmd.vc.toNat →
      let dst := a.cmd.va + u a.pos
      let src := a.cmd.vb + u a.pos
      let n := min (a.cmd.vc.toNat - a.pos) (64 - dst.toNat % 64)
      LocalSite s tile 9 t0.graph a.cmd.lvl dst n → LocalSite s tile 9 t0.graph a.cmd.lvl src n →
      ∃ t, exec (.copyLine th) s = .next t ∧ (∀ k, k < n → Memory.read t.tmem (loc dst + k) = Memory.read s.tmem (loc src + k)) ∧
        (∀ k, k < loc dst ∨ loc dst + n ≤ k → Memory.read t.tmem k = Memory.read s.tmem k) ∧
        (activeAt t th 1 0).map (fun b => b.pos) = some (a.pos + n)) ∧
    (∀ p y z, under → (t0.queue 2).waiting = [] → (t0.queue 2).active = [a] → a.cmd.i = .rowclose p false y z → a.begun = true → a.done = false →
      a.held = none → a.fill = [] →
      let bank := a.cmd.va.toNat / 2 ^ 11 % 32
      rowHazard s.cycle.toNat (a.cmd.va.toNat % 2 ^ 11) false (s.tile tile) ((s.tile tile).bank bank) = .clear →
      ∃ t, exec (.engineCommandStart th 2) s = .next t ∧ ((t.tile tile).bank bank).row = none ∧
        ((t.tile tile).bank bank).closed = some s.cycle.toNat) ∧
    (∀ n rect r r0 j l, s.rects[n]? = some rect → (s.regions.filter (fun r => r.onRect rect)).head? = some r0 →
      ((counterOrder s rect (r0.graph / 65536)).findSome? (fun k => ((s.regions.filter (fun r => r.onRect rect)).find? (fun r => r.pctx == k)).bind
        (fun r => (nextRun s r).map (fun x => (r, x))))) = some (r, (th, j, a)) → runLatch s r th = some l →
      ∃ t v, exec (.vectorEntry n) s = .next t ∧ t.vecs = s.vecs ++ [v] ∧ v.x = r.x ∧ v.y = r.y ∧ v.pctx = r.pctx ∧ v.th = th ∧
        v.row = a.cmd.va.toNat % 2 ^ 9 + a.pos ∧ ((∀ o ∈ s.vecs, o.th = th → o.x = r.x ∧ o.y = r.y ∧ o.pctx = r.pctx) →
          v.due = s.cycle.toNat + r.lat)) ∧
    (∀ n rect v r d ws, s.rects[n]? = some rect → s.vecs = [v] → v.cols = [(d, ws)] → accWaits s d v.row 1 = false → v.x = rect.x → v.y = rect.y →
      v.due ≤ s.cycle.toNat → r ∈ s.regions → r.onRect rect = true → r.pctx = v.pctx → fabricRuns s r.graph = true → v.acc = false → v.lost = [] → v.cleat = 0 → ws.length ≤ 16 →
      ∃ t, exec (.vectorWrite n) s = .next t ∧ t.vecs = [] ∧ (∀ m w, ws[m]? = some w → (t.tile d).slot v.row m = w) ∧
        ∀ k m, k ≠ v.row → m < 16 → (t.tile d).slot k m = (s.tile d).slot k m) ∧
    (∀ x y z p q e, (t0.queue 3).active = [a] → a.cmd.i = .mdrain x y z p q → a.begun = true → a.done = false → a.held = none → a.owed = 0 →
      drainStopped s th a.cmd = false → a.cmd.va.toNat / 2 ^ 21 % 2 = 1 → a.cmd.vc = 0 → a.cmd.nan = false → a.row ≠ a.cmd.va.toNat / 2 ^ 9 % 2 ^ 9 + 1 →
      let k := t0.pctx.toNat
      let row := a.cmd.va.toNat % 2 ^ 9 + a.row
      let w := drainWidth a.cmd.va
      let n := min (drainCols s tile k - a.pos) (32 / w)
      drainCols s tile k ≠ 0 → drainStream (s.tile tile) k = none → drainEndpoint ((s.tile tile).ctx k) = some e → ((s.tile tile).ep e).q = [] →
      (s.tile tile).accBad = [] → (s.tile tile).accPoison = [] →
      ∃ t b, exec (.drainDeliver th) s = .next t ∧ ((t.tile tile).ep e).q = [b] ∧ b.kind = 0 ∧
        b.data.toNat = littleEndian ((List.range n).flatMap (fun i => leBytes w (drainSlot (a.cmd.va.toNat / 2 ^ 18 % 8) (intFormat (a.mode % 16))
          (Acc.ofWord ((s.tile tile).slot row (a.pos + i))) (drainScale a) a.cmd.fz).1)) % 2 ^ 256) ∧
    (∀ s1 p, t0.run = .running → t0.wait = .commit → elementRuns s tile t0.graph = true →
      contained (s.graph t0.graph) = false → t0.bight.stores = [] → t0.bight.pops = [] → t0.bight.pushes = [p] → commitBlock s th = (s1, none) →
      ∃ t, exec (.commit th) s = .next t ∧ (t.thread th).bight.pushes = [] ∧
        ((t.tile tile).ep p.ep).q = ((s.tile tile).ep p.ep).q ++ [p.beat]) ∧
    (∀ g n d, (s.graph g).openWave = some n → (s.graph g).deadline = some d → (s.graph g).frozen = false → d ≤ s.mod.ref →
      graphThreads s g = [th] → t0.graph = g → t0.run = .running → t0.wave ≠ n → startedHolds t0 = false → t0.gbar = none → s.homeQ = [] →
      t0.lvl = false → Thread.outside t0 = false → t0.rcnt.toNat + 1 < t0.rlim.toNat →
      ∃ t, exec (.latencyLimitExpiry g) s = .next t ∧ (t.thread th).wave = n ∧ (t.thread th).pc = t0.bight.start ∧
        (t.thread th).lc = t0.bight.lc0 ∧ (t.thread th).fpctl = t0.bight.fp0 ∧ (t.thread th).bight.stores = [] ∧
        (t.thread th).rcnt = t0.rcnt + 1) ∧
    (∀ part, (s.part part).exists_ = true → (s.part part).evalDue = true → (s.part part).evalAt ≤ s.cycle.toNat → (s.part part).incoming = none →
      ∃ t, exec (.dispatchEvaluation part) s = .next t ∧ (t.part part).evalAt = s.cycle.toNat + 16)
end

