-- ==== Sys2Proof/Laws/Store.lean ====
section
/-! SUPPORT. Laws of sparse data and of memory: what a read finds after a write, and that every operation keeps the canonical
form. -/

namespace Sys2Proof.Machine

/-! ### Sparse data -/

/-- The entry just written is the one found. -/
@[simp] theorem Assoc.get?_set_same {α : Type} (m : Assoc α) (k : Nat) (v : α) : Assoc.get? (Assoc.set m k v) k = some v := by
  induction m with
  | nil => simp [Assoc.set, Assoc.get?]
  | cons e r ih =>
    obtain ⟨j, w⟩ := e
    simp only [Assoc.set]
    split
    · simp [Assoc.get?]
    · split
      · simp [Assoc.get?]
      · rename_i h; simp [Assoc.get?, h, ih]

/-- Another entry is as it was. -/
theorem Assoc.get?_set_other {α : Type} (m : Assoc α) (k j : Nat) (v : α) (h : k ≠ j) :
    Assoc.get? (Assoc.set m k v) j = Assoc.get? m j := by
  induction m with
  | nil => simp [Assoc.set, Assoc.get?, h]
  | cons e r ih =>
    obtain ⟨i, w⟩ := e
    simp only [Assoc.set]
    split
    · simp [Assoc.get?, h]
    · split
      · rename_i hi; subst hi; simp [Assoc.get?, h]
      · simp only [Assoc.get?, ih]

/-- What is found at a key after a write at any key. -/
theorem Assoc.getD_set {α : Type} (m : Assoc α) (k j : Nat) (v d : α) :
    Assoc.getD (Assoc.set m k v) j d = if k = j then v else Assoc.getD m j d := by
  by_cases h : k = j
  · subst h; simp [Assoc.getD]
  · simp [Assoc.getD, Assoc.get?_set_other _ _ _ _ h, h]

/-- The entry just written, with a default. -/
@[simp] theorem Assoc.getD_set_same {α : Type} (m : Assoc α) (k : Nat) (v d : α) : Assoc.getD (Assoc.set m k v) k d = v := by
  simp [Assoc.getD_set]

/-- Writing twice at a key is writing the second value. -/
@[simp] theorem Assoc.set_set {α : Type} (m : Assoc α) (k : Nat) (v w : α) : Assoc.set (Assoc.set m k v) k w = Assoc.set m k w := by
  induction m with
  | nil => simp [Assoc.set]
  | cons e r ih =>
    obtain ⟨j, x⟩ := e
    simp only [Assoc.set]
    split
    · simp [Assoc.set]
    · split
      · simp [Assoc.set]
      · rename_i h1 h2; simp [Assoc.set, h1, h2, ih]

/-! ### Memory -/

/-- A read at the address just inserted. -/
theorem Memory.read_insert (m : Memory) (a x : Nat) (b : Byte) :
    Memory.read (Memory.insert m a b) x = if a = x then b else Memory.read m x := by
  induction m with
  | nil => simp [Memory.insert, Memory.read]
  | cons e r ih =>
    obtain ⟨k, c⟩ := e
    simp only [Memory.insert]
    split
    · simp [Memory.read]
    · split
      · rename_i h; subst h; by_cases hx : k = x <;> simp [Memory.read, hx]
      · rename_i h
        simp only [Memory.read, ih]
        by_cases hk : k = x
        · subst hk; simp [Ne.symm h]
        · simp [hk]

/-- A read after a removal. -/
theorem Memory.read_remove (m : Memory) (a x : Nat) :
    Memory.read (Memory.remove m a) x = if a = x then Memory.blank else Memory.read m x := by
  induction m with
  | nil => simp [Memory.remove, Memory.read]
  | cons e r ih =>
    obtain ⟨k, c⟩ := e
    simp only [Memory.remove, List.filter_cons] at ih ⊢
    by_cases hk : k = a
    · subst hk
      simp only [bne_self_eq_false, Bool.false_eq_true, if_false, ih, Memory.read]
      by_cases hx : k = x <;> simp [hx]
    · simp only [bne_iff_ne, ne_eq, hk, not_false_eq_true, if_true, Memory.read, ih]
      by_cases hx : k = x
      · subst hx; simp [Ne.symm hk]
      · simp [hx]

/-- A read after a write of one byte. -/
theorem Memory.read_write (m : Memory) (a x : Nat) (b : Byte) :
    Memory.read (Memory.write m a b) x = if a = x then b else Memory.read m x := by
  unfold Memory.write
  split
  · rename_i h; subst h; exact Memory.read_remove m a x
  · exact Memory.read_insert m a x b

/-- A read after a write of several bytes finds the byte written there, or else what stood there. -/
theorem Memory.read_writeBytes (m : Memory) (a x : Nat) (bs : List Byte) :
    Memory.read (Memory.writeBytes m a bs) x = if a ≤ x ∧ x < a + bs.length then bs.getD (x - a) 0 else Memory.read m x := by
  induction bs generalizing m a with
  | nil =>
    rw [if_neg (by rw [List.length_nil]; omega)]
    rfl
  | cons b r ih =>
    rw [Memory.writeBytes, ih, Memory.read_write, List.length_cons]
    by_cases h : a = x
    · subst h
      rw [if_neg (by omega), if_pos rfl, if_pos (by omega), Nat.sub_self]
      rfl
    · by_cases h2 : a + 1 ≤ x ∧ x < a + 1 + r.length
      · have h4 : x - a = (x - (a + 1)) + 1 := by omega
        rw [if_pos h2, if_pos (by omega), h4]
        rfl
      · rw [if_neg h2, if_neg h, if_neg (by omega)]

/-- Outside the bytes written a read is unchanged. -/
theorem Memory.read_writeBytes_other (m : Memory) (a x : Nat) (bs : List Byte) (h : x < a ∨ a + bs.length ≤ x) :
    Memory.read (Memory.writeBytes m a bs) x = Memory.read m x := by
  rw [Memory.read_writeBytes]; split <;> first | omega | rfl

/-- The bytes just written are the bytes read. -/
theorem Memory.readBytes_writeBytes (m : Memory) (a : Nat) (bs : List Byte) :
    Memory.readBytes (Memory.writeBytes m a bs) a bs.length = bs := by
  have key : ∀ (n x : Nat), x + n = a + bs.length → a ≤ x →
      Memory.readBytes (Memory.writeBytes m a bs) x n = bs.drop (x - a) := by
    intro n
    induction n with
    | zero =>
      intro x hx _
      have hx' : x = a + bs.length := hx
      subst hx'
      simp [Memory.readBytes]
    | succ n ih =>
      intro x hx ha
      have hlt : x - a < bs.length := by omega
      have h1 : a ≤ x ∧ x < a + bs.length := by omega
      rw [Memory.readBytes, ih (x + 1) (by omega) (by omega), Memory.read_writeBytes]
      have h2 : x + 1 - a = x - a + 1 := by omega
      rw [List.drop_eq_getElem_cons hlt, h2]
      simp [h1, hlt]
  simpa using key bs.length a rfl (Nat.le_refl a)

@[simp] theorem Memory.readBytes_length (m : Memory) (a n : Nat) : (Memory.readBytes m a n).length = n := by
  induction n generalizing a with
  | zero => rfl
  | succ n ih => simp [Memory.readBytes, ih]

/-- Each byte of a range read. -/
theorem Memory.readBytes_getElem? (m : Memory) (a n k : Nat) (h : k < n) : (Memory.readBytes m a n)[k]? = some (Memory.read m (a + k)) := by
  induction n generalizing a k with
  | zero => omega
  | succ n ih =>
    cases k with
    | zero => rfl
    | succ k => rw [Memory.readBytes, List.getElem?_cons_succ, ih _ _ (by omega)]; congr 2; omega

/-! ### The canonical form -/

/-- What `headAbove` says of an inserted list. -/
theorem Memory.headAbove_insert (m : Memory) (a lo : Nat) (b : Byte) (h : Memory.headAbove m lo = true) (ha : lo < a) :
    Memory.headAbove (Memory.insert m a b) lo = true := by
  cases m with
  | nil => simpa [Memory.insert, Memory.headAbove] using ha
  | cons e r =>
    obtain ⟨k, c⟩ := e
    simp only [Memory.headAbove, decide_eq_true_eq] at h
    simp only [Memory.insert]
    split
    · simpa [Memory.headAbove] using ha
    · split <;> simp [Memory.headAbove] <;> omega

/-- An insertion of a byte that is not the blank one keeps the canonical form. -/
theorem Memory.wf_insert (m : Memory) (a : Nat) (b : Byte) (h : Memory.wf m = true) (hb : b ≠ Memory.blank) :
    Memory.wf (Memory.insert m a b) = true := by
  induction m with
  | nil => simp [Memory.insert, Memory.wf, Memory.headAbove, hb]
  | cons e r ih =>
    obtain ⟨k, c⟩ := e
    simp only [Memory.wf, Bool.and_eq_true, bne_iff_ne, ne_eq] at h
    simp only [Memory.insert]
    split
    · rename_i hk
      have hh : Memory.headAbove ((k, c) :: r) a = true := by simpa [Memory.headAbove] using hk
      simp only [Memory.wf, hh, Bool.and_eq_true, bne_iff_ne, ne_eq]
      exact ⟨⟨hb, trivial⟩, h⟩
    · split
      · rename_i h1 h2; subst h2; simp [Memory.wf, hb, h]
      · rename_i h1 h2
        simp only [Memory.wf, Bool.and_eq_true, bne_iff_ne, ne_eq, ih h.2, and_true]
        exact ⟨h.1.1, Memory.headAbove_insert r a k b h.1.2 (by omega)⟩

/-- In a list whose head is above `lo`, in canonical form, every address is. -/
theorem Memory.above (m : Memory) (lo : Nat) (h : Memory.wf m = true) (hl : Memory.headAbove m lo = true) :
    ∀ c ∈ m, lo < c.1 := by
  induction m generalizing lo with
  | nil => simp
  | cons e r ih =>
    obtain ⟨k, c⟩ := e
    simp only [Memory.wf, Bool.and_eq_true] at h
    simp only [Memory.headAbove, decide_eq_true_eq] at hl
    intro x hx
    rcases List.mem_cons.mp hx with rfl | hx
    · exact hl
    · exact Nat.lt_trans hl (ih k h.2 h.1.2 x hx)

/-- Any sublist kept by a test is in canonical form. -/
theorem Memory.wf_filter (m : Memory) (p : Host.Cell → Bool) (h : Memory.wf m = true) : Memory.wf (m.filter p) = true := by
  induction m with
  | nil => simp [Memory.wf]
  | cons e r ih =>
    obtain ⟨k, c⟩ := e
    have h0 := h
    simp only [Memory.wf, Bool.and_eq_true] at h
    rw [List.filter_cons]
    split
    · simp only [Memory.wf, Bool.and_eq_true, ih h.2, and_true]
      refine ⟨h.1.1, ?_⟩
      cases hf : r.filter p with
      | nil => simp [Memory.headAbove]
      | cons d q =>
        have hd : d ∈ r := (List.mem_filter.mp (by rw [hf]; simp : d ∈ r.filter p)).1
        obtain ⟨j, x⟩ := d
        simpa [Memory.headAbove] using Memory.above r k h.2 h.1.2 _ hd
    · exact ih h.2

/-- A write of one byte keeps the canonical form. -/
theorem Memory.wf_write (m : Memory) (a : Nat) (b : Byte) (h : Memory.wf m = true) : Memory.wf (Memory.write m a b) = true := by
  unfold Memory.write
  split
  · exact Memory.wf_filter m _ h
  · rename_i hb; exact Memory.wf_insert m a b h hb

/-- A write of several bytes keeps the canonical form. -/
theorem Memory.wf_writeBytes (m : Memory) (a : Nat) (bs : List Byte) (h : Memory.wf m = true) :
    Memory.wf (Memory.writeBytes m a bs) = true := by
  induction bs generalizing m a with
  | nil => exact h
  | cons b r ih => exact ih _ _ (Memory.wf_write m a b h)

/-- A fold of writes keeps the canonical form. -/
theorem Memory.wf_foldl_write {α : Type} (l : List α) (m : Memory) (f : α → Nat) (g : α → Byte) (h : Memory.wf m = true) :
    Memory.wf (l.foldl (fun m x => Memory.write m (f x) (g x)) m) = true := by
  induction l generalizing m with
  | nil => exact h
  | cons x r ih => exact ih _ (Memory.wf_write m _ _ h)

end Sys2Proof.Machine
end

