-- ==== Sys2Proof/Laws/State.lean ====
section
/-! SUPPORT. One lemma for each field and each update: what the named updates of `State` and `Thread` leave and what they write. -/

namespace Sys2Proof.Machine

/-! ### Updates of the state -/

/-! `setThread` writes `threads` alone. -/
@[simp] theorem State.setThread_cycle (s : State) (i : Nat) (t : Thread) : (s.setThread i t).cycle = s.cycle := rfl
@[simp] theorem State.setThread_agenda (s : State) (i : Nat) (t : Thread) : (s.setThread i t).agenda = s.agenda := rfl
@[simp] theorem State.setThread_turn (s : State) (i : Nat) (t : Thread) : (s.setThread i t).turn = s.turn := rfl
@[simp] theorem State.setThread_cur (s : State) (i : Nat) (t : Thread) : (s.setThread i t).cur = s.cur := rfl
@[simp] theorem State.setThread_drawn (s : State) (i : Nat) (t : Thread) : (s.setThread i t).drawn = s.drawn := rfl
@[simp] theorem State.setThread_tmem (s : State) (i : Nat) (t : Thread) : (s.setThread i t).tmem = s.tmem := rfl
@[simp] theorem State.setThread_tpoison (s : State) (i : Nat) (t : Thread) : (s.setThread i t).tpoison = s.tpoison := rfl
@[simp] theorem State.setThread_tbad (s : State) (i : Nat) (t : Thread) : (s.setThread i t).tbad = s.tbad := rfl
@[simp] theorem State.setThread_vault (s : State) (i : Nat) (t : Thread) : (s.setThread i t).vault = s.vault := rfl
@[simp] theorem State.setThread_shadow (s : State) (i : Nat) (t : Thread) : (s.setThread i t).shadow = s.shadow := rfl
@[simp] theorem State.setThread_sectors (s : State) (i : Nat) (t : Thread) : (s.setThread i t).sectors = s.sectors := rfl
@[simp] theorem State.setThread_host (s : State) (i : Nat) (t : Thread) : (s.setThread i t).host = s.host := rfl
@[simp] theorem State.setThread_tiles (s : State) (i : Nat) (t : Thread) : (s.setThread i t).tiles = s.tiles := rfl
@[simp] theorem State.setThread_homes (s : State) (i : Nat) (t : Thread) : (s.setThread i t).homes = s.homes := rfl
@[simp] theorem State.setThread_homeQ (s : State) (i : Nat) (t : Thread) : (s.setThread i t).homeQ = s.homeQ := rfl
@[simp] theorem State.setThread_held (s : State) (i : Nat) (t : Thread) : (s.setThread i t).held = s.held := rfl
@[simp] theorem State.setThread_noted (s : State) (i : Nat) (t : Thread) : (s.setThread i t).noted = s.noted := rfl
@[simp] theorem State.setThread_parts (s : State) (i : Nat) (t : Thread) : (s.setThread i t).parts = s.parts := rfl
@[simp] theorem State.setThread_graphs (s : State) (i : Nat) (t : Thread) : (s.setThread i t).graphs = s.graphs := rfl
@[simp] theorem State.setThread_regions (s : State) (i : Nat) (t : Thread) : (s.setThread i t).regions = s.regions := rfl
@[simp] theorem State.setThread_rects (s : State) (i : Nat) (t : Thread) : (s.setThread i t).rects = s.rects := rfl
@[simp] theorem State.setThread_vecs (s : State) (i : Nat) (t : Thread) : (s.setThread i t).vecs = s.vecs := rfl
@[simp] theorem State.setThread_flights (s : State) (i : Nat) (t : Thread) : (s.setThread i t).flights = s.flights := rfl
@[simp] theorem State.setThread_permits (s : State) (i : Nat) (t : Thread) : (s.setThread i t).permits = s.permits := rfl
@[simp] theorem State.setThread_links (s : State) (i : Nat) (t : Thread) : (s.setThread i t).links = s.links := rfl
@[simp] theorem State.setThread_tlb2 (s : State) (i : Nat) (t : Thread) : (s.setThread i t).tlb2 = s.tlb2 := rfl
@[simp] theorem State.setThread_ports (s : State) (i : Nat) (t : Thread) : (s.setThread i t).ports = s.ports := rfl
@[simp] theorem State.setThread_bridge (s : State) (i : Nat) (t : Thread) : (s.setThread i t).bridge = s.bridge := rfl
@[simp] theorem State.setThread_zones (s : State) (i : Nat) (t : Thread) : (s.setThread i t).zones = s.zones := rfl
@[simp] theorem State.setThread_mod (s : State) (i : Nat) (t : Thread) : (s.setThread i t).mod = s.mod := rfl
@[simp] theorem State.setThread_tile (s : State) (i : Nat) (t : Thread) (k : Nat) : (s.setThread i t).tile k = s.tile k := rfl
@[simp] theorem State.setThread_home (s : State) (i : Nat) (t : Thread) (k : Nat) : (s.setThread i t).home k = s.home k := rfl
@[simp] theorem State.setThread_part (s : State) (i : Nat) (t : Thread) (k : Nat) : (s.setThread i t).part k = s.part k := rfl
@[simp] theorem State.setThread_graph (s : State) (i : Nat) (t : Thread) (k : Nat) : (s.setThread i t).graph k = s.graph k := rfl
@[simp] theorem State.setThread_port (s : State) (i : Nat) (t : Thread) (k : Nat) : (s.setThread i t).port k = s.port k := rfl
@[simp] theorem State.setThread_zone (s : State) (i : Nat) (t : Thread) (k : Nat) : (s.setThread i t).zone k = s.zone k := rfl
@[simp] theorem State.setThread_myTile (s : State) (i : Nat) (t : Thread) : (s.setThread i t).myTile = s.myTile := rfl

/-! `mapThread` writes `threads` alone. -/
@[simp] theorem State.mapThread_cycle (s : State) (i : Nat) (f : Thread → Thread) : (s.mapThread i f).cycle = s.cycle := rfl
@[simp] theorem State.mapThread_agenda (s : State) (i : Nat) (f : Thread → Thread) : (s.mapThread i f).agenda = s.agenda := rfl
@[simp] theorem State.mapThread_turn (s : State) (i : Nat) (f : Thread → Thread) : (s.mapThread i f).turn = s.turn := rfl
@[simp] theorem State.mapThread_cur (s : State) (i : Nat) (f : Thread → Thread) : (s.mapThread i f).cur = s.cur := rfl
@[simp] theorem State.mapThread_drawn (s : State) (i : Nat) (f : Thread → Thread) : (s.mapThread i f).drawn = s.drawn := rfl
@[simp] theorem State.mapThread_tmem (s : State) (i : Nat) (f : Thread → Thread) : (s.mapThread i f).tmem = s.tmem := rfl
@[simp] theorem State.mapThread_tpoison (s : State) (i : Nat) (f : Thread → Thread) : (s.mapThread i f).tpoison = s.tpoison := rfl
@[simp] theorem State.mapThread_tbad (s : State) (i : Nat) (f : Thread → Thread) : (s.mapThread i f).tbad = s.tbad := rfl
@[simp] theorem State.mapThread_vault (s : State) (i : Nat) (f : Thread → Thread) : (s.mapThread i f).vault = s.vault := rfl
@[simp] theorem State.mapThread_shadow (s : State) (i : Nat) (f : Thread → Thread) : (s.mapThread i f).shadow = s.shadow := rfl
@[simp] theorem State.mapThread_sectors (s : State) (i : Nat) (f : Thread → Thread) : (s.mapThread i f).sectors = s.sectors := rfl
@[simp] theorem State.mapThread_host (s : State) (i : Nat) (f : Thread → Thread) : (s.mapThread i f).host = s.host := rfl
@[simp] theorem State.mapThread_tiles (s : State) (i : Nat) (f : Thread → Thread) : (s.mapThread i f).tiles = s.tiles := rfl
@[simp] theorem State.mapThread_homes (s : State) (i : Nat) (f : Thread → Thread) : (s.mapThread i f).homes = s.homes := rfl
@[simp] theorem State.mapThread_homeQ (s : State) (i : Nat) (f : Thread → Thread) : (s.mapThread i f).homeQ = s.homeQ := rfl
@[simp] theorem State.mapThread_held (s : State) (i : Nat) (f : Thread → Thread) : (s.mapThread i f).held = s.held := rfl
@[simp] theorem State.mapThread_noted (s : State) (i : Nat) (f : Thread → Thread) : (s.mapThread i f).noted = s.noted := rfl
@[simp] theorem State.mapThread_parts (s : State) (i : Nat) (f : Thread → Thread) : (s.mapThread i f).parts = s.parts := rfl
@[simp] theorem State.mapThread_graphs (s : State) (i : Nat) (f : Thread → Thread) : (s.mapThread i f).graphs = s.graphs := rfl
@[simp] theorem State.mapThread_regions (s : State) (i : Nat) (f : Thread → Thread) : (s.mapThread i f).regions = s.regions := rfl
@[simp] theorem State.mapThread_rects (s : State) (i : Nat) (f : Thread → Thread) : (s.mapThread i f).rects = s.rects := rfl
@[simp] theorem State.mapThread_vecs (s : State) (i : Nat) (f : Thread → Thread) : (s.mapThread i f).vecs = s.vecs := rfl
@[simp] theorem State.mapThread_flights (s : State) (i : Nat) (f : Thread → Thread) : (s.mapThread i f).flights = s.flights := rfl
@[simp] theorem State.mapThread_permits (s : State) (i : Nat) (f : Thread → Thread) : (s.mapThread i f).permits = s.permits := rfl
@[simp] theorem State.mapThread_links (s : State) (i : Nat) (f : Thread → Thread) : (s.mapThread i f).links = s.links := rfl
@[simp] theorem State.mapThread_tlb2 (s : State) (i : Nat) (f : Thread → Thread) : (s.mapThread i f).tlb2 = s.tlb2 := rfl
@[simp] theorem State.mapThread_ports (s : State) (i : Nat) (f : Thread → Thread) : (s.mapThread i f).ports = s.ports := rfl
@[simp] theorem State.mapThread_bridge (s : State) (i : Nat) (f : Thread → Thread) : (s.mapThread i f).bridge = s.bridge := rfl
@[simp] theorem State.mapThread_zones (s : State) (i : Nat) (f : Thread → Thread) : (s.mapThread i f).zones = s.zones := rfl
@[simp] theorem State.mapThread_mod (s : State) (i : Nat) (f : Thread → Thread) : (s.mapThread i f).mod = s.mod := rfl
@[simp] theorem State.mapThread_tile (s : State) (i : Nat) (f : Thread → Thread) (k : Nat) : (s.mapThread i f).tile k = s.tile k := rfl
@[simp] theorem State.mapThread_home (s : State) (i : Nat) (f : Thread → Thread) (k : Nat) : (s.mapThread i f).home k = s.home k := rfl
@[simp] theorem State.mapThread_part (s : State) (i : Nat) (f : Thread → Thread) (k : Nat) : (s.mapThread i f).part k = s.part k := rfl
@[simp] theorem State.mapThread_graph (s : State) (i : Nat) (f : Thread → Thread) (k : Nat) : (s.mapThread i f).graph k = s.graph k := rfl
@[simp] theorem State.mapThread_port (s : State) (i : Nat) (f : Thread → Thread) (k : Nat) : (s.mapThread i f).port k = s.port k := rfl
@[simp] theorem State.mapThread_zone (s : State) (i : Nat) (f : Thread → Thread) (k : Nat) : (s.mapThread i f).zone k = s.zone k := rfl
@[simp] theorem State.mapThread_myTile (s : State) (i : Nat) (f : Thread → Thread) : (s.mapThread i f).myTile = s.myTile := rfl

/-! `setMe` writes `threads` alone. -/
@[simp] theorem State.setMe_cycle (s : State) (t : Thread) : (s.setMe t).cycle = s.cycle := rfl
@[simp] theorem State.setMe_agenda (s : State) (t : Thread) : (s.setMe t).agenda = s.agenda := rfl
@[simp] theorem State.setMe_turn (s : State) (t : Thread) : (s.setMe t).turn = s.turn := rfl
@[simp] theorem State.setMe_cur (s : State) (t : Thread) : (s.setMe t).cur = s.cur := rfl
@[simp] theorem State.setMe_drawn (s : State) (t : Thread) : (s.setMe t).drawn = s.drawn := rfl
@[simp] theorem State.setMe_tmem (s : State) (t : Thread) : (s.setMe t).tmem = s.tmem := rfl
@[simp] theorem State.setMe_tpoison (s : State) (t : Thread) : (s.setMe t).tpoison = s.tpoison := rfl
@[simp] theorem State.setMe_tbad (s : State) (t : Thread) : (s.setMe t).tbad = s.tbad := rfl
@[simp] theorem State.setMe_vault (s : State) (t : Thread) : (s.setMe t).vault = s.vault := rfl
@[simp] theorem State.setMe_shadow (s : State) (t : Thread) : (s.setMe t).shadow = s.shadow := rfl
@[simp] theorem State.setMe_sectors (s : State) (t : Thread) : (s.setMe t).sectors = s.sectors := rfl
@[simp] theorem State.setMe_host (s : State) (t : Thread) : (s.setMe t).host = s.host := rfl
@[simp] theorem State.setMe_tiles (s : State) (t : Thread) : (s.setMe t).tiles = s.tiles := rfl
@[simp] theorem State.setMe_homes (s : State) (t : Thread) : (s.setMe t).homes = s.homes := rfl
@[simp] theorem State.setMe_homeQ (s : State) (t : Thread) : (s.setMe t).homeQ = s.homeQ := rfl
@[simp] theorem State.setMe_held (s : State) (t : Thread) : (s.setMe t).held = s.held := rfl
@[simp] theorem State.setMe_noted (s : State) (t : Thread) : (s.setMe t).noted = s.noted := rfl
@[simp] theorem State.setMe_parts (s : State) (t : Thread) : (s.setMe t).parts = s.parts := rfl
@[simp] theorem State.setMe_graphs (s : State) (t : Thread) : (s.setMe t).graphs = s.graphs := rfl
@[simp] theorem State.setMe_regions (s : State) (t : Thread) : (s.setMe t).regions = s.regions := rfl
@[simp] theorem State.setMe_rects (s : State) (t : Thread) : (s.setMe t).rects = s.rects := rfl
@[simp] theorem State.setMe_vecs (s : State) (t : Thread) : (s.setMe t).vecs = s.vecs := rfl
@[simp] theorem State.setMe_flights (s : State) (t : Thread) : (s.setMe t).flights = s.flights := rfl
@[simp] theorem State.setMe_permits (s : State) (t : Thread) : (s.setMe t).permits = s.permits := rfl
@[simp] theorem State.setMe_links (s : State) (t : Thread) : (s.setMe t).links = s.links := rfl
@[simp] theorem State.setMe_tlb2 (s : State) (t : Thread) : (s.setMe t).tlb2 = s.tlb2 := rfl
@[simp] theorem State.setMe_ports (s : State) (t : Thread) : (s.setMe t).ports = s.ports := rfl
@[simp] theorem State.setMe_bridge (s : State) (t : Thread) : (s.setMe t).bridge = s.bridge := rfl
@[simp] theorem State.setMe_zones (s : State) (t : Thread) : (s.setMe t).zones = s.zones := rfl
@[simp] theorem State.setMe_mod (s : State) (t : Thread) : (s.setMe t).mod = s.mod := rfl
@[simp] theorem State.setMe_tile (s : State) (t : Thread) (k : Nat) : (s.setMe t).tile k = s.tile k := rfl
@[simp] theorem State.setMe_home (s : State) (t : Thread) (k : Nat) : (s.setMe t).home k = s.home k := rfl
@[simp] theorem State.setMe_part (s : State) (t : Thread) (k : Nat) : (s.setMe t).part k = s.part k := rfl
@[simp] theorem State.setMe_graph (s : State) (t : Thread) (k : Nat) : (s.setMe t).graph k = s.graph k := rfl
@[simp] theorem State.setMe_port (s : State) (t : Thread) (k : Nat) : (s.setMe t).port k = s.port k := rfl
@[simp] theorem State.setMe_zone (s : State) (t : Thread) (k : Nat) : (s.setMe t).zone k = s.zone k := rfl
@[simp] theorem State.setMe_myTile (s : State) (t : Thread) : (s.setMe t).myTile = s.myTile := rfl

/-! `mapMe` writes `threads` alone. -/
@[simp] theorem State.mapMe_cycle (s : State) (f : Thread → Thread) : (s.mapMe f).cycle = s.cycle := rfl
@[simp] theorem State.mapMe_agenda (s : State) (f : Thread → Thread) : (s.mapMe f).agenda = s.agenda := rfl
@[simp] theorem State.mapMe_turn (s : State) (f : Thread → Thread) : (s.mapMe f).turn = s.turn := rfl
@[simp] theorem State.mapMe_cur (s : State) (f : Thread → Thread) : (s.mapMe f).cur = s.cur := rfl
@[simp] theorem State.mapMe_drawn (s : State) (f : Thread → Thread) : (s.mapMe f).drawn = s.drawn := rfl
@[simp] theorem State.mapMe_tmem (s : State) (f : Thread → Thread) : (s.mapMe f).tmem = s.tmem := rfl
@[simp] theorem State.mapMe_tpoison (s : State) (f : Thread → Thread) : (s.mapMe f).tpoison = s.tpoison := rfl
@[simp] theorem State.mapMe_tbad (s : State) (f : Thread → Thread) : (s.mapMe f).tbad = s.tbad := rfl
@[simp] theorem State.mapMe_vault (s : State) (f : Thread → Thread) : (s.mapMe f).vault = s.vault := rfl
@[simp] theorem State.mapMe_shadow (s : State) (f : Thread → Thread) : (s.mapMe f).shadow = s.shadow := rfl
@[simp] theorem State.mapMe_sectors (s : State) (f : Thread → Thread) : (s.mapMe f).sectors = s.sectors := rfl
@[simp] theorem State.mapMe_host (s : State) (f : Thread → Thread) : (s.mapMe f).host = s.host := rfl
@[simp] theorem State.mapMe_tiles (s : State) (f : Thread → Thread) : (s.mapMe f).tiles = s.tiles := rfl
@[simp] theorem State.mapMe_homes (s : State) (f : Thread → Thread) : (s.mapMe f).homes = s.homes := rfl
@[simp] theorem State.mapMe_homeQ (s : State) (f : Thread → Thread) : (s.mapMe f).homeQ = s.homeQ := rfl
@[simp] theorem State.mapMe_held (s : State) (f : Thread → Thread) : (s.mapMe f).held = s.held := rfl
@[simp] theorem State.mapMe_noted (s : State) (f : Thread → Thread) : (s.mapMe f).noted = s.noted := rfl
@[simp] theorem State.mapMe_parts (s : State) (f : Thread → Thread) : (s.mapMe f).parts = s.parts := rfl
@[simp] theorem State.mapMe_graphs (s : State) (f : Thread → Thread) : (s.mapMe f).graphs = s.graphs := rfl
@[simp] theorem State.mapMe_regions (s : State) (f : Thread → Thread) : (s.mapMe f).regions = s.regions := rfl
@[simp] theorem State.mapMe_rects (s : State) (f : Thread → Thread) : (s.mapMe f).rects = s.rects := rfl
@[simp] theorem State.mapMe_vecs (s : State) (f : Thread → Thread) : (s.mapMe f).vecs = s.vecs := rfl
@[simp] theorem State.mapMe_flights (s : State) (f : Thread → Thread) : (s.mapMe f).flights = s.flights := rfl
@[simp] theorem State.mapMe_permits (s : State) (f : Thread → Thread) : (s.mapMe f).permits = s.permits := rfl
@[simp] theorem State.mapMe_links (s : State) (f : Thread → Thread) : (s.mapMe f).links = s.links := rfl
@[simp] theorem State.mapMe_tlb2 (s : State) (f : Thread → Thread) : (s.mapMe f).tlb2 = s.tlb2 := rfl
@[simp] theorem State.mapMe_ports (s : State) (f : Thread → Thread) : (s.mapMe f).ports = s.ports := rfl
@[simp] theorem State.mapMe_bridge (s : State) (f : Thread → Thread) : (s.mapMe f).bridge = s.bridge := rfl
@[simp] theorem State.mapMe_zones (s : State) (f : Thread → Thread) : (s.mapMe f).zones = s.zones := rfl
@[simp] theorem State.mapMe_mod (s : State) (f : Thread → Thread) : (s.mapMe f).mod = s.mod := rfl
@[simp] theorem State.mapMe_tile (s : State) (f : Thread → Thread) (k : Nat) : (s.mapMe f).tile k = s.tile k := rfl
@[simp] theorem State.mapMe_home (s : State) (f : Thread → Thread) (k : Nat) : (s.mapMe f).home k = s.home k := rfl
@[simp] theorem State.mapMe_part (s : State) (f : Thread → Thread) (k : Nat) : (s.mapMe f).part k = s.part k := rfl
@[simp] theorem State.mapMe_graph (s : State) (f : Thread → Thread) (k : Nat) : (s.mapMe f).graph k = s.graph k := rfl
@[simp] theorem State.mapMe_port (s : State) (f : Thread → Thread) (k : Nat) : (s.mapMe f).port k = s.port k := rfl
@[simp] theorem State.mapMe_zone (s : State) (f : Thread → Thread) (k : Nat) : (s.mapMe f).zone k = s.zone k := rfl
@[simp] theorem State.mapMe_myTile (s : State) (f : Thread → Thread) : (s.mapMe f).myTile = s.myTile := rfl

/-! `setTile` writes `tiles` alone. -/
@[simp] theorem State.setTile_cycle (s : State) (i : Nat) (t : Tile) : (s.setTile i t).cycle = s.cycle := rfl
@[simp] theorem State.setTile_agenda (s : State) (i : Nat) (t : Tile) : (s.setTile i t).agenda = s.agenda := rfl
@[simp] theorem State.setTile_turn (s : State) (i : Nat) (t : Tile) : (s.setTile i t).turn = s.turn := rfl
@[simp] theorem State.setTile_cur (s : State) (i : Nat) (t : Tile) : (s.setTile i t).cur = s.cur := rfl
@[simp] theorem State.setTile_drawn (s : State) (i : Nat) (t : Tile) : (s.setTile i t).drawn = s.drawn := rfl
@[simp] theorem State.setTile_tmem (s : State) (i : Nat) (t : Tile) : (s.setTile i t).tmem = s.tmem := rfl
@[simp] theorem State.setTile_tpoison (s : State) (i : Nat) (t : Tile) : (s.setTile i t).tpoison = s.tpoison := rfl
@[simp] theorem State.setTile_tbad (s : State) (i : Nat) (t : Tile) : (s.setTile i t).tbad = s.tbad := rfl
@[simp] theorem State.setTile_vault (s : State) (i : Nat) (t : Tile) : (s.setTile i t).vault = s.vault := rfl
@[simp] theorem State.setTile_shadow (s : State) (i : Nat) (t : Tile) : (s.setTile i t).shadow = s.shadow := rfl
@[simp] theorem State.setTile_sectors (s : State) (i : Nat) (t : Tile) : (s.setTile i t).sectors = s.sectors := rfl
@[simp] theorem State.setTile_host (s : State) (i : Nat) (t : Tile) : (s.setTile i t).host = s.host := rfl
@[simp] theorem State.setTile_threads (s : State) (i : Nat) (t : Tile) : (s.setTile i t).threads = s.threads := rfl
@[simp] theorem State.setTile_homes (s : State) (i : Nat) (t : Tile) : (s.setTile i t).homes = s.homes := rfl
@[simp] theorem State.setTile_homeQ (s : State) (i : Nat) (t : Tile) : (s.setTile i t).homeQ = s.homeQ := rfl
@[simp] theorem State.setTile_held (s : State) (i : Nat) (t : Tile) : (s.setTile i t).held = s.held := rfl
@[simp] theorem State.setTile_noted (s : State) (i : Nat) (t : Tile) : (s.setTile i t).noted = s.noted := rfl
@[simp] theorem State.setTile_parts (s : State) (i : Nat) (t : Tile) : (s.setTile i t).parts = s.parts := rfl
@[simp] theorem State.setTile_graphs (s : State) (i : Nat) (t : Tile) : (s.setTile i t).graphs = s.graphs := rfl
@[simp] theorem State.setTile_regions (s : State) (i : Nat) (t : Tile) : (s.setTile i t).regions = s.regions := rfl
@[simp] theorem State.setTile_rects (s : State) (i : Nat) (t : Tile) : (s.setTile i t).rects = s.rects := rfl
@[simp] theorem State.setTile_vecs (s : State) (i : Nat) (t : Tile) : (s.setTile i t).vecs = s.vecs := rfl
@[simp] theorem State.setTile_flights (s : State) (i : Nat) (t : Tile) : (s.setTile i t).flights = s.flights := rfl
@[simp] theorem State.setTile_permits (s : State) (i : Nat) (t : Tile) : (s.setTile i t).permits = s.permits := rfl
@[simp] theorem State.setTile_links (s : State) (i : Nat) (t : Tile) : (s.setTile i t).links = s.links := rfl
@[simp] theorem State.setTile_tlb2 (s : State) (i : Nat) (t : Tile) : (s.setTile i t).tlb2 = s.tlb2 := rfl
@[simp] theorem State.setTile_ports (s : State) (i : Nat) (t : Tile) : (s.setTile i t).ports = s.ports := rfl
@[simp] theorem State.setTile_bridge (s : State) (i : Nat) (t : Tile) : (s.setTile i t).bridge = s.bridge := rfl
@[simp] theorem State.setTile_zones (s : State) (i : Nat) (t : Tile) : (s.setTile i t).zones = s.zones := rfl
@[simp] theorem State.setTile_mod (s : State) (i : Nat) (t : Tile) : (s.setTile i t).mod = s.mod := rfl
@[simp] theorem State.setTile_thread (s : State) (i : Nat) (t : Tile) (k : Nat) : (s.setTile i t).thread k = s.thread k := rfl
@[simp] theorem State.setTile_home (s : State) (i : Nat) (t : Tile) (k : Nat) : (s.setTile i t).home k = s.home k := rfl
@[simp] theorem State.setTile_part (s : State) (i : Nat) (t : Tile) (k : Nat) : (s.setTile i t).part k = s.part k := rfl
@[simp] theorem State.setTile_graph (s : State) (i : Nat) (t : Tile) (k : Nat) : (s.setTile i t).graph k = s.graph k := rfl
@[simp] theorem State.setTile_port (s : State) (i : Nat) (t : Tile) (k : Nat) : (s.setTile i t).port k = s.port k := rfl
@[simp] theorem State.setTile_zone (s : State) (i : Nat) (t : Tile) (k : Nat) : (s.setTile i t).zone k = s.zone k := rfl
@[simp] theorem State.setTile_me (s : State) (i : Nat) (t : Tile) : (s.setTile i t).me = s.me := rfl
@[simp] theorem State.setTile_myTile (s : State) (i : Nat) (t : Tile) : (s.setTile i t).myTile = s.myTile := rfl

/-! `mapTile` writes `tiles` alone. -/
@[simp] theorem State.mapTile_cycle (s : State) (i : Nat) (f : Tile → Tile) : (s.mapTile i f).cycle = s.cycle := rfl
@[simp] theorem State.mapTile_agenda (s : State) (i : Nat) (f : Tile → Tile) : (s.mapTile i f).agenda = s.agenda := rfl
@[simp] theorem State.mapTile_turn (s : State) (i : Nat) (f : Tile → Tile) : (s.mapTile i f).turn = s.turn := rfl
@[simp] theorem State.mapTile_cur (s : State) (i : Nat) (f : Tile → Tile) : (s.mapTile i f).cur = s.cur := rfl
@[simp] theorem State.mapTile_drawn (s : State) (i : Nat) (f : Tile → Tile) : (s.mapTile i f).drawn = s.drawn := rfl
@[simp] theorem State.mapTile_tmem (s : State) (i : Nat) (f : Tile → Tile) : (s.mapTile i f).tmem = s.tmem := rfl
@[simp] theorem State.mapTile_tpoison (s : State) (i : Nat) (f : Tile → Tile) : (s.mapTile i f).tpoison = s.tpoison := rfl
@[simp] theorem State.mapTile_tbad (s : State) (i : Nat) (f : Tile → Tile) : (s.mapTile i f).tbad = s.tbad := rfl
@[simp] theorem State.mapTile_vault (s : State) (i : Nat) (f : Tile → Tile) : (s.mapTile i f).vault = s.vault := rfl
@[simp] theorem State.mapTile_shadow (s : State) (i : Nat) (f : Tile → Tile) : (s.mapTile i f).shadow = s.shadow := rfl
@[simp] theorem State.mapTile_sectors (s : State) (i : Nat) (f : Tile → Tile) : (s.mapTile i f).sectors = s.sectors := rfl
@[simp] theorem State.mapTile_host (s : State) (i : Nat) (f : Tile → Tile) : (s.mapTile i f).host = s.host := rfl
@[simp] theorem State.mapTile_threads (s : State) (i : Nat) (f : Tile → Tile) : (s.mapTile i f).threads = s.threads := rfl
@[simp] theorem State.mapTile_homes (s : State) (i : Nat) (f : Tile → Tile) : (s.mapTile i f).homes = s.homes := rfl
@[simp] theorem State.mapTile_homeQ (s : State) (i : Nat) (f : Tile → Tile) : (s.mapTile i f).homeQ = s.homeQ := rfl
@[simp] theorem State.mapTile_held (s : State) (i : Nat) (f : Tile → Tile) : (s.mapTile i f).held = s.held := rfl
@[simp] theorem State.mapTile_noted (s : State) (i : Nat) (f : Tile → Tile) : (s.mapTile i f).noted = s.noted := rfl
@[simp] theorem State.mapTile_parts (s : State) (i : Nat) (f : Tile → Tile) : (s.mapTile i f).parts = s.parts := rfl
@[simp] theorem State.mapTile_graphs (s : State) (i : Nat) (f : Tile → Tile) : (s.mapTile i f).graphs = s.graphs := rfl
@[simp] theorem State.mapTile_regions (s : State) (i : Nat) (f : Tile → Tile) : (s.mapTile i f).regions = s.regions := rfl
@[simp] theorem State.mapTile_rects (s : State) (i : Nat) (f : Tile → Tile) : (s.mapTile i f).rects = s.rects := rfl
@[simp] theorem State.mapTile_vecs (s : State) (i : Nat) (f : Tile → Tile) : (s.mapTile i f).vecs = s.vecs := rfl
@[simp] theorem State.mapTile_flights (s : State) (i : Nat) (f : Tile → Tile) : (s.mapTile i f).flights = s.flights := rfl
@[simp] theorem State.mapTile_permits (s : State) (i : Nat) (f : Tile → Tile) : (s.mapTile i f).permits = s.permits := rfl
@[simp] theorem State.mapTile_links (s : State) (i : Nat) (f : Tile → Tile) : (s.mapTile i f).links = s.links := rfl
@[simp] theorem State.mapTile_tlb2 (s : State) (i : Nat) (f : Tile → Tile) : (s.mapTile i f).tlb2 = s.tlb2 := rfl
@[simp] theorem State.mapTile_ports (s : State) (i : Nat) (f : Tile → Tile) : (s.mapTile i f).ports = s.ports := rfl
@[simp] theorem State.mapTile_bridge (s : State) (i : Nat) (f : Tile → Tile) : (s.mapTile i f).bridge = s.bridge := rfl
@[simp] theorem State.mapTile_zones (s : State) (i : Nat) (f : Tile → Tile) : (s.mapTile i f).zones = s.zones := rfl
@[simp] theorem State.mapTile_mod (s : State) (i : Nat) (f : Tile → Tile) : (s.mapTile i f).mod = s.mod := rfl
@[simp] theorem State.mapTile_thread (s : State) (i : Nat) (f : Tile → Tile) (k : Nat) : (s.mapTile i f).thread k = s.thread k := rfl
@[simp] theorem State.mapTile_home (s : State) (i : Nat) (f : Tile → Tile) (k : Nat) : (s.mapTile i f).home k = s.home k := rfl
@[simp] theorem State.mapTile_part (s : State) (i : Nat) (f : Tile → Tile) (k : Nat) : (s.mapTile i f).part k = s.part k := rfl
@[simp] theorem State.mapTile_graph (s : State) (i : Nat) (f : Tile → Tile) (k : Nat) : (s.mapTile i f).graph k = s.graph k := rfl
@[simp] theorem State.mapTile_port (s : State) (i : Nat) (f : Tile → Tile) (k : Nat) : (s.mapTile i f).port k = s.port k := rfl
@[simp] theorem State.mapTile_zone (s : State) (i : Nat) (f : Tile → Tile) (k : Nat) : (s.mapTile i f).zone k = s.zone k := rfl
@[simp] theorem State.mapTile_me (s : State) (i : Nat) (f : Tile → Tile) : (s.mapTile i f).me = s.me := rfl
@[simp] theorem State.mapTile_myTile (s : State) (i : Nat) (f : Tile → Tile) : (s.mapTile i f).myTile = s.myTile := rfl

/-! `mapHome` writes `homes` alone. -/
@[simp] theorem State.mapHome_cycle (s : State) (i : Nat) (f : Home → Home) : (s.mapHome i f).cycle = s.cycle := rfl
@[simp] theorem State.mapHome_agenda (s : State) (i : Nat) (f : Home → Home) : (s.mapHome i f).agenda = s.agenda := rfl
@[simp] theorem State.mapHome_turn (s : State) (i : Nat) (f : Home → Home) : (s.mapHome i f).turn = s.turn := rfl
@[simp] theorem State.mapHome_cur (s : State) (i : Nat) (f : Home → Home) : (s.mapHome i f).cur = s.cur := rfl
@[simp] theorem State.mapHome_drawn (s : State) (i : Nat) (f : Home → Home) : (s.mapHome i f).drawn = s.drawn := rfl
@[simp] theorem State.mapHome_tmem (s : State) (i : Nat) (f : Home → Home) : (s.mapHome i f).tmem = s.tmem := rfl
@[simp] theorem State.mapHome_tpoison (s : State) (i : Nat) (f : Home → Home) : (s.mapHome i f).tpoison = s.tpoison := rfl
@[simp] theorem State.mapHome_tbad (s : State) (i : Nat) (f : Home → Home) : (s.mapHome i f).tbad = s.tbad := rfl
@[simp] theorem State.mapHome_vault (s : State) (i : Nat) (f : Home → Home) : (s.mapHome i f).vault = s.vault := rfl
@[simp] theorem State.mapHome_shadow (s : State) (i : Nat) (f : Home → Home) : (s.mapHome i f).shadow = s.shadow := rfl
@[simp] theorem State.mapHome_sectors (s : State) (i : Nat) (f : Home → Home) : (s.mapHome i f).sectors = s.sectors := rfl
@[simp] theorem State.mapHome_host (s : State) (i : Nat) (f : Home → Home) : (s.mapHome i f).host = s.host := rfl
@[simp] theorem State.mapHome_threads (s : State) (i : Nat) (f : Home → Home) : (s.mapHome i f).threads = s.threads := rfl
@[simp] theorem State.mapHome_tiles (s : State) (i : Nat) (f : Home → Home) : (s.mapHome i f).tiles = s.tiles := rfl
@[simp] theorem State.mapHome_homeQ (s : State) (i : Nat) (f : Home → Home) : (s.mapHome i f).homeQ = s.homeQ := rfl
@[simp] theorem State.mapHome_held (s : State) (i : Nat) (f : Home → Home) : (s.mapHome i f).held = s.held := rfl
@[simp] theorem State.mapHome_noted (s : State) (i : Nat) (f : Home → Home) : (s.mapHome i f).noted = s.noted := rfl
@[simp] theorem State.mapHome_parts (s : State) (i : Nat) (f : Home → Home) : (s.mapHome i f).parts = s.parts := rfl
@[simp] theorem State.mapHome_graphs (s : State) (i : Nat) (f : Home → Home) : (s.mapHome i f).graphs = s.graphs := rfl
@[simp] theorem State.mapHome_regions (s : State) (i : Nat) (f : Home → Home) : (s.mapHome i f).regions = s.regions := rfl
@[simp] theorem State.mapHome_rects (s : State) (i : Nat) (f : Home → Home) : (s.mapHome i f).rects = s.rects := rfl
@[simp] theorem State.mapHome_vecs (s : State) (i : Nat) (f : Home → Home) : (s.mapHome i f).vecs = s.vecs := rfl
@[simp] theorem State.mapHome_flights (s : State) (i : Nat) (f : Home → Home) : (s.mapHome i f).flights = s.flights := rfl
@[simp] theorem State.mapHome_permits (s : State) (i : Nat) (f : Home → Home) : (s.mapHome i f).permits = s.permits := rfl
@[simp] theorem State.mapHome_links (s : State) (i : Nat) (f : Home → Home) : (s.mapHome i f).links = s.links := rfl
@[simp] theorem State.mapHome_tlb2 (s : State) (i : Nat) (f : Home → Home) : (s.mapHome i f).tlb2 = s.tlb2 := rfl
@[simp] theorem State.mapHome_ports (s : State) (i : Nat) (f : Home → Home) : (s.mapHome i f).ports = s.ports := rfl
@[simp] theorem State.mapHome_bridge (s : State) (i : Nat) (f : Home → Home) : (s.mapHome i f).bridge = s.bridge := rfl
@[simp] theorem State.mapHome_zones (s : State) (i : Nat) (f : Home → Home) : (s.mapHome i f).zones = s.zones := rfl
@[simp] theorem State.mapHome_mod (s : State) (i : Nat) (f : Home → Home) : (s.mapHome i f).mod = s.mod := rfl
@[simp] theorem State.mapHome_thread (s : State) (i : Nat) (f : Home → Home) (k : Nat) : (s.mapHome i f).thread k = s.thread k := rfl
@[simp] theorem State.mapHome_tile (s : State) (i : Nat) (f : Home → Home) (k : Nat) : (s.mapHome i f).tile k = s.tile k := rfl
@[simp] theorem State.mapHome_part (s : State) (i : Nat) (f : Home → Home) (k : Nat) : (s.mapHome i f).part k = s.part k := rfl
@[simp] theorem State.mapHome_graph (s : State) (i : Nat) (f : Home → Home) (k : Nat) : (s.mapHome i f).graph k = s.graph k := rfl
@[simp] theorem State.mapHome_port (s : State) (i : Nat) (f : Home → Home) (k : Nat) : (s.mapHome i f).port k = s.port k := rfl
@[simp] theorem State.mapHome_zone (s : State) (i : Nat) (f : Home → Home) (k : Nat) : (s.mapHome i f).zone k = s.zone k := rfl
@[simp] theorem State.mapHome_me (s : State) (i : Nat) (f : Home → Home) : (s.mapHome i f).me = s.me := rfl
@[simp] theorem State.mapHome_myTile (s : State) (i : Nat) (f : Home → Home) : (s.mapHome i f).myTile = s.myTile := rfl

/-! `mapPart` writes `parts` alone. -/
@[simp] theorem State.mapPart_cycle (s : State) (i : Nat) (f : Part → Part) : (s.mapPart i f).cycle = s.cycle := rfl
@[simp] theorem State.mapPart_agenda (s : State) (i : Nat) (f : Part → Part) : (s.mapPart i f).agenda = s.agenda := rfl
@[simp] theorem State.mapPart_turn (s : State) (i : Nat) (f : Part → Part) : (s.mapPart i f).turn = s.turn := rfl
@[simp] theorem State.mapPart_cur (s : State) (i : Nat) (f : Part → Part) : (s.mapPart i f).cur = s.cur := rfl
@[simp] theorem State.mapPart_drawn (s : State) (i : Nat) (f : Part → Part) : (s.mapPart i f).drawn = s.drawn := rfl
@[simp] theorem State.mapPart_tmem (s : State) (i : Nat) (f : Part → Part) : (s.mapPart i f).tmem = s.tmem := rfl
@[simp] theorem State.mapPart_tpoison (s : State) (i : Nat) (f : Part → Part) : (s.mapPart i f).tpoison = s.tpoison := rfl
@[simp] theorem State.mapPart_tbad (s : State) (i : Nat) (f : Part → Part) : (s.mapPart i f).tbad = s.tbad := rfl
@[simp] theorem State.mapPart_vault (s : State) (i : Nat) (f : Part → Part) : (s.mapPart i f).vault = s.vault := rfl
@[simp] theorem State.mapPart_shadow (s : State) (i : Nat) (f : Part → Part) : (s.mapPart i f).shadow = s.shadow := rfl
@[simp] theorem State.mapPart_sectors (s : State) (i : Nat) (f : Part → Part) : (s.mapPart i f).sectors = s.sectors := rfl
@[simp] theorem State.mapPart_host (s : State) (i : Nat) (f : Part → Part) : (s.mapPart i f).host = s.host := rfl
@[simp] theorem State.mapPart_threads (s : State) (i : Nat) (f : Part → Part) : (s.mapPart i f).threads = s.threads := rfl
@[simp] theorem State.mapPart_tiles (s : State) (i : Nat) (f : Part → Part) : (s.mapPart i f).tiles = s.tiles := rfl
@[simp] theorem State.mapPart_homes (s : State) (i : Nat) (f : Part → Part) : (s.mapPart i f).homes = s.homes := rfl
@[simp] theorem State.mapPart_homeQ (s : State) (i : Nat) (f : Part → Part) : (s.mapPart i f).homeQ = s.homeQ := rfl
@[simp] theorem State.mapPart_held (s : State) (i : Nat) (f : Part → Part) : (s.mapPart i f).held = s.held := rfl
@[simp] theorem State.mapPart_noted (s : State) (i : Nat) (f : Part → Part) : (s.mapPart i f).noted = s.noted := rfl
@[simp] theorem State.mapPart_graphs (s : State) (i : Nat) (f : Part → Part) : (s.mapPart i f).graphs = s.graphs := rfl
@[simp] theorem State.mapPart_regions (s : State) (i : Nat) (f : Part → Part) : (s.mapPart i f).regions = s.regions := rfl
@[simp] theorem State.mapPart_rects (s : State) (i : Nat) (f : Part → Part) : (s.mapPart i f).rects = s.rects := rfl
@[simp] theorem State.mapPart_vecs (s : State) (i : Nat) (f : Part → Part) : (s.mapPart i f).vecs = s.vecs := rfl
@[simp] theorem State.mapPart_flights (s : State) (i : Nat) (f : Part → Part) : (s.mapPart i f).flights = s.flights := rfl
@[simp] theorem State.mapPart_permits (s : State) (i : Nat) (f : Part → Part) : (s.mapPart i f).permits = s.permits := rfl
@[simp] theorem State.mapPart_links (s : State) (i : Nat) (f : Part → Part) : (s.mapPart i f).links = s.links := rfl
@[simp] theorem State.mapPart_tlb2 (s : State) (i : Nat) (f : Part → Part) : (s.mapPart i f).tlb2 = s.tlb2 := rfl
@[simp] theorem State.mapPart_ports (s : State) (i : Nat) (f : Part → Part) : (s.mapPart i f).ports = s.ports := rfl
@[simp] theorem State.mapPart_bridge (s : State) (i : Nat) (f : Part → Part) : (s.mapPart i f).bridge = s.bridge := rfl
@[simp] theorem State.mapPart_zones (s : State) (i : Nat) (f : Part → Part) : (s.mapPart i f).zones = s.zones := rfl
@[simp] theorem State.mapPart_mod (s : State) (i : Nat) (f : Part → Part) : (s.mapPart i f).mod = s.mod := rfl
@[simp] theorem State.mapPart_thread (s : State) (i : Nat) (f : Part → Part) (k : Nat) : (s.mapPart i f).thread k = s.thread k := rfl
@[simp] theorem State.mapPart_tile (s : State) (i : Nat) (f : Part → Part) (k : Nat) : (s.mapPart i f).tile k = s.tile k := rfl
@[simp] theorem State.mapPart_home (s : State) (i : Nat) (f : Part → Part) (k : Nat) : (s.mapPart i f).home k = s.home k := rfl
@[simp] theorem State.mapPart_graph (s : State) (i : Nat) (f : Part → Part) (k : Nat) : (s.mapPart i f).graph k = s.graph k := rfl
@[simp] theorem State.mapPart_port (s : State) (i : Nat) (f : Part → Part) (k : Nat) : (s.mapPart i f).port k = s.port k := rfl
@[simp] theorem State.mapPart_zone (s : State) (i : Nat) (f : Part → Part) (k : Nat) : (s.mapPart i f).zone k = s.zone k := rfl
@[simp] theorem State.mapPart_me (s : State) (i : Nat) (f : Part → Part) : (s.mapPart i f).me = s.me := rfl
@[simp] theorem State.mapPart_myTile (s : State) (i : Nat) (f : Part → Part) : (s.mapPart i f).myTile = s.myTile := rfl

/-! `mapGraph` writes `graphs` alone. -/
@[simp] theorem State.mapGraph_cycle (s : State) (i : Nat) (f : Graph → Graph) : (s.mapGraph i f).cycle = s.cycle := rfl
@[simp] theorem State.mapGraph_agenda (s : State) (i : Nat) (f : Graph → Graph) : (s.mapGraph i f).agenda = s.agenda := rfl
@[simp] theorem State.mapGraph_turn (s : State) (i : Nat) (f : Graph → Graph) : (s.mapGraph i f).turn = s.turn := rfl
@[simp] theorem State.mapGraph_cur (s : State) (i : Nat) (f : Graph → Graph) : (s.mapGraph i f).cur = s.cur := rfl
@[simp] theorem State.mapGraph_drawn (s : State) (i : Nat) (f : Graph → Graph) : (s.mapGraph i f).drawn = s.drawn := rfl
@[simp] theorem State.mapGraph_tmem (s : State) (i : Nat) (f : Graph → Graph) : (s.mapGraph i f).tmem = s.tmem := rfl
@[simp] theorem State.mapGraph_tpoison (s : State) (i : Nat) (f : Graph → Graph) : (s.mapGraph i f).tpoison = s.tpoison := rfl
@[simp] theorem State.mapGraph_tbad (s : State) (i : Nat) (f : Graph → Graph) : (s.mapGraph i f).tbad = s.tbad := rfl
@[simp] theorem State.mapGraph_vault (s : State) (i : Nat) (f : Graph → Graph) : (s.mapGraph i f).vault = s.vault := rfl
@[simp] theorem State.mapGraph_shadow (s : State) (i : Nat) (f : Graph → Graph) : (s.mapGraph i f).shadow = s.shadow := rfl
@[simp] theorem State.mapGraph_sectors (s : State) (i : Nat) (f : Graph → Graph) : (s.mapGraph i f).sectors = s.sectors := rfl
@[simp] theorem State.mapGraph_host (s : State) (i : Nat) (f : Graph → Graph) : (s.mapGraph i f).host = s.host := rfl
@[simp] theorem State.mapGraph_threads (s : State) (i : Nat) (f : Graph → Graph) : (s.mapGraph i f).threads = s.threads := rfl
@[simp] theorem State.mapGraph_tiles (s : State) (i : Nat) (f : Graph → Graph) : (s.mapGraph i f).tiles = s.tiles := rfl
@[simp] theorem State.mapGraph_homes (s : State) (i : Nat) (f : Graph → Graph) : (s.mapGraph i f).homes = s.homes := rfl
@[simp] theorem State.mapGraph_homeQ (s : State) (i : Nat) (f : Graph → Graph) : (s.mapGraph i f).homeQ = s.homeQ := rfl
@[simp] theorem State.mapGraph_held (s : State) (i : Nat) (f : Graph → Graph) : (s.mapGraph i f).held = s.held := rfl
@[simp] theorem State.mapGraph_noted (s : State) (i : Nat) (f : Graph → Graph) : (s.mapGraph i f).noted = s.noted := rfl
@[simp] theorem State.mapGraph_parts (s : State) (i : Nat) (f : Graph → Graph) : (s.mapGraph i f).parts = s.parts := rfl
@[simp] theorem State.mapGraph_regions (s : State) (i : Nat) (f : Graph → Graph) : (s.mapGraph i f).regions = s.regions := rfl
@[simp] theorem State.mapGraph_rects (s : State) (i : Nat) (f : Graph → Graph) : (s.mapGraph i f).rects = s.rects := rfl
@[simp] theorem State.mapGraph_vecs (s : State) (i : Nat) (f : Graph → Graph) : (s.mapGraph i f).vecs = s.vecs := rfl
@[simp] theorem State.mapGraph_flights (s : State) (i : Nat) (f : Graph → Graph) : (s.mapGraph i f).flights = s.flights := rfl
@[simp] theorem State.mapGraph_permits (s : State) (i : Nat) (f : Graph → Graph) : (s.mapGraph i f).permits = s.permits := rfl
@[simp] theorem State.mapGraph_links (s : State) (i : Nat) (f : Graph → Graph) : (s.mapGraph i f).links = s.links := rfl
@[simp] theorem State.mapGraph_tlb2 (s : State) (i : Nat) (f : Graph → Graph) : (s.mapGraph i f).tlb2 = s.tlb2 := rfl
@[simp] theorem State.mapGraph_ports (s : State) (i : Nat) (f : Graph → Graph) : (s.mapGraph i f).ports = s.ports := rfl
@[simp] theorem State.mapGraph_bridge (s : State) (i : Nat) (f : Graph → Graph) : (s.mapGraph i f).bridge = s.bridge := rfl
@[simp] theorem State.mapGraph_zones (s : State) (i : Nat) (f : Graph → Graph) : (s.mapGraph i f).zones = s.zones := rfl
@[simp] theorem State.mapGraph_mod (s : State) (i : Nat) (f : Graph → Graph) : (s.mapGraph i f).mod = s.mod := rfl
@[simp] theorem State.mapGraph_thread (s : State) (i : Nat) (f : Graph → Graph) (k : Nat) : (s.mapGraph i f).thread k = s.thread k := rfl
@[simp] theorem State.mapGraph_tile (s : State) (i : Nat) (f : Graph → Graph) (k : Nat) : (s.mapGraph i f).tile k = s.tile k := rfl
@[simp] theorem State.mapGraph_home (s : State) (i : Nat) (f : Graph → Graph) (k : Nat) : (s.mapGraph i f).home k = s.home k := rfl
@[simp] theorem State.mapGraph_part (s : State) (i : Nat) (f : Graph → Graph) (k : Nat) : (s.mapGraph i f).part k = s.part k := rfl
@[simp] theorem State.mapGraph_port (s : State) (i : Nat) (f : Graph → Graph) (k : Nat) : (s.mapGraph i f).port k = s.port k := rfl
@[simp] theorem State.mapGraph_zone (s : State) (i : Nat) (f : Graph → Graph) (k : Nat) : (s.mapGraph i f).zone k = s.zone k := rfl
@[simp] theorem State.mapGraph_me (s : State) (i : Nat) (f : Graph → Graph) : (s.mapGraph i f).me = s.me := rfl
@[simp] theorem State.mapGraph_myTile (s : State) (i : Nat) (f : Graph → Graph) : (s.mapGraph i f).myTile = s.myTile := rfl

/-! `mapPort` writes `ports` alone. -/
@[simp] theorem State.mapPort_cycle (s : State) (i : Nat) (f : Port → Port) : (s.mapPort i f).cycle = s.cycle := rfl
@[simp] theorem State.mapPort_agenda (s : State) (i : Nat) (f : Port → Port) : (s.mapPort i f).agenda = s.agenda := rfl
@[simp] theorem State.mapPort_turn (s : State) (i : Nat) (f : Port → Port) : (s.mapPort i f).turn = s.turn := rfl
@[simp] theorem State.mapPort_cur (s : State) (i : Nat) (f : Port → Port) : (s.mapPort i f).cur = s.cur := rfl
@[simp] theorem State.mapPort_drawn (s : State) (i : Nat) (f : Port → Port) : (s.mapPort i f).drawn = s.drawn := rfl
@[simp] theorem State.mapPort_tmem (s : State) (i : Nat) (f : Port → Port) : (s.mapPort i f).tmem = s.tmem := rfl
@[simp] theorem State.mapPort_tpoison (s : State) (i : Nat) (f : Port → Port) : (s.mapPort i f).tpoison = s.tpoison := rfl
@[simp] theorem State.mapPort_tbad (s : State) (i : Nat) (f : Port → Port) : (s.mapPort i f).tbad = s.tbad := rfl
@[simp] theorem State.mapPort_vault (s : State) (i : Nat) (f : Port → Port) : (s.mapPort i f).vault = s.vault := rfl
@[simp] theorem State.mapPort_shadow (s : State) (i : Nat) (f : Port → Port) : (s.mapPort i f).shadow = s.shadow := rfl
@[simp] theorem State.mapPort_sectors (s : State) (i : Nat) (f : Port → Port) : (s.mapPort i f).sectors = s.sectors := rfl
@[simp] theorem State.mapPort_host (s : State) (i : Nat) (f : Port → Port) : (s.mapPort i f).host = s.host := rfl
@[simp] theorem State.mapPort_threads (s : State) (i : Nat) (f : Port → Port) : (s.mapPort i f).threads = s.threads := rfl
@[simp] theorem State.mapPort_tiles (s : State) (i : Nat) (f : Port → Port) : (s.mapPort i f).tiles = s.tiles := rfl
@[simp] theorem State.mapPort_homes (s : State) (i : Nat) (f : Port → Port) : (s.mapPort i f).homes = s.homes := rfl
@[simp] theorem State.mapPort_homeQ (s : State) (i : Nat) (f : Port → Port) : (s.mapPort i f).homeQ = s.homeQ := rfl
@[simp] theorem State.mapPort_held (s : State) (i : Nat) (f : Port → Port) : (s.mapPort i f).held = s.held := rfl
@[simp] theorem State.mapPort_noted (s : State) (i : Nat) (f : Port → Port) : (s.mapPort i f).noted = s.noted := rfl
@[simp] theorem State.mapPort_parts (s : State) (i : Nat) (f : Port → Port) : (s.mapPort i f).parts = s.parts := rfl
@[simp] theorem State.mapPort_graphs (s : State) (i : Nat) (f : Port → Port) : (s.mapPort i f).graphs = s.graphs := rfl
@[simp] theorem State.mapPort_regions (s : State) (i : Nat) (f : Port → Port) : (s.mapPort i f).regions = s.regions := rfl
@[simp] theorem State.mapPort_rects (s : State) (i : Nat) (f : Port → Port) : (s.mapPort i f).rects = s.rects := rfl
@[simp] theorem State.mapPort_vecs (s : State) (i : Nat) (f : Port → Port) : (s.mapPort i f).vecs = s.vecs := rfl
@[simp] theorem State.mapPort_flights (s : State) (i : Nat) (f : Port → Port) : (s.mapPort i f).flights = s.flights := rfl
@[simp] theorem State.mapPort_permits (s : State) (i : Nat) (f : Port → Port) : (s.mapPort i f).permits = s.permits := rfl
@[simp] theorem State.mapPort_links (s : State) (i : Nat) (f : Port → Port) : (s.mapPort i f).links = s.links := rfl
@[simp] theorem State.mapPort_tlb2 (s : State) (i : Nat) (f : Port → Port) : (s.mapPort i f).tlb2 = s.tlb2 := rfl
@[simp] theorem State.mapPort_bridge (s : State) (i : Nat) (f : Port → Port) : (s.mapPort i f).bridge = s.bridge := rfl
@[simp] theorem State.mapPort_zones (s : State) (i : Nat) (f : Port → Port) : (s.mapPort i f).zones = s.zones := rfl
@[simp] theorem State.mapPort_mod (s : State) (i : Nat) (f : Port → Port) : (s.mapPort i f).mod = s.mod := rfl
@[simp] theorem State.mapPort_thread (s : State) (i : Nat) (f : Port → Port) (k : Nat) : (s.mapPort i f).thread k = s.thread k := rfl
@[simp] theorem State.mapPort_tile (s : State) (i : Nat) (f : Port → Port) (k : Nat) : (s.mapPort i f).tile k = s.tile k := rfl
@[simp] theorem State.mapPort_home (s : State) (i : Nat) (f : Port → Port) (k : Nat) : (s.mapPort i f).home k = s.home k := rfl
@[simp] theorem State.mapPort_part (s : State) (i : Nat) (f : Port → Port) (k : Nat) : (s.mapPort i f).part k = s.part k := rfl
@[simp] theorem State.mapPort_graph (s : State) (i : Nat) (f : Port → Port) (k : Nat) : (s.mapPort i f).graph k = s.graph k := rfl
@[simp] theorem State.mapPort_zone (s : State) (i : Nat) (f : Port → Port) (k : Nat) : (s.mapPort i f).zone k = s.zone k := rfl
@[simp] theorem State.mapPort_me (s : State) (i : Nat) (f : Port → Port) : (s.mapPort i f).me = s.me := rfl
@[simp] theorem State.mapPort_myTile (s : State) (i : Nat) (f : Port → Port) : (s.mapPort i f).myTile = s.myTile := rfl

/-! `mapZone` writes `zones` alone. -/
@[simp] theorem State.mapZone_cycle (s : State) (i : Nat) (f : Zone → Zone) : (s.mapZone i f).cycle = s.cycle := rfl
@[simp] theorem State.mapZone_agenda (s : State) (i : Nat) (f : Zone → Zone) : (s.mapZone i f).agenda = s.agenda := rfl
@[simp] theorem State.mapZone_turn (s : State) (i : Nat) (f : Zone → Zone) : (s.mapZone i f).turn = s.turn := rfl
@[simp] theorem State.mapZone_cur (s : State) (i : Nat) (f : Zone → Zone) : (s.mapZone i f).cur = s.cur := rfl
@[simp] theorem State.mapZone_drawn (s : State) (i : Nat) (f : Zone → Zone) : (s.mapZone i f).drawn = s.drawn := rfl
@[simp] theorem State.mapZone_tmem (s : State) (i : Nat) (f : Zone → Zone) : (s.mapZone i f).tmem = s.tmem := rfl
@[simp] theorem State.mapZone_tpoison (s : State) (i : Nat) (f : Zone → Zone) : (s.mapZone i f).tpoison = s.tpoison := rfl
@[simp] theorem State.mapZone_tbad (s : State) (i : Nat) (f : Zone → Zone) : (s.mapZone i f).tbad = s.tbad := rfl
@[simp] theorem State.mapZone_vault (s : State) (i : Nat) (f : Zone → Zone) : (s.mapZone i f).vault = s.vault := rfl
@[simp] theorem State.mapZone_shadow (s : State) (i : Nat) (f : Zone → Zone) : (s.mapZone i f).shadow = s.shadow := rfl
@[simp] theorem State.mapZone_sectors (s : State) (i : Nat) (f : Zone → Zone) : (s.mapZone i f).sectors = s.sectors := rfl
@[simp] theorem State.mapZone_host (s : State) (i : Nat) (f : Zone → Zone) : (s.mapZone i f).host = s.host := rfl
@[simp] theorem State.mapZone_threads (s : State) (i : Nat) (f : Zone → Zone) : (s.mapZone i f).threads = s.threads := rfl
@[simp] theorem State.mapZone_tiles (s : State) (i : Nat) (f : Zone → Zone) : (s.mapZone i f).tiles = s.tiles := rfl
@[simp] theorem State.mapZone_homes (s : State) (i : Nat) (f : Zone → Zone) : (s.mapZone i f).homes = s.homes := rfl
@[simp] theorem State.mapZone_homeQ (s : State) (i : Nat) (f : Zone → Zone) : (s.mapZone i f).homeQ = s.homeQ := rfl
@[simp] theorem State.mapZone_held (s : State) (i : Nat) (f : Zone → Zone) : (s.mapZone i f).held = s.held := rfl
@[simp] theorem State.mapZone_noted (s : State) (i : Nat) (f : Zone → Zone) : (s.mapZone i f).noted = s.noted := rfl
@[simp] theorem State.mapZone_parts (s : State) (i : Nat) (f : Zone → Zone) : (s.mapZone i f).parts = s.parts := rfl
@[simp] theorem State.mapZone_graphs (s : State) (i : Nat) (f : Zone → Zone) : (s.mapZone i f).graphs = s.graphs := rfl
@[simp] theorem State.mapZone_regions (s : State) (i : Nat) (f : Zone → Zone) : (s.mapZone i f).regions = s.regions := rfl
@[simp] theorem State.mapZone_rects (s : State) (i : Nat) (f : Zone → Zone) : (s.mapZone i f).rects = s.rects := rfl
@[simp] theorem State.mapZone_vecs (s : State) (i : Nat) (f : Zone → Zone) : (s.mapZone i f).vecs = s.vecs := rfl
@[simp] theorem State.mapZone_flights (s : State) (i : Nat) (f : Zone → Zone) : (s.mapZone i f).flights = s.flights := rfl
@[simp] theorem State.mapZone_permits (s : State) (i : Nat) (f : Zone → Zone) : (s.mapZone i f).permits = s.permits := rfl
@[simp] theorem State.mapZone_links (s : State) (i : Nat) (f : Zone → Zone) : (s.mapZone i f).links = s.links := rfl
@[simp] theorem State.mapZone_tlb2 (s : State) (i : Nat) (f : Zone → Zone) : (s.mapZone i f).tlb2 = s.tlb2 := rfl
@[simp] theorem State.mapZone_ports (s : State) (i : Nat) (f : Zone → Zone) : (s.mapZone i f).ports = s.ports := rfl
@[simp] theorem State.mapZone_bridge (s : State) (i : Nat) (f : Zone → Zone) : (s.mapZone i f).bridge = s.bridge := rfl
@[simp] theorem State.mapZone_mod (s : State) (i : Nat) (f : Zone → Zone) : (s.mapZone i f).mod = s.mod := rfl
@[simp] theorem State.mapZone_thread (s : State) (i : Nat) (f : Zone → Zone) (k : Nat) : (s.mapZone i f).thread k = s.thread k := rfl
@[simp] theorem State.mapZone_tile (s : State) (i : Nat) (f : Zone → Zone) (k : Nat) : (s.mapZone i f).tile k = s.tile k := rfl
@[simp] theorem State.mapZone_home (s : State) (i : Nat) (f : Zone → Zone) (k : Nat) : (s.mapZone i f).home k = s.home k := rfl
@[simp] theorem State.mapZone_part (s : State) (i : Nat) (f : Zone → Zone) (k : Nat) : (s.mapZone i f).part k = s.part k := rfl
@[simp] theorem State.mapZone_graph (s : State) (i : Nat) (f : Zone → Zone) (k : Nat) : (s.mapZone i f).graph k = s.graph k := rfl
@[simp] theorem State.mapZone_port (s : State) (i : Nat) (f : Zone → Zone) (k : Nat) : (s.mapZone i f).port k = s.port k := rfl
@[simp] theorem State.mapZone_me (s : State) (i : Nat) (f : Zone → Zone) : (s.mapZone i f).me = s.me := rfl
@[simp] theorem State.mapZone_myTile (s : State) (i : Nat) (f : Zone → Zone) : (s.mapZone i f).myTile = s.myTile := rfl

/-! `draw` writes `drawn` alone. -/
@[simp] theorem State.draw_cycle (s : State) : (s.draw).cycle = s.cycle := rfl
@[simp] theorem State.draw_agenda (s : State) : (s.draw).agenda = s.agenda := rfl
@[simp] theorem State.draw_turn (s : State) : (s.draw).turn = s.turn := rfl
@[simp] theorem State.draw_cur (s : State) : (s.draw).cur = s.cur := rfl
@[simp] theorem State.draw_tmem (s : State) : (s.draw).tmem = s.tmem := rfl
@[simp] theorem State.draw_tpoison (s : State) : (s.draw).tpoison = s.tpoison := rfl
@[simp] theorem State.draw_tbad (s : State) : (s.draw).tbad = s.tbad := rfl
@[simp] theorem State.draw_vault (s : State) : (s.draw).vault = s.vault := rfl
@[simp] theorem State.draw_shadow (s : State) : (s.draw).shadow = s.shadow := rfl
@[simp] theorem State.draw_sectors (s : State) : (s.draw).sectors = s.sectors := rfl
@[simp] theorem State.draw_host (s : State) : (s.draw).host = s.host := rfl
@[simp] theorem State.draw_threads (s : State) : (s.draw).threads = s.threads := rfl
@[simp] theorem State.draw_tiles (s : State) : (s.draw).tiles = s.tiles := rfl
@[simp] theorem State.draw_homes (s : State) : (s.draw).homes = s.homes := rfl
@[simp] theorem State.draw_homeQ (s : State) : (s.draw).homeQ = s.homeQ := rfl
@[simp] theorem State.draw_held (s : State) : (s.draw).held = s.held := rfl
@[simp] theorem State.draw_noted (s : State) : (s.draw).noted = s.noted := rfl
@[simp] theorem State.draw_parts (s : State) : (s.draw).parts = s.parts := rfl
@[simp] theorem State.draw_graphs (s : State) : (s.draw).graphs = s.graphs := rfl
@[simp] theorem State.draw_regions (s : State) : (s.draw).regions = s.regions := rfl
@[simp] theorem State.draw_rects (s : State) : (s.draw).rects = s.rects := rfl
@[simp] theorem State.draw_vecs (s : State) : (s.draw).vecs = s.vecs := rfl
@[simp] theorem State.draw_flights (s : State) : (s.draw).flights = s.flights := rfl
@[simp] theorem State.draw_permits (s : State) : (s.draw).permits = s.permits := rfl
@[simp] theorem State.draw_links (s : State) : (s.draw).links = s.links := rfl
@[simp] theorem State.draw_tlb2 (s : State) : (s.draw).tlb2 = s.tlb2 := rfl
@[simp] theorem State.draw_ports (s : State) : (s.draw).ports = s.ports := rfl
@[simp] theorem State.draw_bridge (s : State) : (s.draw).bridge = s.bridge := rfl
@[simp] theorem State.draw_zones (s : State) : (s.draw).zones = s.zones := rfl
@[simp] theorem State.draw_mod (s : State) : (s.draw).mod = s.mod := rfl
@[simp] theorem State.draw_thread (s : State) (k : Nat) : (s.draw).thread k = s.thread k := rfl
@[simp] theorem State.draw_tile (s : State) (k : Nat) : (s.draw).tile k = s.tile k := rfl
@[simp] theorem State.draw_home (s : State) (k : Nat) : (s.draw).home k = s.home k := rfl
@[simp] theorem State.draw_part (s : State) (k : Nat) : (s.draw).part k = s.part k := rfl
@[simp] theorem State.draw_graph (s : State) (k : Nat) : (s.draw).graph k = s.graph k := rfl
@[simp] theorem State.draw_port (s : State) (k : Nat) : (s.draw).port k = s.port k := rfl
@[simp] theorem State.draw_zone (s : State) (k : Nat) : (s.draw).zone k = s.zone k := rfl
@[simp] theorem State.draw_me (s : State) : (s.draw).me = s.me := rfl
@[simp] theorem State.draw_myTile (s : State) : (s.draw).myTile = s.myTile := rfl

/-! What a lookup finds after an update of its own kind. -/
theorem State.thread_mapThread (s : State) (i k : Nat) (f : Thread → Thread) :
    (s.mapThread i f).thread k = if i = k then f (s.thread i) else s.thread k := by
  simp only [State.mapThread, State.thread, State.setThread, Assoc.getD_set]
@[simp] theorem State.thread_mapThread_same (s : State) (i : Nat) (f : Thread → Thread) : (s.mapThread i f).thread i = f (s.thread i) := by
  simp [State.thread_mapThread]
theorem State.tile_mapTile (s : State) (i k : Nat) (f : Tile → Tile) :
    (s.mapTile i f).tile k = if i = k then f (s.tile i) else s.tile k := by
  simp only [State.mapTile, State.tile, State.setTile, Assoc.getD_set]
@[simp] theorem State.tile_mapTile_same (s : State) (i : Nat) (f : Tile → Tile) : (s.mapTile i f).tile i = f (s.tile i) := by
  simp [State.tile_mapTile]
theorem State.home_mapHome (s : State) (i k : Nat) (f : Home → Home) :
    (s.mapHome i f).home k = if i = k then f (s.home i) else s.home k := by
  simp only [State.mapHome, State.home, Assoc.getD_set]
@[simp] theorem State.home_mapHome_same (s : State) (i : Nat) (f : Home → Home) : (s.mapHome i f).home i = f (s.home i) := by
  simp [State.home_mapHome]
theorem State.part_mapPart (s : State) (i k : Nat) (f : Part → Part) :
    (s.mapPart i f).part k = if i = k then f (s.part i) else s.part k := by
  simp only [State.mapPart, State.part, Assoc.getD_set]
@[simp] theorem State.part_mapPart_same (s : State) (i : Nat) (f : Part → Part) : (s.mapPart i f).part i = f (s.part i) := by
  simp [State.part_mapPart]
theorem State.graph_mapGraph (s : State) (i k : Nat) (f : Graph → Graph) :
    (s.mapGraph i f).graph k = if i = k then f (s.graph i) else s.graph k := by
  simp only [State.mapGraph, State.graph, Assoc.getD_set]
@[simp] theorem State.graph_mapGraph_same (s : State) (i : Nat) (f : Graph → Graph) : (s.mapGraph i f).graph i = f (s.graph i) := by
  simp [State.graph_mapGraph]
theorem State.port_mapPort (s : State) (i k : Nat) (f : Port → Port) :
    (s.mapPort i f).port k = if i = k then f (s.port i) else s.port k := by
  simp only [State.mapPort, State.port, Assoc.getD_set]
@[simp] theorem State.port_mapPort_same (s : State) (i : Nat) (f : Port → Port) : (s.mapPort i f).port i = f (s.port i) := by
  simp [State.port_mapPort]
theorem State.zone_mapZone (s : State) (i k : Nat) (f : Zone → Zone) :
    (s.mapZone i f).zone k = if i = k then f (s.zone i) else s.zone k := by
  simp only [State.mapZone, State.zone, Assoc.getD_set]
@[simp] theorem State.zone_mapZone_same (s : State) (i : Nat) (f : Zone → Zone) : (s.mapZone i f).zone i = f (s.zone i) := by
  simp [State.zone_mapZone]
theorem State.thread_setThread (s : State) (i k : Nat) (t : Thread) : (s.setThread i t).thread k = if i = k then t else s.thread k := by
  simp only [State.setThread, State.thread, Assoc.getD_set]
@[simp] theorem State.thread_setThread_same (s : State) (i : Nat) (t : Thread) : (s.setThread i t).thread i = t := by
  simp [State.thread_setThread]
@[simp] theorem State.me_setMe (s : State) (t : Thread) : (s.setMe t).me = t := State.thread_setThread_same s s.cur t
@[simp] theorem State.me_mapMe (s : State) (f : Thread → Thread) : (s.mapMe f).me = f s.me := State.me_setMe s _
/-- Setting a slot twice is setting it to the second value. -/
@[simp] theorem State.setThread_setThread (s : State) (i : Nat) (t u : Thread) : (s.setThread i t).setThread i u = s.setThread i u := by
  simp [State.setThread]
/-- Two changes of the running slot are one. -/
@[simp] theorem State.mapMe_mapMe (s : State) (f g : Thread → Thread) : (s.mapMe f).mapMe g = s.mapMe (fun t => g (f t)) := by
  have h : ((s.mapMe f).mapMe g) = (s.setThread s.cur (f s.me)).setThread s.cur (g ((s.mapMe f).me)) := rfl
  rw [h, State.setThread_setThread, State.me_mapMe]; rfl
/-- Two changes of a slot are one. -/
@[simp] theorem State.mapThread_mapThread (s : State) (i : Nat) (f g : Thread → Thread) :
    (s.mapThread i f).mapThread i g = s.mapThread i (fun t => g (f t)) := by
  have h : (s.mapThread i f).mapThread i g = (s.setThread i (f (s.thread i))).setThread i (g ((s.mapThread i f).thread i)) := rfl
  rw [h, State.setThread_setThread, State.thread_mapThread_same]; rfl

/-! ### Updates of a thread -/

/-! `ws` writes `s`. -/
@[simp] theorem Thread.ws_v (t : Thread) (d : BitVec 5) (w : Word) : (t.ws d w).v = t.v := by unfold Thread.ws; split <;> rfl
@[simp] theorem Thread.ws_p (t : Thread) (d : BitVec 5) (w : Word) : (t.ws d w).p = t.p := by unfold Thread.ws; split <;> rfl
@[simp] theorem Thread.ws_lc (t : Thread) (d : BitVec 5) (w : Word) : (t.ws d w).lc = t.lc := by unfold Thread.ws; split <;> rfl
@[simp] theorem Thread.ws_fifo (t : Thread) (d : BitVec 5) (w : Word) : (t.ws d w).fifo = t.fifo := by unfold Thread.ws; split <;> rfl
@[simp] theorem Thread.ws_pc (t : Thread) (d : BitVec 5) (w : Word) : (t.ws d w).pc = t.pc := by unfold Thread.ws; split <;> rfl
@[simp] theorem Thread.ws_fpctl (t : Thread) (d : BitVec 5) (w : Word) : (t.ws d w).fpctl = t.fpctl := by unfold Thread.ws; split <;> rfl
@[simp] theorem Thread.ws_lvl (t : Thread) (d : BitVec 5) (w : Word) : (t.ws d w).lvl = t.lvl := by unfold Thread.ws; split <;> rfl
@[simp] theorem Thread.ws_rlim (t : Thread) (d : BitVec 5) (w : Word) : (t.ws d w).rlim = t.rlim := by unfold Thread.ws; split <;> rfl
@[simp] theorem Thread.ws_rcnt (t : Thread) (d : BitVec 5) (w : Word) : (t.ws d w).rcnt = t.rcnt := by unfold Thread.ws; split <;> rfl
@[simp] theorem Thread.ws_tpc (t : Thread) (d : BitVec 5) (w : Word) : (t.ws d w).tpc = t.tpc := by unfold Thread.ws; split <;> rfl
@[simp] theorem Thread.ws_tcause (t : Thread) (d : BitVec 5) (w : Word) : (t.ws d w).tcause = t.tcause := by unfold Thread.ws; split <;> rfl
@[simp] theorem Thread.ws_tval (t : Thread) (d : BitVec 5) (w : Word) : (t.ws d w).tval = t.tval := by unfold Thread.ws; split <;> rfl
@[simp] theorem Thread.ws_tbs (t : Thread) (d : BitVec 5) (w : Word) : (t.ws d w).tbs = t.tbs := by unfold Thread.ws; split <;> rfl
@[simp] theorem Thread.ws_ssave (t : Thread) (d : BitVec 5) (w : Word) : (t.ws d w).ssave = t.ssave := by unfold Thread.ws; split <;> rfl
@[simp] theorem Thread.ws_bight (t : Thread) (d : BitVec 5) (w : Word) : (t.ws d w).bight = t.bight := by unfold Thread.ws; split <;> rfl
@[simp] theorem Thread.ws_susp (t : Thread) (d : BitVec 5) (w : Word) : (t.ws d w).susp = t.susp := by unfold Thread.ws; split <;> rfl
@[simp] theorem Thread.ws_wave (t : Thread) (d : BitVec 5) (w : Word) : (t.ws d w).wave = t.wave := by unfold Thread.ws; split <;> rfl
@[simp] theorem Thread.ws_run (t : Thread) (d : BitVec 5) (w : Word) : (t.ws d w).run = t.run := by unfold Thread.ws; split <;> rfl
@[simp] theorem Thread.ws_wait (t : Thread) (d : BitVec 5) (w : Word) : (t.ws d w).wait = t.wait := by unfold Thread.ws; split <;> rfl
@[simp] theorem Thread.ws_yield (t : Thread) (d : BitVec 5) (w : Word) : (t.ws d w).yield = t.yield := by unfold Thread.ws; split <;> rfl
@[simp] theorem Thread.ws_graph (t : Thread) (d : BitVec 5) (w : Word) : (t.ws d w).graph = t.graph := by unfold Thread.ws; split <;> rfl
@[simp] theorem Thread.ws_lx (t : Thread) (d : BitVec 5) (w : Word) : (t.ws d w).lx = t.lx := by unfold Thread.ws; split <;> rfl
@[simp] theorem Thread.ws_ly (t : Thread) (d : BitVec 5) (w : Word) : (t.ws d w).ly = t.ly := by unfold Thread.ws; split <;> rfl
@[simp] theorem Thread.ws_lctx (t : Thread) (d : BitVec 5) (w : Word) : (t.ws d w).lctx = t.lctx := by unfold Thread.ws; split <;> rfl
@[simp] theorem Thread.ws_pctx (t : Thread) (d : BitVec 5) (w : Word) : (t.ws d w).pctx = t.pctx := by unfold Thread.ws; split <;> rfl
@[simp] theorem Thread.ws_tno (t : Thread) (d : BitVec 5) (w : Word) : (t.ws d w).tno = t.tno := by unfold Thread.ws; split <;> rfl
@[simp] theorem Thread.ws_nthr (t : Thread) (d : BitVec 5) (w : Word) : (t.ws d w).nthr = t.nthr := by unfold Thread.ws; split <;> rfl
@[simp] theorem Thread.ws_queues (t : Thread) (d : BitVec 5) (w : Word) : (t.ws d w).queues = t.queues := by unfold Thread.ws; split <;> rfl
@[simp] theorem Thread.ws_pend (t : Thread) (d : BitVec 5) (w : Word) : (t.ws d w).pend = t.pend := by unfold Thread.ws; split <;> rfl
@[simp] theorem Thread.ws_held (t : Thread) (d : BitVec 5) (w : Word) : (t.ws d w).held = t.held := by unfold Thread.ws; split <;> rfl
@[simp] theorem Thread.ws_late (t : Thread) (d : BitVec 5) (w : Word) : (t.ws d w).late = t.late := by unfold Thread.ws; split <;> rfl
@[simp] theorem Thread.ws_gtraps (t : Thread) (d : BitVec 5) (w : Word) : (t.ws d w).gtraps = t.gtraps := by unfold Thread.ws; split <;> rfl
@[simp] theorem Thread.ws_gbar (t : Thread) (d : BitVec 5) (w : Word) : (t.ws d w).gbar = t.gbar := by unfold Thread.ws; split <;> rfl
@[simp] theorem Thread.ws_kept (t : Thread) (d : BitVec 5) (w : Word) : (t.ws d w).kept = t.kept := by unfold Thread.ws; split <;> rfl
@[simp] theorem Thread.ws_peerEps (t : Thread) (d : BitVec 5) (w : Word) : (t.ws d w).peerEps = t.peerEps := by unfold Thread.ws; split <;> rfl
@[simp] theorem Thread.ws_graphId (t : Thread) (d : BitVec 5) (w : Word) : (t.ws d w).graphId = t.graphId := by unfold Thread.ws; split <;> rfl
@[simp] theorem Thread.ws_lastWave (t : Thread) (d : BitVec 5) (w : Word) : (t.ws d w).lastWave = t.lastWave := by unfold Thread.ws; split <;> rfl

/-! `wp` writes `p`. -/
@[simp] theorem Thread.wp_s (t : Thread) (d : BitVec 3) (w : Word) : (t.wp d w).s = t.s := by unfold Thread.wp; split <;> rfl
@[simp] theorem Thread.wp_v (t : Thread) (d : BitVec 3) (w : Word) : (t.wp d w).v = t.v := by unfold Thread.wp; split <;> rfl
@[simp] theorem Thread.wp_lc (t : Thread) (d : BitVec 3) (w : Word) : (t.wp d w).lc = t.lc := by unfold Thread.wp; split <;> rfl
@[simp] theorem Thread.wp_fifo (t : Thread) (d : BitVec 3) (w : Word) : (t.wp d w).fifo = t.fifo := by unfold Thread.wp; split <;> rfl
@[simp] theorem Thread.wp_pc (t : Thread) (d : BitVec 3) (w : Word) : (t.wp d w).pc = t.pc := by unfold Thread.wp; split <;> rfl
@[simp] theorem Thread.wp_fpctl (t : Thread) (d : BitVec 3) (w : Word) : (t.wp d w).fpctl = t.fpctl := by unfold Thread.wp; split <;> rfl
@[simp] theorem Thread.wp_lvl (t : Thread) (d : BitVec 3) (w : Word) : (t.wp d w).lvl = t.lvl := by unfold Thread.wp; split <;> rfl
@[simp] theorem Thread.wp_rlim (t : Thread) (d : BitVec 3) (w : Word) : (t.wp d w).rlim = t.rlim := by unfold Thread.wp; split <;> rfl
@[simp] theorem Thread.wp_rcnt (t : Thread) (d : BitVec 3) (w : Word) : (t.wp d w).rcnt = t.rcnt := by unfold Thread.wp; split <;> rfl
@[simp] theorem Thread.wp_tpc (t : Thread) (d : BitVec 3) (w : Word) : (t.wp d w).tpc = t.tpc := by unfold Thread.wp; split <;> rfl
@[simp] theorem Thread.wp_tcause (t : Thread) (d : BitVec 3) (w : Word) : (t.wp d w).tcause = t.tcause := by unfold Thread.wp; split <;> rfl
@[simp] theorem Thread.wp_tval (t : Thread) (d : BitVec 3) (w : Word) : (t.wp d w).tval = t.tval := by unfold Thread.wp; split <;> rfl
@[simp] theorem Thread.wp_tbs (t : Thread) (d : BitVec 3) (w : Word) : (t.wp d w).tbs = t.tbs := by unfold Thread.wp; split <;> rfl
@[simp] theorem Thread.wp_ssave (t : Thread) (d : BitVec 3) (w : Word) : (t.wp d w).ssave = t.ssave := by unfold Thread.wp; split <;> rfl
@[simp] theorem Thread.wp_bight (t : Thread) (d : BitVec 3) (w : Word) : (t.wp d w).bight = t.bight := by unfold Thread.wp; split <;> rfl
@[simp] theorem Thread.wp_susp (t : Thread) (d : BitVec 3) (w : Word) : (t.wp d w).susp = t.susp := by unfold Thread.wp; split <;> rfl
@[simp] theorem Thread.wp_wave (t : Thread) (d : BitVec 3) (w : Word) : (t.wp d w).wave = t.wave := by unfold Thread.wp; split <;> rfl
@[simp] theorem Thread.wp_run (t : Thread) (d : BitVec 3) (w : Word) : (t.wp d w).run = t.run := by unfold Thread.wp; split <;> rfl
@[simp] theorem Thread.wp_wait (t : Thread) (d : BitVec 3) (w : Word) : (t.wp d w).wait = t.wait := by unfold Thread.wp; split <;> rfl
@[simp] theorem Thread.wp_yield (t : Thread) (d : BitVec 3) (w : Word) : (t.wp d w).yield = t.yield := by unfold Thread.wp; split <;> rfl
@[simp] theorem Thread.wp_graph (t : Thread) (d : BitVec 3) (w : Word) : (t.wp d w).graph = t.graph := by unfold Thread.wp; split <;> rfl
@[simp] theorem Thread.wp_lx (t : Thread) (d : BitVec 3) (w : Word) : (t.wp d w).lx = t.lx := by unfold Thread.wp; split <;> rfl
@[simp] theorem Thread.wp_ly (t : Thread) (d : BitVec 3) (w : Word) : (t.wp d w).ly = t.ly := by unfold Thread.wp; split <;> rfl
@[simp] theorem Thread.wp_lctx (t : Thread) (d : BitVec 3) (w : Word) : (t.wp d w).lctx = t.lctx := by unfold Thread.wp; split <;> rfl
@[simp] theorem Thread.wp_pctx (t : Thread) (d : BitVec 3) (w : Word) : (t.wp d w).pctx = t.pctx := by unfold Thread.wp; split <;> rfl
@[simp] theorem Thread.wp_tno (t : Thread) (d : BitVec 3) (w : Word) : (t.wp d w).tno = t.tno := by unfold Thread.wp; split <;> rfl
@[simp] theorem Thread.wp_nthr (t : Thread) (d : BitVec 3) (w : Word) : (t.wp d w).nthr = t.nthr := by unfold Thread.wp; split <;> rfl
@[simp] theorem Thread.wp_queues (t : Thread) (d : BitVec 3) (w : Word) : (t.wp d w).queues = t.queues := by unfold Thread.wp; split <;> rfl
@[simp] theorem Thread.wp_pend (t : Thread) (d : BitVec 3) (w : Word) : (t.wp d w).pend = t.pend := by unfold Thread.wp; split <;> rfl
@[simp] theorem Thread.wp_held (t : Thread) (d : BitVec 3) (w : Word) : (t.wp d w).held = t.held := by unfold Thread.wp; split <;> rfl
@[simp] theorem Thread.wp_late (t : Thread) (d : BitVec 3) (w : Word) : (t.wp d w).late = t.late := by unfold Thread.wp; split <;> rfl
@[simp] theorem Thread.wp_gtraps (t : Thread) (d : BitVec 3) (w : Word) : (t.wp d w).gtraps = t.gtraps := by unfold Thread.wp; split <;> rfl
@[simp] theorem Thread.wp_gbar (t : Thread) (d : BitVec 3) (w : Word) : (t.wp d w).gbar = t.gbar := by unfold Thread.wp; split <;> rfl
@[simp] theorem Thread.wp_kept (t : Thread) (d : BitVec 3) (w : Word) : (t.wp d w).kept = t.kept := by unfold Thread.wp; split <;> rfl
@[simp] theorem Thread.wp_peerEps (t : Thread) (d : BitVec 3) (w : Word) : (t.wp d w).peerEps = t.peerEps := by unfold Thread.wp; split <;> rfl
@[simp] theorem Thread.wp_graphId (t : Thread) (d : BitVec 3) (w : Word) : (t.wp d w).graphId = t.graphId := by unfold Thread.wp; split <;> rfl
@[simp] theorem Thread.wp_lastWave (t : Thread) (d : BitVec 3) (w : Word) : (t.wp d w).lastWave = t.lastWave := by unfold Thread.wp; split <;> rfl

/-! `wv` writes `v`. -/
@[simp] theorem Thread.wv_s (t : Thread) (d : BitVec 5) (w : Vec) : (t.wv d w).s = t.s := rfl
@[simp] theorem Thread.wv_p (t : Thread) (d : BitVec 5) (w : Vec) : (t.wv d w).p = t.p := rfl
@[simp] theorem Thread.wv_lc (t : Thread) (d : BitVec 5) (w : Vec) : (t.wv d w).lc = t.lc := rfl
@[simp] theorem Thread.wv_fifo (t : Thread) (d : BitVec 5) (w : Vec) : (t.wv d w).fifo = t.fifo := rfl
@[simp] theorem Thread.wv_pc (t : Thread) (d : BitVec 5) (w : Vec) : (t.wv d w).pc = t.pc := rfl
@[simp] theorem Thread.wv_fpctl (t : Thread) (d : BitVec 5) (w : Vec) : (t.wv d w).fpctl = t.fpctl := rfl
@[simp] theorem Thread.wv_lvl (t : Thread) (d : BitVec 5) (w : Vec) : (t.wv d w).lvl = t.lvl := rfl
@[simp] theorem Thread.wv_rlim (t : Thread) (d : BitVec 5) (w : Vec) : (t.wv d w).rlim = t.rlim := rfl
@[simp] theorem Thread.wv_rcnt (t : Thread) (d : BitVec 5) (w : Vec) : (t.wv d w).rcnt = t.rcnt := rfl
@[simp] theorem Thread.wv_tpc (t : Thread) (d : BitVec 5) (w : Vec) : (t.wv d w).tpc = t.tpc := rfl
@[simp] theorem Thread.wv_tcause (t : Thread) (d : BitVec 5) (w : Vec) : (t.wv d w).tcause = t.tcause := rfl
@[simp] theorem Thread.wv_tval (t : Thread) (d : BitVec 5) (w : Vec) : (t.wv d w).tval = t.tval := rfl
@[simp] theorem Thread.wv_tbs (t : Thread) (d : BitVec 5) (w : Vec) : (t.wv d w).tbs = t.tbs := rfl
@[simp] theorem Thread.wv_ssave (t : Thread) (d : BitVec 5) (w : Vec) : (t.wv d w).ssave = t.ssave := rfl
@[simp] theorem Thread.wv_bight (t : Thread) (d : BitVec 5) (w : Vec) : (t.wv d w).bight = t.bight := rfl
@[simp] theorem Thread.wv_susp (t : Thread) (d : BitVec 5) (w : Vec) : (t.wv d w).susp = t.susp := rfl
@[simp] theorem Thread.wv_wave (t : Thread) (d : BitVec 5) (w : Vec) : (t.wv d w).wave = t.wave := rfl
@[simp] theorem Thread.wv_run (t : Thread) (d : BitVec 5) (w : Vec) : (t.wv d w).run = t.run := rfl
@[simp] theorem Thread.wv_wait (t : Thread) (d : BitVec 5) (w : Vec) : (t.wv d w).wait = t.wait := rfl
@[simp] theorem Thread.wv_yield (t : Thread) (d : BitVec 5) (w : Vec) : (t.wv d w).yield = t.yield := rfl
@[simp] theorem Thread.wv_graph (t : Thread) (d : BitVec 5) (w : Vec) : (t.wv d w).graph = t.graph := rfl
@[simp] theorem Thread.wv_lx (t : Thread) (d : BitVec 5) (w : Vec) : (t.wv d w).lx = t.lx := rfl
@[simp] theorem Thread.wv_ly (t : Thread) (d : BitVec 5) (w : Vec) : (t.wv d w).ly = t.ly := rfl
@[simp] theorem Thread.wv_lctx (t : Thread) (d : BitVec 5) (w : Vec) : (t.wv d w).lctx = t.lctx := rfl
@[simp] theorem Thread.wv_pctx (t : Thread) (d : BitVec 5) (w : Vec) : (t.wv d w).pctx = t.pctx := rfl
@[simp] theorem Thread.wv_tno (t : Thread) (d : BitVec 5) (w : Vec) : (t.wv d w).tno = t.tno := rfl
@[simp] theorem Thread.wv_nthr (t : Thread) (d : BitVec 5) (w : Vec) : (t.wv d w).nthr = t.nthr := rfl
@[simp] theorem Thread.wv_queues (t : Thread) (d : BitVec 5) (w : Vec) : (t.wv d w).queues = t.queues := rfl
@[simp] theorem Thread.wv_pend (t : Thread) (d : BitVec 5) (w : Vec) : (t.wv d w).pend = t.pend := rfl
@[simp] theorem Thread.wv_held (t : Thread) (d : BitVec 5) (w : Vec) : (t.wv d w).held = t.held := rfl
@[simp] theorem Thread.wv_late (t : Thread) (d : BitVec 5) (w : Vec) : (t.wv d w).late = t.late := rfl
@[simp] theorem Thread.wv_gtraps (t : Thread) (d : BitVec 5) (w : Vec) : (t.wv d w).gtraps = t.gtraps := rfl
@[simp] theorem Thread.wv_gbar (t : Thread) (d : BitVec 5) (w : Vec) : (t.wv d w).gbar = t.gbar := rfl
@[simp] theorem Thread.wv_kept (t : Thread) (d : BitVec 5) (w : Vec) : (t.wv d w).kept = t.kept := rfl
@[simp] theorem Thread.wv_peerEps (t : Thread) (d : BitVec 5) (w : Vec) : (t.wv d w).peerEps = t.peerEps := rfl
@[simp] theorem Thread.wv_graphId (t : Thread) (d : BitVec 5) (w : Vec) : (t.wv d w).graphId = t.graphId := rfl
@[simp] theorem Thread.wv_lastWave (t : Thread) (d : BitVec 5) (w : Vec) : (t.wv d w).lastWave = t.lastWave := rfl

/-! `next` writes `pc`, `wait`. -/
@[simp] theorem Thread.next_s (t : Thread) : (t.next).s = t.s := rfl
@[simp] theorem Thread.next_v (t : Thread) : (t.next).v = t.v := rfl
@[simp] theorem Thread.next_p (t : Thread) : (t.next).p = t.p := rfl
@[simp] theorem Thread.next_lc (t : Thread) : (t.next).lc = t.lc := rfl
@[simp] theorem Thread.next_fifo (t : Thread) : (t.next).fifo = t.fifo := rfl
@[simp] theorem Thread.next_fpctl (t : Thread) : (t.next).fpctl = t.fpctl := rfl
@[simp] theorem Thread.next_lvl (t : Thread) : (t.next).lvl = t.lvl := rfl
@[simp] theorem Thread.next_rlim (t : Thread) : (t.next).rlim = t.rlim := rfl
@[simp] theorem Thread.next_rcnt (t : Thread) : (t.next).rcnt = t.rcnt := rfl
@[simp] theorem Thread.next_tpc (t : Thread) : (t.next).tpc = t.tpc := rfl
@[simp] theorem Thread.next_tcause (t : Thread) : (t.next).tcause = t.tcause := rfl
@[simp] theorem Thread.next_tval (t : Thread) : (t.next).tval = t.tval := rfl
@[simp] theorem Thread.next_tbs (t : Thread) : (t.next).tbs = t.tbs := rfl
@[simp] theorem Thread.next_ssave (t : Thread) : (t.next).ssave = t.ssave := rfl
@[simp] theorem Thread.next_bight (t : Thread) : (t.next).bight = t.bight := rfl
@[simp] theorem Thread.next_susp (t : Thread) : (t.next).susp = t.susp := rfl
@[simp] theorem Thread.next_wave (t : Thread) : (t.next).wave = t.wave := rfl
@[simp] theorem Thread.next_run (t : Thread) : (t.next).run = t.run := rfl
@[simp] theorem Thread.next_yield (t : Thread) : (t.next).yield = t.yield := rfl
@[simp] theorem Thread.next_graph (t : Thread) : (t.next).graph = t.graph := rfl
@[simp] theorem Thread.next_lx (t : Thread) : (t.next).lx = t.lx := rfl
@[simp] theorem Thread.next_ly (t : Thread) : (t.next).ly = t.ly := rfl
@[simp] theorem Thread.next_lctx (t : Thread) : (t.next).lctx = t.lctx := rfl
@[simp] theorem Thread.next_pctx (t : Thread) : (t.next).pctx = t.pctx := rfl
@[simp] theorem Thread.next_tno (t : Thread) : (t.next).tno = t.tno := rfl
@[simp] theorem Thread.next_nthr (t : Thread) : (t.next).nthr = t.nthr := rfl
@[simp] theorem Thread.next_queues (t : Thread) : (t.next).queues = t.queues := rfl
@[simp] theorem Thread.next_pend (t : Thread) : (t.next).pend = t.pend := rfl
@[simp] theorem Thread.next_held (t : Thread) : (t.next).held = t.held := rfl
@[simp] theorem Thread.next_late (t : Thread) : (t.next).late = t.late := rfl
@[simp] theorem Thread.next_gtraps (t : Thread) : (t.next).gtraps = t.gtraps := rfl
@[simp] theorem Thread.next_gbar (t : Thread) : (t.next).gbar = t.gbar := rfl
@[simp] theorem Thread.next_kept (t : Thread) : (t.next).kept = t.kept := rfl
@[simp] theorem Thread.next_peerEps (t : Thread) : (t.next).peerEps = t.peerEps := rfl
@[simp] theorem Thread.next_graphId (t : Thread) : (t.next).graphId = t.graphId := rfl
@[simp] theorem Thread.next_lastWave (t : Thread) : (t.next).lastWave = t.lastWave := rfl

/-! `goto` writes `pc`, `wait`. -/
@[simp] theorem Thread.goto_s (t : Thread) (pc : PC) : (t.goto pc).s = t.s := rfl
@[simp] theorem Thread.goto_v (t : Thread) (pc : PC) : (t.goto pc).v = t.v := rfl
@[simp] theorem Thread.goto_p (t : Thread) (pc : PC) : (t.goto pc).p = t.p := rfl
@[simp] theorem Thread.goto_lc (t : Thread) (pc : PC) : (t.goto pc).lc = t.lc := rfl
@[simp] theorem Thread.goto_fifo (t : Thread) (pc : PC) : (t.goto pc).fifo = t.fifo := rfl
@[simp] theorem Thread.goto_fpctl (t : Thread) (pc : PC) : (t.goto pc).fpctl = t.fpctl := rfl
@[simp] theorem Thread.goto_lvl (t : Thread) (pc : PC) : (t.goto pc).lvl = t.lvl := rfl
@[simp] theorem Thread.goto_rlim (t : Thread) (pc : PC) : (t.goto pc).rlim = t.rlim := rfl
@[simp] theorem Thread.goto_rcnt (t : Thread) (pc : PC) : (t.goto pc).rcnt = t.rcnt := rfl
@[simp] theorem Thread.goto_tpc (t : Thread) (pc : PC) : (t.goto pc).tpc = t.tpc := rfl
@[simp] theorem Thread.goto_tcause (t : Thread) (pc : PC) : (t.goto pc).tcause = t.tcause := rfl
@[simp] theorem Thread.goto_tval (t : Thread) (pc : PC) : (t.goto pc).tval = t.tval := rfl
@[simp] theorem Thread.goto_tbs (t : Thread) (pc : PC) : (t.goto pc).tbs = t.tbs := rfl
@[simp] theorem Thread.goto_ssave (t : Thread) (pc : PC) : (t.goto pc).ssave = t.ssave := rfl
@[simp] theorem Thread.goto_bight (t : Thread) (pc : PC) : (t.goto pc).bight = t.bight := rfl
@[simp] theorem Thread.goto_susp (t : Thread) (pc : PC) : (t.goto pc).susp = t.susp := rfl
@[simp] theorem Thread.goto_wave (t : Thread) (pc : PC) : (t.goto pc).wave = t.wave := rfl
@[simp] theorem Thread.goto_run (t : Thread) (pc : PC) : (t.goto pc).run = t.run := rfl
@[simp] theorem Thread.goto_yield (t : Thread) (pc : PC) : (t.goto pc).yield = t.yield := rfl
@[simp] theorem Thread.goto_graph (t : Thread) (pc : PC) : (t.goto pc).graph = t.graph := rfl
@[simp] theorem Thread.goto_lx (t : Thread) (pc : PC) : (t.goto pc).lx = t.lx := rfl
@[simp] theorem Thread.goto_ly (t : Thread) (pc : PC) : (t.goto pc).ly = t.ly := rfl
@[simp] theorem Thread.goto_lctx (t : Thread) (pc : PC) : (t.goto pc).lctx = t.lctx := rfl
@[simp] theorem Thread.goto_pctx (t : Thread) (pc : PC) : (t.goto pc).pctx = t.pctx := rfl
@[simp] theorem Thread.goto_tno (t : Thread) (pc : PC) : (t.goto pc).tno = t.tno := rfl
@[simp] theorem Thread.goto_nthr (t : Thread) (pc : PC) : (t.goto pc).nthr = t.nthr := rfl
@[simp] theorem Thread.goto_queues (t : Thread) (pc : PC) : (t.goto pc).queues = t.queues := rfl
@[simp] theorem Thread.goto_pend (t : Thread) (pc : PC) : (t.goto pc).pend = t.pend := rfl
@[simp] theorem Thread.goto_held (t : Thread) (pc : PC) : (t.goto pc).held = t.held := rfl
@[simp] theorem Thread.goto_late (t : Thread) (pc : PC) : (t.goto pc).late = t.late := rfl
@[simp] theorem Thread.goto_gtraps (t : Thread) (pc : PC) : (t.goto pc).gtraps = t.gtraps := rfl
@[simp] theorem Thread.goto_gbar (t : Thread) (pc : PC) : (t.goto pc).gbar = t.gbar := rfl
@[simp] theorem Thread.goto_kept (t : Thread) (pc : PC) : (t.goto pc).kept = t.kept := rfl
@[simp] theorem Thread.goto_peerEps (t : Thread) (pc : PC) : (t.goto pc).peerEps = t.peerEps := rfl
@[simp] theorem Thread.goto_graphId (t : Thread) (pc : PC) : (t.goto pc).graphId = t.graphId := rfl
@[simp] theorem Thread.goto_lastWave (t : Thread) (pc : PC) : (t.goto pc).lastWave = t.lastWave := rfl

@[simp] theorem Thread.next_pc (t : Thread) : t.next.pc = t.pc + 4 := rfl
@[simp] theorem Thread.next_wait (t : Thread) : t.next.wait = .none := rfl
@[simp] theorem Thread.goto_pc (t : Thread) (pc : PC) : (t.goto pc).pc = pc := rfl
@[simp] theorem Thread.goto_wait (t : Thread) (pc : PC) : (t.goto pc).wait = .none := rfl
/-- R190: a scalar register reads as written, but s0. -/
theorem Thread.rs_ws (t : Thread) (d a : BitVec 5) (w : Word) : (t.ws d w).rs a = if d = 0 then t.rs a else if a = d then w else t.rs a := by
  by_cases h : d = 0
  · simp [Thread.ws, h]
  · by_cases ha : a = d
    · subst ha; simp_all [Thread.ws, Thread.rs]
    · have hn : d.toNat ≠ a.toNat := fun e => ha (BitVec.eq_of_toNat_eq e.symm)
      simp_all [Thread.ws, Thread.rs]
/-- R190: a predicate register reads as written, but p0. -/
theorem Thread.rp_wp (t : Thread) (d a : BitVec 3) (w : Word) : (t.wp d w).rp a = if d = 0 then t.rp a else if a = d then w else t.rp a := by
  by_cases h : d = 0
  · simp [Thread.wp, h]
  · by_cases ha : a = d
    · subst ha; simp_all [Thread.wp, Thread.rp]
    · have hn : d.toNat ≠ a.toNat := fun e => ha (BitVec.eq_of_toNat_eq e.symm)
      simp_all [Thread.wp, Thread.rp]
/-- R190: a vector register reads as written. -/
theorem Thread.rv_wv (t : Thread) (d a : BitVec 5) (w : Vec) : (t.wv d w).rv a = if a = d then w else t.rv a := by
  unfold Thread.wv Thread.rv
  by_cases ha : a = d
  · subst ha; simp
  · have hn : d.toNat ≠ a.toNat := fun e => ha (BitVec.eq_of_toNat_eq e.symm)
    simp [ha, hn]

end Sys2Proof.Machine
end

