-- ==== Sys2Proof/Laws/Ops.lean ====
section
/-! SUPPORT. What each shared operation does where nothing stops it, and where a check does. -/

namespace Sys2Proof.Machine

open Sys2Proof.Safety

/-- R219: a ready instruction inside the bight has its effect, its registers recorded. -/
theorem inBight_ready {rd wr : RegSet} {body : State → State} {s : State} (h : Ready s rd wr) :
    inBight rd wr none body s = body (s.mapMe (fun t => t.tracked rd wr)) := by
  unfold inBight; rw [h.1]; simp only [Bool.false_eq_true, if_false]; rw [h.2]

/-- R35, R319: an instruction that names an owed register changes nothing. -/
theorem inBight_owed {rd wr : RegSet} {pre : Option (Nat × Word)} {body : State → State} {s : State}
    (h : s.me.notReady (rd.or wr) = true) : inBight rd wr pre body s = s := by
  unfold inBight; rw [h]; rfl

/-- R219: a write to a register that the bight has read raises BIGHT_CLOBBER. -/
theorem inBight_clobber {rd wr : RegSet} {body : State → State} {s : State} {v : Word}
    (h1 : s.me.notReady (rd.or wr) = false) (h2 : ((s.me.bight.read rd).live.inter wr).first = some v) :
    inBight rd wr none body s = raise s 9 v := by
  unfold inBight; rw [h1]; simp only [Bool.false_eq_true, if_false]; rw [h2]

/-- A failed issue check raises its trap. -/
theorem inBight_check {rd wr : RegSet} {body : State → State} {s : State} {c : Nat} {v : Word}
    (h1 : s.me.notReady (rd.or wr) = false) : inBight rd wr (some (c, v)) body s = raise s c v := by
  unfold inBight; rw [h1]; rfl

/-- R221 to R227: a ready instruction writes its scalar and steps on. -/
theorem scalarOp_ready {d : BitVec 5} {rd : RegSet} {v : Word} {s : State} (h : Ready s rd (RegSet.s1 d)) :
    scalarOp d rd v s = s.mapMe (fun t => ((t.tracked rd (RegSet.s1 d)).ws d v).next) := by
  unfold scalarOp; rw [inBight_ready h, State.mapMe_mapMe]

/-- R228: a ready instruction writes its predicate and steps on. -/
theorem predOp_ready {d : BitVec 3} {rd : RegSet} {v : Word} {s : State} (h : Ready s rd (RegSet.p1 d)) :
    predOp d rd v s = s.mapMe (fun t => ((t.tracked rd (RegSet.p1 d)).wp d v).next) := by
  unfold predOp; rw [inBight_ready h, State.mapMe_mapMe]

/-- R229, R230: a ready branch goes to its target or steps on. -/
theorem branchIf_ready {rd : RegSet} {c : Bool} {o : BitVec 13} {s : State} (h : Ready s rd .empty) :
    branchIf rd c o s = s.mapMe (fun t => if c then (t.tracked rd .empty).goto (target13 t.pc o) else (t.tracked rd .empty).next) := by
  unfold branchIf; rw [inBight_ready h, State.mapMe_mapMe]; rfl

/-- R376: a system form at S acts as inside any bight. -/
theorem systemOp_handler {rd wr : RegSet} {pre : Option (Nat × Word)} {body : State → State} {s : State} (h : s.me.lvl = true) :
    systemOp rd wr pre body s = inBight rd wr pre body s := by
  unfold systemOp; rw [h]; rfl

/-- R376: a system form at U raises PRIV. -/
theorem systemOp_user {rd wr : RegSet} {pre : Option (Nat × Word)} {body : State → State} {s : State} (h : s.me.lvl = false) :
    systemOp rd wr pre body s = raiseFree s 2 := by
  unfold systemOp; rw [h]; rfl

/-- R254: a ready vector form that produces no trapping NaN has its effect. -/
theorem vectorOp_ready {rd wr : RegSet} {body : Thread → Thread} {s : State} (h : Ready s rd wr) :
    vectorOp rd wr none body s = s.mapMe (fun t => (body (t.tracked rd wr)).next) := by
  unfold vectorOp; rw [h.1]; simp only [Bool.false_eq_true, if_false]; rw [h.2]

/-- R254: with NANTRAP, a form that would produce a NaN raises FP_NAN and writes nothing. -/
theorem vectorOp_nan {rd wr : RegSet} {body : Thread → Thread} {s : State} {v : Word} (h : Ready s rd wr) :
    vectorOp rd wr (some v) body s = raise (s.mapMe (fun t => { t with bight := t.bight.read rd })) 0x13 v := by
  unfold vectorOp; rw [h.1]; simp only [Bool.false_eq_true, if_false]; rw [h.2]; rfl

/-- With no buffered update and no push there is nothing to hold a commit. -/
theorem commitBlock_quiet {s : State} (h : Quiet s) : commitBlock s s.cur = (s, none) := by
  obtain ⟨-, h1, h2, -, -, -⟩ := h
  have h1' : (s.thread s.cur).bight.stores = [] := h1
  have h2' : (s.thread s.cur).bight.pushes = [] := h2
  simp [commitBlock, recheck, pushEps, h1', h2']

/-- With empty buffers a release opens a new bight. -/
theorem release_quiet {s : State} {npc : PC} (h : Quiet s) : release s s.cur none npc = s.mapMe (fun t => knotted t npc) := by
  obtain ⟨-, h1, h2, h3, -, -⟩ := h
  have h1' : (s.thread s.cur).bight.stores = [] := h1
  have h2' : (s.thread s.cur).bight.pushes = [] := h2
  have h3' : (s.thread s.cur).bight.pops = [] := h3
  simp only [release, h1', h2', h3', List.foldl_nil, List.isEmpty_nil, Bool.and_self, if_true]
  rfl

/-- R44: whether a slot's commit has retired does not depend on the bight that it opens next. -/
theorem commitPending_knotted (s : State) (npc : PC) : commitPending (s.mapMe (fun t => knotted t npc)) s.cur = commitPending s s.cur := by
  have ht : (s.mapMe (fun t => knotted t npc)).thread s.cur = knotted (s.thread s.cur) npc := State.me_mapMe s _
  have hg : (s.mapMe (fun t => knotted t npc)).graph = s.graph := rfl
  have hh : (s.mapMe (fun t => knotted t npc)).held = s.held := rfl
  have hq : (s.mapMe (fun t => knotted t npc)).homeQ = s.homeQ := rfl
  unfold commitPending awaitsOwnWave
  rw [ht, hg, hh, hq]
  rfl

/-- R416: with no wave open no read meets one. -/
theorem epochMetBy_none {s : State} {i : Nat} (els : List (Word × Nat)) (h : (s.graph (s.thread i).graph).openWave = none) :
    epochMetBy s i els = none := by simp [epochMetBy, h]

/-- R44, R47: a knot of a quiet slot opens the new bight at once. -/
theorem knot_quiet {s : State} {npc : PC} (h : Quiet s) :
    knot s s.cur false npc = .go (s.mapMe (fun t => knotted t npc)) := by
  have hs : (s.thread s.cur).bight.stores = [] := h.2.1
  have hw : (s.graph (s.thread s.cur).graph).openWave = none := h.2.2.2.2.1
  have hp : commitPending s s.cur = false := h.2.2.2.2.2
  have hr : (s.thread s.cur).run = .running := h.1
  have hp' : commitPending (s.mapMe (fun t => knotted t npc)) s.cur = false := (commitPending_knotted s npc).trans hp
  have ht : (s.mapMe (fun t => knotted t npc)).thread s.cur = knotted (s.thread s.cur) npc := State.me_mapMe s _
  have hg : (s.mapMe (fun t => knotted t npc)).graph = s.graph := rfl
  have hws : waveStep (s.mapMe (fun t => knotted t npc)) s.cur false npc = .go (s.mapMe (fun t => knotted t npc)) := by
    unfold waveStep
    simp only [ht, hg]
    have hw' : (s.graph (knotted (s.thread s.cur) npc).graph).openWave = none := hw
    rw [hw']
    rfl
  have hr' : (knotted (s.thread s.cur) npc).run ≠ .cut := by simp [knotted, hr]
  have hl : ((s.thread s.cur).late.isNone && (knotted (s.thread s.cur) npc).late.isSome) = false := by
    cases h : (s.thread s.cur).late <;> simp [knotted, h]
  unfold knot
  simp only [hs, hw, List.any_nil, Bool.and_false, Bool.false_and, Bool.false_eq_true, if_false, Bool.or_self]
  rw [epochMetBy_none _ hw, commitBlock_quiet h]
  simp only [release_quiet h]
  rw [hp', ht, hl]
  simp only [Bool.and_false, Bool.or_self, Bool.false_eq_true, if_false, hws, Bool.false_and]
  have hr2 : ((s.mapMe (fun t => knotted t npc)).thread s.cur).run ≠ .cut := by rw [ht]; exact hr'
  have hl2 : ((s.thread s.cur).late.isNone && ((s.mapMe (fun t => knotted t npc)).thread s.cur).late.isSome) = false := by rw [ht]; exact hl
  rw [if_neg hr2, if_neg (by rw [hp', hl2]; simp)]

/-- R47: an irrevocable instruction of a quiet slot acts right after its implicit knot. -/
theorem irrevocable_quiet {rd wr : RegSet} {body : State → State} {s : State} (h : Quiet s)
    (hr : s.me.notReady (rd.or wr) = false) :
    irrevocable rd wr none body s = body (s.mapMe (fun t => knotted t t.pc)) := by
  unfold irrevocable; rw [hr]; simp only [Bool.false_eq_true, if_false]; rw [knot_quiet h]; rfl

/-- R47: an issue check of an irrevocable instruction fails before its implicit knot. -/
theorem irrevocable_check {rd wr : RegSet} {body : State → State} {s : State} {c : Nat} {v : Word}
    (hr : s.me.notReady (rd.or wr) = false) : irrevocable rd wr (some (c, v)) body s = raise s c v := by
  unfold irrevocable; rw [hr]; rfl

/-- R316, R317: an engine command of a quiet slot whose checks pass stands last in its queue. -/
theorem issue_quiet {q : Nat} {rd : RegSet} {c : Cmd} {s : State} (h : Quiet s)
    (hr : s.me.notReady (rd.or (RegSet.s1 (cmdDest c.i))) = false) (hq : (s.me.queue q).waiting.length < 8) :
    issue q rd c none s = s.mapMe (fun t => ((knotted t t.pc).mapQueue q (fun u => { u with waiting := u.waiting ++ [{ c with wave := t.wave }] })).nextFresh) := by
  have hq' : ¬ 8 ≤ (s.me.queue q).waiting.length := by omega
  unfold issue
  simp only [hr, Bool.false_eq_true, if_false, if_neg hq']
  rw [irrevocable_quiet h hr, State.mapMe_mapMe]; rfl

/-- R366: a trap at U with handlers in force: what is saved, and where the thread goes. -/
theorem deliver_user {s : State} {i : Nat} {x : Trap} (hl : (s.thread i).lvl = false)
    (hw : bit (s.graph (s.thread i).graph).hwin.toNat 63 = true) :
    ∃ tbs : PC, deliver s i x = s.draw.setThread i { s.thread i with
      susp := if x.open_ && !x.disc then some (s.thread i).bight else none,
      tpc := x.pc, tval := x.val, tbs := tbs, tcause := x.cause, lvl := true,
      pc := (s.part (graphPart (s.thread i).graph)).tvec.truncate 18, wait := .none, yield := 0,
      kept := some { s := (s.thread i).s, v := (s.thread i).v, p := (s.thread i).p, lc := (s.thread i).lc, fpctl := (s.thread i).fpctl },
      bight := .openAt ((s.part (graphPart (s.thread i).graph)).tvec.truncate 18) (s.thread i).lc (s.thread i).fpctl } ∧
      (x.open_ = true ∨ x.disc = true → tbs = (s.thread i).bight.start) := by
  unfold deliver
  simp only [hl, hw, Bool.false_and, Bool.false_eq_true, if_false, Bool.not_true]
  refine ⟨_, rfl, ?_⟩
  rintro (h | h) <;> simp [h]

end Sys2Proof.Machine
end

