-- ==== Sys2Proof/Laws/Memory.lean ====
section
/-! SUPPORT. What the two shapes of a memory access do where nothing stops them, and where a check does. -/

namespace Sys2Proof.Machine

open Sys2Proof.Safety

/-- The first check of Table 10-1 on one element. -/
theorem addrChecks_address {n : Nat} {ea : Word} (h : addressOk ea n = false) : addrChecks n [(ea, n)] = some (3, ea) := by
  simp [addrChecks, h]

/-- The second check of Table 10-1 on one element. -/
theorem addrChecks_align {n : Nat} {ea : Word} (h : addressOk ea n = true) (h2 : ea.toNat % n ≠ 0) :
    addrChecks n [(ea, n)] = some (4, ea) := by
  simp [addrChecks, h, h2]

/-- One element that passes both. -/
theorem addrChecks_ok {n : Nat} {ea : Word} (h : addressOk ea n = true) (h2 : ea.toNat % n = 0) :
    addrChecks n [(ea, n)] = none := by
  simp [addrChecks, h, h2]

/-- One element's check stands alone. -/
theorem worse_zero_fst (c : Nat) (v : Word) : (worse (0, 0) (c, v)).1 = c := by
  unfold worse firstCause; by_cases h : c = 0 <;> simp [h]

theorem worse_zero_fail {c : Nat} (v : Word) (h : c ≠ 0) : worse (0, 0) (c, v) = (c, v) := by
  simp [worse, firstCause, h]

theorem readElements_one (s : State) (p : Bool) (ea : Word) (n : Nat) :
    readElements s p [(ea, n)] =
      ((readElement s p ea n).1, worse (0, 0) ((readElement s p ea n).2.1, ea), [(readElement s p ea n).2.2]) := by
  simp [readElements, sameEvent]

theorem enterElements_one (ops : List BufOp) (s : State) (u : Update) (ea : Word) (n : Nat) :
    enterElements ops s u [(ea, n)] = ((enterElement ops s u ea n).1, worse (0, 0) ((enterElement ops s u ea n).2, ea)) := by
  simp [enterElements]

/-- R284: an owed register or a failed address check comes before the read. -/
theorem loadOp_check {rd wr : RegSet} {unit : Nat} {p : Bool} {els : List (Word × Nat)} {chk : List (List Byte) → Option (Nat × Word)}
    {body : List (List Byte) → State → State} {s : State} {c : Nat} {v : Word} (h : s.me.notReady (rd.or wr) = false)
    (ha : addrChecks unit els = some (c, v)) : loadOp rd wr unit p els chk body s = raise s c v := by
  unfold loadOp; rw [h, ha]; rfl

/-- R41, R283 to R287: a ready read that meets no deferred update of its bight, no line of an open wave and no held bank. -/
theorem loadOp_ready {rd wr : RegSet} {unit : Nat} {p : Bool} {els : List (Word × Nat)} {chk : List (List Byte) → Option (Nat × Word)}
    {body : List (List Byte) → State → State} {s s' : State} {c : Nat} {v : Word} {bs : List (List Byte)} (h : Ready s rd wr)
    (ha : addrChecks unit els = none) (hd : els.any (fun e => hitsDeferred s.me.bight.stores e.1 e.2) = false)
    (he : epochMet s els = none) (hb : homeBusy s false els = false) (hr : readElements s p els = (s', (c, v), bs)) :
    loadOp rd wr unit p els chk body s =
      if c = 0 then match chk bs with
        | some (c, v) => raise (s'.mapMe (fun t => { t with bight := s.me.bight.read rd })) c v
        | none => body bs (s'.mapMe (fun t => t.tracked rd wr))
      else accessTrap s' c v := by
  unfold loadOp afterDeferred
  rw [h.1, ha, hd]
  simp only [Bool.false_eq_true, if_false]
  rw [h.2, he]
  simp only [hb, Bool.false_eq_true, if_false]
  rw [hr]
  cases c <;> rfl

/-- R284: an owed register or a failed address check comes before the update enters. -/
theorem bufferOp_check {rd : RegSet} {unit : Nat} {u : Update} {els : List (Word × Nat)} {ops : List BufOp} {s : State} {c : Nat} {v : Word}
    (h : s.me.notReady rd = false) (ha : addrChecks unit els = some (c, v)) : bufferOp rd unit u els ops s = raise s c v := by
  unfold bufferOp; rw [h, ha]; rfl

/-- R46: updates past the limits do not enter; ALIGN comes before that (R284, R429). -/
theorem bufferOp_full {rd : RegSet} {unit : Nat} {u : Update} {els : List (Word × Nat)} {ops : List BufOp} {s : State}
    (h : s.me.notReady rd = false) (ha : addrChecks unit els = none) (hb : buffersFit (s.me.bight.stores ++ ops) = false)
    (h4 : (enterElements ops s u els).2.1 ≠ 4) (hm : deferMet s u els = none) (hw : walkBusy s els = false) :
    bufferOp rd unit u els ops s = raise s.draw 0x0A (Config.freeWord s.drawn) := by
  generalize hq : enterElements ops s u els = q at h4
  obtain ⟨s1, c, ea⟩ := q
  unfold bufferOp; rw [h, ha, hm, hw, hq, hb]
  rcases c with _ | _ | _ | _ | _ | c <;> first | exact absurd rfl h4 | rfl

/-- R40, R42: updates within the limits enter the store buffer if their checks pass. -/
theorem bufferOp_ready {rd : RegSet} {unit : Nat} {u : Update} {els : List (Word × Nat)} {ops : List BufOp} {s s' : State} {c : Nat} {v : Word}
    (h : s.me.notReady rd = false) (ha : addrChecks unit els = none) (hb : buffersFit (s.me.bight.stores ++ ops) = true)
    (he : enterElements ops s u els = (s', (c, v))) (hm : deferMet s u els = none) (hw : walkBusy s els = false) :
    bufferOp rd unit u els ops s = if c = 0 then s'.mapMe (fun t => { t with
        pc := t.pc + 4, wait := .none, bight := { t.bight.read rd with stores := t.bight.stores ++ ops } }) else accessTrap s' c v := by
  unfold bufferOp; rw [h, ha, hm, hw, he, hb]
  rcases c with _ | _ | _ | _ | _ | c <;> rfl

/-- R41, R285: a ready read of one element. -/
theorem loadOp_one {rd wr : RegSet} {n : Nat} {p : Bool} {ea : Word} {chk : List (List Byte) → Option (Nat × Word)}
    {body : List (List Byte) → State → State} {s s' : State} {c : Nat} {bs : List Byte} (h : Ready s rd wr)
    (ha : addressOk ea n = true) (hm : ea.toNat % n = 0) (hd : hitsDeferred s.me.bight.stores ea n = false)
    (he : epochMet s [(ea, n)] = none) (hb : homeBusy s false [(ea, n)] = false) (hr : readElement s p ea n = (s', c, bs)) :
    loadOp rd wr n p [(ea, n)] chk body s =
      if c = 0 then match chk [bs] with
        | some (c, v) => raise (s'.mapMe (fun t => { t with bight := s.me.bight.read rd })) c v
        | none => body [bs] (s'.mapMe (fun t => t.tracked rd wr))
      else accessTrap s' c ea := by
  have hr' : readElements s p [(ea, n)] = (s', (c, (worse (0, 0) (c, ea)).2), [bs]) := by
    rw [readElements_one, hr]; exact Prod.ext rfl (Prod.ext (Prod.ext (worse_zero_fst c ea) rfl) rfl)
  rw [loadOp_ready h (addrChecks_ok ha hm) (by simpa using hd) he hb hr']
  by_cases hc : c = 0
  · simp [hc]
  · rw [worse_zero_fail ea hc]

/-- R42, R285: an update of one element. -/
theorem bufferOp_one {rd : RegSet} {n : Nat} {u : Update} {ea : Word} {ops : List BufOp} {s s' : State} {c : Nat}
    (h : s.me.notReady rd = false) (ha : addressOk ea n = true) (hm : ea.toNat % n = 0)
    (hb : buffersFit (s.me.bight.stores ++ ops) = true) (he : enterElement ops s u ea n = (s', c))
    (hd : deferMet s u [(ea, n)] = none) (hw : walkBusy s [(ea, n)] = false) :
    bufferOp rd n u [(ea, n)] ops s = if c = 0 then s'.mapMe (fun t => { t with
        pc := t.pc + 4, wait := .none, bight := { t.bight.read rd with stores := t.bight.stores ++ ops } }) else accessTrap s' c ea := by
  have he' : enterElements ops s u [(ea, n)] = (s', (c, (worse (0, 0) (c, ea)).2)) := by
    rw [enterElements_one, he]; exact Prod.ext rfl (Prod.ext (worse_zero_fst c ea) rfl)
  rw [bufferOp_ready h (addrChecks_ok ha hm) hb he' hd hw]
  by_cases hc : c = 0
  · simp [hc]
  · rw [worse_zero_fail ea hc]

/-- With no accepted access there is nothing to perform. -/
theorem performEarlier_none {s : State} {k : BitVec 2} {sc : BitVec 4} (h : s.homeQ = []) : performEarlier s k sc = s := by
  unfold performEarlier drainThread; rw [h]; split <;> rfl

/-- R47, R179 to R181: an irrevocable instruction of a quiet slot whose fence is met at once. -/
theorem irrevocableFenced_quiet {rd wr : RegSet} {k : BitVec 2} {sc : BitVec 4} {body : State → State} {s : State} (h : Quiet s)
    (hr : s.me.notReady (rd.or wr) = false) (hq : s.homeQ = []) (hf : farRelease s k sc = false)
    (hm : k = 0 ∨ fenceMet (s.mapMe (fun t => knotted t t.pc)) k sc = true) :
    irrevocableFenced rd wr none k sc body s = body (s.mapMe (fun t => knotted t t.pc)) := by
  have hq' : (s.mapMe (fun t => knotted t s.me.pc)).homeQ = [] := hq
  have hm' : k = 0 ∨ fenceMet (s.mapMe (fun t => knotted t s.me.pc)) k sc = true := hm
  unfold irrevocableFenced
  rw [hr, hf]
  simp only [Bool.false_eq_true, if_false, Bool.false_and]
  rw [knot_quiet h]
  simp only [performEarlier_none hq', if_pos hm']
  rfl

/-- R170: a read-modify-write outside any bight whose checks pass. -/
theorem rmwOutside_ok {ea : Word} {n : Nat} {op : Option Nat} {f : List Byte → List Byte} {body : List Byte → State → State}
    {s s' : State} {old : List Byte} (he : epochMet s [(ea, n)] = none) (hb : homeBusy s true [(ea, n)] = false) (hr : rmwPiece s (agOf s s.cur) ea n op f = (s', 0, old)) :
    rmwOutside ea n op f body s = body old s' := by
  unfold rmwOutside; rw [he]; simp only [hb, Bool.false_eq_true, if_false]; rw [hr]; rfl

end Sys2Proof.Machine
end

