-- ==== Sys2Proof/Laws/Records.lean ====
section
/-! SUPPORT. What a record, a device write, a status block and the end of a graph can change. -/

namespace Sys2Proof.Machine

/-- `t` differs from `s` in host memory, the bridge's held writes, vaults, their sectors, the accesses that homes have accepted and the
device's own accesses at most. -/
def Written (s t : State) : Prop :=
  ∃ h v c q n b, t = { s with host := h, vault := v, sectors := c, homeQ := q, noted := n, bridge := b }

theorem Written.refl (s : State) : Written s s := ⟨s.host, s.vault, s.sectors, s.homeQ, s.noted, s.bridge, rfl⟩
theorem Written.trans {s t r : State} (h : Written s t) (k : Written t r) : Written s r := by
  obtain ⟨a, b, c, d, e, f, rfl⟩ := h; obtain ⟨a', b', c', d', e', f', rfl⟩ := k; exact ⟨a', b', c', d', e', f', rfl⟩
theorem Written.parts {s t : State} (h : Written s t) : t.parts = s.parts := by obtain ⟨a, b, c, d, e, f, rfl⟩ := h; rfl
theorem Written.foldl {α : Type} (l : List α) (f : State → α → State) (hf : ∀ s a, Written s (f s a)) (s : State) :
    Written s (l.foldl f s) := by
  induction l generalizing s with
  | nil => exact Written.refl s
  | cons a l ih => exact (hf s a).trans (ih (f s a))

theorem setSector_written (s : State) (k : Nat) (x : Sector) : Written s (s.setSector k x) := ⟨s.host, s.vault, _, s.homeQ, s.noted, s.bridge, rfl⟩
theorem touchSector_written (s : State) (k tag : Nat) (w f : Bool) : Written s (touchSector s k tag w f) := by
  unfold touchSector
  dsimp only
  repeat' split
  all_goals exact setSector_written _ _ _
theorem noteSectors_written (s : State) (tag : Nat) (ks : List Nat) : Written s (noteSectors s tag ks) := by
  unfold noteSectors
  dsimp only
  split
  · exact Written.refl s
  · exact ⟨s.host, s.vault, s.sectors, s.homeQ, _, s.bridge, rfl⟩
theorem noteWalk_written (s : State) (part : Nat) (ea : Word) : Written s (noteWalk s part ea) :=
  Written.foldl _ _ (fun s k => noteSectors_written s 0 [k]) s
theorem putLine_written (s : State) (key tag : Nat) (bs : List Byte) : Written s (putLine s key tag bs) :=
  Written.trans ⟨s.host, _, s.sectors, s.homeQ, _, s.bridge, rfl⟩ (Written.foldl _ _ (fun s k => touchSector_written s k _ _ _) _)

/-- R476: a device write changes memory alone, or waits with its home. -/
theorem sysWrite_written (s0 : State) (part : Nat) (ea : Word) (bs : List Byte) : Written s0 (sysWrite s0 part ea bs).2 := by
  unfold sysWrite
  split
  · exact Written.refl s0
  · refine (noteWalk_written s0 part ea).trans ?_
    dsimp only
    generalize noteWalk s0 part ea = s
    repeat' split
    all_goals first
      | exact Written.refl s
      | exact ⟨_, s.vault, s.sectors, s.homeQ, s.noted, _, rfl⟩
      | exact noteSectors_written _ _ _
      | exact (noteSectors_written _ _ _).trans (putLine_written _ _ _ _)
      | exact (noteSectors_written s _ _).trans ⟨_, _, _, _, _, _, rfl⟩

/-- `t` differs from `s` as after a device write, and in the partitions' registers, at most. -/
def Logged (s t : State) : Prop :=
  ∃ h v c p q n b, t = { s with host := h, vault := v, sectors := c, parts := p, homeQ := q, noted := n, bridge := b }

theorem Written.logged {s t : State} (h : Written s t) : Logged s t := by
  obtain ⟨a, b, c, d, e, f, rfl⟩ := h; exact ⟨a, b, c, s.parts, d, e, f, rfl⟩
theorem Logged.refl (s : State) : Logged s s := (Written.refl s).logged
theorem Logged.trans {s t r : State} (h : Logged s t) (k : Logged t r) : Logged s r := by
  obtain ⟨a, b, c, d, e, f, g, rfl⟩ := h; obtain ⟨a', b', c', d', e', f', g', rfl⟩ := k; exact ⟨a', b', c', d', e', f', g', rfl⟩
theorem Logged.mapPart {s t : State} (h : Logged s t) (k : Nat) (f : Part → Part) : Logged s (t.mapPart k f) := by
  obtain ⟨a, b, c, d, e, g, i, rfl⟩ := h; exact ⟨a, b, c, _, e, g, i, rfl⟩
theorem Logged.foldl {α : Type} (l : List α) (f : State → α → State) (hf : ∀ s a, Logged s (f s a)) (s : State) :
    Logged s (l.foldl f s) := by
  induction l generalizing s with
  | nil => exact Logged.refl s
  | cons a l ih => exact (hf s a).trans (ih (f s a))

theorem Logged.thread {s t : State} (h : Logged s t) : t.thread = s.thread := by obtain ⟨a, b, c, d, e, f, i, rfl⟩ := h; rfl
theorem Logged.threads {s t : State} (h : Logged s t) : t.threads = s.threads := by obtain ⟨a, b, c, d, e, f, i, rfl⟩ := h; rfl
theorem Logged.tile {s t : State} (h : Logged s t) : t.tile = s.tile := by obtain ⟨a, b, c, d, e, f, i, rfl⟩ := h; rfl
theorem Logged.tiles {s t : State} (h : Logged s t) : t.tiles = s.tiles := by obtain ⟨a, b, c, d, e, f, i, rfl⟩ := h; rfl
theorem Logged.graph {s t : State} (h : Logged s t) : t.graph = s.graph := by obtain ⟨a, b, c, d, e, f, i, rfl⟩ := h; rfl
theorem Logged.graphs {s t : State} (h : Logged s t) : t.graphs = s.graphs := by obtain ⟨a, b, c, d, e, f, i, rfl⟩ := h; rfl
theorem Logged.port {s t : State} (h : Logged s t) : t.port = s.port := by obtain ⟨a, b, c, d, e, f, i, rfl⟩ := h; rfl
theorem Logged.zone {s t : State} (h : Logged s t) : t.zone = s.zone := by obtain ⟨a, b, c, d, e, f, i, rfl⟩ := h; rfl
theorem Logged.mod {s t : State} (h : Logged s t) : t.mod = s.mod := by obtain ⟨a, b, c, d, e, f, i, rfl⟩ := h; rfl
theorem Logged.home {s t : State} (h : Logged s t) : t.home = s.home := by obtain ⟨a, b, c, d, e, f, i, rfl⟩ := h; rfl
theorem Logged.cur {s t : State} (h : Logged s t) : t.cur = s.cur := by obtain ⟨a, b, c, d, e, f, i, rfl⟩ := h; rfl
theorem Logged.cycle {s t : State} (h : Logged s t) : t.cycle = s.cycle := by obtain ⟨a, b, c, d, e, f, i, rfl⟩ := h; rfl
theorem Logged.agenda {s t : State} (h : Logged s t) : t.agenda = s.agenda := by obtain ⟨a, b, c, d, e, f, i, rfl⟩ := h; rfl

theorem noteRead_written (s : State) (part : Nat) (ea : Word) (n : Nat) : Written s (noteRead s part ea n) := by
  unfold noteRead
  have hw := noteWalk_written s part ea
  repeat' split
  all_goals first
    | exact Written.refl s
    | exact hw
    | exact hw.trans (noteSectors_written _ _ _)

theorem sysWrite_logged (s : State) (part : Nat) (ea : Word) (bs : List Byte) : Logged s (sysWrite s part ea bs).2 :=
  (sysWrite_written s part ea bs).logged

/-- R442: a record changes memory and the partition's counts alone. -/
theorem logRecord_logged (s : State) (part : Nat) (r : Rec) : Logged s (logRecord s part r) := by
  unfold logRecord
  dsimp only
  split
  · exact (Logged.refl s).mapPart _ _
  · split
    all_goals
      rename_i h
      have := sysWrite_logged s part ((s.part part).errbase + wd (64 * ((s.part part).errhead.toNat % 2 ^ ((s.part part).errsize.toNat % 32))))
        ((recordDwords s part r).flatMap (leBytes 8))
      rw [h] at this
      exact this.mapPart _ _

theorem record_logged (s : State) (r : Rec) : Logged s (record s r) := by
  unfold record; split
  · exact logRecord_logged _ _ _
  · exact Logged.refl s

theorem deviceFault_logged (s : State) (part tile kind : Nat) (ea : Word) : Logged s (deviceFault s part tile kind ea) := by
  unfold deviceFault
  repeat' split
  all_goals first
    | exact Logged.refl s
    | exact logRecord_logged _ _ _

theorem sysWriteOrDrop_logged (s : State) (part tile kind : Nat) (ea : Word) (bs : List Byte) :
    Logged s (sysWriteOrDrop s part tile kind ea bs) := by
  unfold sysWriteOrDrop
  have := sysWrite_logged s part ea bs
  split
  · rename_i s' h
    rw [h] at this; exact this
  · rename_i h
    rw [h] at this
    exact this.trans ((deviceFault_logged _ part tile 1 ea).trans (logRecord_logged _ _ _))

theorem sysFetch_logged (s : State) (part tile : Nat) (ea : Word) (n : Nat) : Logged s (sysFetch s part tile ea n).1 := by
  unfold sysFetch
  split
  · exact Logged.refl s
  · exact (noteRead_written s part ea n).logged.trans (deviceFault_logged _ _ _ _ _)

theorem moduleEvent_logged (s : State) (l : List Nat) (c t y a d : Nat) : Logged s (moduleEvent s l c t y a d) :=
  Logged.foldl l _ (fun s p => logRecord_logged s p _) s

theorem writeStatus_logged (s : State) (k : Nat) (bs : List Byte) : Logged s (writeStatus s k bs) := by
  unfold writeStatus
  dsimp only
  split
  · exact Logged.refl s
  · exact Logged.foldl _ _ (fun s p => sysWriteOrDrop_logged s _ _ _ _ _) s

theorem statusBlock_logged (s : State) (k : Nat) : Logged s (statusBlock s k) := writeStatus_logged _ _ _

theorem doneCleat_logged (s : State) (k : Nat) : Logged s (doneCleat s k) := by
  unfold doneCleat
  dsimp only
  split
  · exact Logged.refl s
  · have := sysFetch_logged s (s.graph k).part (tileAt (s.graph k).x (s.graph k).y) (wd (recDword (s.graph k) 4)) 16
    split
    all_goals
      rename_i h
      rw [h] at this
      first
        | exact this.trans (sysWriteOrDrop_logged _ _ _ _ _ _)
        | exact this.trans (logRecord_logged _ _ _)

/-- R442: of the partitions' registers a record changes the head and the count of lost records alone. -/
theorem logRecord_part (s : State) (part k : Nat) (r : Rec) :
    ∃ h l, (logRecord s part r).part k = { s.part k with errhead := h, errlost := l } := by
  have same : ∀ (t : State), Logged s t → (t.parts = s.parts) → ∀ f : Part → Part, (∀ p, ∃ h l, f p = { p with errhead := h, errlost := l }) →
      ∃ h l, (t.mapPart part f).part k = { s.part k with errhead := h, errlost := l } := by
    intro t _ hp f hf
    have e : t.part = s.part := by funext j; simp [State.part, hp]
    by_cases hk : part = k
    · subst hk
      obtain ⟨h, l, hh⟩ := hf (s.part part)
      exact ⟨h, l, by simp [e, hh]⟩
    · refine ⟨(s.part k).errhead, (s.part k).errlost, ?_⟩
      have : (t.mapPart part f).part k = t.part k := by
        simp only [State.part, State.mapPart, Assoc.getD_set]; rw [if_neg hk]
      rw [this, e]
  have lose : ∀ p : Part, ∃ h l, ({ p with errlost := if p.errlost = BitVec.allOnes 64 then p.errlost else p.errlost + 1 } : Part) =
      { p with errhead := h, errlost := l } := fun p => ⟨p.errhead, _, rfl⟩
  unfold logRecord
  dsimp only
  split
  · exact same s (Logged.refl s) rfl _ lose
  · split
    all_goals
      rename_i h
      have hw := sysWrite_written s part ((s.part part).errbase + wd (64 * ((s.part part).errhead.toNat % 2 ^ ((s.part part).errsize.toNat % 32))))
        ((recordDwords s part r).flatMap (leBytes 8))
      rw [h] at hw
      first
        | exact same _ hw.logged hw.parts _ lose
        | exact same _ hw.logged hw.parts _ (fun p => ⟨_, p.errlost, rfl⟩)

/-! ### The end of a graph (R30, R384, R389) -/

/-- A fold of updates that leave the graphs leaves them. -/
theorem foldl_graphs {α : Type} (l : List α) (f : State → α → State) (hf : ∀ s a, (f s a).graphs = s.graphs) (s : State) :
    (l.foldl f s).graphs = s.graphs := by
  induction l generalizing s with
  | nil => rfl
  | cons a l ih => rw [List.foldl_cons, ih, hf]

theorem releaseGraph_graphs (s : State) (k : Nat) : (releaseGraph s k).graphs = s.graphs := by
  show (List.foldl _ (List.foldl _ s _) _).graphs = s.graphs
  refine (foldl_graphs _ _ ?_ _).trans (foldl_graphs _ _ ?_ _)
  · intros; rfl
  · intros; rfl

theorem signalLine_graphs (s : State) (l : Nat × Nat) : (signalLine s l).graphs = s.graphs := by
  unfold signalLine
  refine foldl_graphs _ _ ?_ s
  intro s p
  split <;> rfl

theorem flushEgress_graphs (s : State) (k : Nat) : (flushEgress s k).graphs = s.graphs := by
  show (sendHeld s _).graphs = s.graphs
  unfold sendHeld sentSignals
  exact foldl_graphs _ _ (fun s l => signalLine_graphs s _) _

/-- R30: a graph that has ended has the state and the cause it ended with. -/
theorem endGraph_graph (s : State) (k : Nat) (st : GState) (c : Nat) :
    ((endGraph s k st c).graph k).st = st ∧ ((endGraph s k st c).graph k).cause = c ∧ ((endGraph s k st c).graph k).openWave = none ∧
    ((endGraph s k st c).graph k).frozen = false := by
  unfold endGraph
  dsimp only
  have hg : ∀ t : State, (if st = .retired then flushEgress (releaseGraph t k) k else dropEgress (releaseGraph t k) k).graphs = t.graphs := by
    intro t; split
    · exact (flushEgress_graphs _ k).trans (releaseGraph_graphs t k)
    · show (releaseGraph t k).graphs = _; exact releaseGraph_graphs t k
  generalize (if st = .terminated then settleSinks s k else s) = s0
  generalize h1 : s0.mapGraph k _ = s1
  have e1 : (s1.graph k).st = st ∧ (s1.graph k).cause = c ∧ (s1.graph k).openWave = none := by
    rw [← h1]; simp [State.graph, State.mapGraph]
  have l2 := (statusBlock_logged s1 k).trans (doneCleat_logged (statusBlock s1 k) k)
  generalize doneCleat (statusBlock s1 k) k = s2 at l2 ⊢
  have e2 : (forgetUndo (if st = .retired then flushEgress (releaseGraph s2 k) k else dropEgress (releaseGraph s2 k) k) k).graphs = s1.graphs := by
    show (if st = .retired then flushEgress (releaseGraph s2 k) k else dropEgress (releaseGraph s2 k) k).graphs = _
    rw [hg, l2.graphs]
  generalize forgetUndo _ k = s3 at e2 ⊢
  have e3 : s3.graph k = s1.graph k := by simp [State.graph, e2]
  have : ((s3.mapGraph k (fun g => { g with snap := none, frozen := false, shadow := [], oldShadow := [], readyAt := 0 })).mapPart (graphPart k)
        (fun p => { p with evalDue := true })).graph k = { s1.graph k with snap := none, frozen := false, shadow := [], oldShadow := [], readyAt := 0 } := by
    show Assoc.getD (Assoc.set s3.graphs k _) k _ = _
    rw [Assoc.getD_set_same, e3]
  rw [this]
  exact ⟨e1.1, e1.2.1, e1.2.2, rfl⟩

end Sys2Proof.Machine
end

