-- ==== Sys2Proof/Tests/Slice0.lean ====
section
/-! SUPPORT. The model's own tests: words written out in the spec's tables, an ill-formed term for each check of WellFormed, small
steps whose results the spec gives or that follow by hand from its rules, and a state that meets the hypotheses of each statement. -/

namespace Sys2Proof.Tests

set_option Elab.async false

open Sys2Proof.Machine Sys2Proof.Safety Sys2Proof.Claims

/-! ### Helpers -/

/-- Slot 0 of tile 0 runs a thread of graph 0, about to issue, changed by `f`. -/
def slot (f : Thread → Thread) : State := (State.reset.withFetchWord 32 1).mapMe f
/-- The thread with scalar registers set. -/
def regs (l : List (BitVec 5 × Nat)) (t : Thread) : Thread := l.foldl (fun t x => t.ws x.1 (.ofNat 64 x.2)) t
/-- The thread with vector registers set by its open bight. -/
def vecs (l : List (BitVec 5 × Nat)) (t : Thread) : Thread := l.foldl (fun t x => (t.wv x.1 (.ofNat 512 x.2)).tracked .empty (RegSet.v1 x.1)) t
/-- A test of the state that an instruction leaves. -/
def after (i : Instr) (s : State) (f : State → Bool) : Bool := match exec i s with | .next t => f t | _ => false
/-- An instruction leaves a scalar register at a value and steps on. -/
def gives (i : Instr) (s : State) (d : BitVec 5) (v : Nat) : Bool := after i s (fun t => (t.me.rs d).toNat == v && t.me.pc == s.me.pc + 4)
/-- Two registers, s1 and s2, and the value s3 has after a form. -/
def op2 (f : BitVec 5 → BitVec 5 → BitVec 5 → Instr) (x y v : Nat) : Bool := gives (f 3 1 2) (slot (regs [(1, x), (2, y)])) 3 v
/-- The same of a form with one operand. -/
def op1 (f : BitVec 5 → BitVec 5 → Instr) (x v : Nat) : Bool := gives (f 3 1) (slot (regs [(1, x)])) 3 v
/-- A form leaves a trap of a cause and a value with handlers in force. -/
def traps (i : Instr) (s : State) (c v : Nat) : Bool :=
  after i s (fun t => t.me.lvl && t.me.tcause.toNat % 256 == c && t.me.tval.toNat == v)
/-- The state with handlers in force: HWIN valid, 16 KiB at 0x3_C000, and the handler at 0x3_C000. -/
def handled (s : State) : State :=
  { s with graphs := Assoc.set s.graphs 0 { s.graph 0 with hwin := 0x800000000000033C }, parts := Assoc.set s.parts 0 { s.part 0 with tvec := 0x3C000 } }
/-- The local address of an offset. -/
def loc (o : Nat) : Nat := 0xE000000000000000 + o
/-- The state with bytes of tile 0's memory set. -/
def withMem (s : State) (o : Nat) (bs : List Byte) : State := { s with tmem := Memory.writeBytes s.tmem o bs }
/-- The two's complement of a number in 64 bits. -/
def neg (n : Nat) : Nat := 2 ^ 64 - n

/-! ### Decoding: words that the spec writes out -/

/-- Tables 8-5 and 8-7, the example of R227, spec/07. -/
theorem test_decode_scalar :
    decodeWord 0x00000001 = some .nop ∧ decodeWord 0x00000002 = some .halt ∧ decodeWord 0x00A00006 = some (.time 5) ∧
    decodeWord 0x04831000 = some (.add 4 3 2) ∧ decodeWord 0x04E1103E = some (.sel 7 1 2 3) ∧
    decodeWord 0x10453002 = some (.cmplt 2 5 6) ∧ decodeWord 0x2464004C = some (.shri 3 4 12) := by decide +kernel
theorem test_decode_immediates :
    decodeWord 0x29209ABC = some (.li 9 0x9ABC) ∧ decodeWord 0x2D215678 = some (.lis 9 1 0x5678) ∧
    decodeWord 0x287FFFFC = some (.li 3 0x1FFFFC) ∧ decodeWord 0x14420001 = some (.addi 2 2 1) := by decide +kernel
theorem test_decode_control :
    decodeWord 0x44881FFD = some (.bpAny 2 0x1FFD) ∧ decodeWord 0x4C1F0000 = some (.jr 31) ∧ decodeWord 0x4A000006 = some (.call 6) ∧
    decodeWord 0x31000003 = some (.lcsetImm 0 3) ∧ decodeWord 0x31040002 = some (.lcsetImm 1 2) ∧
    decodeWord 0x31802001 = some (.lcchain 0 1) ∧ decodeWord 0x30001FFF = some (.loop 0 0x1FFF) := by decide +kernel
/-- R368's example: `mfs s5, TCAUSE` and `mfs s7, TVAL`. -/
theorem test_decode_sysreg : decodeWord 0x34A00202 = some (.mfs 5 0x202) ∧ decodeWord 0x34E00203 = some (.mfs 7 0x203) := by decide +kernel
/-- Table 9-9 and the examples of R274, R279, R282, spec/15. -/
theorem test_decode_vector :
    decodeWord 0x60611080 = some (.vadd 3 1 2 1 0) ∧ decodeWord 0x64853000 = some (.vfma 4 5 6 0 0) ∧
    decodeWord 0x64853191 = some (.vfms 4 5 6 3 2) ∧ decodeWord 0x6929540D = some (.vsra 9 9 10 8 1) ∧
    decodeWord 0x6C411082 = some (.vcmpLt 2 1 2 1 0) ∧ decodeWord 0x6CA733C0 = some (.vext 5 7 6 7) ∧
    decodeWord 0x70814C00 = some (.vperm 4 1 9 8 0) ∧ decodeWord 0x74E11484 = some (.vdot 7 1 2 9 0) ∧
    decodeWord 0x74410189 = some (.vredmax 2 1 3 1) ∧ decodeWord 0x78431001 = some (.vsqrt 2 3 2 0 0) := by decide +kernel
theorem test_decode_convert :
    decodeWord 0x90430989 = some (.vcvt 2 3 1 3 1 1) ∧ decodeWord 0x95001A09 = some (.vqcvt 8 0 3 4 false 1 1) ∧
    decodeWord 0x95881A0D = some (.vdqcvt 12 8 3 4 false 1 1) ∧ decodeWord 0x98613202 = some (.vmask12 3 1 6 4) := by decide +kernel
/-- Table 10-9. -/
theorem test_decode_memory :
    decodeWord 0x5061C000 = some (.ldd 3 1 0) ∧ decodeWord 0x54816000 = some (.std 4 1 0) ∧ decodeWord 0x50A29FF8 = some (.ldw 5 2 0x1FF8) ∧
    decodeWord 0x58C740C3 = some (.indexedLoad 6 7 8 6 3) ∧ decodeWord 0x58640215 = some (.ldacq 3 4 5) ∧
    decodeWord 0x59240327 = some (.strel 9 4 7) ∧ decodeWord 0x80221802 = some (.vld 1 2 1 2 2) := by decide +kernel
theorem test_decode_atomics :
    decodeWord 0xA0A63800 = some (.amor 5 6 7 0 0 0) ∧ decodeWord 0xA0063CA5 = some (.amo 6 7 18 2 5) ∧
    decodeWord 0xA8030225 = some (.cleatArv 3 2 5) ∧ decodeWord 0xA4000035 = some (.fence 3 5) ∧
    decodeWord 0xAC044A33 = some (.gbar 4 9 3 3) ∧ decodeWord 0xAC044923 = some (.leave 4 9 2 3) ∧
    decodeWord 0xAC002400 = some (.ttake 4) ∧ decodeWord 0xAC002C00 = some (.ttake 5) ∧
    decodeWord 0xC0853025 = some (.copy 4 5 6 false 4 5) := by decide +kernel
/-- Table 11-10. -/
theorem test_decode_fabric :
    decodeWord 0xD0800400 = some (.rowact 4 true 0 0) ∧ decodeWord 0xD0800401 = some (.rowact 4 true 0 1) ∧
    decodeWord 0xD0800445 = some (.rowtakePl 4 true 0 5) ∧ decodeWord 0xD0C700C0 = some (.rowtakeTm 6 7 false 0 0) ∧
    decodeWord 0xD4A00400 = some (.plane 5 true 0 0) ∧ decodeWord 0xD8684800 = some (.configure 3 8 9 0 0) ∧
    decodeWord 0xDD405820 = some (.mrun 10 0 11 4 0) ∧ decodeWord 0xDD8D00C0 = some (.mdrain 12 13 0 0 0) ∧
    decodeWord 0xE0450000 = some (.sopen 2 5 0 0) ∧ decodeWord 0xE5231080 = some (.spush 9 3 false 2) ∧
    decodeWord 0xE4851900 = some (.spop 4 5 3) ∧ decodeWord 0xE8432000 = some (.launch 2 3 4 0 0) := by decide +kernel
/-- Table 16-7, R375. -/
theorem test_decode_system :
    decodeWord 0xF0010000 = some .sysret ∧ decodeWord 0xF4040000 = some (.tlbinv 4) ∧ decodeWord 0xF4000001 = some .tlbinva ∧
    decodeWord 0xF4640002 = some (.probe 3 4) ∧ decodeWord 0xF4430003 = some (.wavereq 2 3) ∧
    decodeWord 0xF4042804 = some (.codecinv 4 5) ∧ decodeWord 0xF4090014 = some (.codecinvDesc 9) ∧
    decodeWord 0xF4430005 = some (.freeze 2 3) ∧ decodeWord 0xF4A63826 = some (.graphctlSlot 5 6 7) := by decide +kernel
/-- Table 7-7: words that are not instructions. -/
theorem test_decode_illegal :
    decodeWord 0x00000000 = none ∧ decodeWord 0xFFFFFFFF = none ∧ decodeWord 0xFC000001 = none ∧ decodeWord 0x04831001 ≠ some (.add 4 3 2) ∧
    decodeWord 0x0483100F = none ∧ decodeWord 0x00010001 = none ∧ decodeWord 0xD0800404 = none ∧ decodeWord 0x60611700 = none := by decide +kernel

/-! ### WellFormed: one ill-formed term for each check -/

theorem test_ill_types :
    Instr.wellFormed (.vadd 1 2 3 14 0) = false ∧ Instr.wellFormed (.vabs 1 2 10 0) = false ∧ Instr.wellFormed (.vfma 1 2 3 6 0) = false ∧
    Instr.wellFormed (.vshl 1 2 3 1 0) = false ∧ Instr.wellFormed (.vcmpUn 1 2 3 7 0) = false ∧ Instr.wellFormed (.vdot 1 2 3 1 0) = false ∧
    Instr.wellFormed (.vdiv 1 2 3 4 0) = false ∧ Instr.wellFormed (.vmask12 1 2 4 0) = false ∧ Instr.wellFormed (.vqcvt 0 0 0 3 false 0 0) = false := by
  decide +kernel
theorem test_ill_operands :
    Instr.wellFormed (.lcchain 2 2) = false ∧ Instr.wellFormed (.mfs 0 0x002) = false ∧ Instr.wellFormed (.mts 0 0x209) = false ∧
    Instr.wellFormed (.indexedLoad 0 0 0 7 0) = false ∧ Instr.wellFormed (.indexedStore 0 0 0 4 0) = false ∧
    Instr.wellFormed (.ldacq 0 0 0) = false ∧ Instr.wellFormed (.strel 0 0 10) = false ∧ Instr.wellFormed (.vredsum 1 2 5 1 0) = false ∧
    Instr.wellFormed (.vscan 1 2 1 7 0) = false ∧ Instr.wellFormed (.vsqrt 1 2 6 1 0) = false ∧ Instr.wellFormed (.vcvt 1 2 1 1 0 0) = false ∧
    Instr.wellFormed (.vcvt 1 2 1 3 0 2) = false ∧ Instr.wellFormed (.vqcvt 0 2 0 4 false 0 0) = false ∧
    Instr.wellFormed (.vdqcvt 1 0 0 4 true 0 0) = false ∧ Instr.wellFormed (.vmask12 1 2 5 4) = false := by decide +kernel
theorem test_ill_sync :
    Instr.wellFormed (.amo 1 2 23 0 0) = false ∧ Instr.wellFormed (.amo 1 2 0 0 1) = false ∧ Instr.wellFormed (.amor 0 1 2 0 0 0) = false ∧
    Instr.wellFormed (.amocas 1 2 3 22 0 0) = false ∧ Instr.wellFormed (.fence 0 1) = false ∧ Instr.wellFormed (.cleatArv 1 1 5) = false ∧
    Instr.wellFormed (.cleatWait 1 2 2 5) = false ∧ Instr.wellFormed (.cleatTest 1 2 3 3 5) = false ∧ Instr.wellFormed (.leave 1 2 1 5) = false ∧
    Instr.wellFormed (.gbar 1 2 2 5) = false ∧ Instr.wellFormed (.tgive 1) = false ∧ Instr.wellFormed (.ttake 6) = false := by decide +kernel
theorem test_ill_engines :
    Instr.wellFormed (.copy 1 2 31 false 0 0) = false ∧ Instr.wellFormed (.copym 1 2 30 false 0 0) = false ∧
    Instr.wellFormed (.copy2 1 2 3 3 0) = false ∧ Instr.wellFormed (.rowact 1 false 4 0) = false ∧ Instr.wellFormed (.plane 1 false 0 6) = false ∧
    Instr.wellFormed (.configure 1 2 3 5 0) = false ∧ Instr.wellFormed (.mrun 1 2 3 0 5) = false ∧ Instr.wellFormed (.sopen 1 2 2 0) = false ∧
    Instr.wellFormed (.launch 1 2 3 0 3) = false := by decide +kernel

/-! ### Steps: the scalar core -/

/-- Table 8-3. -/
theorem test_div :
    op2 .div 7 (neg 2) (neg 3) ∧ op2 .div (neg 7) 2 (neg 3) ∧ op2 .div 5 0 (neg 1) ∧ op2 .div (2 ^ 63) (neg 1) (2 ^ 63) := by decide +kernel
theorem test_rem :
    op2 .rem 7 (neg 2) 1 ∧ op2 .rem (neg 7) 2 (neg 1) ∧ op2 .rem 5 0 5 ∧ op2 .rem (2 ^ 63) (neg 1) 0 := by decide +kernel
theorem test_divu_remu :
    op2 .divu 7 (neg 2) 0 ∧ op2 .divu (neg 7) 2 0x7FFFFFFFFFFFFFFC ∧ op2 .divu 5 0 (2 ^ 64 - 1) ∧ op2 .remu (neg 7) 2 1 ∧ op2 .remu 5 0 5 := by decide +kernel
/-- R221 by hand: wrap, sign and shift amounts of 64. -/
theorem test_arith :
    op2 .add (2 ^ 64 - 1) 2 1 ∧ op2 .sub 1 2 (neg 1) ∧ op2 .andn 0xFF 0x0F 0xF0 ∧ op2 .shl 1 65 2 ∧ op2 .shr (2 ^ 63) 127 1 ∧
    op2 .sra (2 ^ 63) 63 (neg 1) ∧ op2 .rotl (2 ^ 63 + 1) 64 (2 ^ 63 + 1) ∧ op2 .rotl (2 ^ 63 + 1) 1 3 := by decide +kernel
theorem test_minmax :
    op2 .min (neg 1) 1 (neg 1) ∧ op2 .max (neg 1) 1 1 ∧ op2 .minu (neg 1) 1 1 ∧ op2 .maxu (neg 1) 1 (neg 1) := by decide +kernel
theorem test_mulh : op2 .mul (2 ^ 63) 2 0 ∧ op2 .mulh (neg 1) 2 (neg 1) ∧ op2 .mulhu (neg 1) 2 1 := by decide +kernel
theorem test_bits :
    op1 .clz 0 64 ∧ op1 .clz 1 63 ∧ op1 .ctz 0 64 ∧ op1 .ctz 8 3 ∧ op1 .popc (2 ^ 64 - 1) 64 ∧ op1 .sextb 0x180 (neg 128) ∧
    op1 .sexth 0x8000 (neg 32768) ∧ op1 .sextw 0x17FFFFFFF 0x7FFFFFFF := by decide +kernel
theorem test_immediates :
    gives (.addi 3 1 0xFFFF) (slot (regs [(1, 0)])) 3 (neg 1) ∧ gives (.andi 3 1 0xFFF0) (slot (regs [(1, 2 ^ 64 - 1)])) 3 (neg 16) ∧
    gives (.ori 3 1 0xFFFF) (slot id) 3 0xFFFF ∧ gives (.li 3 0x100000) (slot id) 3 (neg (2 ^ 20)) ∧
    gives (.shli 3 1 63) (slot (regs [(1, 3)])) 3 (2 ^ 63) := by decide +kernel
/-- The example of R227, and a write to s0. -/
theorem test_lis : gives (.lis 9 2 0x1234) (slot (fun t => { regs [(9, 0x56789ABC)] t with bight := { t.bight with written := RegSet.s1 9 } })) 9
    0x123456789ABC := by decide +kernel
theorem test_s0_reads_zero : gives (.addi 0 1 5) (slot (regs [(1, 7)])) 0 0 := by decide +kernel
theorem test_compare :
    after (.cmplt 2 1 2) (slot (regs [(1, neg 1), (2, 1)])) (fun t => t.me.rp 2 == BitVec.allOnes 64) ∧
    after (.cmpltu 2 1 2) (slot (regs [(1, neg 1), (2, 1)])) (fun t => t.me.rp 2 == 0) := by decide +kernel
/-- R229, R195: a taken branch backward past 0, and one not taken. -/
theorem test_branch :
    after (.bne 1 0 0x1FFF) (slot (regs [(1, 1)])) (fun t => t.me.pc == 0x3FFFC) ∧ after (.beq 1 0 0x1FFF) (slot (regs [(1, 1)])) (fun t => t.me.pc == 4) := by
  decide +kernel
theorem test_branch_predicate :
    after (.bpAll 2 2) (slot (fun t => t.wp 2 (BitVec.allOnes 64))) (fun t => t.me.pc == 8) ∧
    after (.bnpAny 2 2) (slot (fun t => t.wp 2 1)) (fun t => t.me.pc == 4) := by decide +kernel
theorem test_call : after (.call 6) (slot (fun t => { t with pc := 0x100 })) (fun t => t.me.pc == 0x118 && t.me.rs 31 == 0x104) := by decide +kernel
/-- R232: an address of 2^18, and one that is no multiple of 4. -/
theorem test_jr_traps :
    traps (.jr 1) (handled (slot (regs [(1, 2 ^ 18)]))) 3 (2 ^ 18) ∧ traps (.jr 1) (handled (slot (regs [(1, 6)]))) 4 6 := by decide +kernel
/-- Table 8-7, row 3: lc0 falls to 0, is reloaded to 3, and lc1 steps from 2 to 1. -/
theorem test_loop :
    after (.loop 0 0x1FFF) (slot (fun t => { t with pc := 0x114, lc := #v[⟨1, 3, true, 1⟩, ⟨2, 2, false, 0⟩, .zero, .zero] }))
      (fun t => t.me.pc == 0x110 && t.me.lc[0] == ⟨3, 3, true, 1⟩ && t.me.lc[1] == ⟨1, 2, false, 0⟩) := by decide +kernel
/-- R235: a count past 2^32 - 1. -/
theorem test_lcset : after (.lcsetReg 1 2) (slot (regs [(2, 2 ^ 32)])) (fun t => t.me.lc[1] == ⟨0xFFFFFFFF, 0xFFFFFFFF, false, 0⟩) := by decide +kernel
/-- R45: a register read and then written in one bight. -/
theorem test_clobber : traps (.addi 3 3 1) (handled (slot id)) 9 3 := by decide +kernel

/-! ### Steps: knots, traps, system registers -/

/-- R44, R58: a KNOT performs the buffered store. -/
theorem test_knot_store : after .knot (slot (fun t => { t with bight := { t.bight with stores := [.store (.ofNat 64 (loc 0x100)) [0x34, 0x12] 0] } }))
    (fun t => Memory.readBytes t.tmem 0x100 2 == [0x34, 0x12] && t.me.bight.stores == [] && t.me.pc == 4) := by decide +kernel
theorem test_yield : after .yield (slot id) (fun t => t.me.pc == 4 && t.me.yield == 4) := by decide +kernel
theorem test_halt : after .halt (slot id) (fun t => t.me.run == .halted) := by decide +kernel
/-- R242: the wave last checkpointed is ahead of the last complete one. -/
theorem test_kwait_waits : after (.kwait 3) (slot (fun t => { t with wave := 1 })) (fun t => t.me.wait == .kwait && t.me.pc == 0) := by decide +kernel
theorem test_kwait_writes : gives (.kwait 3) (slot id) 3 0 := by decide +kernel
/-- R244: a graph of 1 by 1 tile, the thread alone on its tile. -/
theorem test_tid : gives (.tid 3) (slot (fun t => { t with nthr := 1 })) 3 (2 ^ 20 + 2 ^ 32 + 2 ^ 40) := by decide +kernel
/-- Table 8-10: PRIV of a privileged register at U, and its value at S. -/
theorem test_mfs_priv : after (.mfs 3 0x203) (handled (slot id)) (fun t => t.me.lvl && t.me.tcause == 2) := by decide +kernel
theorem test_mfs : gives (.mfs 3 0x203) (slot (fun t => { t with lvl := true, tval := 0x21 })) 3 0x21 := by decide +kernel
/-- R67: FPCTL keeps the bits it has. -/
theorem test_mts : after (.mts 1 0x001) (slot (regs [(1, 2 ^ 64 - 1)])) (fun t => t.me.fpctl == 0x3EF && t.me.pc == 4) := by decide +kernel
/-- R203, R366. -/
theorem test_illegal : after (.illegalWord 0xFFFFFFFF) (handled (slot (fun t => { t with pc := 0x40 }))) (fun t => t.me.lvl && t.me.tpc == 0x40 &&
    t.me.tcause == 1 && t.me.tval == 0xFFFFFFFF && t.me.pc == 0x3C000 && t.me.susp.isSome) := by decide +kernel
theorem test_trap : after (.trap 0x21) (handled (slot (fun t => { t with pc := 0x40 }))) (fun t => t.me.lvl && t.me.tpc == 0x44 &&
    t.me.tcause == 0x19 && t.me.tval == 0x21 && t.me.pc == 0x3C000 && t.me.susp.isNone) := by decide +kernel
/-- R368: a trap at S. -/
theorem test_double_trap : after (.illegalWord 0) (handled (slot (fun t => { t with lvl := true }))) (fun t => (t.graph 0).st == .terminated) := by decide +kernel
theorem test_sysret : after .sysret (handled (slot (fun t => { t with lvl := true, tpc := 0x88 }))) (fun t => !t.me.lvl && t.me.pc == 0x88) := by decide +kernel
theorem test_sysret_re : after .sysretRe (handled (slot (fun t => { t with lvl := true, tpc := 0x88, tbs := 0x80, susp := some (.openAt 0x80 (.replicate 4 .zero) 0) }))) (fun t => !t.me.lvl && t.me.pc == 0x80 && t.me.rcnt == 1) := by decide +kernel
theorem test_tlbinva_priv : after .tlbinva (handled (slot id)) (fun t => t.me.lvl && t.me.tcause == 2) := by decide +kernel
/-- Table 16-10: FREEZE of the slot's own graph, by its handle 0. -/
theorem test_freeze : after (.freeze 3 1) (slot (fun t => { t with lvl := true })) (fun t => (t.graph 0).frozen && t.me.rs 3 == 0) := by decide +kernel
theorem test_wavereq : after (.wavereq 3 1) (slot (fun t => { t with lvl := true })) (fun t => (t.graph 0).openWave == some 1 && t.me.rs 3 == 1) := by decide +kernel

/-! ### Steps: memory and synchronisation -/

/-- R287: signs and byte order. -/
theorem test_loads :
    gives (.ldb 3 1 0) (withMem (slot (regs [(1, loc 0x80)])) 0x80 [0x80]) 3 (neg 128) ∧
    gives (.ldhu 3 1 0) (withMem (slot (regs [(1, loc 0x80)])) 0x80 [0x34, 0x92]) 3 0x9234 ∧
    gives (.ldw 3 1 0x1FFC) (withMem (slot (regs [(1, loc 0x84)])) 0x80 [0, 0, 0, 0x80]) 3 (neg (2 ^ 31)) := by decide +kernel
theorem test_load_own_store :
    gives (.ldd 3 1 0) (slot (fun t => { regs [(1, loc 0x80)] t with bight := { t.bight with stores := [.store (.ofNat 64 (loc 0x81)) [0xAB] 0] } })) 3 0xAB00 := by
  decide +kernel
theorem test_load_traps :
    traps (.ldd 3 1 0) (handled (slot (regs [(1, loc 4)]))) 4 (loc 4) ∧ traps (.ldb 3 1 0) (handled (slot (regs [(1, loc (2 ^ 18))]))) 3 (loc (2 ^ 18)) := by decide +kernel
theorem test_store : after (.sth 3 1 0) (slot (regs [(1, loc 0x80), (3, 0x12345)])) (fun t =>
    t.me.bight.stores == [.store (.ofNat 64 (loc 0x80)) [0x45, 0x23] 0] && t.me.pc == 4) := by decide +kernel
/-- Table 2-2: the thirty-third entry. -/
theorem test_store_overflow : after (.stb 3 1 0) (handled (slot (fun t => { regs [(1, loc 0x3000)] t with bight := { t.bight with stores := (List.range 32).map (fun k => .store (.ofNat 64 (loc (128 * k))) [1] 0) } }))) (fun t => t.me.lvl && t.me.tcause == 0x0A) := by decide +kernel
theorem test_amo_buffers : after (.amo 1 2 0 0 0) (slot (regs [(1, loc 0x80), (2, 5)])) (fun t =>
    t.me.bight.stores == [.amo (.ofNat 64 (loc 0x80)) 0 5 0 0]) := by decide +kernel
/-- Table 10-3: the old value is returned, sign-extended in 32 bits. -/
theorem test_amor : after (.amor 3 1 2 1 0 0) (withMem (slot (regs [(1, loc 0x80), (2, 1)])) 0x80 [0xFF, 0xFF, 0xFF, 0xFF]) (fun t =>
    t.me.rs 3 == .ofNat 64 (neg 1) && Memory.readBytes t.tmem 0x80 4 == [0, 0, 0, 0]) := by decide +kernel
theorem test_amocas : after (.amocas 3 1 2 23 0 0) (withMem (slot (regs [(1, loc 0x80), (2, 9), (3, 7)])) 0x80 [7]) (fun t =>
    t.me.rs 3 == 7 && Memory.readBytes t.tmem 0x80 2 == [9, 0]) := by decide +kernel
/-- R301: the last arrival flips the phase and reloads the count. -/
theorem test_cleat_flip : cleatBytes (.rmw 0 1) (leBytes 16 (2 ^ 64 + 3 * 2 ^ 80)) = leBytes 16 (3 * 2 ^ 64 + 3 * 2 ^ 80 + 2 ^ 96) := by decide +kernel
theorem test_cleat_test : gives (.cleatTest 3 1 2 0 0) (withMem (slot (regs [(1, loc 0x80)])) 0x80 (leBytes 16 (2 ^ 96))) 3 1 := by decide +kernel
theorem test_cleat_wait : after (.cleatWait 1 2 0 0) (slot (regs [(1, loc 0x80)])) (fun t => t.me.wait == .cleatWait && t.me.pc == 0) := by decide +kernel
theorem test_cleat_over : traps (.cleatInit 1 2) (handled (slot (regs [(1, loc 0x80), (2, 0x10000)]))) 0x17 0x10000 := by decide +kernel
/-- Table 10-8, steps 1 and 2. -/
theorem test_join_first : after (.join 9 2) (slot (regs [(2, loc 0x80)])) (fun t =>
    t.me.rs 9 == 0x8000000000000001 && Memory.readBytes t.tmem 0x80 16 == leBytes 16 (1 + 2 ^ 32)) := by decide +kernel
theorem test_join_second : after (.join 9 2) (withMem (slot (regs [(2, loc 0x80)])) 0x80 (leBytes 16 (1 + 2 ^ 32))) (fun t =>
    t.me.rs 9 == 0x8000000000000002 && Memory.readBytes t.tmem 0x80 16 == leBytes 16 (1 + 2 ^ 32 + 2 ^ 64)) := by decide +kernel
/-- Table 10-8, step 3: B waits as it is joining; step 4: A completes generation 1. -/
theorem test_gbar_waits : after (.gbar 2 9 3 5) (withMem (slot (regs [(2, loc 0x80), (9, 0x8000000000000002)])) 0x80 (leBytes 16 (1 + 2 ^ 32 + 2 ^ 64)))
    (fun t => t.me.wait == .gbar) := by decide +kernel
theorem test_gbar_completes : after (.gbar 2 9 3 5) (withMem (slot (regs [(2, loc 0x80), (9, 0x8000000000000001)])) 0x80 (leBytes 16 (1 + 2 ^ 32 + 2 ^ 64)))
    (fun t => t.me.wait != .gbar && t.me.pc == 4 && Memory.readBytes t.tmem 0x80 16 == leBytes 16 (2 + 2 * 2 ^ 32)) := by decide +kernel
theorem test_leave_bad_ticket : traps (.leave 2 9 0 0) (handled (slot (regs [(2, loc 0x80), (9, 5)]))) 0x17 5 := by decide +kernel
/-- R200: V gives to S at index 0 and takes from M at index 16. -/
theorem test_tgive : after (.tgive 2) (slot id) (fun t => t.me.fifoAt 0 == 1 && t.me.pc == 4) := by decide +kernel
theorem test_ttake : after (.ttake 5) (slot (fun t => t.setFifo 16 1)) (fun t => t.me.fifoAt 16 == 0 && t.me.pc == 4) := by decide +kernel
theorem test_ttake_waits : after (.ttake 5) (slot id) (fun t => t.me.wait == .token && t.me.pc == 0) := by decide +kernel
theorem test_fence : after (.fence 3 5) (slot id) (fun t => t.me.pc == 4 && (t.tile 0).ibuf == []) := by decide +kernel
/-- R310: the lowest valid slot, and none. -/
theorem test_lookup :
    gives (.lookup 3 1) ((slot (regs [(1, 0x5678)])).mapTile 0 (fun t => { t with tags := (t.tags.set 7 0x8000000000005000).set 9 0x8000000000005000 })) 3 7 ∧
    gives (.lookup 3 1) (slot (regs [(1, 0x5678)])) 3 (neg 1) := by decide +kernel
theorem test_tagset : after (.tagset 1 2) (slot (regs [(1, 63), (2, 0x8000000000005000)])) (fun t => t.me.bight.stores == [.tagset 63 0x8000000000005000]) := by decide +kernel
theorem test_tagset_address : traps (.tagset 1 2) (handled (slot (regs [(1, 64)]))) 3 64 := by decide +kernel

/-! ### Steps: the vector unit -/

/-- The vector register whose elements of w bytes are given. -/
def elems (w : Nat) (l : List Nat) : Nat := (ofLanes w l).toNat
/-- A form leaves the first elements of v3 at given values. -/
def lanes (i : Instr) (s : State) (w : Nat) (l : List Nat) : Bool := after i s (fun t => (lanesOf w (t.me.rv 3)).take l.length == l && t.me.pc == 4)

/-- FP32: 1 + 2 and an infinity less an infinity; R251: an inactive element stays. -/
theorem test_vadd : lanes (.vadd 3 1 2 1 0) (slot (vecs [(1, elems 4 [0x3F800000, 0x7F800000]), (2, elems 4 [0x40000000, 0xFF800000])])) 4
    [0x40400000, 0x7FC00000] := by decide +kernel
theorem test_vadd_masked : lanes (.vadd 3 1 2 9 2) (slot (fun t => (vecs [(1, elems 1 [255, 255]), (2, elems 1 [2, 2]), (3, elems 1 [9, 9])] t).wp 2 2)) 1 [9, 1] := by
  decide +kernel
/-- R254: with NANTRAP a produced NaN raises FP_NAN and writes nothing. -/
theorem test_fp_nan : after (.vadd 3 1 2 1 0) (handled (slot (fun t => { vecs [(1, 0x7F800000), (2, 0xFF800000)] t with fpctl := 8 })))
    (fun t => t.me.lvl && t.me.tcause == 0x13 && t.me.rv 3 == 0) := by decide +kernel
/-- R259 by hand: 2 * 3 + 1, 2 * 3 - 1, 1 - 2 * 3 in FP64. -/
theorem test_vfma :
    lanes (.vfma 3 1 2 0 0) (slot (vecs [(1, 0x4000000000000000), (2, 0x4008000000000000), (3, 0x3FF0000000000000)])) 8 [0x401C000000000000] ∧
    lanes (.vfnma 3 1 2 0 0) (slot (vecs [(1, 0x4000000000000000), (2, 0x4008000000000000), (3, 0x3FF0000000000000)])) 8 [0xC014000000000000] := by
  decide +kernel
theorem test_vabs_vneg : lanes (.vabs 3 1 9 0) (slot (vecs [(1, elems 1 [0x80, 0xFF])])) 1 [0x80, 1] ∧
    lanes (.vneg 3 1 1 0) (slot (vecs [(1, 0)])) 4 [0x80000000] := by decide +kernel
theorem test_vsra : lanes (.vsra 3 1 2 8 0) (slot (vecs [(1, elems 2 [0x8000, 0x8000]), (2, elems 2 [15, 17])])) 2 [0xFFFF, 0xC000] := by decide +kernel
/-- R262: +0 equals -0, a NaN operand makes lt false and sets NV. -/
theorem test_vcmp :
    after (.vcmpEq 2 1 2 1 0) (slot (vecs [(2, 0x80000000)])) (fun t => t.me.rp 2 == BitVec.allOnes 64 && t.me.fpctl == 0) ∧
    after (.vcmpLt 2 1 2 1 0) (slot (vecs [(1, 0x7FC00000), (2, elems 4 [0, 1])])) (fun t => (t.me.rp 2).toNat == 0xF0 && t.me.fpctl != 0) := by decide +kernel
theorem test_vext_vins : gives (.vext 3 1 2 9) (slot (fun t => vecs [(1, elems 1 [1, 0x80])] (regs [(2, 1)] t))) 3 (neg 128) ∧
    lanes (.vins 3 1 2 9) (slot (fun t => vecs [(3, elems 1 [7, 8, 9])] (regs [(1, 0x1FF), (2, 1)] t))) 1 [7, 0xFF, 9] := by decide +kernel
theorem test_vperm_slide :
    lanes (.vperm 3 1 2 8 0) (slot (vecs [(1, elems 2 [5, 6, 7]), (2, elems 2 [2, 32, 1])])) 2 [7, 0, 6] ∧
    lanes (.vslideUp 3 1 2 8 0) (slot (fun t => vecs [(1, elems 2 [5, 6])] (regs [(2, 1)] t))) 2 [0, 5, 6] ∧
    lanes (.vslideDn 3 1 2 8 0) (slot (fun t => vecs [(1, elems 2 [5, 6])] (regs [(2, 2 ^ 64 - 1)] t))) 2 [0, 0] := by decide +kernel
theorem test_vshuf :
    lanes (.vshufLo 3 1 2 6 0) (slot (vecs [(1, elems 8 [1, 2]), (2, elems 8 [3, 4])])) 8 [1, 3, 2, 4] ∧
    lanes (.vshufOdd 3 1 2 6 0) (slot (vecs [(1, elems 8 [1, 2, 3, 4]), (2, elems 8 [5, 6, 7, 8])])) 8 [2, 4, 0, 0, 6, 8] := by decide +kernel
/-- R268, R269: sums of INT32 elements. -/
theorem test_vred_vscan :
    lanes (.vredsum 3 1 0 7 0) (slot (vecs [(1, elems 4 [1, 2, 3])])) 4 [6, 0] ∧
    lanes (.vscan 3 1 0 7 0) (slot (vecs [(1, elems 4 [1, 2, 3])])) 4 [1, 3, 6, 6] ∧
    lanes (.vredmin 3 1 9 0) (slot (vecs [(1, elems 1 [0x80, 0x7F])])) 1 [0x80, 0] := by decide +kernel
/-- R270: 1*2 + 2*2 + 3*2 + (-1)*2 of signed bytes onto 100. -/
theorem test_vdot : lanes (.vdot 3 1 2 9 0) (slot (vecs [(1, elems 1 [1, 2, 3, 255]), (2, elems 1 [2, 2, 2, 2]), (3, 100)])) 4 [110] := by decide +kernel
theorem test_vdiv_vsqrt :
    lanes (.vdiv 3 1 2 1 0) (slot (vecs [(1, elems 4 [0x3F800000, 0x3F800000]), (2, elems 4 [0x40400000, 0])])) 4 [0x3EAAAAAB, 0x7F800000] ∧
    lanes (.vsqrt 3 1 0 1 0) (slot (vecs [(1, elems 4 [0x40000000, 0xBF800000])])) 4 [0x3FB504F3, 0x7FC00000] := by decide +kernel
/-- R271, Table 9-8: the exact corners of the approximations. -/
theorem test_approx_corners : lanes (.vrcp 3 1 1 0) (slot (vecs [(1, elems 4 [0, 0x7F800000])])) 4 [0x7F800000, 0] ∧
    lanes (.vlog2 3 1 1 0) (slot (vecs [(1, elems 4 [0, 0xBF800000])])) 4 [0xFF800000, 0x7FC00000] := by decide +kernel
/-- R274: FP32 to BF16, nearest even, part 1. -/
theorem test_vcvt : after (.vcvt 3 1 1 3 1 1) (slot (vecs [(1, elems 4 [0x3F808000])])) (fun t => (lanesOf 2 (t.me.rv 3)).drop 15 |>.take 2 |> (· == [0, 0x3F80])) := by
  decide +kernel
/-- The example of R279. -/
theorem test_vqcvt : after (.vqcvt 8 0 3 4 false 1 1) ((slot (vecs [(0, elems 4 [0x40400000, 0x3F800000, 0xBF800000, 0x3F800000, 0x43960000])])).mapTile 0
    (fun t => { t with sc := t.sc.set 3 0x3F000000 })) (fun t => (lanesOf 1 (t.me.rv 8)).take 9 == [0x48, 0x00, 0x48, 0x48, 0x79, 0x79, 0x79, 0x79, 0]) := by decide +kernel
theorem test_vdqcvt : after (.vdqcvt 12 8 3 4 false 1 1) ((slot (vecs [(8, elems 1 [0x48, 0x00, 0x48, 0x48, 0x79, 0x79, 0x79, 0x79])])).mapTile 0
    (fun t => { t with sc := t.sc.set 3 0x3F000000 }))
    (fun t => (lanesOf 4 (t.me.rv 12)).take 6 == [0x40400000, 0x3F800000, 0xBF800000, 0x3F800000, 0x43900000, 0]) := by decide +kernel
/-- The example of R282: 1, -3, 0.5, 3, 2, -2, 0, 4, -0.25, 2, 1, -4 in E4M3. -/
theorem test_vmask12 : after (.vmask12 3 1 6 4) (slot (vecs [(1, elems 1 [0x38, 0xC4, 0x30, 0x44, 0x40, 0xC0, 0, 0x48, 0xA8, 0x40, 0x38, 0xC8])]))
    (fun t => (t.me.rp 3).toNat % 2 ^ 12 == 0x8BA) := by decide +kernel
theorem test_vpack : lanes (.vpack 3 1 4 3) (slot (fun t => (vecs [(1, elems 1 [0x38, 0xC4, 0x30, 0x44, 0x40, 0xC0, 0, 0x48, 0xA8, 0x40, 0x38, 0xC8])] t).wp 3 0x8BA))
    1 [0xC4, 0x44, 0x40, 0xC0, 0x48, 0xC8, 0] := by decide +kernel
theorem test_vld : lanes (.vld 3 1 0 1 1) (withMem (slot (regs [(1, loc 0x80)])) 0xC0 [0x34, 0x12, 0x78, 0x56]) 2 [0x1234, 0x5678, 0] := by decide +kernel
theorem test_vgath : lanes (.vgath 3 1 2 9 false 2) (withMem (slot (fun t => (vecs [(2, elems 1 [255, 1]), (3, 0)] (regs [(1, loc 0x80)] t)).wp 2 3)) 0x7F [7, 8, 9]) 1 [7, 9] := by
  decide +kernel
theorem test_vsts : after (.vsts 3 1 2 9 2) (slot (fun t => (vecs [(3, elems 1 [5, 6, 7])] (regs [(1, loc 0x80), (2, 0x40)] t)).wp 2 5)) (fun t =>
    t.me.bight.stores == [.store (.ofNat 64 (loc 0x80)) [5] 0, .store (.ofNat 64 (loc 0x100)) [7] 0]) := by decide +kernel

/-! ### Steps: strands, engines, the device -/

/-- The state with a frame i of context 0 of tile 0, which graph 0 holds. -/
def framed (i v : Nat) (s : State) : State := s.mapTile 0 (fun t => t.mapCtx 0 (fun c => { c with graph := some 0, loaded := true, frames := Assoc.set c.frames i (.ofNat 256 v) }))
/-- The slot with an output endpoint 9 and an input endpoint 4 of its own. -/
def strands (f : Thread → Thread) : State := framed (24 + 9) (3 * 2 ^ 254) (framed (24 + 4) (2 ^ 255) (slot f))
theorem test_spush : after (.spush 9 3 true 2) (strands (fun t => (vecs [(3, 5 * 2 ^ 256)] t).wp 2 (.ofNat 64 (2 ^ 36)))) (fun t =>
    t.me.bight.pushes == [⟨9, ⟨5, 2, 0, 0⟩⟩] && t.me.pc == 4) := by decide +kernel
theorem test_spush_prot : traps (.spush 8 3 false 0) (handled (strands id)) 6 8 := by decide +kernel
/-- Table 5-2, R351: the predicate bits of a beat's words, its kind and its tag. -/
theorem test_spop : after (.spop 4 5 3) ((strands id).mapTile 0 (fun t => t.mapEp 4 (fun p => { p with q := [⟨7, 0x81, 0, 2⟩] }))) (fun t =>
    t.me.rv 5 == 7 && (t.me.rp 3).toNat == 2 * 2 ^ 34 + 0xF000000F && t.me.pc == 4) := by decide +kernel
theorem test_speek_empty : after (.speek 4 5 3) (strands id) (fun t => (t.me.rp 3).toNat == 3 * 2 ^ 32 && t.me.pc == 4) := by decide +kernel
/-- The command's operands are read as it issues; ROW_NUMBER past the program's banks is refused. -/
theorem test_rowact : after (.rowact 4 true 0 0) (slot (regs [(4, 0x1864)])) (fun t =>
    (t.me.queue 2).waiting.map (fun c => (c.i, c.va)) == [(.rowact 4 true 0 0, 0x1864)] && t.me.pc == 4) := by decide +kernel
theorem test_mrun_shape : after (.mrun 1 0 0 0 0) (handled (slot (regs [(1, 2 ^ 18)]))) (fun t => t.me.lvl && t.me.tcause == 0x18) := by decide +kernel
/-- Table 4-8: a row open for T_OPEN cycles closes. -/
theorem test_row_timeout : after (.rowOpenTimeout 0 3) ({ slot id with cycle := 16384 }.mapTile 0 (fun t => t.mapBank 3 (fun b => { b with row := some (100, 0) })))
    (fun t => ((t.tile 0).bank 3).row == none) := by decide +kernel
theorem test_mesh_hop : after (.meshHop 0) { slot id with cycle := 9, flights := [⟨0, 9, 66, 4, 0, 0, 5, ⟨7, 0, 0, 0⟩, false⟩] } (fun t =>
    t.flights.map (fun f => (f.at_, f.due)) == [(1, 10)]) := by decide +kernel
theorem test_beat_arrival : after (.beatArrival 0) { strands id with cycle := 9, flights := [⟨1, 9, 0, 4, 0, 0, 5, ⟨7, 0, 0, 0⟩, false⟩] } (fun t =>
    ((t.tile 0).ep 4).q == [⟨7, 0, 0, 0⟩] && t.flights == []) := by decide +kernel
theorem test_thermal_trip : after (.thermalSample 47 110) (slot id) (fun t => t.mod.tripped && !t.mod.powered) := by decide +kernel
theorem test_stretch : after (.stretchStep 0) ((slot id).mapZone 0 (fun z => { z with warned := true, temp := 96 })) (fun t => t.mod.stretch == 1) := by decide +kernel
theorem test_port_up : after (.portUp 127 1) (slot id) (fun t => (t.port 127).up && (t.port 127).lane0 && !(t.port 127).lane1) := by decide +kernel
theorem test_retire_tile : after (.tileRetirementByFirmware 6143) (slot id) (fun t => (t.tile 6143).retired) := by decide +kernel
/-- The whole of a step from reset: a placed word is fetched and run. -/
theorem test_step_runs : (match step (State.reset.withFetchWord 32 0x287FFFFC) with | .next t => (t.me.rs 3).toNat == neg 4 && t.me.pc == 4 | _ => false) = true := by
  decide +kernel
theorem test_step_illegal : (match step (State.reset.withFetchWord 32 0) with | .next t => (t.graph 0).st == .terminated | _ => false) = true := by decide +kernel

/-! ### A state and operands that meet the hypotheses of each statement, and of each of its clauses -/

/-- A command of a queue, as it stands before it starts. -/
def cmdOf (i : Instr) (va vb : Word) : Cmd :=
  { i := i, pc := 0, va := va, vb := vb, vc := 0, vd := 0, ve := 0, lvl := false, fz := false, nan := false, wave := 0 }
/-- The slot with a command that waits in queue q. -/
def queued (q : Nat) (i : Instr) : State := slot (fun t => t.mapQueue q (fun x => { x with waiting := [cmdOf i 0 0] }))
/-- A command that has begun in queue q. -/
def begun (q : Nat) (i : Instr) (f : Active → Active) : State :=
  slot (fun t => t.mapQueue q (fun x => { x with active := [f { Active.start (cmdOf i 0 0) with begun := true }] }))
/-- The slot at S. -/
def atS : State := slot (fun t => { t with lvl := true })

theorem witness_ScalarResult : (scalarRule (slot id) (.add 3 1 2) = some (3, readsSS 1 2, 0) ∧ Ready (slot id) (readsSS 1 2) (RegSet.s1 3)) ∧
    scalarRule (slot id) (.rotl 0 1 2) = some (0, readsSS 1 2, 0) ∧ Ready (slot id) (readsSS 1 2) (RegSet.s1 0) := by
  unfold Ready; decide +kernel
theorem witness_PredicateResult : (predicateRule (slot id) (.cmpne 2 1 2) = some (2, readsSS 1 2, 0) ∧ Ready (slot id) (readsSS 1 2) (RegSet.p1 2)) ∧
    Ready (slot id) (readsSS 1 2) (RegSet.p1 0) := by unfold Ready; decide +kernel
theorem witness_BranchResult : branchRule (slot id) (.beq 1 2 0x1FFF) = some (readsSS 1 2, true, 0x1FFF) ∧
    branchRule (slot id) (.bnpAll 0 1) = some (RegSet.p1 0, false, 1) ∧ Ready (slot id) (readsSS 1 2) .empty ∧ Ready (slot id) (RegSet.p1 0) .empty := by
  unfold Ready; decide +kernel
/-- The highest legal target, the first past it, and the last before it, which is no multiple of 4. -/
theorem witness_JumpResult :
    (jumpRule (slot (regs [(1, 2 ^ 18 - 4)])) (.jr 1) = some (RegSet.s1 1, .empty, 0x3FFFC) ∧ Ready (slot (regs [(1, 2 ^ 18 - 4)])) (RegSet.s1 1) .empty) ∧
    (jumpRule (slot (regs [(1, 0)])) (.callr 1) = some (RegSet.s1 1, RegSet.s1 31, 0) ∧ Ready (slot (regs [(1, 0)])) (RegSet.s1 1) (RegSet.s1 31)) ∧
    ((slot (regs [(1, 2 ^ 18)])).me.notReady ((RegSet.s1 1).or .empty) = false ∧ 2 ^ 18 ≤ ((slot (regs [(1, 2 ^ 18)])).me.rs 1).toNat) ∧
    ((slot (regs [(1, 2 ^ 18 - 1)])).me.notReady ((RegSet.s1 1).or (RegSet.s1 31)) = false ∧ ((slot (regs [(1, 2 ^ 18 - 1)])).me.rs 1).toNat < 2 ^ 18 ∧
      ((slot (regs [(1, 2 ^ 18 - 1)])).me.rs 1).toNat % 4 ≠ 0) := by unfold Ready; decide +kernel
theorem witness_LoopResult : Ready (slot (regs [(2, 2 ^ 32)])) (RegSet.s1 2) .empty := by unfold Ready; decide +kernel
theorem witness_ScalarHazards :
    (scalarRule (queued 2 (.rowstat 3 1 0 0)) (.add 3 1 2) = some (3, readsSS 1 2, 0) ∧
      (queued 2 (.rowstat 3 1 0 0)).me.notReady ((readsSS 1 2).or (RegSet.s1 3)) = true) ∧
    (scalarRule (slot id) (.add 3 3 1) = some (3, readsSS 3 1, 0) ∧ (slot id).me.notReady ((readsSS 3 1).or (RegSet.s1 3)) = false ∧
      (((slot id).me.bight.read (readsSS 3 1)).live.inter (RegSet.s1 3)).first = some 3) := by decide +kernel
theorem witness_ScalarFrame : scalarRule (slot id) (.add 3 1 2) = some (3, readsSS 1 2, 0) ∧ Ready (slot id) (readsSS 1 2) (RegSet.s1 3) ∧
    after (.add 3 1 2) (slot id) (fun _ => true) = true ∧ after (.cmplt 2 1 2) (slot id) (fun _ => true) = true ∧
    after (.beq 1 2 1) (slot id) (fun _ => true) = true := by unfold Ready; decide +kernel
theorem witness_KnotResult : Quiet (slot id) := by unfold Quiet; decide +kernel
theorem witness_KnotReleasesStores : let s := slot (fun t => { t with bight := { t.bight with stores := [.store (.ofNat 64 (loc 0x3FFF8)) [1, 2, 3, 4, 5, 6, 7, 8] 0] } })
    s.me.run = .running ∧ s.me.bight.stores = [.store (.ofNat 64 (loc 0x3FFF8)) [1, 2, 3, 4, 5, 6, 7, 8] 0] ∧ s.me.bight.pushes = [] ∧ s.me.bight.pops = [] ∧
    (s.graph s.me.graph).openWave = none ∧ commitPending s s.cur = false ∧ loc 0x3FFF8 / 2 ^ 60 = 0xE ∧
    s.held.any (fun o => o.th == s.cur) = false ∧ tmemWaits s (s.cur / 4) 0x3FFF8 8 = false ∧ portHeld s (s.cur / 4) 0 0x3FFF8 8 = false ∧ tmemPoison s (2 ^ 18 * (s.cur / 4) + 0x3FFF8) 8 = false := by decide +kernel
theorem witness_KnotWOpensWave : Quiet (slot id) ∧ (slot id).me.lvl = false ∧ startedHolds (slot id).me = false ∧
    ((slot id).graph (slot id).me.graph).cutting = false ∧ (slot id).homeQ.any (fun o => o.th == (slot id).cur) = false := by unfold Quiet; decide +kernel
theorem witness_HaltKwaitResult : (Quiet (slot id) ∧ (slot id).me.notReady .empty = false ∧ (slot id).me.idle = true) ∧
    (Quiet (queued 1 (.copy 1 2 3 false 0 0)) ∧ (queued 1 (.copy 1 2 3 false 0 0)).me.notReady .empty = false ∧
      (queued 1 (.copy 1 2 3 false 0 0)).me.idle = false) ∧
    Ready (slot id) .empty (RegSet.s1 3) ∧ Ready (slot (fun t => { t with wave := 0x8000 })) .empty (RegSet.s1 3) ∧
    Ready (slot (fun t => { t with wave := 0x7FFF })) .empty (RegSet.s1 3) := by unfold Quiet Ready; decide +kernel
theorem witness_SysregRead : Ready (slot id) .empty (RegSet.s1 3) ∧ atS.me.lvl = true ∧ Ready atS .empty (RegSet.s1 3) := by unfold Ready; decide +kernel
theorem witness_MtsResult : let s := slot (regs [(1, 0x3EF)])
    (Quiet s ∧ s.me.notReady (RegSet.s1 1) = false ∧ hwinBad 1 (s.me.rs 1) = false ∧ mtsCheck s s.cur 1 (s.me.rs 1) = none ∧ sharedReg 1 = false) ∧
    (Quiet atS ∧ atS.me.lvl = true ∧ hwinBad 0x7FF (atS.me.rs 1) = false ∧ mtsCheck atS atS.cur 0x7FF (atS.me.rs 1) = none ∧
      ∀ q, q < 4 → (atS.me.queue q).waiting = []) ∧
    (let h := atS.mapMe (regs [(1, 63 + 2 ^ 8)])
     h.me.notReady (RegSet.s1 1) = false ∧ h.me.lvl = true ∧ 63 < (h.me.rs 1).toNat % 64 + (h.me.rs 1).toNat / 2 ^ 8 % 64) ∧
    EpF.used (((s.tile 0).ctx s.me.pctx.toNat).epF 31) = false ∧ MpF.scown ((s.tile 0).ctx s.me.pctx.toNat).thF / 2 ^ 31 % 2 = 0 := by
  unfold Quiet; decide +kernel
/-- At U, at S, and a form of each kind. -/
theorem witness_PrivilegeTraps : (slot id).me.lvl = false ∧ (0x200 ≤ (0x200 : BitVec 12).toNat ∧ 0x800 ≤ (0x800 : BitVec 12).toNat) := by decide +kernel
theorem witness_TrapEntry : (handled (slot id)).me.lvl = false ∧ ((handled (slot id)).graph (handled (slot id)).me.graph).hwin.toNat / 2 ^ 63 % 2 = 1 := by
  decide +kernel
theorem witness_TrapWithoutHandler : (atS.me.lvl = true ∧ atS.cur ∈ graphThreads atS atS.me.graph) ∧
    ((slot id).graph (slot id).me.graph).hwin.toNat / 2 ^ 63 % 2 = 0 := by decide +kernel
theorem witness_TrapInstruction : let s := handled (slot id)
    Quiet s ∧ s.me.notReady .empty = false ∧ s.me.lvl = false ∧ (s.graph s.me.graph).hwin.toNat / 2 ^ 63 % 2 = 1 := by unfold Quiet; decide +kernel
theorem witness_SysretResult : (Quiet atS ∧ atS.me.lvl = true) ∧
    (let s := slot (fun t => { t with lvl := true, rcnt := 6, susp := some (.openAt 0x80 (.replicate 4 .zero) 0) })
     Quiet s ∧ s.me.lvl = true ∧ s.me.susp = some (.openAt 0x80 (.replicate 4 .zero) 0) ∧ s.me.rcnt.toNat + 1 < s.me.rlim.toNat) ∧
    (let s := handled (slot (fun t => { t with lvl := true, rcnt := 7, susp := some (.openAt 0x80 (.replicate 4 .zero) 0) }))
     Quiet s ∧ s.me.lvl = true ∧ s.me.susp = some (.openAt 0x80 (.replicate 4 .zero) 0) ∧ s.me.rlim.toNat ≤ s.me.rcnt.toNat + 1 ∧
       (s.graph s.me.graph).hwin.toNat / 2 ^ 63 % 2 = 1) := by
  unfold Quiet; decide +kernel
/-- A read that meets no deferred update of its bight is made where it stands. -/
def Here (s : State) (els : List (Word × Nat)) (rd wr : RegSet) : Prop :=
  s.me.notReady (rd.or wr) = false ∧ els.any (fun e => hitsDeferred s.me.bight.stores e.1 e.2) = false ∧ ((s.me.bight.read rd).live.inter wr).first = none
theorem reads_here {s : State} {els : List (Word × Nat)} {rd wr : RegSet} (h : Here s els rd wr) : ReadsIn s els rd wr s := by
  obtain ⟨h1, h2, h3⟩ := h
  refine ⟨h1, ?_, h3⟩
  rw [h2]; rfl
/-- A read that meets one, whose knot goes on to a state with a property of the reading of one element. -/
def knots (s : State) (plain : Bool) (ea : Word) (n : Nat) (rd wr : RegSet) (r : Nat × List Byte) : Bool :=
  !s.me.notReady (rd.or wr) && hitsDeferred s.me.bight.stores ea n &&
  match knot s s.cur false s.me.pc with
  | .go t => decide (((t.me.bight.read rd).live.inter wr).first = none) && decide (epochMet t [(ea, n)] = none) && !homeBusy t false [(ea, n)] &&
      decide ((readElement t plain ea n).2 = r)
  | .hold _ => false
theorem reads_knot {s : State} {plain : Bool} {ea : Word} {n : Nat} {rd wr : RegSet} {r : Nat × List Byte} (h : knots s plain ea n rd wr r = true) :
    ∃ s1, ReadsIn s [(ea, n)] rd wr s1 ∧ epochMet s1 [(ea, n)] = none ∧ homeBusy s1 false [(ea, n)] = false ∧ (readElement s1 plain ea n).2 = r := by
  unfold knots at h
  split at h
  · rename_i t ht
    simp only [Bool.and_eq_true, Bool.not_eq_true', decide_eq_true_eq] at h
    refine ⟨t, ⟨h.1.1, ?_, h.2.1.1.1⟩, h.2.1.1.2, h.2.1.2, h.2.2⟩
    rw [List.any_cons, h.1.2]; exact ht
  · simp at h
/-- Whether the implicit knot of the slot waits. -/
def waits (s : State) : Bool := match knot s s.cur false s.me.pc with | .go _ => false | .hold _ => true
theorem knot_holds {s : State} (h : waits s = true) : ∃ s1, knot s s.cur false s.me.pc = .hold s1 := by
  unfold waits at h
  split at h
  · simp at h
  · exact ⟨_, ‹_›⟩
/-- A load of the last dword of tile memory; a poisoned one. -/
theorem witness_LoadResult : let s := slot (regs [(1, loc 0x3FFF8)])
    loadRule s (.ldd 3 1 0) = some (3, RegSet.s1 1, 8, false, .ofNat 64 (loc 0x3FFF8)) ∧ Placed 8 (.ofNat 64 (loc 0x3FFF8)) ∧
    Here s [(.ofNat 64 (loc 0x3FFF8), 8)] (RegSet.s1 1) (RegSet.s1 3) ∧ epochMet s [(.ofNat 64 (loc 0x3FFF8), 8)] = none ∧
    homeBusy s false [(.ofNat 64 (loc 0x3FFF8), 8)] = false ∧
    (readElement s false (.ofNat 64 (loc 0x3FFF8)) 8).2.1 = 0 ∧
    (readElement { s with tpoison := [0x3FFF8 / 8] } false (.ofNat 64 (loc 0x3FFF8)) 8).2.1 ≠ 0 := by unfold Here Placed; decide +kernel
/-- The bight has a deferred update of the dword: its implicit knot performs it, or waits for an engine command. -/
theorem witness_LoadResult_knot :
    (let s := slot (fun t => { regs [(1, loc 0x3FFF8)] t with bight := { t.bight with stores := [.amo (.ofNat 64 (loc 0x3FFF8)) 0 5 0 0] } })
     ∃ s1, ReadsIn s [(.ofNat 64 (loc 0x3FFF8), 8)] (RegSet.s1 1) (RegSet.s1 3) s1 ∧ epochMet s1 [(.ofNat 64 (loc 0x3FFF8), 8)] = none ∧
       homeBusy s1 false [(.ofNat 64 (loc 0x3FFF8), 8)] = false ∧ (readElement s1 false (.ofNat 64 (loc 0x3FFF8)) 8).2 = (0, leBytes 8 5)) ∧
    (let s := (queued 1 (.copy 1 2 3 false 0 0)).mapMe (fun t =>
       { regs [(1, loc 0x3FFF8)] t with bight := { t.bight with stores := [.amo (.ofNat 64 (loc 0x3FFF8)) 0 5 2 9] } })
     s.me.notReady ((RegSet.s1 1).or (RegSet.s1 3)) = false ∧ hitsDeferred s.me.bight.stores (.ofNat 64 (loc 0x3FFF8)) 8 = true ∧
       ∃ s1, knot s s.cur false s.me.pc = .hold s1) :=
  ⟨reads_knot (by decide +kernel), by decide +kernel, by decide +kernel, knot_holds (by decide +kernel)⟩
theorem witness_AccessTraps :
    (loadRule (slot (regs [(1, loc 0x40000)])) (.ldb 3 1 0) = some (3, RegSet.s1 1, 1, true, .ofNat 64 (loc 0x40000)) ∧
      (slot (regs [(1, loc 0x40000)])).me.notReady ((RegSet.s1 1).or (RegSet.s1 3)) = false ∧ addressOk (.ofNat 64 (loc 0x40000)) 1 = false) ∧
    (storeRule (slot (regs [(2, loc 0x3FFFC)])) (.std 3 2 0x1FFE) = some (3, RegSet.s1 2, 8, .ofNat 64 (loc 0x3FFFA), 0) ∧
      (slot (regs [(2, loc 0x3FFFC)])).me.notReady (((RegSet.s1 2).or (RegSet.s1 3)).or .empty) = false ∧ addressOk (.ofNat 64 (loc 0x3FFFA)) 8 = false) ∧
    addressOk (.ofNat 64 (loc 0x3FFF4)) 8 = true ∧ loc 0x3FFF4 % 8 ≠ 0 := by decide +kernel
/-- A page of 64 KiB at virtual address 0 in the vault of tile 1, at offset 65536. -/
def mapped : State := (slot id).mapTile 0 (fun t => { t with tlb := [⟨0, 0, false, .ofNat 64 (2 ^ 63 + 2 ^ 62 + 2 ^ 61 + 2 ^ 42 + 8 * 8192)⟩] })
theorem witness_GlobalRead : mapped.homeQ = [] ∧
    ((mapped.tile (mapped.cur / 4)).tlb.find? (tlbHit (mapped.me.graph / 65536) 0xFFF8)) = some ⟨0, 0, false, .ofNat 64 (2 ^ 63 + 2 ^ 62 + 2 ^ 61 + 2 ^ 42 + 8 * 8192)⟩ ∧
    Pte.sup (2 ^ 63 + 2 ^ 62 + 2 ^ 61 + 2 ^ 42 + 8 * 8192) = false ∧ Pte.host (2 ^ 63 + 2 ^ 62 + 2 ^ 61 + 2 ^ 42 + 8 * 8192) = false ∧
    Pte.codec (2 ^ 63 + 2 ^ 62 + 2 ^ 61 + 2 ^ 42 + 8 * 8192) = false ∧ Pte.tile (2 ^ 63 + 2 ^ 62 + 2 ^ 61 + 2 ^ 42 + 8 * 8192) = 1 ∧
    homeDead mapped 0 1 = false ∧ mapped.me.bight.stores = [] ∧ (mapped.sector ((2 ^ 28 + 65536 + 0xFFF8) / 32)).cond = .clean ∧
    (mapped.sector ((2 ^ 28 + 65536 + 0xFFF8) / 32)).tag.toNat = 0 ∧
    (readElement mapped false 0xFFF8 8).2.1 = 0 ∧ (readElement mapped false 0x0100000000000000 8).2.1 = 7 := by decide +kernel
/-- A row command holds row 1 of bank 0 of tile 1 open; the dword lies in row 42 of it. -/
theorem witness_LoadResult_waits : let s := (slot (regs [(1, 0xFFF8)])).mapTile 0 (fun t => { t with tlb := (mapped.tile 0).tlb })
    let held := s.mapTile 1 (fun t => t.mapBank 0 (fun b => { b with row := some (1, 0) }))
    loadRule held (.ldd 3 1 0) = some (3, RegSet.s1 1, 8, false, 0xFFF8) ∧ Placed 8 0xFFF8 ∧
    Here held [(0xFFF8, 8)] (RegSet.s1 1) (RegSet.s1 3) ∧ epochMet held [(0xFFF8, 8)] = none ∧ homeBusy held false [(0xFFF8, 8)] = true ∧
    homeBusy s false [(0xFFF8, 8)] = false := by unfold Here Placed; decide +kernel
theorem witness_StoreResult : let s := slot (regs [(1, loc 0x3FFF8), (3, 0x1234)])
    (storeRule s (.std 3 1 0) = some (3, RegSet.s1 1, 8, .ofNat 64 (loc 0x3FFF8), 0) ∧ s.me.notReady ((RegSet.s1 1).or (RegSet.s1 3)) = false ∧
      Placed 8 (.ofNat 64 (loc 0x3FFF8)) ∧ walkBusy s [(.ofNat 64 (loc 0x3FFF8), 8)] = false ∧ buffersFit (s.me.bight.stores ++ [.store (.ofNat 64 (loc 0x3FFF8)) (leBytes 8 0x1234) 0]) = true ∧
      (enterElement [.store (.ofNat 64 (loc 0x3FFF8)) (leBytes 8 0x1234) 0] s .store (.ofNat 64 (loc 0x3FFF8)) 8).2 = 0) ∧
    (enterElement [.store (.ofNat 64 (loc 0x3FFF8)) (leBytes 8 0x1234) 0] (handled s) .store (.ofNat 64 (loc 0x3FFF8)) 8).2 = 6 ∧
    buffersFit ((List.range 33).map (fun k => .store (.ofNat 64 (loc (128 * k))) [1] 0)) = false ∧
    (enterElement [.store (.ofNat 64 (loc 0x3FFF8)) (leBytes 8 0x1234) 0] s .store (.ofNat 64 (loc 0x3FFF8)) 8).2 ≠ 4 := by unfold Placed; decide +kernel
/-- The page of the store is not in a translation cache, and the walk reads a table in bank 0 of tile 0, which a row command holds. -/
theorem witness_StoreResult_walk : let s := (slot (regs [(1, 0xFFF8)])).mapTile 0 (fun t => t.mapBank 0 (fun b => { b with row := some (1, 0) }))
    storeRule s (.std 3 1 0) = some (3, RegSet.s1 1, 8, 0xFFF8, 0) ∧ s.me.notReady ((RegSet.s1 1).or (RegSet.s1 3)) = false ∧ Placed 8 0xFFF8 ∧
    walkBusy s [(0xFFF8, 8)] = true := by unfold Placed; decide +kernel
theorem witness_LocalAccess : LocalOpen (slot id) 8 (.ofNat 64 (loc 0x3FFF8)) ∧ loc 0 / 2 ^ 60 = 0xE ∧
    inWindow ((handled (slot id)).graph 0).hwin 0x3BFF8 8 = false ∧ inWindow ((handled (slot id)).graph 0).hwin 0x3C000 8 = true := by
  unfold LocalOpen; decide +kernel
theorem witness_AmoResult : let s := slot (regs [(1, loc 0x80), (2, 5)])
    s.me.notReady (readsSS 1 2) = false ∧ Placed (amoWidth 0) (s.me.rs 1) ∧ epochMet s [(s.me.rs 1, amoWidth 0)] = none ∧ walkBusy s [(s.me.rs 1, amoWidth 0)] = false ∧ buffersFit (s.me.bight.stores ++ [.amo (s.me.rs 1) 0 (s.me.rs 2) 0 0]) = true ∧
    (enterElement [.amo (s.me.rs 1) 0 (s.me.rs 2) 0 0] s (.amo 0) (s.me.rs 1) 8).2 = 0 ∧
    (enterElement [.amo (s.me.rs 1) 18 (s.me.rs 2) 0 0] s (.amo 18) (s.me.rs 1) 8).2 = 6 := by unfold Placed; decide +kernel
/-- The largest count and the least one refused, of INIT and of EXP. -/
theorem witness_CleatUpdates : let s := slot (regs [(1, loc 0x80), (2, 0xFFFF)])
    (s.me.notReady (readsSS 1 2) = false ∧ s.me.notReady (RegSet.s1 1) = false ∧ Placed 16 (s.me.rs 1) ∧ (s.me.rs 2).toNat ≤ 0xFFFF ∧ epochMet s [(s.me.rs 1, 16)] = none ∧ walkBusy s [(s.me.rs 1, 16)] = false ∧
      buffersFit (s.me.bight.stores ++ [.cleat (s.me.rs 1) (.init 0xFFFF) 0]) = true ∧
      (enterElement [.cleat (s.me.rs 1) (.init 0xFFFF) 0] s .cleat (s.me.rs 1) 16).2 = 0) ∧
    0xFFFF < ((slot (regs [(2, 0x10000)])).me.rs 2).toNat ∧ ((slot (regs [(2, 2 ^ 47 - 1)])).me.rs 2).toNat < 2 ^ 47 ∧
    2 ^ 47 ≤ ((slot (regs [(2, 2 ^ 47)])).me.rs 2).toNat := by unfold Placed; decide +kernel
theorem witness_CleatReads : let s := withMem (slot (regs [(1, loc 0x80)])) 0x80 (leBytes 16 (2 ^ 96))
    (Here s [(s.me.rs 1, 16)] (readsSS 1 2) (RegSet.s1 3) ∧ s.me.notReady ((readsSS 1 2).or .empty) = false ∧ s.me.wait ≠ .cleatWait ∧ Placed 16 (s.me.rs 1) ∧
      epochMet s [(s.me.rs 1, 16)] = none ∧ homeBusy s false [(s.me.rs 1, 16)] = false ∧ (readElement s true (s.me.rs 1) 16).2 = (0, leBytes 16 (2 ^ 96))) ∧
    ((2 ^ 127 : Nat) / 2 ^ 127 % 2 = 1) := by unfold Here Placed; decide +kernel
/-- The bight has initialised the cleat. -/
theorem witness_CleatReads_knot :
    let s := slot (fun t => { regs [(1, loc 0x80)] t with bight := { t.bight with stores := [.cleat (.ofNat 64 (loc 0x80)) (.init 3) 0] } })
    ∃ s1, ReadsIn s [(s.me.rs 1, 16)] (readsSS 1 2) (RegSet.s1 3) s1 ∧ epochMet s1 [(s.me.rs 1, 16)] = none ∧
      homeBusy s1 false [(s.me.rs 1, 16)] = false ∧ (readElement s1 true (s.me.rs 1) 16).2 = (0, leBytes 16 (3 * 2 ^ 64 + 3 * 2 ^ 80)) :=
  reads_knot (by decide +kernel)
theorem witness_UpdateArithmetic : (leBytes 16 (2 ^ 127)).length = 16 ∧ littleEndian (leBytes 16 (2 ^ 127)) / 2 ^ 127 = 1 ∧
    littleEndian (leBytes 16 (2 ^ 64)) / 2 ^ 127 = 0 ∧ (leBytes (amoWidth 24) 7).length = amoWidth 24 := by decide +kernel
theorem witness_LocalUpdate : LocalOpen (slot id) 16 (.ofNat 64 (loc 0x3FFF0)) ∧ ∀ l : List Byte, l.length = 16 → (id l).length = 16 := by
  constructor
  · unfold LocalOpen; decide +kernel
  · exact fun _ h => h
theorem witness_ReturningAtomics : let s := slot (regs [(1, loc 0x80)])
    Quiet s ∧ s.homeQ = [] ∧ s.me.notReady (((readsSS 1 2).or (RegSet.s1 3)).or (RegSet.s1 3)) = false ∧ s.me.notReady ((readsSS 1 2).or (RegSet.s1 3)) = false ∧
    Placed (amoWidth 24) (s.me.rs 1) ∧ epochMet (atKnot s) [(s.me.rs 1, amoWidth 24)] = none ∧
    homeBusy (atKnot s) true [(s.me.rs 1, amoWidth 24)] = false ∧ fenceMet (atKnot s) 3 9 = true ∧ farRelease s 3 9 = false ∧
    (rmwPiece (atKnot s) (agOf (atKnot s) s.cur) (s.me.rs 1) (amoWidth 24) (some 24) (amoBytes 24 (s.me.rs 2) (s.me.rs 3))).2 = (0, leBytes (amoWidth 24) 0) := by
  unfold Quiet Placed; decide +kernel
theorem witness_FenceResult : let s := slot id
    Quiet s ∧ s.homeQ = [] ∧ s.me.notReady .empty = false ∧ (fenceMet (atKnot s) 3 1 = true ∧ farRelease s 3 1 = false) ∧
    (fenceMet (atKnot s) 2 9 = true ∧ farRelease s 2 9 = false) := by unfold Quiet; decide +kernel
/-- The largest membership that a JOIN takes and the least it refuses; members, a last arrival and a bad ticket. -/
theorem witness_GroupResult : let s := slot (regs [(1, loc 0x80), (2, 0x8000000000000001)])
    (Quiet s ∧ s.homeQ = [] ∧ s.me.gbar = none ∧ s.me.notReady ((RegSet.s1 1).or (RegSet.s1 3)) = false ∧ s.me.notReady (readsSS 1 2) = false ∧
      Placed 16 (s.me.rs 1) ∧ epochMet (atKnot s) [(s.me.rs 1, 16)] = none ∧ homeBusy (atKnot s) true [(s.me.rs 1, 16)] = false ∧ fenceMet (atKnot s) 3 5 = true ∧ farRelease s 3 5 = false) ∧
    (rmwPiece (atKnot s) (agOf (atKnot s) s.cur) (s.me.rs 1) 16 none (groupRmw groupJoin)).2 = (0, leBytes 16 0) ∧
    ((rmwPiece (atKnot (withMem s 0x80 (leBytes 16 (2 ^ 48 - 2 ^ 32)))) (agOf (atKnot s) s.cur) (s.me.rs 1) 16 none (groupRmw groupJoin)).2 =
      (0, leBytes 16 (2 ^ 48 - 2 ^ 32)) ∧ 65535 ≤ littleEndian (leBytes 16 (2 ^ 48 - 2 ^ 32)) / 2 ^ 32 % 2 ^ 16) ∧
    ((rmwPiece (atKnot (withMem s 0x80 (leBytes 16 (1 + 2 ^ 32)))) (agOf (atKnot s) s.cur) (s.me.rs 1) 16 none (groupRmw (groupArrive (s.me.rs 2)))).2 =
      (0, leBytes 16 (1 + 2 ^ 32)) ∧ (s.me.rs 2).toNat / 2 ^ 32 = 2 ^ 31 ∧ (1 + 2 ^ 32 - (s.me.rs 2).toNat % 2 ^ 32) % 2 ^ 32 < 2 ^ 31) ∧
    (rmwPiece (atKnot (withMem s 0x80 (leBytes 16 (1 + 2 * 2 ^ 32)))) (agOf (atKnot s) s.cur) (s.me.rs 1) 16 none (groupRmw (groupLeave (s.me.rs 2)))).2 =
      (0, leBytes 16 (1 + 2 * 2 ^ 32)) := by unfold Quiet Placed; decide +kernel
theorem witness_TokenResult : (Quiet (slot id) ∧ (slot id).me.notReady .empty = false) ∧ (slot (fun t => t.setFifo 3 14)).me.fifoAt 3 < 15 ∧
    15 ≤ (slot (fun t => t.setFifo 3 15)).me.fifoAt 3 ∧ 0 < (slot (fun t => t.setFifo 16 1)).me.fifoAt 16 ∧ (slot id).me.fifoAt 16 = 0 := by
  unfold Quiet; decide +kernel
theorem witness_TagTableResult : let s := (slot (regs [(1, 63)])).mapTile 0 (fun t => { t with tags := t.tags.set 63 0x8000000000000000 })
    Ready s (RegSet.s1 1) (RegSet.s1 3) ∧ (tagSeen s 63).toNat / 2 ^ 63 = 1 ∧ (tagSeen s 62).toNat / 2 ^ 63 = 0 ∧ s.me.notReady (readsSS 1 2) = false ∧
    s.me.notReady ((RegSet.s1 1).or .empty) = false ∧ s.me.notReady ((readsSS 1 2).or .empty) = false ∧
    buffersFit (s.me.bight.stores ++ [.tagset 63 0]) = true ∧ buffersFit (s.me.bight.stores ++ [.tagclr 63]) = true ∧
    63 < ((slot (regs [(1, 64)])).me.rs 1).toNat := by unfold Ready; decide +kernel
theorem witness_VectorResult : ∃ t d g rd f, laneRule (slot id) (.vadd 3 1 2 1 0) = some (t, d, g, rd, f) ∧ Ready (slot id) rd (RegSet.v1 3) ∧
    Quieted (slot id) (activeResults (slot id) t g f) := by
  refine ⟨_, _, _, _, _, rfl, ?_, Or.inl ?_⟩
  · unfold Ready; decide +kernel
  · decide +kernel
/-- A trapping NaN, of an infinity less an infinity. -/
theorem witness_VectorResult_nan : let s := slot (fun t => { vecs [(1, 0x7F800000), (2, 0xFF800000)] t with fpctl := 8 })
    ∃ t d g rd f, laneRule s (.vadd 3 1 2 1 0) = some (t, d, g, rd, f) ∧ s.me.fpctl.toNat / 8 % 2 = 1 ∧
    ((activeResults s t g f).any (fun r => r.2.isNan)) = true := by
  refine ⟨_, _, _, _, _, rfl, ?_, ?_⟩ <;> decide +kernel
theorem witness_LaneFrame : (([(7, rawBits 1)] : List (Nat × Res)).map Prod.fst).Nodup ∧ ∀ r ∈ ([(7, rawBits 1)] : List (Nat × Res)), r.1 < 64 / 8 := by
  decide +kernel
theorem witness_VectorCompare : (compareRule (.vcmpLt 2 1 2 1 0)).isSome = true ∧ Ready (slot id) (readsVV 1 2) (RegSet.p1 2) ∧
    6 ≤ (6 : BitVec 4).toNat := by unfold Ready; decide +kernel
theorem witness_VectorWhole : (∃ rd wr rs f, wholeRule (slot id) (.vsel 3 1 2 1 2) = some (rd, wr, rs, f) ∧ Ready (slot id) rd wr ∧ Quieted (slot id) rs) ∧
    Ready (slot id) ((RegSet.v1 1).or (RegSet.s1 2)) (RegSet.s1 3) := by
  refine ⟨⟨_, _, _, _, rfl, ?_, Or.inl ?_⟩, ?_⟩
  · unfold Ready; decide +kernel
  · decide +kernel
  · unfold Ready; decide +kernel
theorem witness_VectorLoad : let s := slot (fun t => (regs [(1, loc 0x3FFC0)] t).wp 2 (.ofNat 64 (2 ^ 63)))
    (gatherRule s (.vlds 3 1 0 9 2)).map (fun x => (x.1, x.2.1, x.2.2.1, x.2.2.2.1)) = some (3, 2, 1, readsSS 1 0) ∧
    (let z := slot (fun t => (vecs [(3, 0)] (regs [(1, loc 0x3FFC0)] t)).wp 2 (.ofNat 64 (2 ^ 63)))
     Here z [(.ofNat 64 (loc 0x3FFC0), 1)] ((readsSS 1 0).or ((RegSet.p1 2).or (RegSet.v1 3))) (RegSet.v1 3)) ∧ activeOnes s 2 1 = [63] ∧
    Placed 1 (.ofNat 64 (loc 0x3FFC0)) ∧
    epochMet s [(.ofNat 64 (loc 0x3FFC0), 1)] = none ∧ homeBusy s false [(.ofNat 64 (loc 0x3FFC0), 1)] = false ∧ (readElements s false [(.ofNat 64 (loc 0x3FFC0), 1)]).2.1.1 = 0 ∧
    (readElements { s with tpoison := [0x3FFC0 / 8] } false [(.ofNat 64 (loc 0x3FFC0), 1)]).2.1.1 ≠ 0 := by unfold Here Placed; decide +kernel
theorem witness_VectorScatter : let s := slot (fun t => (regs [(1, loc 0x3FFC0)] t).wp 2 (.ofNat 64 (2 ^ 63)))
    (scatterRule s (.vsts 3 1 0 9 2)).map (fun x => (x.1, x.2.1, x.2.2.1, x.2.2.2.1)) = some (3, 2, 1, readsSS 1 0) ∧
    s.me.notReady (((readsSS 1 0).or (RegSet.v1 3)).or (RegSet.p1 2)) = false ∧ activeOnes s 2 1 = [63] ∧ walkBusy s [(.ofNat 64 (loc 0x3FFC0), 1)] = false ∧
    buffersFit (s.me.bight.stores ++ [.store (.ofNat 64 (loc 0x3FFC0)) [0] 0]) = true ∧
    (enterElements [.store (.ofNat 64 (loc 0x3FFC0)) [0] 0] s .store [(.ofNat 64 (loc 0x3FFC0), 1)]).2.1 = 0 ∧
    (enterElements [.store (.ofNat 64 (loc 0x3FFC0)) [0] 0] (handled s) .store [(.ofNat 64 (loc 0x3FFC0), 1)]).2.1 = 6 := by decide +kernel
theorem witness_VectorStore : let s := slot (regs [(1, loc 0x3FFC0)])
    s.me.notReady (((RegSet.s1 1).or (RegSet.v1 3)).or (RegSet.p1 0)) = false ∧ (s.me.rs 1).toNat % 64 = 0 ∧ (s.me.rs 1).toNat / 2 ^ 18 = 0xE * 2 ^ 42 ∧
    inWindow (s.graph s.me.graph).hwin ((s.me.rs 1).toNat % 2 ^ 18) 64 = false ∧ s.me.bight.stores = [] := by decide +kernel
theorem witness_StrandResult : Mine (strands id) 9 true ∧ ¬Mine (strands id) 8 true ∧ Mine (strands id) 4 false ∧ (strands id).me.notReady .empty = false ∧
    (strands id).me.bight.pushes.length < 64 ∧ (pushesTo (strands id).me.bight 9).length < 16 ∧
    ((strands id).me.bight.live.inter ((RegSet.v1 5).or (RegSet.p1 3))).first = none ∧ (((strands id).tile 0).ep 4).q[0]? = none ∧
    ((((strands id).mapTile 0 (fun t => t.mapEp 4 (fun p => { p with q := [⟨7, 0x81, 0, 2⟩] }))).tile 0).ep 4).q[0]? = some ⟨7, 0x81, 0, 2⟩ := by
  unfold Mine; decide +kernel
theorem witness_EngineIssue : (∃ q rd ops legal, engineRule (slot (regs [(4, 0x1864)])) (.rowact 4 true 0 0) = some (q, rd, ops, legal) ∧ legal ∧
      (slot (regs [(4, 0x1864)])).me.notReady (rd.or (RegSet.s1 0)) = false ∧ ((slot (regs [(4, 0x1864)])).me.queue q).waiting.length < 8) ∧
    Quiet (slot (regs [(4, 0x1864)])) ∧
    (∃ q rd ops legal, engineRule (slot (regs [(4, 2 ^ 20)])) (.rowact 4 true 0 0) = some (q, rd, ops, legal) ∧ ¬legal) ∧
    8 ≤ ((slot (fun t => t.mapQueue 2 (fun x => { x with waiting := .replicate 8 (cmdOf .nop 0 0) }))).me.queue 2).waiting.length := by
  refine ⟨⟨_, _, _, _, rfl, ?_, ?_, ?_⟩, ?_, ⟨_, _, _, _, rfl, ?_⟩, ?_⟩
  all_goals first | decide +kernel | (unfold Quiet; decide +kernel)
/-- A descriptor of one block of one byte, at local address 0x80. -/
theorem witness_EngineIssue_copy2 : let s := withMem (slot (regs [(1, loc 0), (2, loc 1), (3, loc 0x80)])) 0x80 (leBytes 16 (1 + 2 ^ 64))
    Quiet s ∧ (s.me.queue 1).waiting.length < 8 ∧ s.me.notReady (((readsSS 1 2).or (RegSet.s1 3)).or (RegSet.s1 0)) = false ∧
    s.me.notReady ((readsSS 1 2).or (RegSet.s1 3)) = false ∧ (s.me.rs 3).toNat / 2 ^ 60 = 0xE ∧ addressOk (s.me.rs 3) 32 = true ∧
    (s.me.rs 3).toNat % 8 = 0 ∧ homeBusy s false [(s.me.rs 3, 32)] = false ∧
    homeBusy (s.mapPorts 0 [0] (fun p => { p with busy := 4 })) false [(s.me.rs 3, 32)] = true ∧
    (readElement s false (s.me.rs 3) 32).2 = (0, leBytes 32 (1 + 2 ^ 64)) ∧
    (readElement s false (s.me.rs 3) 32).1.me = s.me ∧ Quiet (readElement s false (s.me.rs 3) 32).1 ∧
    (blockRange (s.me.rs 1) 1 1 0).isSome = true ∧ (blockRange (s.me.rs 2) 1 1 0).isSome = true := by unfold Quiet; decide +kernel
/-- A dirty block in the home of tile 1 whose bank a row command holds. -/
def blocked (s : State) : State := { s with homes := Assoc.set s.homes 1 { s.home 1 with cache := [
  { off := 2 ^ 28, part := 0, va := 0, cidx := 0, budget := 0, lanes := [], dirty := true, poison := 0, writers := [0] }] } }.mapTile 1 (fun t =>
    t.mapBank 0 (fun b => { b with row := some (1, 0) }))
/-- The reading forms with a value and with a trap; the acting ones on the slot's own graph, which runs, is frozen, has a wave open or is not
Running, and on a graph that is absent. -/
theorem witness_SystemForms : atS.me.lvl = true ∧ Ready atS (RegSet.s1 1) (RegSet.s1 3) ∧ Ready atS (readsSS 1 2) (RegSet.s1 3) ∧
    (systemRule atS (.probe 3 1)).map (fun x => (x.1, x.2.2.getRight?)) = some (3, some 0) ∧
    (systemRule (atS.mapMe (regs [(1, loc 0)])) (.probe 3 1)).map (fun x => x.2.2.getLeft?) = some (some (3, .ofNat 64 (loc 0))) ∧
    (systemRule atS (.graphctlStat 3 1)).map (fun x => x.2.2.isRight) = some true ∧
    (systemRule atS (.graphctlSlot 3 1 2)).map (fun x => x.2.2.isRight) = some true ∧
    (systemRule (atS.mapMe (regs [(2, 2 ^ 63)])) (.graphctlSlot 3 1 2)).map (fun x => x.2.2.isRight) = some false ∧
    (systemRule (atS.mapMe (regs [(2, 2 ^ 63)])) (.graphctlStall 3 1 2)).map (fun x => x.2.2.isRight) = some false := by
  unfold Ready; decide +kernel
theorem witness_SystemForms_acting : Ready atS (RegSet.s1 1) .empty ∧ Ready atS .empty .empty ∧ Ready atS (readsSS 1 2) .empty ∧
    codecinvCheck (atS.me.rs 1) (atS.me.rs 2) = none ∧ (atS.me.rs 1).toNat ≤ (atS.part 0).codectab.toNat % 256 ∧
    (∀ e ∈ atS.homes, ∀ c ∈ e.2.cache, c.dirty = false) ∧ dropHeld atS (fun _ => true) = false ∧ dropHeld (blocked atS) (fun _ => true) = true ∧ atS.cur ∈ graphThreads atS 0 ∧
    present atS 0 = some (0, atS.graph 0) ∧ (atS.graph 0).st = .running ∧ (atS.graph 0).openWave = none ∧ (atS.graph 0).cutting = false ∧
    (atS.graph 0).frozen = false ∧ (atS.graph 0).hung = false ∧ present atS 5 = none ∧
    (let s := atS.mapGraph 0 (fun g => { g with frozen := true, openWave := some 7 })
     (present s 0).map (fun x => (x.1, x.2.st, x.2.frozen, x.2.openWave)) = some (0, .running, true, some 7)) ∧
    (let s := atS.mapGraph 0 (fun g => { g with st := .cut })
     (present s 0).map (fun x => x.2.st) = some .cut) := by unfold Ready; decide +kernel


/-- The slot with bank 3 of its tile changed, at a cycle. -/
def banked (now : Nat) (f : Bank → Bank) : State := { slot id with cycle := .ofNat 64 now }.mapTile 0 (fun t => t.mapBank 3 f)
/-- A region of the slot's tile alone, in context 0. -/
def fused (s : State) : State :=
  { s with regions := [⟨0, 0, 0, 0, 1, 1, 16, 16, 0, [], []⟩], rects := [⟨0, 0, 1, 1, 1, 0, false⟩] }
/-- A ROWPUT of the region, begun, on an open row of bank 3. -/
def rowputting : State :=
  ({ fused (begun 2 (.rowput 1 2 true 0 0) (fun a => { a with cmd := { a.cmd with va := 0x1864, vb := .ofNat 64 (loc 0) } })) with cycle := 32 }).mapTile 0
    (fun t => t.mapBank 3 (fun b => { b with row := some (100, 0) }))
theorem witness_BankSteps :
    (((banked 16384 (fun b => { b with row := some (100, 0) })).tile 0).bank 3).row = some (100, 0) ∧ 0 + Config.tOpen ≤ 16384 ∧
    (Config.tRefi % Config.tRefi = 0 ∧ (((banked Config.tRefi id).tile 0).bank 3).row = none) ∧
    (((banked Config.tRefi (fun b => { b with row := some (1, 0), owed := 7 })).tile 0).bank 3).row.isSome = true ∧
    8 ≤ (((banked Config.tRefi (fun b => { b with row := some (1, 0), owed := 8 })).tile 0).bank 3).owed ∧
    (let s := banked 5 (fun b => { b with forced := some (100, 0), busyTill := 5 })
     ((s.tile 0).bank 3).forced = some (100, 0) ∧ ((s.tile 0).bank 3).busyTill ≤ s.cycle.toNat) ∧
    (let s := banked 5 (fun b => { b with owed := 1, busyTill := 5 })
     ((s.tile 0).bank 3).forced = none ∧     ((s.tile 0).bank 3).row = none ∧ 0 < ((s.tile 0).bank 3).owed ∧ ((s.tile 0).bank 3).busyTill ≤ s.cycle.toNat ∧ actWaits s 0 3 = false) ∧
    (let s := banked 5 (fun b => { b with bgSince := some 5 })
     ((s.tile 0).bank 3).bgSince = some 5 ∧ (∀ k, k < 32 → actWaits s 0 k = false) ∧ ((s.tile 0).bank 3).busyTill ≤ s.cycle.toNat ∧
       (inWindowActs 5 (s.tile 0).acts).length + (inWindowActs 5 (s.tile 0).bgActs).length < Config.actLimit) ∧
    (((banked 0 (fun b => { b with used := 31 })).tile 0).bank 3).used < 32 ∧
    32 ≤ (((banked 0 (fun b => { b with used := 32 })).tile 0).bank 3).used := by decide +kernel
theorem witness_BankSteps_region : (∃ a, activeAt rowputting 0 2 0 = some a ∧ a.begun = true ∧ a.done = false ∧ a.cmd.i = .rowput 1 2 true 0 0 ∧ a.cmd.va = 0x1864) ∧
    formTiles rowputting 0 true = some [0] ∧ rowHazard 32 (0x1864 % 2 ^ 11) true (rowputting.tile 0) ((rowputting.tile 0).bank 3) = .clear ∧
    slotStands rowputting 0 = false ∧ portHeld rowputting 0 11 0 3072 = false ∧ tmemPoison rowputting 0 3072 = false := by
  refine ⟨⟨_, rfl, ?_, ?_, ?_, ?_⟩, ?_, ?_, ?_, ?_, ?_⟩ <;> decide +kernel

/-- A beat of data. -/
def beat : Beat := ⟨7, 0x81, 0, 2⟩
/-- The slot's strands, endpoint 9 with a beat and a permit for endpoint 4 of the tile, and a beat and a permit under way at cycle 9. -/
def flying : State := { (strands id).mapTile 0 (fun t => (t.mapEp 9 (fun p => { p with q := [beat], permits := 1 })).mapEp 4 id) with
  cycle := 9, flights := [⟨66, 9, 0, 4, 0, 1, 9, beat, false⟩, ⟨66, 9, 0, 4, 0, 0, 9, beat, false⟩], permits := [⟨0, 9, 9⟩] }
theorem witness_EndpointSteps :
    (flying.flights[0]? = some ⟨66, 9, 0, 4, 0, 1, 9, beat, false⟩ ∧ 9 ≤ flying.cycle.toNat ∧ (flying.tile (nextHop 1 0).1).routerRetired = false ∧
      (flying.tile 1).routerRetired = false ∧ linkNext flying 1 0 = some 0) ∧
    (let s := { flying with links := [(8192 * 1 + 0, 0, 9, 2)] }
     s.flights[0]? = some ⟨66, 9, 0, 4, 0, 1, 9, beat, false⟩ ∧ linkNext s 1 0 ≠ some 0 ∧ 2 ≤ (linkState s 1 0).2) ∧
    ((flying.mapTile 1 (fun t => { t with routerRetired := true })).tile 1).routerRetired = true ∧
    (flying.flights[1]? = some ⟨66, 9, 0, 4, 0, 0, 9, beat, false⟩ ∧ epGraph (flying.tile 0) 4 = some 0 ∧ beat.isMarker = false ∧ ((flying.tile 0).ep 4).spills = false ∧
      behind { flying with flights := flying.flights.drop 1 } 0 ⟨66, 9, 0, 4, 0, 0, 9, beat, false⟩ = false) ∧
    (flying.permits[0]? = some ⟨0, 9, 9⟩ ∧ (Assoc.get? (flying.tile 0).eps 9).isSome = true) ∧
    (epGraph (flying.tile 0) 9 = some 0 ∧ EpF.out (epFrame (flying.tile 0) 9) = true ∧ feedsNode (flying.tile 0) 9 = none ∧ elementRuns flying 0 0 = true ∧ ((flying.tile 0).ep 9).fault = false ∧
      cutStops flying 0 ((flying.tile 0).ep 9).marker = false ∧ ((flying.tile 0).ep 9).q = [beat] ∧ ((flying.tile 0).ep 9).gated = false ∧
      ((flying.tile 0).ep 9).wakeAt ≤ 9 ∧ 0 < ((flying.tile 0).ep 9).permits ∧ EpF.toPort (epFrame (flying.tile 0) 9) = false) ∧
    (let p := ((flying.mapTile 0 (fun t => t.mapEp 4 (fun p => { p with coil := [beat], hi := 1 }))).tile 0).ep 4
     p.coil = [beat] ∧ p.fault = false ∧ waitingBeats p ≤ p.lo ∧ waitingBeats p < p.hi) ∧
    (let key := coilKey flying 0 0 0
     epGraph (flying.tile 0) 4 = some 0 ∧ ∀ j, j < 2 → (flying.sector (key / 32 + j)).cond = .clean ∧ (flying.sector (key / 32 + j)).tag = 0) ∧
    (let s := { strands id with cycle := 256 }
     (epGraph (s.tile 0) 9).isSome = true ∧ EpF.out (epFrame (s.tile 0) 9) = true ∧ ((s.tile 0).ep 9).q = [] ∧ ((s.tile 0).ep 9).idle + 256 ≤ 256) ∧
    (tallyHit ((strands id).mapTile 0 (fun t => { t with tallies := [⟨2, 0, some 0, some 0⟩] })) 0 2 0).isSome = true ∧
    (elementCtx ((strands id).tile 0) 0 9 = some 0 ∧ (((strands id).tile 0).ctx 0).graph = some 0) := by decide +kernel

/-- A node's frame, of a kind. -/
def nodeFrame (kind : Nat) : Nat := 2 ^ 255 + kind * 2 ^ 252 + 4 * 2 ^ 244 + 9 * 2 ^ 220 + 8 * 2 ^ 148 + 2 ^ 141
/-- Node 0 of the slot's tile, of a kind, from endpoint 4 (data or control) to endpoint 9, which has a permit; one input, one output. -/
def noded (kind e : Nat) (f : Node → Node) : State :=
  (framed (64 + 0) (nodeFrame kind) (slot id)).mapTile 0 (fun t =>
    ((t.mapEp e (fun p => { p with q := [beat] })).mapEp 9 (fun p => { p with permits := 1 })).mapNode 0 f)
/-- The same with no permit of the consumer at endpoint 9. -/
def shut (s : State) : State := s.mapTile 0 (fun t => t.mapEp 9 (fun p => { p with permits := 0 }))
theorem witness_NodeSteps :
    (nodeRuns (noded 1 4 id) 0 0 1 = some (0, nodeFrame 1) ∧ nodeHead ((noded 1 4 id).tile 0) 0 (nodeFrame 1) 0 = some beat ∧
      steerPath (nodeFrame 1) (((noded 1 4 id).tile 0).node 0) { beat with pred := 0 } < NdF.nout (nodeFrame 1) ∧
      nodeRoom ((noded 1 4 id).tile 0) 0 (nodeFrame 1) 0 = true ∧
      inSpot 0 (nodeFrame 1) 0 ≠ outSpot ((noded 1 4 id).tile 0) 0 (nodeFrame 1) 0) ∧
    (∀ k ∈ [1, 2, 5], let e := if k = 5 then 36 else 4
      nodeRuns (shut (noded k e id)) 0 0 k = some (0, nodeFrame k) ∧ nodeHead ((shut (noded k e id)).tile 0) 0 (nodeFrame k) 0 = some beat ∧
      nodeRoom ((shut (noded k e id)).tile 0) 0 (nodeFrame k) 0 = false) ∧
    (nodeHead ((noded 3 4 (fun x => { x with next := 2 })).tile 0) 0 (nodeFrame 3) 0 = some beat ∧
      ((noded 3 4 (fun x => { x with next := 2 })).tile 0).node 0 = { Node.empty with next := 2 } ∧ (beat.tag - 2).toNat < NdF.rwin (nodeFrame 3)) ∧
    (nodeRuns (noded 2 4 id) 0 0 2 = some (0, nodeFrame 2) ∧ nodeRoom ((noded 2 4 id).tile 0) 0 (nodeFrame 2) 0 = true ∧
      robin (NdF.nin (nodeFrame 2)) 0 = [0] ∧ nodeHead ((noded 2 4 id).tile 0) 0 (nodeFrame 2) 0 = some beat) ∧
    (let s := noded 3 4 (fun x => { x with next := 2 })
     let s1 := (List.range (NdF.nin (nodeFrame 3))).foldl (mergeAccept 0 0 (nodeFrame 3)) s
     nodeRuns s 0 0 3 = some (0, nodeFrame 3) ∧ ((s1.tile 0).node 0).fault = false ∧
       ((s1.tile 0).node 0).held.find? (fun b => b.tag == ((s1.tile 0).node 0).next) = some beat ∧ nodeRoom (s1.tile 0) 0 (nodeFrame 3) 0 = true) ∧
    (let s := noded 4 4 (fun x => { x with held := List.replicate 9 beat, taken := 9, accepted := [(0, 8)] })
     let x := (s.tile 0).node 0
     Assoc.getD x.accepted 0 0 - (x.taken - x.held.length) = 8 ∧ x.held[8]? = some beat ∧ nodeBuffers (nodeFrame 4) ≤ 8 ∧
       (∀ b, b < NdF.nout (nodeFrame 4) → Assoc.getD x.accepted b 0 ≤ 8) ∧ nodeRoom (s.tile 0) 0 (nodeFrame 4) 0 = true) ∧
    (((noded 4 4 id).tile 0).node 0).held.length < nodeBuffers (nodeFrame 4) ∧
    (nodeRuns (noded 4 4 id) 0 0 4 = some (0, nodeFrame 4) ∧ nodeHead ((noded 4 4 id).tile 0) 0 (nodeFrame 4) 0 = some beat ∧ NdF.nout (nodeFrame 4) = 1 ∧
      0 < branchWindow (nodeFrame 4) (((noded 4 4 id).tile 0).node 0) 0 ∧
      outSpot ((noded 4 4 id).tile 0) 0 (nodeFrame 4) 0 ≠ inSpot 0 (nodeFrame 4) 0) ∧
    (nodeRuns (noded 5 36 id) 0 0 5 = some (0, nodeFrame 5) ∧ nodeHead ((noded 5 36 id).tile 0) 0 (nodeFrame 5) 0 = some beat ∧ beat.kind ≠ 3 ∧
      nodeRoom ((noded 5 36 id).tile 0) 0 (nodeFrame 5) 0 = true) := by decide +kernel

/-- The slot's graph 0 in context 0 of its tile, changed. -/
def graphed (f : Graph → Graph) : State := (framed 0 0 (slot id)).mapGraph 0 f
/-- The same with wave 1 open. -/
def waved (f : Graph → Graph) : State := graphed (fun g => f { g with openWave := some 1, pending := some (Snap.start 1) })
theorem witness_WaveSteps_load :
    (let s := (slot id).mapTile 0 (fun t => t.mapCtx 0 (fun c => { c with graph := some 0, loading := true }))
     let a : BitVec 32 := .ofNat 32 (2 ^ 16 + 24 * 2 ^ 8)
     ((s.tile 0).ctx 0).graph = some 0 ∧ ((s.tile 0).ctx 0).loading = true ∧ a.toNat / 2 ^ 17 % 4 = 0 ∧
     tileAt (a.toNat / 2 ^ 26) (a.toNat / 2 ^ 19 % 2 ^ 7) = 0 ∧ a.toNat % 256 = 0 ∧ a.toNat / 2 ^ 8 % 2 ^ 7 = 24 ∧
     frameKind 24 = a.toNat / 2 ^ 15 % 4 ∧ frameOk (s.graph 0) (s.part 0).portmask 24 (3 * 2 ^ 254) = true ∧
     claimedElsewhere (s.tile 0) 0 24 (3 * 2 ^ 254) = false) ∧
    (let s := (slot id).mapGraph 0 (fun g => { g with st := .loading })
     let s1 := endLoad s (s.graph 0).part (physCtx (s.graph 0) 0) [0] false
     (s.graph 0).st = .loading ∧ (s.graph 0).snap = none ∧ (graphTiles (s.graph 0)).map (fun x => x.2.2) = [0] ∧ (s.graph 0).nctx = 1 ∧
     ((s1.tile 0).ctx 0).failed = false ∧ ((enterRunning s1 0).tile 0).retired = false ∧ ((enterRunning s1 0).tile 0).routerRetired = false) ∧
    (let s := ((slot id).mapGraph 0 (fun g => { g with st := .loading })).mapTile 0 (fun t => { t with routerRetired := true })
     let s1 := endLoad s (s.graph 0).part (physCtx (s.graph 0) 0) [0] false
     (s.graph 0).snap = none ∧ ((s1.tile 0).ctx 0).failed = false ∧ ((enterRunning s1 0).tile 0).routerRetired = true) := by decide +kernel
theorem witness_WaveSteps_markers :
    (waved id).graphs.map Prod.fst = [0] ∧ graphCtxs (waved id) 0 0 = [0] ∧ ((waved id).graph 0).openWave = some 1 ∧ ((waved id).graph 0).frozen = false ∧
    claimNd ((framed (64 + 0) (nodeFrame 1) (waved id)).tile 0) 0 = some 0 ∧ claimEn ((framed 72 (2 ^ 255) (waved id)).tile 0) 0 = some 0 ∧
    (let p := { Snap.start 1 with ctxs := [(0, ((slot id).tile 0).ctx 0)] }
     let s := (waved (fun g => { g with pending := some p })).mapMe (fun t => { t with wave := 1 })
     tileLatched s 0 0 1 = true ∧ (s.graph 0).pending = some p ∧ p.tiles = []) ∧
    (let p := { Snap.start 1 with tiles := [tileImage (slot id) 0 0 [] []], saving := [(0, ⟨[5, 6], 0, true, 0⟩)] }
     let s := waved (fun g => { g with pending := some p })
     (s.graph 0).pending = some p ∧ p.tiles.find? (fun y => y.tile == 0) = some (tileImage (slot id) 0 0 [] []) ∧
     Assoc.get? p.saving 0 = some ⟨[5, 6], 0, true, 0⟩ ∧
     ((s.tile 0).bank (firstShadow s 0 + (128 * shadowOf (s.graph 0) 0 p.wave + 5) / 2048)).bgSince = none) ∧
    (let s := (waved (fun g => { g with pending := some { Snap.start 1 with tiles := [tileImage (slot id) 0 0 [] []], ctxs := [(0, ((slot id).tile 0).ctx 0)] } })).mapMe (fun t => { t with wave := 1 })
     waveDone s 0 1 = true ∧ ((s.graph 0).pending.map (fun p => imbalance (rateMembers s 0 p))) = some none ∧ (s.graph 0).waiting = none ∧
     (s.graph 0).st = .running ∧ (s.graph 0).frozen = false ∧ encodesHeld (drainCodec (drainGraph s 0 1)) 0 = false ∧
     ((drainCodec (drainGraph s 0 1)).graph 0).cutting = false ∧ ((drainCodec (drainGraph s 0 1)).graph 0).cutNext = false ∧
     encodesHeld (drainCodec (drainGraph (blocked s) 0 1)) 0 = true) ∧
    (let s := waved (fun g => { g with deadline := some 5 })
     ((s.graph 0).deadline = some 5 ∧ 5 ≤ { s.mod with ref := 5 }.ref)) := by decide +kernel
theorem witness_WaveSteps_commit :
    (let s := (slot (fun t => { t with wait := .commit }))
     s.me.run = .running ∧ s.me.wait = .commit ∧ elementRuns s 0 s.me.graph = true ∧ epochMetBy s 0 (deferredReads s.me.bight.stores) = none ∧
     contained (s.graph s.me.graph) = false ∧ (commitBlock s 0).2 = none ∧ s.me.bight.stores = [] ∧ s.me.bight.pushes = [] ∧ s.me.bight.pops = [] ∧
     commitPending s 0 = false ∧ startedHolds s.me = false ∧ s.held.any (fun o => o.th == 0) = false) := by decide +kernel
theorem witness_WaveSteps_end :
    (let s := graphed (fun g => { g with frozen := true })
     (s.graph 0).st = .running ∧ (s.graph 0).frozen = true) ∧
    (((graphed id).graph 0).st = .running ∧ ((graphed id).graph 0).snap = none) ∧
    (((graphed (fun g => { g with snap := some (Snap.start 1), lapsed := true })).graph 0).lapsed = true) ∧
    (let s := graphed (fun g => { g with snap := some (Snap.start 1), record := .ofNat 2048 (2 ^ 190), rollbacks := 1 })
     (s.graph 0).snap = some (Snap.start 1) ∧ contained (s.graph 0) = true ∧ (s.graph 0).lapsed = false ∧ (s.graph 0).rollbacks < 2 ∧ (s.graph 0).st = .running ∧
     (s.graph 0).frozen = false) ∧
    (let s := (graphed id).mapMe (fun t => { t with run := .halted })
     (s.graph 0).st = .running ∧ (s.graph 0).frozen = false ∧ isActive s 0 = true ∧ hasHalted s 0 = true) ∧
    (hangLimit ((graphed (fun g => { g with hang := 2 ^ 20 })).graph 0) ≤ ((graphed (fun g => { g with hang := 2 ^ 20 })).graph 0).hang) := by decide +kernel

theorem witness_EngineSteps_queue :
    ((slot id).me.run ≠ .free ∧ ((slot id).graph 0).st = .running ∧ ((slot id).graph 0).frozen = false ∧ isActive (slot id) 0 = true ∧
      (slot id).me.run ≠ .cut) ∧
    ((slot (fun t => { t with run := .cut })).me.run = .cut ∧ (slot (fun t => { t with run := .cut })).me.run ≠ .free) ∧
    (let c := cmdOf (.copy 1 2 0 false 0 0) 0 0
     let s := queued 1 (.copy 1 2 0 false 0 0)
     (s.me.queue 1).waiting = [c] ∧ queueFree s.cycle.toNat s.me 1 c.i = true ∧ takeFifo 1 c.i = none ∧ outOfStep s 0 1 c.i = false ∧
       startCheck (s.mapThread 0 (fun t => t.mapQueue 1 (fun u => { waiting := [], active := u.active ++ [Active.start c] }))) 0 c = none) ∧
    (let c := cmdOf (.mzero 1 0 0) 0 0
     let s := queued 3 (.mzero 1 0 0)
     (s.me.queue 3).waiting = [c] ∧ queueFree s.cycle.toNat s.me 3 c.i = true ∧ takeFifo 3 c.i = none ∧ outOfStep s 0 3 c.i = false ∧
       (startCheck (s.mapThread 0 (fun t => t.mapQueue 3 (fun u => { waiting := [], active := u.active ++ [Active.start c] }))) 0 c).isSome = true) ∧
    (let a : Active := { Active.start (cmdOf (.copy 1 2 0 false 0 0) 0 0) with begun := true, done := true }
     let s := begun 1 (.copy 1 2 0 false 0 0) (fun a => { a with done := true })
     (s.me.queue 1).active = [a] ∧ retires s 0 1 a = true) ∧
    (let a : Active := { Active.start (cmdOf (.copy 1 2 0 false 0 0) 0 0) with begun := true }
     activeAt (begun 1 (.copy 1 2 0 false 0 0) id) 0 1 0 = some a ∧ a.begun = true ∧ a.done = false ∧ a.held = none ∧
       slotStands (begun 1 (.copy 1 2 0 false 0 0) id) 0 = false) ∧
    (let a : Active := { Active.start (cmdOf (.mdrain 1 2 3 0 0) 0 0) with begun := true }
     let s := begun 3 (.mdrain 1 2 3 0 0) id
     (s.me.queue 3).active = [a] ∧ a.cmd.i = .mdrain 1 2 3 0 0 ∧ a.begun = true ∧ a.done = false ∧ a.held = none ∧
       drainStopped s 0 a.cmd = false) := by decide +kernel
/-- The region of context 0 with one MRUN begun, of a record in memory, its formats latched. -/
def running : State :=
  ({ fused (begun 3 (.mrun 1 2 3 0 0) (fun a => { a with cmd := { a.cmd with vb := .ofNat 64 (loc 0) } })) with cycle := 32 }).mapTile 0 (fun t =>
    t.mapCtx 0 (fun c => { c with latched := some ⟨0, 0, 0, 0, 0⟩ }))
/-- A vector of the region that leaves it at cycle 32. -/
def leaving : VecFly := { x := 0, y := 0, pctx := 0, th := 0, row := 3, acc := false, int := false, due := 32, last := true, cleat := 0, cols := [] }
theorem witness_EngineSteps_array :
    (let s := begun 2 (.planeinv false 0 0) (fun a => { a with fill := [(0, 0)] })
     ∃ a, activeAt s 0 2 0 = some a ∧ planeAct a.cmd.i = some .invalidate ∧ a.fill = [(0, 0)] ∧ a.done = false ∧ a.due ≤ s.cycle.toNat ∧
       slotStands s 0 = false ∧ vectorsIn s 0 0 = false) ∧
    (let s := (framed 16 (2 ^ 255 + 4 * 2 ^ 250) (framed (24 + 4) (2 ^ 255) (slot id))).mapTile 0 (fun t => t.mapEp 4 (fun p => { p with q := [beat] }))
     let c := (s.tile 0).ctx 0
     c.graph = some 0 ∧ c.loaded = true ∧ MpF.feeden c.mpF = true ∧ MpF.feedep c.mpF = 4 ∧ elementRuns s 0 0 = true ∧ feedHolds s 0 0 0 = false ∧
       c.feedFault = false ∧ ((s.tile 0).ep 4).q = [beat] ∧ c.recBuf.length < recordBeats (s.tile 0) 0 ∧ beat.isMarker = false) ∧
    (let q : Rect := ⟨0, 0, 1, 1, 1, 0, false⟩
     running.rects[0]? = some q ∧ (running.regions.filter (fun r => r.onRect q)).map (fun r => (r.graph / 65536, r.pctx)) = [(0, 0)] ∧
       counterOrder running q 0 = [0] ∧ (running.regions.map (nextRun running)).map Option.isSome = [true] ∧
       (running.regions.map (fun r => runLatch running r 0)) = [some ⟨0, 0, 0, 0, 0⟩]) ∧
    (let s := { running with vecs := [leaving] }
     s.rects[0]? = some ⟨0, 0, 1, 1, 1, 0, false⟩ ∧ s.vecs = [leaving] ∧ (∀ d ∈ leaving.cols, accWaits s d.1 leaving.row 1 = false) ∧ leaving.due ≤ s.cycle.toNat ∧
       s.regions.map (fun r => (r.onRect ⟨0, 0, 1, 1, 1, 0, false⟩, r.pctx, fabricRuns s r.graph)) = [(true, 0, true)]) := by
  refine ⟨⟨_, rfl, ?_⟩, ?_, ?_, ?_⟩ <;> decide +kernel
theorem witness_EngineSteps_traps :
    (let s := handled (slot (fun t => { t with late := some (0x14, 5) }))
     s.me.run = .running ∧ s.me.gbar = none ∧ s.me.lvl = false ∧ (s.graph s.me.graph).hwin.toNat / 2 ^ 63 % 2 = 1 ∧ s.me.late = some (0x14, 5)) ∧
    ((handled (slot (fun t => { t with pend := some ⟨3, 8, 2, 0⟩ }))).me.pend = some ⟨3, 8, 2, 0⟩ ∧
      (handled (slot (fun t => { t with pend := some ⟨3, 8, 2, 0⟩ }))).me.late = none) ∧
    ((handled (slot (fun t => { t with held := some ⟨5, 8, 3, 0⟩ }))).me.held = some ⟨5, 8, 3, 0⟩ ∧
      (handled (slot (fun t => { t with held := some ⟨5, 8, 3, 0⟩ }))).me.pend = none) ∧
    ((handled (slot (fun t => { t with gtraps := [(0x15, 9)] }))).me.gtraps = [(0x15, 9)] ∧
      (handled (slot (fun t => { t with gtraps := [(0x15, 9)] }))).me.held = none) ∧
    (let s := begun 1 (.copy 1 2 0 false 0 0) (fun a => { a with held := some 64 })
     s.me.run ≠ .free ∧ (s.graph s.me.graph).st = .running ∧ firstHeld s 0 = some ⟨5, 64, 3, 0⟩ ∧ faultThread s 0 = some 0 ∧ s.me.lvl = false) := by
  decide +kernel

/-- Stream engine 1 of the slot's tile runs a stream of an SCB. -/
def streaming (w : Nat) (f : Engine → Engine) : State :=
  (framed (72 + 1) (2 ^ 255) (slot id)).mapTile 0 (fun t => t.mapEngine 1 (fun x => f { x with opened := true, running := true, scb := .ofNat 1024 w }))
/-- The token of window 7. -/
def token : Beat := ⟨7, 0, 3, 0⟩
theorem witness_StreamSteps :
    (let s := streaming 0 id
     ((s.tile 0).engine 1).running = true ∧ ((s.tile 0).engine 1).fault = false ∧ engineRuns s 0 1 = true ∧ ((s.tile 0).engine 1).ownOwed = false ∧
       ((s.tile 0).engine 1).owed = 0 ∧ ((s.tile 0).engine 1).retry = false ∧ Scb.write ((s.tile 0).engine 1).scb.toNat = false) ∧
    (let s := streaming 0 (fun x => { x with retry := true })
     ((s.tile 0).engine 1).retry = true ∧ ((s.tile 0).engine 1).held = none ∧ ((s.tile 0).engine 1).ownOwed = false ∧ engineRuns s 0 1 = true) ∧
    (let s := streaming (2 ^ 1023 - 1) id
     Scb.write ((s.tile 0).engine 1).scb.toNat = true ∧ engineRuns s 0 1 = true) ∧
    (let s := streaming 0 (fun x => { x with owed := 32 })
     ((s.tile 0).engine 1).owed ≠ 0 ∧ ((s.tile 0).engine 1).held = none ∧ engineRuns s 0 1 = true) ∧
    (let s := { streaming 0 (fun x => { x with coal := [⟨0, [], 0, 0, 0⟩] }) with cycle := 64 }
     ((s.tile 0).engine 1).coal.filter (fun l => decide (l.since + 64 ≤ s.cycle.toNat)) = [⟨0, [], 0, 0, 0⟩] ∧ ((s.tile 0).engine 1).linesWait = false ∧
       ((streaming 0 (fun x => { x with stopped := true })).tile 0 |>.engine 1).linesWait = true ∧ engineRuns s 0 1 = true) ∧
    (let s := (streaming (7 * 2 ^ 56) (fun x => { x with ownWait := true })).mapTile 0 (fun t => t.mapEp 32 (fun p => { p with q := [token] }))
     ((s.tile 0).engine 1).ownWait = true ∧ ((s.tile 0).ep (Scb.ownin ((s.tile 0).engine 1).scb.toNat)).q.head? = some token ∧ token.kind = 3 ∧
       token.data.toNat % 256 = Scb.winid ((s.tile 0).engine 1).scb.toNat ∧ engineRuns s 0 1 = true) ∧
    (let s := (streaming (8 * 2 ^ 56) (fun x => { x with ownWait := true })).mapTile 0 (fun t => t.mapEp 32 (fun p => { p with q := [token] }))
     ((s.tile 0).ep (Scb.ownin ((s.tile 0).engine 1).scb.toNat)).q.head? = some token ∧
       token.data.toNat % 256 ≠ Scb.winid ((s.tile 0).engine 1).scb.toNat ∧ engineRuns s 0 1 = true) ∧
    (let s := streaming 0 (fun x => { x with ownOwed := true })
     ((s.tile 0).engine 1).ownOwed = true ∧ waitingBeats ((s.tile 0).ep (Scb.ownout ((s.tile 0).engine 1).scb.toNat)) = 0 ∧ engineRuns s 0 1 = true) ∧
    (((slot id).tile 0).engine 1).running = false := by decide +kernel

/-- The SCB of a read stream of one element of 4 bytes at local address 0x80 to endpoint 9, and that of a write stream there. -/
def reader : Nat := 2 ^ 28 + 9 * 2 ^ 21 + 2 ^ 33 + loc 0x80 * 2 ^ 64 + 2 ^ 128 + 2 ^ 256 + 2 ^ 384 + 2 ^ 512
def writer : Nat := reader + 2 ^ 26
/-- Four bytes of line 0x80. -/
def line : CoalLine := ⟨.ofNat 64 (loc 0x80), [(0, 1), (63, 2)], 0, 2, 0⟩
theorem witness_StreamSteps_read :
    (let s := streaming reader id
     let x := (s.tile 0).engine 1
     x.running = true ∧ x.fault = false ∧ engineRuns s 0 1 = true ∧ x.ownOwed = false ∧ x.owed = 0 ∧ Scb.write x.scb.toNat = false ∧ x.ready = [] ∧
       x.ending = false ∧ x.done = false ∧ x.stopped = false ∧ Scb.indmode x.scb.toNat = 0 ∧ x.idxErr = 0 ∧ x.host = none ∧
       LocalSite s 0 2 (agEngine s 0 1).graph (agEngine s 0 1).lvl x.addr (Scb.ew x.scb.toNat)) ∧
    (let s := streaming reader (fun x => { x with ready := [(0, [⟨.ofNat 64 (loc 0x80), 0, [1, 2, 3, 4]⟩])], i3 := 1 })
     let x := (s.tile 0).engine 1
     x.ready = [(0, [⟨.ofNat 64 (loc 0x80), 0, [1, 2, 3, 4]⟩])] ∧ Scb.port x.scb.toNat = 2 ∧
       waitingBeats ((s.tile 0).ep (Scb.ep x.scb.toNat)) = 0 ∧ Scb.cleat x.scb.toNat = 0 ∧ x.done = true ∧ engineRuns s 0 1 = true) ∧
    (let s := streaming (reader + loc 0x100 * 2 ^ 960) (fun x => { x with owed := 32 })
     let x := (s.tile 0).engine 1
     let c := Scb.cleat x.scb.toNat
     c ≠ 0 ∧ agentHeld s (agEngine s 0 1) true [(c, 16)] = false ∧
       (rmwPiece s (agEngine s 0 1) c 16 none (cleatBytes (.rmw (-(x.owed : Int)) 0))).2 = (0, leBytes 16 0)) := by
  unfold LocalSite; decide +kernel
theorem witness_StreamSteps_write :
    (let s := (streaming writer id).mapTile 0 (fun t => t.mapEp 9 (fun p => { p with q := [beat] }))
     let x := (s.tile 0).engine 1
     x.running = true ∧ x.fault = false ∧ engineRuns s 0 1 = true ∧ x.ownOwed = false ∧ x.owed = 0 ∧ Scb.write x.scb.toNat = true ∧ x.stopped = false ∧
       x.inb = none ∧ x.ending = false ∧ x.done = false ∧ x.ownWait = false ∧ Scb.port x.scb.toNat = 2 ∧
       ((s.tile 0).ep (Scb.ep x.scb.toNat)).q.head? = some beat ∧ beat.kind = 0) ∧
    (let s := streaming writer (fun x => { x with inb := some beat, inPos := 1 })
     let x := (s.tile 0).engine 1
     x.inb = some beat ∧ beatLive beat x.inPos (Scb.ew x.scb.toNat) = false ∧ Scb.cleat x.scb.toNat = 0 ∧ x.done = false ∧ engineRuns s 0 1 = true) ∧
    (let s := streaming writer (fun x => { x with inb := some beat, coal := [line] })
     let x := (s.tile 0).engine 1
     x.inb = some beat ∧ beatLive beat x.inPos (Scb.ew x.scb.toNat) = true ∧ Scb.accop x.scb.toNat = 0 ∧ x.spills = [] ∧ engineRuns s 0 1 = true ∧
       x.done = false ∧ Scb.indmode x.scb.toNat = 0 ∧ x.idxErr = 0 ∧ x.held = none ∧ isLocal x.addr = true ∧ x.addr.toNat % 64 + Scb.ew x.scb.toNat ≤ 64 ∧ x.coal.length < 4 ∧
       (∀ l ∈ x.coal, l.ea = u (x.addr.toNat / 64 * 64) → l.bytes.length + Scb.ew x.scb.toNat < 64) ∧ 0 < Scb.ew x.scb.toNat ∧ Scb.ew x.scb.toNat < 64) ∧
    (let s := { streaming writer (fun x => { x with coal := [line] }) with cycle := 64 }
     let x := (s.tile 0).engine 1
     x.coal.filter (fun l => decide (l.since + 64 ≤ s.cycle.toNat ∨ 64 ≤ l.bytes.length)) = [line] ∧ line.ea.toNat % 64 = 0 ∧
       LocalSite s 0 2 (agEngine s 0 1).graph (agEngine s 0 1).lvl line.ea 64 ∧ (line.bytes.map Prod.fst).Nodup ∧ (∀ p ∈ line.bytes, p.1 < 64) ∧
       Scb.cleat x.scb.toNat = 0) := by
  unfold LocalSite; decide +kernel
theorem witness_StreamSteps_spill :
    (let p : Spilled := ⟨.ofNat 64 (loc 0x84), [1, 2, 3, 4], true, 0, 0⟩
     let s := streaming writer (fun x => { x with spills := [p], held := some 0x84, coal := [line] })
     let x := (s.tile 0).engine 1
     x.running = true ∧ Scb.write x.scb.toNat = true ∧ Scb.accop x.scb.toNat = 0 ∧ x.spills = [p] ∧ Scb.cleat x.scb.toNat = 0 ∧ x.owed = 0 ∧
       p.ea.toNat % 64 + p.data.length ≤ 64 ∧ LocalSite s 0 2 (agEngine s 0 1).graph (agEngine s 0 1).lvl (.ofNat 64 (loc 0x80)) 64 ∧
       (∀ l ∈ x.coal, l.ea = u (p.ea.toNat / 64 * 64) → (l.bytes.map Prod.fst).Nodup ∧ ∀ q ∈ l.bytes, q.1 < 64)) := by
  unfold LocalSite; decide +kernel

/-- A partition of the slot's tile and its neighbours. -/
def owned (f : Part → Part) (s : State) : State :=
  { s with parts := Assoc.set s.parts 0 (f { s.part 0 with exists_ := true, prect := .ofNat 64 (2 ^ 17 + 2 ^ 25) }) }
/-- Page tables at the root 0 that map the first 64 MiB to the vault of tile 0, and a context list at 0x1_0000: entry 0 not valid, entry 1 valid;
graph 0 belongs to entry 0, and graph 1 to entry 1. -/
def twoContexts : State :=
  let s := owned (fun p => { p with ctxlist := 0x10000 }) (graphed id)
  let put (k v : Nat) (m : Memory) : Memory := Memory.writeBytes m k (leBytes 8 v)
  { s.mapPart 0 (fun p => { p with header := 2, entries := [(1, 2 ^ 63)] }) with
           vault := put 0x10090 (2 ^ 63) (put 0x10000 2 (put 16384 (2 ^ 63 + 2 ^ 62 + 2 ^ 61) (put 8192 (2 ^ 63 + 2 * 8192) (put 0 (2 ^ 63 + 8192) s.vault)))),
           graphs := Assoc.set s.graphs 1 { s.graph 0 with handle := 1, ctxi := 1 } }
/-- The bridge of its group with a port up, and the ports that face the host. -/
def bridged (port hostPorts : Nat) (s : State) : State :=
  { s with mod := { s.mod with bridge := true, hostPorts := .ofNat 128 (hostPorts * 2 ^ port) } }.mapPort port (fun p => { p with up := true })
theorem witness_DispatcherSteps :
    (let s := owned (fun p => { p with evalDue := true }) (slot id)
     (s.part 0).exists_ = true ∧ (s.part 0).evalDue = true ∧ (s.part 0).evalAt ≤ s.cycle.toNat ∧ (s.part 0).incoming = none) ∧
    (let s := owned (fun p => { p with incoming := some 1 }) State.reset
     (s.part 0).incoming = some 1 ∧ stillRuns s 0 (s.part 0).active = []) ∧
    (let s := owned id (slot id)
     (s.part 0).exists_ = true ∧ (s.part 0).incoming = none ∧ sliceOver s 0 = true ∧ entryValid s 0 (s.part 0).active = false ∧ nextEntry s 0 = none) ∧
    ((twoContexts.part 0).exists_ = true ∧ (twoContexts.part 0).incoming = none ∧ sliceOver twoContexts 0 = true ∧
      entryValid twoContexts 0 (twoContexts.part 0).active = false ∧ nextEntry twoContexts 0 = some 1 ∧
      stillRuns twoContexts 0 0 = [0]) ∧
    queueOwner (owned (fun p => { p with qmask := 5 }) (slot id)) 2 = some 0 ∧
    (let o : HomeOp := { part := 0, ea := 0, leaf := 0, large := false, act := .store [1] false, th := 0, graph := 0, epoch := 0, acq := false, hold := none }
     let s := { slot id with homeQ := [o] }.mapTile 0 (fun t => { t with retired := true })
     s.homeQ[0]? = some o ∧ Pte.host o.leaf.toNat = false ∧ homeDead s 0 (Pte.tile o.leaf.toNat) = true ∧ opReady s o = true) ∧
    egressHeld (slot id) 0 < Config.egressBytes / 4 * 3 ∧
    ((slot id).port 3).up = false ∧
    (let s := bridged 3 1 (owned id (slot id))
     let held := (bridged 3 1 (owned id mapped)).mapTile 1 (fun t => t.mapBank 0 (fun b => { b with row := some (1, 0) }))
     let one (t : State) : State := { t with mod := { t.mod with hostQ := [(none, 0, 0x1000, .read 8)] } }
     s.mod.bridge = true ∧ (s.port 3).up = true ∧ s.mod.hostPorts.getLsbD 3 = true ∧ s.mod.hostQ = [] ∧ (s.part 0).exists_ = true ∧
       hostArrives s 3 none = true ∧ hostFits s none 0 0x1038 (.read 8) = true ∧ hostHeld s none 0 0x1038 (.read 8) = false ∧
       agentHeld s (hostAg 0) false [(0x1038, 8)] = false ∧ agentHeld s (hostAg 0) true [(0x1038, 8)] = false ∧
       agentHeld s (hostAg 0) true [(0x1038, amoWidth 0)] = false ∧ (0x1038 : Word).toNat % amoWidth 0 = 0 ∧ (one s).mod.hostQ ≠ [] ∧
       hostFits held none 0 0xFFF8 (.read 8) = true ∧ hostHeld held none 0 0xFFF8 (.read 8) = true) ∧
    (let s := bridged 3 0 (slot id)
     hostArrives s 3 (some 5) = true ∧ hostFits s (some 5) 0 0x1038 (.write [1]) = true) := by decide +kernel
/-- A port whose egress buffer holds n beats of graph 0. -/
def heldUp (n : Nat) : State := (slot id).mapPort 5 (fun p => { p with egress := List.replicate n (0, 0, ⟨0, none, beat⟩) })
theorem eraseDups_replicate (n a : Nat) : (List.replicate (n + 1) a).eraseDups = [a] := by
  rw [List.replicate_succ, List.eraseDups_cons]
  simp
theorem held_up (n : Nat) : egressHeld (heldUp n) 5 = 32 * n := by
  have h : ((heldUp n).port 5).egress = List.replicate n (0, 0, (⟨0, none, beat⟩ : Outgoing)) := rfl
  rw [egressHeld, if_neg (by decide), h, List.filter_replicate_of_pos rfl, List.length_replicate]
theorem held_by (n : Nat) : egressGraphs (heldUp (n + 1)) 5 = [0] := by
  have h : ((heldUp (n + 1)).port 5).egress = List.replicate (n + 1) (0, 0, (⟨0, none, beat⟩ : Outgoing)) := rfl
  rw [egressGraphs, if_neg (by decide), h, List.map_replicate]; exact eraseDups_replicate n 0
theorem witness_DispatcherSteps_egress :
    ∃ s : State, Config.egressBytes / 4 * 3 ≤ egressHeld s 5 ∧ egressGraphs s 5 = [0] ∧ (s.graph 0).openWave = none ∧ (s.graph 0).st = .running ∧
      (s.graph 0).frozen = false :=
  ⟨heldUp (24575 + 1), by rw [held_up]; decide, held_by 24575, rfl, rfl, rfl⟩

/-- A port that is up on both lanes. -/
def linked (f : Port → Port) : State := (slot id).mapPort 3 (fun p => f { p with up := true, lane0 := true, lane1 := true })
theorem leBytes_shifted (n c : Nat) : leBytes n (c * 256 ^ n) = leBytes n 0 := by
  induction n generalizing c with
  | zero => rfl
  | succ n ih =>
    have h : c * 256 ^ (n + 1) = 256 * (c * 256 ^ n) := by rw [Nat.pow_succ]; ac_rfl
    have hz : BitVec.ofNat 8 (256 * (c * 256 ^ n)) = 0 := by
      apply BitVec.eq_of_toNat_eq; rw [BitVec.toNat_ofNat]; exact Nat.mul_mod_right 256 _
    simp only [leBytes, h, hz]
    rw [Nat.mul_div_cancel_left _ (by decide : 0 < 256), ih]
    rfl
/-- A flit of 248 zero bytes with a number where its CRC stands. -/
def flitOf (c : BitVec 64) : BitVec 2048 := .ofNat 2048 (c.toNat * 2 ^ 1984)
theorem pow_parts : (2 : Nat) ^ 1984 = 256 ^ 248 ∧ (2 : Nat) ^ 1984 = 2 ^ 32 * (16 * 2 ^ 1948) ∧ (2 : Nat) ^ 2048 = 2 ^ 64 * 2 ^ 1984 ∧
    0 < (2 : Nat) ^ 1984 ∧ 0 < (2 : Nat) ^ 32 := by decide +kernel
theorem flitOf_toNat (c : BitVec 64) : (flitOf c).toNat = c.toNat * 2 ^ 1984 := by
  rw [flitOf, BitVec.toNat_ofNat]
  apply Nat.mod_eq_of_lt
  rw [pow_parts.2.2.1]
  exact Nat.mul_lt_mul_of_pos_right c.isLt pow_parts.2.2.2.1
theorem flitOf_fields (c : BitVec 64) : leBytes 248 (flitOf c).toNat = leBytes 248 0 ∧ (flitOf c).toNat / 2 ^ 1984 = c.toNat ∧
    (flitOf c).toNat / 2 ^ 32 % 16 = 0 ∧ flitSeq (flitOf c) = 0 := by
  have h : c.toNat * (2 ^ 32 * (16 * 2 ^ 1948)) = 2 ^ 32 * (16 * (c.toNat * 2 ^ 1948)) :=
    (Nat.mul_left_comm _ _ _).trans (congrArg _ (Nat.mul_left_comm _ _ _))
  refine ⟨?_, ?_, ?_, ?_⟩
  · rw [flitOf_toNat, pow_parts.1, leBytes_shifted]
  · rw [flitOf_toNat, Nat.mul_div_cancel _ pow_parts.2.2.2.1]
  · rw [flitOf_toNat, pow_parts.2.1, h, Nat.mul_div_cancel_left _ pow_parts.2.2.2.2, Nat.mul_mod_right]
  · apply BitVec.eq_of_toNat_eq
    rw [flitSeq, flitOf_toNat, pow_parts.2.1, h, BitVec.toNat_ofNat,
      show (2 : Nat) ^ 32 = 2 ^ 16 * 2 ^ 16 from by decide +kernel, Nat.mul_assoc, Nat.mul_mod_right]; rfl
/-- The CRC of the flit of zeros. -/
def zeroCrc : BitVec 64 := Config.crc64 (leBytes 248 0)
theorem witness_PortSteps_flit :
    ((linked id).port 3).up = true ∧
    (Config.crc64 (leBytes 248 (flitOf (zeroCrc + 1)).toNat)).toNat ≠ (flitOf (zeroCrc + 1)).toNat / 2 ^ 1984 ∧
    (Config.crc64 (leBytes 248 (flitOf zeroCrc).toNat)).toNat = (flitOf zeroCrc).toNat / 2 ^ 1984 ∧ (flitOf zeroCrc).toNat / 2 ^ 32 % 16 = 0 ∧
    flitSeq (flitOf zeroCrc) = ((linked (fun p => { p with rxSeq := 0xFFFF })).port 3).rxSeq + 1 ∧
    (let s := linked (fun p => { p with rxSeq := 0xFFFF, early := [.ofNat 2048 1] })
     flitSeq (.ofNat 2048 1) = (s.port 3).rxSeq + 2 ∧ (s.port 3).early = [.ofNat 2048 1]) ∧
    (let s := linked (fun p => { p with rxSeq := 0xFFFE })
     flitSeq (flitOf zeroCrc) ≠ (s.port 3).rxSeq + 1 ∧ (flitSeq (flitOf zeroCrc) - ((s.port 3).rxSeq + 1)).toNat < Config.replayFlits ∧
       (s.port 3).early = []) := by
  refine ⟨by decide +kernel, ?_, ?_, (flitOf_fields _).2.2.1, ?_, by decide +kernel, ?_⟩
  · rw [(flitOf_fields _).1, (flitOf_fields _).2.1]
    intro h
    have h1 : zeroCrc = zeroCrc + 1 := BitVec.eq_of_toNat_eq h
    bv_omega
  · rw [(flitOf_fields _).1, (flitOf_fields _).2.1]; rfl
  · rw [(flitOf_fields _).2.2.2]; decide +kernel
  · intro s; rw [(flitOf_fields _).2.2.2]; decide +kernel
/-- A partition's ring of 16 records at virtual address 0x2_0000: one that is not full, one that is, and one at the end of its numbers. -/
theorem witness_TrapWithoutHandler_record :
    (let s := twoContexts.mapPart 0 (fun p => { p with errbase := 0x20000, errsize := 4, errhead := 15 })
     let r : Rec := { cls := 0x0D, tile := 0, graph := some 0, ukind := 6, unit := 0, slot := 0, ctx := 0, synd := 0, addr := 0, detail := 0 }
     partOfTile s r.tile = some 0 ∧ (15 : Word).toNat ≠ 16 ∧
       (sysWrite s 0 (0x20000 + u (64 * 15)) ((recordDwords s 0 r).flatMap (leBytes 8))).1 = 0) ∧
    ((0 : Word) - (2 ^ 64 - 16)).toNat = 16 := by decide +kernel
/-- Stream port 1 of port 3 has a window of 64 bytes at 0x2000 that is written, in the partition of two contexts. -/
def windowed : State :=
  { twoContexts with parts := Assoc.set twoContexts.parts 0 { twoContexts.part 0 with portmask := 8 } }.mapPort 3 (fun p =>
    { p with up := true, windows := [(1, 0x2000, 64, 32, true)] })
theorem witness_PortSteps :
    (let s := linked (fun p => { p with replay := List.replicate 64 0 })
     (s.port 3).up = true ∧ Config.replayFlits ≤ (s.port 3).replay.length) ∧
    (((slot id).port 3).up = false ∧ ((slot id).port 3).retired = 0) ∧
    ((linked (fun p => { p with up := false, retired := 2 })).port 3).retired = 2 ∧
    ((linked (fun p => { p with up := false, retired := 3 })).port 3).retired = 3 ∧ (((linked id).port 3).lane0 = true ∧ ((linked id).port 3).lane1 = true) ∧
    (let s := linked (fun p => { p with replay := [5] })
     let p := s.port 3
     p.up = true ∧ tallyHit (s.mapPort 3 (fun p => { p with sent := p.sent ++ p.replay.dropWhile (fun f => flitSeq f != 5), replayed := p.replayed + u (p.replay.dropWhile (fun f => flitSeq f != 5)).length, errors := p.errors + 1 }))
        (portTile 3) 3 (2 * 3 + if p.lane0 && p.lane1 then (5 : BitVec 16).toNat % 2 else if p.lane0 then 0 else 1) = none) ∧
    Assoc.get? ((linked id).port 3).windows 1 = none ∧
    (Assoc.get? (windowed.port 3).windows 1 = some (0x2000, 64, 32, true) ∧ (32 : Word).toNat + 32 ≤ (64 : Word).toNat ∧
      (let runs := liveRuns { data := 7, pred := 5, kind := 0, tag := 0 }
       runs.length = 2 ∧ agentHeld windowed (portAg windowed 3) true (runs.map (fun r => (0x2000 + 32 + u r.1, 4))) = false ∧
       (windowCause windowed (portAg windowed 3) (0x2000 + 32) runs).1 = 0)) := by decide +kernel

/-- Thermal zone 7 of the slot's machine, changed. -/
def heated (temp : Nat) (f : Zone → Zone) : State := (slot id).mapZone 7 (fun x => f { x with temp := temp })
/-- A step of the stretch is to be released at time 5. -/
def releasing : State := { slot id with mod := { (slot id).mod with stretch := 1, releaseAt := some 5, ref := 5 } }
theorem witness_ModuleSteps :
    (let m := (slot id).zone 7
     m.trip ≤ 110 ∧ 100 < m.trip ∧ m.warn ≤ 100 ∧ 90 < m.warn ∧ 90 ≤ m.clear ∧ 92 < m.warn ∧ m.clear < 92 ∧ m.warned = false) ∧
    (let s := heated 95 (fun x => { x with warned := true, deadline := some 6 })
     let late : State := { s with mod := { s.mod with ref := 6 } }
     (late.zone 7).deadline = some 6 ∧ (late.zone 7).warned = true ∧ 6 ≤ late.mod.ref ∧ (late.zone 7).clear < (late.zone 7).temp ∧ s.mod.ref < 6 ∧
       ((heated 90 (fun x => { x with deadline := some 6 })).zone 7).temp ≤ ((heated 90 id).zone 7).clear) ∧
    (let s := heated 95 (fun x => { x with warned := true })
     (s.zone 7).warned = true ∧ (s.zone 7).deadline = none ∧ (s.zone 7).clear < (s.zone 7).temp ∧ (s.zone 7).stepAt ≤ s.mod.ref) ∧
    (let s := heated 95 (fun x => { x with warned := true, stepAt := 1 })
     (s.zone 7).warned = true ∧ (s.zone 7).deadline = none ∧ (s.zone 7).clear < (s.zone 7).temp ∧ s.mod.ref < (s.zone 7).stepAt) ∧
    (let s := heated 89 id
     (s.zone 7).warned = false ∧ (∀ e ∈ s.zones, e.2.temp < e.2.clear) ∧ 0 < { s.mod with limited := 1 }.stretch + { s.mod with limited := 1 }.limited ∧
       s.mod.releaseAt = none) ∧
    (releasing.mod.releaseAt = some 5 ∧ 5 ≤ releasing.mod.ref ∧ { releasing.mod with ref := 4 }.ref < 5 ∧ 0 < releasing.mod.stretch) ∧
    ((slot id).mod.powerLimit ≤ 16000 ∧ (slot id).mod.powerLimit < 16001) ∧
    { (slot id).mod with frozen := true }.frozen = true ∧
    ((∀ e ∈ State.reset.graphs, e.2.part = 3 → e.2.st ≠ .running ∧ e.2.st ≠ .loading ∧ e.2.st ≠ .cut) ∧ rectFree State.reset 3 4 5 6 7 = true) ∧
    ((slot id).tile 9).retired = false := by decide +kernel

theorem witness_EncodeDecode : Instr.wellFormed (.vadd 31 30 29 0 7) = true ∧ encode (.vadd 31 30 29 0 7) ≠ none := by decide +kernel
theorem witness_DecodeEncode : 0xF4A63826 < 2 ^ 32 ∧ decodeWord 0xF4A63826 = some (.graphctlSlot 5 6 7) := by decide +kernel
/-- The slot whose instruction buffer holds a word at its PC. -/
def buffered (c : BitVec 32) : State := (slot id).mapTile 0 (fun t => { t with ibuf := [(0, c)] })
/-- The fetch, with the choice that the spec leaves open given. -/
def fetchBy (b : Bool) (s : State) (tile : Nat) (pc : PC) : Nat × Bool × State :=
  let key := tmemKey tile pc.toNat
  let w := leNat (Memory.readBytes s.tmem key 4)
  let bad := tmemPoison s key 4
  let keep (s : State) : State := s.mapTile tile (fun t => { t with ibuf := Assoc.set t.ibuf pc.toNat (.ofNat 32 w) })
  match Assoc.get? (s.tile tile).ibuf pc.toNat with
  | some c =>
    if c.toNat = w && !bad then (w, false, s)
    else if b then (w, bad, if bad then (tmemSense s key 4).draw else keep s.draw)
    else (c.toNat, false, s.draw)
  | none => (w, bad, if bad then tmemSense s key 4 else keep s)
theorem fetchBy_open (s : State) (tile : Nat) (pc : PC) : fetchWord s tile pc = fetchBy (Config.fetchNew s.drawn) s tile pc := rfl
theorem buffered_drawn (c : BitVec 32) (i : Nat) : (takeSlot (buffered c) i).drawn = 0 := rfl
/-- Whichever of the two words is delivered, a HALT or a NOP, the slot issues. -/
theorem buffered_turn : slotOfTile (buffered 2) 0 = some 0 := by
  simp only [slotOfTile, candidates, ready, threadTurn, fetched, fetchBy_open, buffered_drawn]
  generalize Config.fetchNew 0 = b
  cases b <;> decide +kernel
theorem buffered_issues : pickSlot (buffered 2) = some 0 := by
  have h : (threadTiles (buffered 2)).filter (fun t => decide ((buffered 2).turn ≤ t)) = [0] := by decide +kernel
  rw [pickSlot, h, List.findSome?_cons, buffered_turn]
theorem witness_StepRunsDecoded :
    (Issues (slot id) 0 ∧ fetchRefused (slot id) 0 = false ∧ Assoc.get? ((slot id).tile 0).ibuf 0 = none) ∧
    (Issues (buffered 1) 0 ∧ fetchRefused (buffered 1) 0 = false ∧ Assoc.get? ((buffered 1).tile 0).ibuf 0 = some 1 ∧
      littleEndian (Memory.readBytes (buffered 1).tmem 0 4) = 1 ∧ tmemPoison (buffered 1) 0 4 = false) ∧
    (Issues (buffered 2) 0 ∧ Assoc.get? ((buffered 2).tile 0).ibuf 0 = some 2 ∧ littleEndian (Memory.readBytes (buffered 2).tmem 0 4) ≠ 2) ∧
    (let s := handled (slot (fun t => { t with pc := 0x3C000 }))
     Issues s 0 ∧ fetchRefused s 0 = true) ∧
    (let s := handled (slot (fun t => { t with pend := some ⟨3, 8, 2, 0⟩ }))
     s.agenda = [] ∧ s.mod.powered = true ∧ s.mod.tripped = false ∧ s.mod.frozen = false ∧ pickSlot s = some 0 ∧ dueTrap (s.thread 0) = true) ∧
    { slot id with agenda := [.deviceFreeze] }.agenda = [.deviceFreeze] ∧
    (State.reset.agenda = [] ∧ { State.reset.mod with powered := false }.powered = false) := by
  refine ⟨?_, ?_, ⟨⟨rfl, rfl, rfl, rfl, buffered_issues, ?_⟩, ?_, ?_⟩, ?_⟩ <;> (try unfold Issues) <;> decide +kernel
theorem witness_MemoryKept : MemoryOk (slot id) ∧ (∃ t, step (slot id) = .next t) := by
  refine ⟨?_, ?_⟩
  · unfold MemoryOk; decide +kernel
  · exact ⟨_, rfl⟩

/-- A vault leaf that maps page 0 to the vault of tile 1 at offset 65536, with PROT bits set. -/
def leaf : Word := .ofNat 64 (2 ^ 63 + 2 ^ 62 + 2 ^ 61 + 2 ^ 42 + 8 * 8192)
/-- A store of two bytes that its home has accepted. -/
def stored : HomeOp :=
  { part := 0, ea := 0xFFF8, leaf := leaf, large := false, act := .store [1, 2] false, th := 0, graph := 0, epoch := 0, acq := false, hold := none }
theorem witness_DeviceEffects_memory :
    (let s := { slot id with homeQ := [stored] }
     s.homeQ = [stored] ∧ stored.hw = false ∧ stored.settled s = false ∧ contained (s.graph 0) = false ∧ GlobalSite s 0 leaf false 0xFFF8 2) ∧
    (let s := bridged 3 1 (owned id mapped)
     s.mod.bridge = true ∧ (s.port 3).up = true ∧ s.mod.hostPorts.getLsbD 3 = true ∧ s.mod.hostQ = [] ∧
       (0xFFF8 : Word).toNat < 2 ^ 60 ∧ (s.part 0).exists_ = true ∧ s.homeQ = [] ∧
       contained (s.graph (graphKey 16 0)) = false ∧ (s.tile 0).tlb.find? (tlbHit 0 0xFFF8) = some ⟨0, 0, false, leaf⟩ ∧
       GlobalSite s 0 leaf false 0xFFF8 8) ∧
    (let s := begun 1 (.copy 1 2 3 false 0 0) (fun a => { a with cmd := { a.cmd with va := .ofNat 64 (loc 0x40), vb := .ofNat 64 (loc 0x80), vc := 5 } })
     ∃ a, activeAt s 0 1 0 = some a ∧ a.begun = true ∧ a.done = false ∧ a.held = none ∧ a.owed = 0 ∧ a.cmd.i = .copy 1 2 3 false 0 0 ∧ a.cmd.vd = 0 ∧
       a.pos < a.cmd.vc.toNat ∧ slotStands s 0 = false ∧ LocalSite s 0 9 0 a.cmd.lvl (.ofNat 64 (loc 0x40)) 5 ∧ LocalSite s 0 9 0 a.cmd.lvl (.ofNat 64 (loc 0x80)) 5) ∧
    (let s := (begun 2 (.rowclose 1 false 0 0) (fun a => { a with cmd := { a.cmd with va := 0x1864 } })).mapTile 0
       (fun t => t.mapBank 3 (fun b => { b with row := some (100, 0) }))
     ∃ a, (s.me.queue 2).active = [a] ∧ a.begun = true ∧ a.done = false ∧ a.held = none ∧ a.fill = [] ∧ (s.me.queue 2).waiting = [] ∧
       rowHazard s.cycle.toNat (a.cmd.va.toNat % 2 ^ 11) false (s.tile 0) ((s.tile 0).bank 3) = .clear ∧ a.cmd.va.toNat / 2 ^ 11 % 32 = 3) := by
  have clean (s : State) (h : s.sectors = []) (k : Nat) : (s.sector k).cond = .clean ∧ (s.sector k).tag.toNat = 0 := by
    rw [State.sector, h]; exact ⟨rfl, rfl⟩
  refine ⟨?_, ?_, ⟨_, rfl, by unfold LocalSite; decide +kernel⟩, _, rfl, by decide +kernel⟩
  all_goals
    intro s
    and_intros
    any_goals first
      | exact fun k _ _ => clean s rfl k
      | decide +kernel
theorem witness_DeviceEffects_array :
    (∃ r j a, running.regions = [r] ∧ nextRun running r = some (0, j, a) ∧ runLatch running r 0 = some ⟨0, 0, 0, 0, 0⟩ ∧ running.vecs = []) ∧
    (let v := { leaving with cols := [(0, [7, 8])] }
     let s := { running with vecs := [v] }
     accWaits s 0 v.row 1 = false ∧ v.due ≤ s.cycle.toNat ∧ v.acc = false ∧ v.lost = [] ∧ v.cleat = 0 ∧ fabricRuns s 0 = true) ∧
    (let s := framed (24 + 9) (3 * 2 ^ 254 + 2 ^ 252 + 2 ^ 249) (begun 3 (.mdrain 1 2 3 0 0) (fun a => { a with cmd := { a.cmd with va := .ofNat 64 (2 ^ 21) } }))
     ∃ a, (s.me.queue 3).active = [a] ∧ a.begun = true ∧ a.done = false ∧ a.held = none ∧ a.owed = 0 ∧ drainStopped s 0 a.cmd = false ∧
       a.cmd.va.toNat / 2 ^ 21 % 2 = 1 ∧ a.cmd.vc = 0 ∧ a.cmd.nan = false ∧ a.row ≠ a.cmd.va.toNat / 2 ^ 9 % 2 ^ 9 + 1 ∧ drainCols s 0 0 ≠ 0 ∧
       drainStream (s.tile 0) 0 = none ∧ drainEndpoint ((s.tile 0).ctx 0) = some 9 ∧ ((s.tile 0).ep 9).q = [] ∧ (s.tile 0).accBad = [] ∧
       (s.tile 0).accPoison = []) := by
  refine ⟨⟨_, _, _, rfl, rfl, ?_, ?_⟩, ?_, ⟨_, rfl, ?_⟩⟩
  all_goals first | rfl | decide +kernel
theorem witness_DeviceEffects_threads :
    (let s := (framed (24 + 9) (3 * 2 ^ 254 + 4 * 2 ^ 161) (framed (24 + 4) (2 ^ 255 + 16 * 2 ^ 240)
       (slot (fun t => { t with wait := .commit, bight := { t.bight with pushes := [⟨9, beat⟩] } })))).mapTile 0 (fun t =>
         t.mapEp 9 (fun p => { p with permits := 1 }))
     s.me.run = .running ∧ s.me.wait = .commit ∧ elementRuns s 0 0 = true ∧ contained (s.graph 0) = false ∧
       s.me.bight.stores = [] ∧ s.me.bight.pops = [] ∧ s.me.bight.pushes = [⟨9, beat⟩] ∧ (commitBlock s 0).2 = none) ∧
    (let s := (slot id).mapGraph 0 (fun g => { g with openWave := some 1, pending := some (Snap.start 1), deadline := some 0 })
     (s.graph 0).openWave = some 1 ∧ (s.graph 0).deadline = some 0 ∧ 0 ≤ s.mod.ref ∧ (s.graph 0).frozen = false ∧ graphThreads s 0 = [0] ∧ s.me.graph = 0 ∧
       s.me.run = .running ∧ s.me.wave ≠ 1 ∧ startedHolds s.me = false ∧ s.me.gbar = none ∧ s.homeQ = [] ∧ s.me.lvl = false ∧
       Thread.outside s.me = false ∧ s.me.rcnt.toNat + 1 < s.me.rlim.toNat) := by decide +kernel

end Sys2Proof.Tests
end

section
/-! PROOF. O14, of spec/07_encoding_and_assembly.md: ILLEGAL before PRIV, PRIV of a system register that the thread's level does not reach
(R246, Table 8-10), and PRIV at U of SYSRET and of every form of major 0x3D (R204). -/

namespace Sys2Proof.Machine

open Sys2Proof.Claims

/-- R203: at every level a word that is no instruction raises ILLEGAL (cause 1). -/
theorem exec_illegalWord (w : IWord) (s : State) : exec (.illegalWord w) s = .next (raise s 1 (u w.toNat)) := by
  have widened : w.zeroExtend 64 = u w.toNat := BitVec.eq_of_toNat_eq (by simp [u])
  calc exec (.illegalWord w) s
    _ = .next (raise s 1 (w.zeroExtend 64)) := rfl
    _ = .next (raise s 1 (u w.toNat)) := by rw [widened]

/-- R246, Table 8-10: MFS is refused in M class at every level, and in S class at U. -/
theorem privCheck_read {lvl : Bool} {r : Nat} : privCheck lvl false r = true ↔ 0x800 ≤ r ∨ 0x200 ≤ r ∧ lvl = false := by
  simp [privCheck, readableAtU, and_comm]

/-- R246, Table 8-10: MTS is refused in M class at every level; at U it reaches FPCTL, the scale registers and the strand formats alone. -/
theorem privCheck_write {lvl : Bool} {r : Nat} :
    privCheck lvl true r = true ↔ 0x800 ≤ r ∨ lvl = false ∧ r ≠ 1 ∧ (r < 0x100 ∨ 0x140 ≤ r) := by
  simp [privCheck, writableAtU]

/-- R247: MFS of a register whose class the thread does not reach raises PRIV and reads nothing. -/
theorem exec_mfs_priv {d : BitVec 5} {r : BitVec 12} {s : State} (h : privCheck s.me.lvl false r.toNat = true) :
    exec (.mfs d r) s = .next (raiseFree s 2) :=
  congrArg Host.Outcome.next (if_pos h)

/-- R248: MTS of a register whose class the thread does not reach raises PRIV, before its other checks and its implicit knot. -/
theorem exec_mts_priv {a : BitVec 5} {r : BitVec 12} {s : State} (h : privCheck s.me.lvl true r.toNat = true) :
    exec (.mts a r) s = .next (raiseFree s 2) :=
  congrArg Host.Outcome.next (if_pos h)

/-- R375: SYSRET and SYSRET.RE at U raise PRIV and commit nothing. -/
theorem sysret_user {re : Bool} {s : State} (h : s.me.lvl = false) : sysret re s = raiseFree s 2 := by
  unfold sysret; rw [h]; rfl

/-- Settles O14: the class check of MFS and MTS by Table 8-10; of the fourteen forms, the two of SYSRET have their own check of the level and
the twelve of major 0x3D share that of `systemOp`. -/
theorem privilegeTraps : Obligations.PrivilegeTraps := by
  refine ⟨fun s d a r => ⟨fun w => exec_illegalWord w s, fun h => ?_, fun h => ?_⟩, fun s i d a b user form => ?_⟩
  · exact ⟨_, exec_mfs_priv (privCheck_read.mpr h)⟩
  · have refused : 0x800 ≤ r.toNat ∨ s.me.lvl = false ∧ r.toNat ≠ 1 ∧ (r.toNat < 0x100 ∨ 0x140 ≤ r.toNat) :=
      h.imp_right (And.imp_right fun _ => by omega)
    exact ⟨_, exec_mts_priv (privCheck_write.mpr refused)⟩
  · refine ⟨Config.freeWord s.drawn, ?_⟩
    rcases form with rfl | rfl | system
    · exact congrArg Host.Outcome.next (sysret_user user)
    · exact congrArg Host.Outcome.next (sysret_user user)
    · rcases system with rfl | rfl | rfl | rfl | rfl | rfl | rfl | rfl | rfl | rfl | rfl | rfl
      all_goals exact congrArg Host.Outcome.next (systemOp_user user)

end Sys2Proof.Machine
end

section
/-! PROOF. O36, of spec/09_isa_vector.md: the vector compares (R262). -/

namespace Sys2Proof.Machine

open Sys2Proof.Claims Sys2Proof.Safety

/-- A thread that has written a predicate and its FPCTL steps on from the PC it had. -/
theorem Thread.next_wp_fpctl (t : Thread) (d : BitVec 3) (x f : Word) :
    Thread.next { t.wp d x with fpctl := f } = { t.wp d x with fpctl := f, pc := t.pc + 4, wait := .none } := by
  simp only [Thread.next, Thread.wp_pc]

/-- R262: each of the five compare forms is `compare` with the conditions that its rule gives. -/
theorem exec_of_compareRule {s : State} {i : Instr} {tc : BitVec 4} {d : BitVec 3} {a b : BitVec 5} {g : BitVec 3}
    {fl : Val → Val → Bool} {it : Int → Int → Bool} (h : compareRule i = some (tc, d, a, b, g, fl, it)) :
    exec i s = .next (compare tc d a b g fl it s) := by
  unfold compareRule at h
  split at h
  case h_6 => cases h
  all_goals cases h; rfl

/-- R196, R262: the unordered condition is well-formed with the floating types alone. -/
theorem wellFormed_vcmpUn {d : BitVec 3} {a b : BitVec 5} {t : BitVec 4} {g : BitVec 3} :
    Instr.wellFormed (.vcmpUn d a b t g) = true ↔ t.toNat ≤ 5 := decide_eq_true_iff

/-- Settles O36: every form is one `compare`, a vector operation with no FP_NAN value, so that a ready one has its effect; the write of pD
leaves the PC from which the thread steps on. -/
theorem vectorCompare : Obligations.VectorCompare := by
  refine ⟨fun s i tc d a b g fl it rule ready => ?_, fun t d a b g integer => ?_⟩
  · rw [exec_of_compareRule rule, compare, vectorOp_ready ready]
    simp only [Thread.next_wp_fpctl]
    rfl
  · rw [← Bool.not_eq_true, wellFormed_vcmpUn]
    omega

end Sys2Proof.Machine
end

section
/-! PROOF. O53, O54 and O55, of spec/07_encoding_and_assembly.md: the encoder and the decoder are inverse to each other (R194 to R204). A word
is the sum of its fields in their places, so that what a form tests and reads of the word of an instruction is linear arithmetic; and a field
of any word, in its place, is a difference of two lower parts of the word (`bits_mul_pow`), so that the fields of a form add up to the word. -/

namespace Sys2Proof.Decode

/-! ### From the instruction to its word -/

/-- R202: what stands below bit 26 leaves the major opcode. -/
theorem major_add {k r : Nat} (h : k % 2 ^ 26 + r < 2 ^ 26) : (k + r) / 2 ^ 26 = k / 2 ^ 26 := by omega

theorem ofNat_eq_of_toNat {n k : Nat} {x : BitVec n} (h : k = x.toNat) : BitVec.ofNat n k = x := by
  subst h; simp

theorem decide_eq_of_toNat {k : Nat} {x : Bool} (h : k = (BitVec.ofBool x).toNat) : decide (k = 1) = x := by
  subst h; cases x <;> rfl

/-- A word that matches a form: the decoder answers that form. The decision procedure is that of the goal. -/
theorem ite_of_pos {α : Type} {c : Prop} {inst : Decidable c} {a b r : α} (h : c) (hr : a = r) : @ite α c inst a b = r :=
  (if_pos h).trans hr

/-- A word that does not match a form: the decoder goes on to the next. -/
theorem ite_of_neg {α : Type} {c : Prop} {inst : Decidable c} {a b r : α} (h : ¬c) (hr : b = r) : @ite α c inst a b = r :=
  (if_neg h).trans hr

/-- The word of an instruction is of 32 bits, and the decoder's candidate for it is the instruction. -/
def Decodes (i : Instr) : Prop := ∀ w, encode i = some w → w < 2 ^ 32 ∧ candidate w = some i

theorem decodes_of {i : Instr} {w : Nat} (h : encode i = some w) (hw : w < 2 ^ 32) (hc : candidate w = some i) : Decodes i := by
  intro v hv; rw [h] at hv; cases hv; exact ⟨hw, hc⟩

/-- R202: the misc and integer forms, majors 0x00 to 0x01. -/
theorem decodes_integer :
    (∀ d, Decodes (.kwait d)) ∧ (∀ d, Decodes (.time d)) ∧ (∀ d, Decodes (.tid d)) ∧ (∀ d a b, Decodes (.add d a b)) ∧ (∀ d a b, Decodes (.sub d a b))
    ∧ (∀ d a b, Decodes (.and d a b)) ∧ (∀ d a b, Decodes (.or d a b)) ∧ (∀ d a b, Decodes (.xor d a b)) ∧ (∀ d a b, Decodes (.andn d a b)) ∧ (∀ d a
    b, Decodes (.shl d a b)) ∧ (∀ d a b, Decodes (.shr d a b)) ∧ (∀ d a b, Decodes (.sra d a b)) ∧ (∀ d a b, Decodes (.rotl d a b)) ∧ (∀ d a b,
    Decodes (.min d a b)) ∧ (∀ d a b, Decodes (.max d a b)) ∧ (∀ d a b, Decodes (.minu d a b)) ∧ (∀ d a b, Decodes (.maxu d a b)) ∧ (∀ d a b p,
    Decodes (.sel d a b p)) := by
  and_intros
  all_goals
    intros
    refine decodes_of rfl ?_ ?_
    all_goals simp only [put, Nat.add_assoc]
    · omega
    unfold candidate
    rw [major_add (by omega)]
    simp only [Nat.reducePow, Nat.reduceDiv]
    dsimp only [major00, major01, bits]
    repeat first | refine ite_of_neg (by omega) ?_ | refine ite_of_pos (by omega) ?_
    congr 2
    all_goals apply ofNat_eq_of_toNat
    all_goals omega

/-- R202: the multiply, divide and bit operations, majors 0x02 to 0x03. -/
theorem decodes_bits :
    (∀ d a b, Decodes (.mul d a b)) ∧ (∀ d a b, Decodes (.mulh d a b)) ∧ (∀ d a b, Decodes (.mulhu d a b)) ∧ (∀ d a b, Decodes (.div d a b)) ∧ (∀ d a
    b, Decodes (.divu d a b)) ∧ (∀ d a b, Decodes (.rem d a b)) ∧ (∀ d a b, Decodes (.remu d a b)) ∧ (∀ d a, Decodes (.clz d a)) ∧ (∀ d a, Decodes
    (.ctz d a)) ∧ (∀ d a, Decodes (.popc d a)) ∧ (∀ d a, Decodes (.sextb d a)) ∧ (∀ d a, Decodes (.sexth d a)) ∧ (∀ d a, Decodes (.sextw d a)) := by
  and_intros
  all_goals
    intros
    refine decodes_of rfl ?_ ?_
    all_goals simp only [put, Nat.add_assoc]
    · omega
    unfold candidate
    rw [major_add (by omega)]
    simp only [Nat.reducePow, Nat.reduceDiv]
    dsimp only [major02, major03, bits]
    repeat first | refine ite_of_neg (by omega) ?_ | refine ite_of_pos (by omega) ?_
    congr 2
    all_goals apply ofNat_eq_of_toNat
    all_goals omega

/-- R202: the compares and predicate logic, major 0x04. -/
theorem decodes_compare :
    (∀ p d a, Decodes (.cmpeq p d a)) ∧ (∀ p d a, Decodes (.cmpne p d a)) ∧ (∀ p d a, Decodes (.cmplt p d a)) ∧ (∀ p d a, Decodes (.cmple p d a)) ∧ (∀
    p d a, Decodes (.cmpltu p d a)) ∧ (∀ p d a, Decodes (.cmpleu p d a)) ∧ (∀ p q g, Decodes (.pand p q g)) ∧ (∀ p q g, Decodes (.por p q g)) ∧ (∀ p q
    g, Decodes (.pxor p q g)) ∧ (∀ p q, Decodes (.pnot p q)) ∧ (∀ p d, Decodes (.pset p d)) ∧ (∀ d p, Decodes (.pget d p)) := by
  and_intros
  all_goals
    intros
    refine decodes_of rfl ?_ ?_
    all_goals simp only [put, Nat.add_assoc]
    · omega
    unfold candidate
    rw [major_add (by omega)]
    simp only [Nat.reducePow, Nat.reduceDiv]
    dsimp only [major04, bits]
    repeat first | refine ite_of_neg (by omega) ?_ | refine ite_of_pos (by omega) ?_
    congr 2
    all_goals apply ofNat_eq_of_toNat
    all_goals omega

/-- R202: the immediates, loop counters and system registers, majors 0x05 to 0x0D. -/
theorem decodes_immediate :
    (∀ d a m, Decodes (.addi d a m)) ∧ (∀ d a m, Decodes (.andi d a m)) ∧ (∀ d a m, Decodes (.ori d a m)) ∧ (∀ d a m, Decodes (.xori d a m)) ∧ (∀ d a
    h, Decodes (.shli d a h)) ∧ (∀ d a h, Decodes (.shri d a h)) ∧ (∀ d a h, Decodes (.srai d a h)) ∧ (∀ d l, Decodes (.li d l)) ∧ (∀ d k m, Decodes
    (.lis d k m)) ∧ (∀ k o, Decodes (.loop k o)) ∧ (∀ k d, Decodes (.lcsetReg k d)) ∧ (∀ k o, Decodes (.lcsetImm k o)) ∧ (∀ k n, Decodes (.lcchain k
    n)) ∧ (∀ k, Decodes (.lcchainNone k)) ∧ (∀ d r, Decodes (.mfs d r)) ∧ (∀ d r, Decodes (.mts d r)) := by
  and_intros
  all_goals
    intros
    refine decodes_of rfl ?_ ?_
    all_goals simp only [put, Nat.add_assoc]
    · omega
    unfold candidate
    rw [major_add (by omega)]
    simp only [Nat.reducePow, Nat.reduceDiv]
    dsimp only [major05, major06, major07, major08, major09, major0A, major0B, major0C, major0D, bits]
    repeat first | refine ite_of_neg (by omega) ?_ | refine ite_of_pos (by omega) ?_
    congr 2
    all_goals apply ofNat_eq_of_toNat
    all_goals omega

/-- R202: the branches, jumps and calls, majors 0x10 to 0x13. -/
theorem decodes_branch :
    (∀ d a o, Decodes (.beq d a o)) ∧ (∀ d a o, Decodes (.bne d a o)) ∧ (∀ d a o, Decodes (.blt d a o)) ∧ (∀ d a o, Decodes (.bge d a o)) ∧ (∀ d a o,
    Decodes (.bltu d a o)) ∧ (∀ d a o, Decodes (.bgeu d a o)) ∧ (∀ p o, Decodes (.bp p o)) ∧ (∀ p o, Decodes (.bpAny p o)) ∧ (∀ p o, Decodes (.bpAll p
    o)) ∧ (∀ p o, Decodes (.bnp p o)) ∧ (∀ p o, Decodes (.bnpAny p o)) ∧ (∀ p o, Decodes (.bnpAll p o)) ∧ (∀ j, Decodes (.j j)) ∧ (∀ j, Decodes (.call
    j)) ∧ (∀ d, Decodes (.jr d)) ∧ (∀ d, Decodes (.callr d)) := by
  and_intros
  all_goals
    intros
    refine decodes_of rfl ?_ ?_
    all_goals simp only [put, Nat.add_assoc]
    · omega
    unfold candidate
    rw [major_add (by omega)]
    simp only [Nat.reducePow, Nat.reduceDiv]
    dsimp only [major10, major11, major12, major13, bits]
    repeat first | refine ite_of_neg (by omega) ?_ | refine ite_of_pos (by omega) ?_
    congr 2
    all_goals apply ofNat_eq_of_toNat
    all_goals omega

/-- R202: the scalar loads and stores, majors 0x14 to 0x16. -/
theorem decodes_access :
    (∀ d a o, Decodes (.ldb d a o)) ∧ (∀ d a o, Decodes (.ldbu d a o)) ∧ (∀ d a o, Decodes (.ldh d a o)) ∧ (∀ d a o, Decodes (.ldhu d a o)) ∧ (∀ d a
    o, Decodes (.ldw d a o)) ∧ (∀ d a o, Decodes (.ldwu d a o)) ∧ (∀ d a o, Decodes (.ldd d a o)) ∧ (∀ d a o, Decodes (.stb d a o)) ∧ (∀ d a o,
    Decodes (.sth d a o)) ∧ (∀ d a o, Decodes (.stw d a o)) ∧ (∀ d a o, Decodes (.std d a o)) ∧ (∀ d a b p k, Decodes (.indexedLoad d a b p k)) ∧ (∀ d
    a b p k, Decodes (.indexedStore d a b p k)) ∧ (∀ d a t, Decodes (.ldacq d a t)) ∧ (∀ d a t, Decodes (.strel d a t)) := by
  and_intros
  all_goals
    intros
    refine decodes_of rfl ?_ ?_
    all_goals simp only [put, Nat.add_assoc]
    · omega
    unfold candidate
    rw [major_add (by omega)]
    simp only [Nat.reducePow, Nat.reduceDiv]
    dsimp only [major14, major15, major16, bits]
    repeat first | refine ite_of_neg (by omega) ?_ | refine ite_of_pos (by omega) ?_
    congr 2
    all_goals apply ofNat_eq_of_toNat
    all_goals omega

/-- R202: the vector arithmetic and logic, majors 0x18 to 0x1A. -/
theorem decodes_arithmetic :
    (∀ d a b t p, Decodes (.vadd d a b t p)) ∧ (∀ d a b t p, Decodes (.vsub d a b t p)) ∧ (∀ d a b t p, Decodes (.vmul d a b t p)) ∧ (∀ d a b t p,
    Decodes (.vmin d a b t p)) ∧ (∀ d a b t p, Decodes (.vmax d a b t p)) ∧ (∀ d a t p, Decodes (.vabs d a t p)) ∧ (∀ d a t p, Decodes (.vneg d a t
    p)) ∧ (∀ d a b t p, Decodes (.vfma d a b t p)) ∧ (∀ d a b t p, Decodes (.vfms d a b t p)) ∧ (∀ d a b t p, Decodes (.vfnma d a b t p)) ∧ (∀ d a b t
    p, Decodes (.vand d a b t p)) ∧ (∀ d a b t p, Decodes (.vor d a b t p)) ∧ (∀ d a b t p, Decodes (.vxor d a b t p)) ∧ (∀ d a b t p, Decodes (.vshl
    d a b t p)) ∧ (∀ d a b t p, Decodes (.vshr d a b t p)) ∧ (∀ d a b t p, Decodes (.vsra d a b t p)) := by
  and_intros
  all_goals
    intros
    refine decodes_of rfl ?_ ?_
    all_goals simp only [put, Nat.add_assoc]
    · omega
    unfold candidate
    rw [major_add (by omega)]
    simp only [Nat.reducePow, Nat.reduceDiv]
    dsimp only [major18, major19, major1A, bits]
    repeat first | refine ite_of_neg (by omega) ?_ | refine ite_of_pos (by omega) ?_
    congr 2
    all_goals apply ofNat_eq_of_toNat
    all_goals omega

/-- R202: the vector compares and moves, major 0x1B. -/
theorem decodes_move :
    (∀ p d a t q, Decodes (.vcmpEq p d a t q)) ∧ (∀ p d a t q, Decodes (.vcmpNe p d a t q)) ∧ (∀ p d a t q, Decodes (.vcmpLt p d a t q)) ∧ (∀ p d a t
    q, Decodes (.vcmpLe p d a t q)) ∧ (∀ p d a t q, Decodes (.vcmpUn p d a t q)) ∧ (∀ d a b t p, Decodes (.vsel d a b t p)) ∧ (∀ d a t p, Decodes
    (.vmov d a t p)) ∧ (∀ d a t p, Decodes (.vbcast d a t p)) ∧ (∀ d a b t, Decodes (.vext d a b t)) ∧ (∀ d a b t, Decodes (.vins d a b t)) := by
  and_intros
  all_goals
    intros
    refine decodes_of rfl ?_ ?_
    all_goals simp only [put, Nat.add_assoc]
    · omega
    unfold candidate
    rw [major_add (by omega)]
    simp only [Nat.reducePow, Nat.reduceDiv]
    dsimp only [major1B, bits]
    repeat first | refine ite_of_neg (by omega) ?_ | refine ite_of_pos (by omega) ?_
    congr 2
    all_goals apply ofNat_eq_of_toNat
    all_goals omega

/-- R202: the permutes and reductions, majors 0x1C to 0x1D. -/
theorem decodes_permute :
    (∀ d a b t p, Decodes (.vperm d a b t p)) ∧ (∀ d a b t p, Decodes (.vshufLo d a b t p)) ∧ (∀ d a b t p, Decodes (.vshufHi d a b t p)) ∧ (∀ d a b t
    p, Decodes (.vshufEven d a b t p)) ∧ (∀ d a b t p, Decodes (.vshufOdd d a b t p)) ∧ (∀ d a b t p, Decodes (.vslideUp d a b t p)) ∧ (∀ d a b t p,
    Decodes (.vslideDn d a b t p)) ∧ (∀ d a p t q, Decodes (.vredsum d a p t q)) ∧ (∀ d a t p, Decodes (.vredmax d a t p)) ∧ (∀ d a t p, Decodes
    (.vredmin d a t p)) ∧ (∀ d a p t q, Decodes (.vscan d a p t q)) ∧ (∀ d a b t p, Decodes (.vdot d a b t p)) := by
  and_intros
  all_goals
    intros
    refine decodes_of rfl ?_ ?_
    all_goals simp only [put, Nat.add_assoc]
    · omega
    unfold candidate
    rw [major_add (by omega)]
    simp only [Nat.reducePow, Nat.reduceDiv]
    dsimp only [major1C, major1D, bits]
    repeat first | refine ite_of_neg (by omega) ?_ | refine ite_of_pos (by omega) ?_
    congr 2
    all_goals apply ofNat_eq_of_toNat
    all_goals omega

/-- R202: the roots, vector accesses and conversions, majors 0x1E to 0x26. -/
theorem decodes_convert :
    (∀ d a b t p, Decodes (.vdiv d a b t p)) ∧ (∀ d a p t q, Decodes (.vsqrt d a p t q)) ∧ (∀ d a t p, Decodes (.vrcp d a t p)) ∧ (∀ d a t p, Decodes
    (.vrsq d a t p)) ∧ (∀ d a t p, Decodes (.vexp2 d a t p)) ∧ (∀ d a t p, Decodes (.vlog2 d a t p)) ∧ (∀ d a p k f, Decodes (.vld d a p k f)) ∧ (∀ d
    a p k f, Decodes (.vst d a p k f)) ∧ (∀ d a b t p, Decodes (.vlds d a b t p)) ∧ (∀ d a b t p, Decodes (.vsts d a b t p)) ∧ (∀ d a b t x p, Decodes
    (.vgath d a b t x p)) ∧ (∀ d a b t x p, Decodes (.vscat d a b t x p)) ∧ (∀ d a t u p q, Decodes (.vcvt d a t u p q)) ∧ (∀ d a b t x p k, Decodes
    (.vqcvt d a b t x p k)) ∧ (∀ d a b t x p k, Decodes (.vdqcvt d a b t x p k)) ∧ (∀ d a t p, Decodes (.vpack d a t p)) ∧ (∀ d a t p, Decodes
    (.vunpack d a t p)) ∧ (∀ p d a t, Decodes (.vmask12 p d a t)) := by
  and_intros
  all_goals
    intros
    refine decodes_of rfl ?_ ?_
    all_goals simp only [put, Nat.add_assoc, ← BitVec.toNat_ofBool]
    · omega
    unfold candidate
    rw [major_add (by omega)]
    simp only [Nat.reducePow, Nat.reduceDiv]
    dsimp only [major1E, major20, major21, major22, major24, major25, major26, bits]
    repeat first | refine ite_of_neg (by omega) ?_ | refine ite_of_pos (by omega) ?_
    congr 2
    all_goals first | apply ofNat_eq_of_toNat | apply decide_eq_of_toNat
    all_goals omega

/-- R202: the fences, cleats, groups, tokens and tags, majors 0x29 to 0x2C. -/
theorem decodes_sync :
    (∀ k t, Decodes (.fence k t)) ∧ (∀ d a, Decodes (.cleatInit d a)) ∧ (∀ d a, Decodes (.cleatExp d a)) ∧ (∀ d k t, Decodes (.cleatArv d k t)) ∧ (∀ d
    a k t, Decodes (.cleatWait d a k t)) ∧ (∀ d a b k t, Decodes (.cleatTest d a b k t)) ∧ (∀ d a, Decodes (.join d a)) ∧ (∀ d a k t, Decodes (.leave
    d a k t)) ∧ (∀ d a k t, Decodes (.gbar d a k t)) ∧ (∀ d, Decodes (.tgive d)) ∧ (∀ d, Decodes (.ttake d)) ∧ (∀ d a, Decodes (.lookup d a)) ∧ (∀ d
    a, Decodes (.tagset d a)) ∧ (∀ d, Decodes (.tagclr d)) ∧ (∀ d a, Decodes (.tagread d a)) := by
  and_intros
  all_goals
    intros
    refine decodes_of rfl ?_ ?_
    all_goals simp only [put, Nat.add_assoc]
    · omega
    unfold candidate
    rw [major_add (by omega)]
    simp only [Nat.reducePow, Nat.reduceDiv]
    dsimp only [major29, major2A, major2B, major2C, bits]
    repeat first | refine ite_of_neg (by omega) ?_ | refine ite_of_pos (by omega) ?_
    congr 2
    all_goals apply ofNat_eq_of_toNat
    all_goals omega

/-- R202: the copies and row commands, majors 0x30 to 0x34. -/
theorem decodes_row :
    (∀ d a b x p q, Decodes (.copy d a b x p q)) ∧ (∀ d a b p q, Decodes (.copy2 d a b p q)) ∧ (∀ d a b x p q, Decodes (.copym d a b x p q)) ∧ (∀ d x
    p q, Decodes (.rowact d x p q)) ∧ (∀ d x p q, Decodes (.rowtakePl d x p q)) ∧ (∀ d x p q, Decodes (.rowtakeMk d x p q)) ∧ (∀ d a x p q, Decodes
    (.rowtakeTm d a x p q)) ∧ (∀ d a x p q, Decodes (.rowput d a x p q)) ∧ (∀ d x p q, Decodes (.rowclose d x p q)) ∧ (∀ d a p q, Decodes (.rowstat d
    a p q)) := by
  and_intros
  all_goals
    intros
    refine decodes_of rfl ?_ ?_
    all_goals simp only [put, Nat.add_assoc, ← BitVec.toNat_ofBool]
    · omega
    unfold candidate
    rw [major_add (by omega)]
    simp only [Nat.reducePow, Nat.reduceDiv]
    dsimp only [major30, major34, bits]
    repeat first | refine ite_of_neg (by omega) ?_ | refine ite_of_pos (by omega) ?_
    congr 2
    all_goals first | apply ofNat_eq_of_toNat | apply decide_eq_of_toNat
    all_goals omega

/-- R202: the plane and region commands, majors 0x35 to 0x36. -/
theorem decodes_region :
    (∀ d x p q, Decodes (.plane d x p q)) ∧ (∀ d x p q, Decodes (.planeld d x p q)) ∧ (∀ d x p q, Decodes (.planeldMk d x p q)) ∧ (∀ x p q, Decodes
    (.planeinv x p q)) ∧ (∀ d a b p q, Decodes (.configure d a b p q)) ∧ (∀ p q, Decodes (.unfuse p q)) ∧ (∀ d a b p q, Decodes (.ctxload d a b p q))
    ∧ (∀ d p q, Decodes (.ctxsel d p q)) ∧ (∀ d a p q, Decodes (.ctxstat d a p q)) ∧ (∀ d p q, Decodes (.tstdisc d p q)) := by
  and_intros
  all_goals
    intros
    refine decodes_of rfl ?_ ?_
    all_goals simp only [put, Nat.add_assoc, ← BitVec.toNat_ofBool]
    · omega
    unfold candidate
    rw [major_add (by omega)]
    simp only [Nat.reducePow, Nat.reduceDiv]
    dsimp only [major35, major36, bits]
    repeat first | refine ite_of_neg (by omega) ?_ | refine ite_of_pos (by omega) ?_
    congr 2
    all_goals first | apply ofNat_eq_of_toNat | apply decide_eq_of_toNat
    all_goals omega

/-- R202: the matrix and stream commands, majors 0x37 to 0x38. -/
theorem decodes_stream :
    (∀ d a b p q, Decodes (.mrun d a b p q)) ∧ (∀ d a b p q, Decodes (.mrunAcc d a b p q)) ∧ (∀ d p q, Decodes (.mzero d p q)) ∧ (∀ d a b p q, Decodes
    (.mdrain d a b p q)) ∧ (∀ d a p q, Decodes (.mstat d a p q)) ∧ (∀ p d q g, Decodes (.sopen p d q g)) ∧ (∀ p q g, Decodes (.sstart p q g)) ∧ (∀ p q
    g, Decodes (.sstop p q g)) := by
  and_intros
  all_goals
    intros
    refine decodes_of rfl ?_ ?_
    all_goals simp only [put, Nat.add_assoc]
    · omega
    unfold candidate
    rw [major_add (by omega)]
    simp only [Nat.reducePow, Nat.reduceDiv]
    dsimp only [major37, major38, bits]
    repeat first | refine ite_of_neg (by omega) ?_ | refine ite_of_pos (by omega) ?_
    congr 2
    all_goals apply ofNat_eq_of_toNat
    all_goals omega

/-- R202: the strand access and LAUNCH, majors 0x39 to 0x3A. -/
theorem decodes_strand :
    (∀ p q g, Decodes (.sknot p q g)) ∧ (∀ d a p q, Decodes (.coilset d a p q)) ∧ (∀ p d q g, Decodes (.coilsetNd p d q g)) ∧ (∀ d a x p, Decodes
    (.spush d a x p)) ∧ (∀ p d, Decodes (.spushC p d)) ∧ (∀ d a p, Decodes (.spop d a p)) ∧ (∀ p d q, Decodes (.spopC p d q)) ∧ (∀ d a p, Decodes
    (.speek d a p)) ∧ (∀ p d q, Decodes (.speekC p d q)) ∧ (∀ d a b p q, Decodes (.launch d a b p q)) := by
  and_intros
  all_goals
    intros
    refine decodes_of rfl ?_ ?_
    all_goals simp only [put, Nat.add_assoc, ← BitVec.toNat_ofBool]
    · omega
    unfold candidate
    rw [major_add (by omega)]
    simp only [Nat.reducePow, Nat.reduceDiv]
    dsimp only [major39, major3A, bits]
    repeat first | refine ite_of_neg (by omega) ?_ | refine ite_of_pos (by omega) ?_
    congr 2
    all_goals first | apply ofNat_eq_of_toNat | apply decide_eq_of_toNat
    all_goals omega

/-- R202: the system forms, majors 0x3C to 0x3D. -/
theorem decodes_system :
    (∀ m, Decodes (.trap m)) ∧ (∀ d, Decodes (.tlbinv d)) ∧ (∀ d a, Decodes (.probe d a)) ∧ (∀ d a, Decodes (.wavereq d a)) ∧ (∀ d a, Decodes
    (.codecinv d a)) ∧ (∀ d, Decodes (.codecinvDesc d)) ∧ (∀ d a, Decodes (.freeze d a)) ∧ (∀ d a, Decodes (.freezeOff d a)) ∧ (∀ d a, Decodes
    (.graphctlStat d a)) ∧ (∀ d a b, Decodes (.graphctlStall d a b)) ∧ (∀ d a b, Decodes (.graphctlSlot d a b)) ∧ (∀ d a, Decodes (.graphctlTerm d a))
    := by
  and_intros
  all_goals
    intros
    refine decodes_of rfl ?_ ?_
    all_goals simp only [put, Nat.add_assoc]
    · omega
    unfold candidate
    rw [major_add (by omega)]
    simp only [Nat.reducePow, Nat.reduceDiv]
    dsimp only [major3C, major3D, bits]
    repeat first | refine ite_of_neg (by omega) ?_ | refine ite_of_pos (by omega) ?_
    congr 2
    all_goals apply ofNat_eq_of_toNat
    all_goals omega
/-- R294 to R298: the atomics, major 0x28, whose form the operation code chooses. -/
theorem decodes_atomic (d a b o : BitVec 5) (k : BitVec 2) (t : BitVec 4) :
    (o.toNat < 23 → Decodes (.amo a b o k t) ∧ (d ≠ 0 → Decodes (.amor d a b o k t))) ∧ (23 ≤ o.toNat → Decodes (.amocas d a b o k t)) := by
  refine ⟨fun h => ⟨?_, fun hd => ?_⟩, fun h => ?_⟩
  case' refine_2 => have hd' : 0 < d.toNat := Nat.pos_of_ne_zero fun e => hd (BitVec.eq_of_toNat_eq e)
  all_goals
    refine decodes_of rfl ?_ ?_
    all_goals simp only [put, Nat.add_assoc]
    · omega
    unfold candidate
    rw [major_add (by omega)]
    simp only [Nat.reducePow, Nat.reduceDiv]
    dsimp only [major28, bits]
    repeat first | refine ite_of_neg (by omega) ?_ | refine ite_of_pos (by omega) ?_
    congr 2
    all_goals apply ofNat_eq_of_toNat
    all_goals omega

/-- R194 to R204: the word of a well-formed instruction decodes to it. -/
theorem decodes_wellFormed {i : Instr} (wf : i.wellFormed = true) : Decodes i := by
  cases i
  case nop | halt | knot | knotW | yield | sysret | sysretRe | tlbinva => intro w h; cases h; decide
  case amo a b o k t =>
    have ho := of_decide_eq_true (Bool.and_eq_true_iff.mp wf).1
    exact ((decodes_atomic 0 a b o k t).1 (by omega)).1
  case amor d a b o k t =>
    obtain ⟨ho, hd⟩ := Bool.and_eq_true_iff.mp (Bool.and_eq_true_iff.mp wf).1
    exact ((decodes_atomic d a b o k t).1 (by have := of_decide_eq_true ho; omega)).2 (bne_iff_ne.mp hd)
  case amocas d a b o k t =>
    refine (decodes_atomic d a b o k t).2 ?_
    obtain ho | ho := Bool.or_eq_true_iff.mp (Bool.and_eq_true_iff.mp wf).1
    all_goals rw [beq_iff_eq.mp ho]; decide
  all_goals try
    simp only [decodes_integer, decodes_bits, decodes_compare, decodes_immediate, decodes_branch, decodes_access, decodes_arithmetic, decodes_move,
      decodes_permute, decodes_convert, decodes_sync, decodes_row, decodes_region, decodes_stream, decodes_strand, decodes_system]
  all_goals intro w h; cases h

/-! ### From the word to its instruction -/

/-- A field of the word, as an operand, is the field. -/
theorem toNat_ofNat_bits {n w hi lo : Nat} (h : hi + 1 - lo = n) : (BitVec.ofNat n (bits w hi lo)).toNat = bits w hi lo := by
  subst h; exact Nat.mod_eq_of_lt (Nat.mod_lt _ (Nat.two_pow_pos _))

/-- A one-bit field, as a flag, is the field. -/
theorem toNat_decide_bits {w b : Nat} : (decide (bits w b b = 1)).toNat = bits w b b := by
  unfold bits
  rw [Nat.add_sub_cancel_left, Nat.pow_one]
  obtain h | h := Nat.mod_two_eq_zero_or_one (w / 2 ^ b)
  all_goals rw [h]; rfl

/-- The value of the bits of a word below bit `k`. -/
def low (w k : Nat) : Int := (w % 2 ^ k : Nat)

theorem low_zero (w : Nat) : low w 0 = 0 := by simp [low, Nat.mod_one]

/-- A field in its place is what the bits up to its end have over those below it. -/
theorem bits_mul_pow {w hi lo : Nat} (h : lo ≤ hi) : ((bits w hi lo * 2 ^ lo : Nat) : Int) = low w (hi + 1) - low w lo := by
  obtain ⟨n, rfl⟩ := Nat.exists_eq_add_of_le h
  unfold bits low
  rw [show lo + n + 1 - lo = n + 1 by omega, Nat.add_assoc, Nat.pow_add 2 lo, Nat.mod_mul, Nat.mul_comm (w / 2 ^ lo % 2 ^ (n + 1))]
  generalize 2 ^ lo * (w / 2 ^ lo % 2 ^ (n + 1)) = field
  omega

/-- What it is for a field to have a value. -/
theorem bits_eq_iff {w hi lo c : Nat} (h : lo ≤ hi) : bits w hi lo = c ↔ low w (hi + 1) = low w lo + (c * 2 ^ lo : Nat) := by
  rw [← Nat.mul_left_inj (a := 2 ^ lo) (Nat.ne_of_gt (Nat.two_pow_pos lo)), ← Int.natCast_inj, bits_mul_pow h]
  omega

/-- The major opcode is what the word has over its low 26 bits. -/
theorem major_eq_iff {w m : Nat} : w / 2 ^ 26 = m ↔ (w : Int) = low w 26 + (m * 2 ^ 26 : Nat) := by
  unfold low; omega

/-- A form of a major: the word matches it, or one of the forms that follow. -/
theorem form_or_rest {c : Prop} {inst : Decidable c} {j i : Instr} {r : Option Instr} (h : @ite _ c inst (some j) r = some i) :
    c ∧ j = i ∨ r = some i := by
  by_cases hc : c
  · rw [if_pos hc] at h; exact .inl ⟨hc, Option.some.inj h⟩
  · rw [if_neg hc] at h; exact .inr h

theorem some_eq_iff {a b : Nat} : some a = some b ↔ (a : Int) = b := by
  rw [Option.some.injEq, Int.natCast_inj]

/-- R202: the misc, integer, compare and predicate forms, majors 0x00 to 0x04. -/
theorem encode_candidate_integer {i : Instr} {w : Nat} (hr : w / 2 ^ 26 ≤ 0x04) (h : candidate w = some i) :
    encode i = some w := by
  unfold candidate at h
  split at h
  case h_50 => cases h
  all_goals
    rename_i hm
    rw [hm] at hr
    first
    | omega
    | clear hr
      rw [major_eq_iff] at hm
      dsimp only [major00, major01, major02, major03, major04] at h
      repeat
        obtain ⟨hc, rfl⟩ | h := form_or_rest h
        · simp only [encode, put, toNat_ofNat_bits, some_eq_iff]
          simp (disch := decide) only [bits_eq_iff, Int.natCast_add, bits_mul_pow, Nat.reduceAdd, low_zero] at hc ⊢
          omega
      cases h

/-- R202: immediates, loop counters, system registers, branches, jumps and calls, majors 0x05 to 0x13. -/
theorem encode_candidate_control {i : Instr} {w : Nat} (hr : 0x05 ≤ w / 2 ^ 26 ∧ w / 2 ^ 26 ≤ 0x13) (h : candidate w = some i) :
    encode i = some w := by
  unfold candidate at h
  split at h
  case h_50 => cases h
  all_goals
    rename_i hm
    rw [hm] at hr
    first
    | omega
    | clear hr
      rw [major_eq_iff] at hm
      dsimp only [major05, major06, major07, major08, major09, major0A, major0B, major0C, major0D, major10, major11, major12, major13] at h
      repeat
        obtain ⟨hc, rfl⟩ | h := form_or_rest h
        · simp only [encode, put, toNat_ofNat_bits, some_eq_iff]
          simp (disch := decide) only [bits_eq_iff, Int.natCast_add, bits_mul_pow, Nat.reduceAdd, low_zero] at hc ⊢
          omega
      cases h
      all_goals
        simp only [encode, put, toNat_ofNat_bits, some_eq_iff]
        simp (disch := decide) only [Int.natCast_add, bits_mul_pow, Nat.reduceAdd, low_zero]
        omega

/-- R202: scalar loads and stores and vector arithmetic, majors 0x14 to 0x1A. -/
theorem encode_candidate_access {i : Instr} {w : Nat} (hr : 0x14 ≤ w / 2 ^ 26 ∧ w / 2 ^ 26 ≤ 0x1A) (h : candidate w = some i) :
    encode i = some w := by
  unfold candidate at h
  split at h
  case h_50 => cases h
  all_goals
    rename_i hm
    rw [hm] at hr
    first
    | omega
    | clear hr
      rw [major_eq_iff] at hm
      dsimp only [major14, major15, major16, major18, major19, major1A] at h
      repeat
        obtain ⟨hc, rfl⟩ | h := form_or_rest h
        · simp only [encode, put, toNat_ofNat_bits, some_eq_iff]
          simp (disch := decide) only [bits_eq_iff, Int.natCast_add, bits_mul_pow, Nat.reduceAdd, low_zero] at hc ⊢
          omega
      cases h

/-- R202: vector compares, moves, permutes and reductions, majors 0x1B to 0x1D. -/
theorem encode_candidate_vector {i : Instr} {w : Nat} (hr : 0x1B ≤ w / 2 ^ 26 ∧ w / 2 ^ 26 ≤ 0x1D) (h : candidate w = some i) :
    encode i = some w := by
  unfold candidate at h
  split at h
  case h_50 => cases h
  all_goals
    rename_i hm
    rw [hm] at hr
    first
    | omega
    | clear hr
      rw [major_eq_iff] at hm
      dsimp only [major1B, major1C, major1D] at h
      repeat
        obtain ⟨hc, rfl⟩ | h := form_or_rest h
        · simp only [encode, put, toNat_ofNat_bits, some_eq_iff]
          simp (disch := decide) only [bits_eq_iff, Int.natCast_add, bits_mul_pow, Nat.reduceAdd, low_zero] at hc ⊢
          omega
      cases h

/-- R202: roots, vector accesses and conversions, majors 0x1E to 0x26. -/
theorem encode_candidate_convert {i : Instr} {w : Nat} (hr : 0x1E ≤ w / 2 ^ 26 ∧ w / 2 ^ 26 ≤ 0x27) (h : candidate w = some i) :
    encode i = some w := by
  unfold candidate at h
  split at h
  case h_50 => cases h
  all_goals
    rename_i hm
    rw [hm] at hr
    first
    | omega
    | clear hr
      rw [major_eq_iff] at hm
      dsimp only [major1E, major20, major21, major22, major24, major25, major26] at h
      repeat
        obtain ⟨hc, rfl⟩ | h := form_or_rest h
        · simp only [encode, put, toNat_decide_bits, toNat_ofNat_bits, some_eq_iff]
          simp (disch := decide) only [bits_eq_iff, Int.natCast_add, bits_mul_pow, Nat.reduceAdd, low_zero] at hc ⊢
          omega
      cases h

/-- R202: atomics, fences, cleats, groups, the tag table and copies, majors 0x28 to 0x30. -/
theorem encode_candidate_sync {i : Instr} {w : Nat} (hr : 0x28 ≤ w / 2 ^ 26 ∧ w / 2 ^ 26 ≤ 0x33) (h : candidate w = some i) :
    encode i = some w := by
  unfold candidate at h
  split at h
  case h_50 => cases h
  all_goals
    rename_i hm
    rw [hm] at hr
    first
    | omega
    | clear hr
      rw [major_eq_iff] at hm
      dsimp only [major28, major29, major2A, major2B, major2C, major30] at h
      repeat
        obtain ⟨hc, rfl⟩ | h := form_or_rest h
        · simp only [encode, put, toNat_decide_bits, toNat_ofNat_bits, some_eq_iff]
          simp (disch := decide) only [bits_eq_iff, Int.natCast_add, bits_mul_pow, Nat.reduceAdd, low_zero] at hc ⊢
          omega
      cases h
      all_goals
        simp only [encode, put, toNat_ofNat_bits, some_eq_iff]
        simp (disch := decide) only [Int.natCast_add, bits_mul_pow, Nat.reduceAdd, low_zero]
        omega

/-- R202: row, plane, region, matrix and stream commands, majors 0x34 to 0x38. -/
theorem encode_candidate_row {i : Instr} {w : Nat} (hr : 0x34 ≤ w / 2 ^ 26 ∧ w / 2 ^ 26 ≤ 0x38) (h : candidate w = some i) :
    encode i = some w := by
  unfold candidate at h
  split at h
  case h_50 => cases h
  all_goals
    rename_i hm
    rw [hm] at hr
    first
    | omega
    | clear hr
      rw [major_eq_iff] at hm
      dsimp only [major34, major35, major36, major37, major38] at h
      repeat
        obtain ⟨hc, rfl⟩ | h := form_or_rest h
        · simp only [encode, put, toNat_decide_bits, toNat_ofNat_bits, some_eq_iff]
          simp (disch := decide) only [bits_eq_iff, Int.natCast_add, bits_mul_pow, Nat.reduceAdd, low_zero] at hc ⊢
          omega
      cases h

/-- R202: strand access, LAUNCH and system forms, majors 0x39 to 0x3D. -/
theorem encode_candidate_system {i : Instr} {w : Nat} (hr : 0x39 ≤ w / 2 ^ 26) (h : candidate w = some i) :
    encode i = some w := by
  unfold candidate at h
  split at h
  case h_50 => cases h
  all_goals
    rename_i hm
    rw [hm] at hr
    first
    | omega
    | clear hr
      rw [major_eq_iff] at hm
      dsimp only [major39, major3A, major3C, major3D] at h
      repeat
        obtain ⟨hc, rfl⟩ | h := form_or_rest h
        · simp only [encode, put, toNat_decide_bits, toNat_ofNat_bits, some_eq_iff]
          simp (disch := decide) only [bits_eq_iff, Int.natCast_add, bits_mul_pow, Nat.reduceAdd, low_zero] at hc ⊢
          omega
      cases h

/-- R202: a word is the word of the decoder's candidate for it. -/
theorem encode_candidate {i : Instr} {w : Nat} (h : candidate w = some i) : encode i = some w := by
  obtain hr | hr | hr | hr | hr | hr | hr | hr : w / 2 ^ 26 ≤ 0x04 ∨ (0x05 ≤ w / 2 ^ 26 ∧ w / 2 ^ 26 ≤ 0x13) ∨
      (0x14 ≤ w / 2 ^ 26 ∧ w / 2 ^ 26 ≤ 0x1A) ∨ (0x1B ≤ w / 2 ^ 26 ∧ w / 2 ^ 26 ≤ 0x1D) ∨ (0x1E ≤ w / 2 ^ 26 ∧ w / 2 ^ 26 ≤ 0x27) ∨
      (0x28 ≤ w / 2 ^ 26 ∧ w / 2 ^ 26 ≤ 0x33) ∨ (0x34 ≤ w / 2 ^ 26 ∧ w / 2 ^ 26 ≤ 0x38) ∨ 0x39 ≤ w / 2 ^ 26 := by omega
  · exact encode_candidate_integer hr h
  · exact encode_candidate_control hr h
  · exact encode_candidate_access hr h
  · exact encode_candidate_vector hr h
  · exact encode_candidate_convert hr h
  · exact encode_candidate_sync hr h
  · exact encode_candidate_row hr h
  · exact encode_candidate_system hr h

end Sys2Proof.Decode

namespace Sys2Proof

/-- The decoder answers a well-formed candidate. -/
theorem decodeWord_eq_some {w : Nat} {i : Instr} : decodeWord w = some i ↔ Decode.candidate w = some i ∧ i.wellFormed = true := by
  unfold decodeWord
  split
  · next j hj => rw [hj]; by_cases wf : j.wellFormed = true <;> grind
  · next hj => rw [hj]; simp

/-- Settles O53. -/
theorem decodedWords : Obligations.DecodedWords := by
  unfold Obligations.DecodedWords; decide +kernel

/-- Settles O54: the decoder's candidate for the word of a well-formed instruction is that instruction. -/
theorem encodeDecode : Obligations.EncodeDecode := by
  intro i w wf h
  obtain ⟨hw, hc⟩ := Decode.decodes_wellFormed wf w h
  exact ⟨hw, decodeWord_eq_some.mpr ⟨hc, wf⟩⟩

/-- Settles O55: a word is the word of the decoder's candidate, form by form. -/
theorem decodeEncode : Obligations.DecodeEncode := by
  intro i w _ h
  obtain ⟨hc, wf⟩ := decodeWord_eq_some.mp h
  exact ⟨Decode.encode_candidate hc, wf⟩

end Sys2Proof
end

section
/-! PROOF. The scalar core: the value of each form by its table, its hazards and its frame. -/

namespace Sys2Proof.Machine
open Sys2Proof.Safety Sys2Proof.Claims

/-- A choice by an equivalent test of equal values. -/
theorem ite_congr_iff {α : Type} {p q : Prop} [Decidable p] [Decidable q] {a b c d : α} (h : p ↔ q) (first : a = c) (second : b = d) :
    (if p then a else b) = if q then c else d := by
  subst first second
  by_cases t : p
  · rw [if_pos t, if_pos (h.1 t)]
  · rw [if_neg t, if_neg (fun s => t (h.2 s))]

/-- R221: the sum modulo 2^64. -/
theorem u_add (a b : Word) : u (a.toNat + b.toNat) = a + b := by
  simp [u, BitVec.ofNat_add]
/-- R221: the difference modulo 2^64. -/
theorem z_sub (a b : Word) : z (a.toInt - b.toInt) = a - b := by
  apply BitVec.eq_of_toInt_eq; simp [z, BitVec.toInt_ofInt]
/-- R222: the product modulo 2^64. -/
theorem u_mul (a b : Word) : u (a.toNat * b.toNat) = a * b := by
  simp [u, BitVec.ofNat_mul]
/-- R221: a left shift as a product. -/
theorem u_shl (a : Word) (k : Nat) : u (a.toNat * 2 ^ k) = a <<< k := by
  apply BitVec.eq_of_toNat_eq; simp [u, Nat.shiftLeft_eq]
/-- R221: a right shift as a quotient. -/
theorem u_shr (a : Word) (k : Nat) : u (a.toNat / 2 ^ k) = a >>> k := by
  apply BitVec.eq_of_toNat_eq
  have := Nat.div_le_self a.toNat (2 ^ k)
  simp only [u, BitVec.toNat_ofNat, BitVec.toNat_ushiftRight, Nat.shiftRight_eq_div_pow]
  exact Nat.mod_eq_of_lt (by omega)
/-- R221: an arithmetic right shift as the floor of a quotient. -/
theorem z_sra (a : Word) (k : Nat) : z (a.toInt / (2 ^ k : Nat)) = a.sshiftRight k := by
  rw [← Int.shiftRight_eq_div_pow, ← BitVec.toInt_sshiftRight]; exact BitVec.ofInt_toInt
/-- R221, ROTL: the rotation as a shift of the value written twice. -/
theorem u_rotl (a : Word) (k : Nat) (h : k < 64) : u ((a.toNat * 2 ^ 64 + a.toNat) / 2 ^ (64 - k)) = a.rotateLeft k := by
  have e : (a.toNat * 2 ^ 64 + a.toNat) / 2 ^ (64 - k) = a.toNat * 2 ^ k + a.toNat / 2 ^ (64 - k) := by
    have p : (2 : Nat) ^ 64 = 2 ^ k * 2 ^ (64 - k) := by rw [← Nat.pow_add]; congr 1; omega
    rw [p, ← Nat.mul_assoc, Nat.add_comm, Nat.add_mul_div_right _ _ (Nat.two_pow_pos _), Nat.add_comm]
  have disjoint : a <<< k &&& a >>> (64 - k) = 0#64 := by
    apply BitVec.eq_of_getLsbD_eq
    intro i _
    simp only [BitVec.getLsbD_and, BitVec.getLsbD_shiftLeft, BitVec.getLsbD_ushiftRight, BitVec.getLsbD_zero]
    by_cases hk : i < k
    · simp [hk]
    · simp [BitVec.getLsbD_of_ge a (64 - k + i) (by omega)]
  calc u ((a.toNat * 2 ^ 64 + a.toNat) / 2 ^ (64 - k)) = u (a.toNat * 2 ^ k) + u (a.toNat / 2 ^ (64 - k)) := by
        rw [e]; exact BitVec.ofNat_add _ _
    _ = a <<< k ||| a >>> (64 - k) := by rw [u_shl, u_shr, BitVec.add_eq_or_of_and_eq_zero _ _ disjoint]
    _ = a.rotateLeft k := by rw [BitVec.rotateLeft_def, Nat.mod_eq_of_lt h]
/-- R222: the unsigned quotient. -/
theorem u_divu (a b : Word) : u (a.toNat / b.toNat) = a / b := by
  apply BitVec.eq_of_toNat_eq
  have := Nat.div_le_self a.toNat b.toNat
  simp only [u, BitVec.toNat_ofNat, BitVec.toNat_udiv]; exact Nat.mod_eq_of_lt (by omega)
/-- R222: the unsigned remainder. -/
theorem u_mod (a b : Word) : u (a.toNat % b.toNat) = a % b := by
  apply BitVec.eq_of_toNat_eq
  have := Nat.mod_le a.toNat b.toNat
  simp only [u, BitVec.toNat_ofNat, BitVec.toNat_umod]; exact Nat.mod_eq_of_lt (by omega)
/-- R223: the sign extension of the low bits of a word. -/
theorem z_sx_truncate (a : Word) (w : Nat) (hw : w ≠ 0): z (sx a.toNat w) = (a.truncate w).signExtend 64 := by
  simp only [z, sx, BitVec.signExtend, BitVec.toInt_eq_toNat_cond, BitVec.truncate_eq_setWidth, BitVec.toNat_setWidth]
  congr 1
  have : (2:Nat)^w = 2 * 2^(w-1) := by obtain ⟨k, rfl⟩ := Nat.exists_eq_succ_of_ne_zero hw; exact Nat.pow_succ'
  split <;> split <;> omega
/-- R195: the sign extension of an immediate. -/
theorem z_sx_imm {n : Nat} (a : BitVec n) (hw : n ≠ 0) : z (sx a.toNat n) = a.signExtend 64 := by
  simp only [z, sx, BitVec.signExtend, BitVec.toInt_eq_toNat_cond, Nat.mod_eq_of_lt a.isLt]
  congr 1
  have : (2:Nat)^n = 2 * 2^(n-1) := by obtain ⟨k, rfl⟩ := Nat.exists_eq_succ_of_ne_zero hw; exact Nat.pow_succ'
  split <;> split <;> omega
/-- The count of the numbers below n that are below m. -/
theorem length_filter_range_lt (m n : Nat) : ((List.range n).filter (fun k => decide (k < m))).length = min m n := by
  induction n with
  | zero => simp
  | succ n ih =>
    rw [List.range_succ, List.filter_append, List.length_append, ih]
    by_cases h : n < m <;> simp [h] <;> omega
/-- The count of the numbers below n that are not below m. -/
theorem length_filter_range_ge (m n : Nat) : ((List.range n).filter (fun k => decide (m ≤ k))).length = n - m := by
  induction n with
  | zero => simp
  | succ n ih =>
    rw [List.range_succ, List.filter_append, List.length_append, ih]
    by_cases h : m ≤ n <;> simp [h] <;> omega
/-- R223, CLZ as a count of the bounds above the value. -/
theorem clz_range (a : Word) : ((List.range 64).filter (fun k => decide (a.toNat < 2 ^ k))).length = clz a := by
  by_cases h : a = 0
  · subst h; decide
  · have ha : a.toNat ≠ 0 := fun e => h (BitVec.eq_of_toNat_eq e)
    have p : ∀ k, decide (a.toNat < 2 ^ k) = decide (Nat.log2 a.toNat + 1 ≤ k) := fun k => by
      exact decide_eq_decide.2 (Nat.log2_lt ha).symm
    simp only [p, length_filter_range_ge, clz, if_neg h]
    omega
/-- R223, CTZ as a count of the powers of 2 that divide the value. -/
theorem ctz_range (a : Word) : ((List.range 64).filter (fun k => decide (a.toNat % 2 ^ (k + 1) = 0))).length = ctz a := by
  have zero : ∀ k, a.toNat % 2 ^ (k + 1) = 0 ↔ ∀ i, i ≤ k → a.getLsbD i = false := by
    intro k
    constructor
    · intro h i hi
      have := Nat.testBit_mod_two_pow a.toNat (k + 1) i
      rw [h] at this
      rw [BitVec.testBit_toNat] at this
      simpa [Nat.lt_succ_of_le hi] using this.symm
    · intro h
      apply Nat.eq_of_testBit_eq
      intro i
      rw [Nat.testBit_mod_two_pow, BitVec.testBit_toNat]
      by_cases hi : i < k + 1
      · simpa [hi] using h i (by omega)
      · simp [hi]
  unfold ctz
  cases hf : (List.range 64).find? (fun i => a.getLsbD i) with
  | none =>
    have clear : ∀ i, a.getLsbD i = false := fun i => by
      by_cases hi : i < 64
      · simpa using List.find?_eq_none.1 hf i (List.mem_range.2 hi)
      · exact BitVec.getLsbD_of_ge a i (by omega)
    have p : ∀ k, decide (a.toNat % 2 ^ (k + 1) = 0) = true := fun k => decide_eq_true ((zero k).2 (fun i _ => clear i))
    simp only [p]
    rfl
  | some m =>
    have hm : m < 64 := List.mem_range.1 (List.mem_of_find?_eq_some hf)
    have set : a.getLsbD m = true := List.find?_some hf
    have below : ∀ i, i < m → a.getLsbD i = false := by
      intro i hi
      simpa using List.find?_range_eq_some.1 hf |>.2.2 i hi
    have p : ∀ k, decide (a.toNat % 2 ^ (k + 1) = 0) = decide (k < m) := by
      intro k
      refine decide_eq_decide.2 ((zero k).trans ⟨fun h => ?_, fun h i hi => below i (by omega)⟩)
      refine Decidable.byContradiction fun hk => ?_
      simp [h m (by omega)] at set
    simp only [p, length_filter_range_lt, Option.getD_some]
    omega
/-- R223, POPC as a count of the set bits. -/
theorem popc_range (a : Word) : ((List.range 64).filter (fun k => decide (a.toNat / 2 ^ k % 2 = 1))).length = popc a := by
  unfold popc pick
  congr 2
  funext k
  rw [← Nat.testBit_eq_decide_div_mod_eq, BitVec.testBit_toNat]

/-- R221: a choice by signed order, from either side. -/
theorem ite_le_toInt (a b x y : Word) : (if a.toInt ≤ b.toInt then x else y) = if b.slt a then y else x := by
  simp only [BitVec.slt_iff_toInt_lt, ← Int.not_lt, ite_not]
/-- R221: a choice by unsigned order, from either side. -/
theorem ite_le_toNat (a b x y : Word) : (if a.toNat ≤ b.toNat then x else y) = if b.ult a then y else x := by
  simp only [BitVec.ult_iff_lt, BitVec.lt_def, ← Nat.not_lt, ite_not]
/-- R221, MAX: of two equal values either is the greater. -/
theorem max_toInt (a b : Word) : (if a.toInt ≤ b.toInt then b else a) = if a.slt b then b else a := by
  obtain rfl | h := Decidable.em (a = b)
  · simp
  · have : a.toInt ≠ b.toInt := fun e => h (BitVec.eq_of_toInt_eq e)
    simp only [BitVec.slt_iff_toInt_lt, Int.lt_iff_le_and_ne, this, ne_eq, not_false_eq_true, and_true]
/-- R221, MAXU: of two equal values either is the greater. -/
theorem max_toNat (a b : Word) : (if a.toNat ≤ b.toNat then b else a) = if a.ult b then b else a := by
  obtain rfl | h := Decidable.em (a = b)
  · simp
  · have : a.toNat ≠ b.toNat := fun e => h (BitVec.eq_of_toNat_eq e)
    simp only [BitVec.ult_iff_lt, BitVec.lt_def, Nat.lt_iff_le_and_ne, this, ne_eq, not_false_eq_true, and_true]
/-- Table 8-9: the fields of TID may be summed from the least significant. -/
theorem tidValue_eq (s : State) : tidValue s s.cur = u (s.me.lx.toNat + s.me.ly.toNat * 2 ^ 8 + s.me.tno.toNat * 2 ^ 16 + s.cur % 4 * 2 ^ 18 +
    s.me.nthr.toNat * 2 ^ 20 + (s.graph s.me.graph).w % 256 * 2 ^ 32 + (s.graph s.me.graph).h % 256 * 2 ^ 40) := by
  simp only [tidValue, u, wd, State.me, slotOf]
  congr 1
  omega
/-- R243: TIME is the cycle counter with the tile's skew. -/
theorem u_timeOf (s : State) (k : Nat) : s.timeOf k = u (s.cycle.toNat + (s.tile k).skew) := by
  simp [State.timeOf, u, wd, BitVec.ofNat_add]
/-- R221, SEL: bit 0 of a predicate. -/
theorem toNat_mod_two (a : Word) : a.toNat % 2 = 1 ↔ a.getLsbD 0 = true := by
  rw [← BitVec.testBit_toNat, Nat.testBit_zero, decide_eq_true_iff]
/-- R224: the sum with a sign-extended immediate. -/
theorem z_addi (a : Word) (im : BitVec 16) : z (a.toInt + sx im.toNat 16) = a + simm im := by
  have : z (a.toInt + sx im.toNat 16) = z a.toInt + z (sx im.toNat 16) := BitVec.ofInt_add _ _
  rw [this, z_sx_imm _ (by decide)]
  exact congrArg (· + _) BitVec.ofInt_toInt
/-- R195: a zero-extended immediate. -/
theorem u_zimm (im : BitVec 16) : u im.toNat = zimm im := by
  apply BitVec.eq_of_toNat_eq; simp [u, zimm]
/-- R227: a shifted immediate. -/
theorem u_zimm_shl (im : BitVec 16) (k : Nat) : u (im.toNat * 2 ^ k) = zimm im <<< k := by
  have : im.toNat = (zimm im).toNat := by simp [zimm]; omega
  rw [this, u_shl]
/-- R227: the halfword that LIS replaces. -/
theorem u_ffff_shl (k : Nat) : u (0xFFFF * 2 ^ k) = 0xFFFF#64 <<< k := u_shl 0xFFFF#64 k

/-- Tables 8-1 and 8-2: a form of the scalar tables is one scalar operation, with the value of its table. -/
theorem exec_of_scalarRule {s : State} {i : Instr} {d : BitVec 5} {rd : RegSet} {w : Word} (h : scalarRule s i = some (d, rd, w)) :
    exec i s = .next (scalarOp d rd w s) := by
  unfold scalarRule at h
  dsimp only at h
  split at h
  case h_41 => cases h
  all_goals
    cases h
    refine congrArg (fun w => Host.Outcome.next (scalarOp _ _ w s)) ?_
  case h_3.refl | h_4.refl | h_5.refl | h_6.refl | h_17.refl | h_18.refl | h_19.refl | h_38.refl => rfl
  case h_1.refl => exact (u_add _ _).symm
  case h_2.refl => exact (z_sub _ _).symm
  case h_7.refl => exact (u_shl _ _).symm
  case h_8.refl => exact (u_shr _ _).symm
  case h_9.refl => exact (z_sra _ _).symm
  case h_10.refl => exact (u_rotl _ _ (Nat.mod_lt _ (by decide))).symm
  case h_11.refl => exact (ite_le_toInt _ _ _ _).symm
  case h_12.refl => exact (max_toInt _ _).symm
  case h_13.refl => exact (ite_le_toNat _ _ _ _).symm
  case h_14.refl => exact (max_toNat _ _).symm
  case h_15.refl => exact ite_congr_iff (toNat_mod_two _).symm rfl rfl
  case h_16.refl => exact (u_mul _ _).symm
  case h_20.refl => exact ite_congr_iff Iff.rfl rfl (u_divu _ _).symm
  case h_21.refl => exact ite_congr_iff Iff.rfl rfl (congrArg z (Int.tmod_def _ _))
  case h_22.refl => exact ite_congr_iff Iff.rfl rfl (u_mod _ _).symm
  case h_23.refl => exact congrArg u (clz_range _).symm
  case h_24.refl => exact congrArg u (ctz_range _).symm
  case h_25.refl => exact congrArg u (popc_range _).symm
  case h_26.refl => exact (z_sx_truncate _ 8 (by decide)).symm
  case h_27.refl => exact (z_sx_truncate _ 16 (by decide)).symm
  case h_28.refl => exact (z_sx_truncate _ 32 (by decide)).symm
  case h_29.refl => exact (z_addi _ _).symm
  case h_30.refl => exact congrArg (_ &&& ·) (z_sx_imm _ (by decide)).symm
  case h_31.refl => exact congrArg (_ ||| ·) (u_zimm _).symm
  case h_32.refl => exact congrArg (_ ^^^ ·) (u_zimm _).symm
  case h_33.refl => exact (u_shl _ _).symm
  case h_34.refl => exact (u_shr _ _).symm
  case h_35.refl => exact (z_sra _ _).symm
  case h_36.refl => exact (z_sx_imm _ (by decide)).symm
  case h_37.refl => exact by rw [u_ffff_shl, u_zimm_shl]
  case h_39.refl => exact u_timeOf _ _
  case h_40.refl => exact tidValue_eq s


/-- R220: the condition of a compare form in the spec's terms gives its predicate. -/
theorem predOf_eq_flag {c e : Bool} (h : c = e) : predOf c = flag e := by subst h; rfl

/-- Signed order, by the values. -/
theorem slt_eq (a b : Word) : a.slt b = decide (a.toInt < b.toInt) := BitVec.slt_eq_decide
/-- Signed order, by the values. -/
theorem sle_eq (a b : Word) : a.sle b = decide (a.toInt ≤ b.toInt) := BitVec.sle_eq_decide
/-- Unsigned order, by the values. -/
theorem ult_eq (a b : Word) : a.ult b = decide (a.toNat < b.toNat) := BitVec.ult_eq_decide
/-- Unsigned order, by the values. -/
theorem ule_eq (a b : Word) : a.ule b = decide (a.toNat ≤ b.toNat) := BitVec.ule_eq_decide
/-- Equality, by the values. -/
theorem beq_eq (a b : Word) : (a == b) = decide (a.toNat = b.toNat) := by
  rw [Bool.eq_iff_iff, beq_iff_eq, decide_eq_true_iff, BitVec.toNat_inj]
/-- Difference, by the values. -/
theorem bne_eq (a b : Word) : (a != b) = decide (a.toNat ≠ b.toNat) := by
  rw [bne, beq_eq, decide_not]
/-- Signed order refuted, by the values. -/
theorem not_slt_eq (a b : Word) : (!a.slt b) = decide (b.toInt ≤ a.toInt) := by
  rw [slt_eq, ← decide_not]; exact decide_eq_decide.2 Int.not_lt
/-- Unsigned order refuted, by the values. -/
theorem not_ult_eq (a b : Word) : (!a.ult b) = decide (b.toNat ≤ a.toNat) := by
  rw [ult_eq, ← decide_not]; exact decide_eq_decide.2 Nat.not_lt
/-- R230: bit 0, by the value. -/
theorem getLsbD_zero_eq (a : Word) : a.getLsbD 0 = decide (a.toNat % 2 = 1) := by
  rw [← BitVec.testBit_toNat, Nat.testBit_zero]
/-- R230: bit 0 clear, by the value. -/
theorem not_getLsbD_zero_eq (a : Word) : (!a.getLsbD 0) = decide (a.toNat % 2 = 0) := by
  rw [getLsbD_zero_eq, ← decide_not]; exact decide_eq_decide.2 (by omega)

/-- Table 8-4: a compare or predicate form is one predicate operation, with the value of its table. -/
theorem exec_of_predicateRule {s : State} {i : Instr} {d : BitVec 3} {rd : RegSet} {w : Word} (h : predicateRule s i = some (d, rd, w)) :
    exec i s = .next (predOp d rd w s) := by
  unfold predicateRule at h
  dsimp only at h
  split at h
  case h_12 => cases h
  all_goals
    cases h
    refine congrArg (fun w => Host.Outcome.next (predOp _ _ w s)) ?_
  case h_1.refl => exact predOf_eq_flag (beq_eq _ _)
  case h_2.refl => exact predOf_eq_flag (bne_eq _ _)
  case h_3.refl => exact predOf_eq_flag (slt_eq _ _)
  case h_4.refl => exact predOf_eq_flag (sle_eq _ _)
  case h_5.refl => exact predOf_eq_flag (ult_eq _ _)
  case h_6.refl => exact predOf_eq_flag (ule_eq _ _)
  all_goals rfl

/-- R229, R230: a conditional branch is one `branchIf`, with the test of its table. -/
theorem exec_of_branchRule {s : State} {i : Instr} {rd : RegSet} {c : Bool} {o : BitVec 13} (h : branchRule s i = some (rd, c, o)) :
    exec i s = .next (branchIf rd c o s) := by
  unfold branchRule at h
  dsimp only at h
  split at h
  case h_13 => cases h
  all_goals
    cases h
    refine congrArg (fun c => Host.Outcome.next (branchIf _ c _ s)) ?_
  case h_1.refl => exact beq_eq _ _
  case h_2.refl => exact bne_eq _ _
  case h_3.refl => exact slt_eq _ _
  case h_4.refl => exact not_slt_eq _ _
  case h_5.refl => exact ult_eq _ _
  case h_6.refl => exact not_ult_eq _ _
  case h_7.refl => exact getLsbD_zero_eq _
  case h_8.refl => exact bne_eq _ _
  case h_9.refl => exact beq_eq _ _
  case h_10.refl => exact not_getLsbD_zero_eq _
  case h_11.refl => exact beq_eq _ _
  case h_12.refl => exact bne_eq _ _

/-- R195: a B-format target, by the PC's number. -/
theorem target13_eq (pc : PC) (o : BitVec 13) : target13 pc o = jumpTo pc o.toInt := by
  have e : (o.signExtend 18 <<< 2 : PC) = BitVec.ofInt 18 (4 * o.toInt) := by
    rw [BitVec.shiftLeft_eq_mul_twoPow, BitVec.signExtend, BitVec.mul_comm]
    exact (BitVec.ofInt_mul 4 _).symm
  rw [target13, e, jumpTo, BitVec.ofInt_add]
  simp
/-- R195: a J-format target, by the PC's number. -/
theorem target25_eq (pc : PC) (o : BitVec 25) : target25 pc o = jumpTo pc o.toInt := by
  have t : (o.truncate 18 : PC) = BitVec.ofInt 18 o.toInt := by
    rw [BitVec.truncate_eq_setWidth, ← BitVec.signExtend_eq_setWidth_of_le o (by decide)]; rfl
  have e : (o.truncate 18 <<< 2 : PC) = BitVec.ofInt 18 (4 * o.toInt) := by
    rw [t, BitVec.shiftLeft_eq_mul_twoPow, BitVec.mul_comm]
    exact (BitVec.ofInt_mul 4 _).symm
  rw [target25, e, jumpTo, BitVec.ofInt_add]
  simp

end Sys2Proof.Machine

open Sys2Proof Sys2Proof.Machine Sys2Proof.Safety Sys2Proof.Claims

/-- Settles O1: every form is one scalar operation, with the value of its table. -/
theorem scalarResult : Obligations.ScalarResult := by
  intro i s d rd w rule ready
  rw [exec_of_scalarRule rule, scalarOp_ready ready]

/-- Settles O2: every form is one predicate operation, with the value of its table. -/
theorem predicateResult : Obligations.PredicateResult := by
  intro i s d rd w rule ready
  rw [exec_of_predicateRule rule, predOp_ready ready]

/-- Settles O3: every form is one conditional branch, and a target is the PC plus four times the offset. -/
theorem branchResult : Obligations.BranchResult := by
  intro i s rd c o rule ready
  rw [exec_of_branchRule rule, branchIf_ready ready]
  congr 2
  funext t
  cases c
  · rfl
  · simp only [if_true, Thread.goto, target13_eq]

namespace Sys2Proof.Machine

/-- R232: a legal target passes the checks of a register jump. -/
theorem jumpCheck_legal {x : Word} (h : x.toNat < 2 ^ 18) (h4 : x.toNat % 4 = 0) : jumpCheck x = none := by
  rw [jumpCheck, if_neg (by omega), if_neg (by omega)]
/-- R232: an address past 18 bits is ADDRESS. -/
theorem jumpCheck_address {x : Word} (h : 2 ^ 18 ≤ x.toNat) : jumpCheck x = some (3, x) := by
  have : x.toNat / 2 ^ 18 ≠ 0 := by omega
  rw [jumpCheck, if_pos this]
/-- R232: an address that is no multiple of 4 is ALIGN. -/
theorem jumpCheck_align {x : Word} (h : x.toNat < 2 ^ 18) (h4 : x.toNat % 4 ≠ 0) : jumpCheck x = some (4, x) := by
  rw [jumpCheck, if_neg (by omega), if_pos h4]
/-- R231: the return address, by the PC's number. -/
theorem returnAddr_eq (t : Thread) : returnAddr t = u ((t.pc.toNat + 4) % 2 ^ 18) := by
  apply BitVec.eq_of_toNat_eq
  simp [returnAddr, u]
/-- The return address of a tracked thread is the thread's. -/
theorem returnAddr_tracked (t : Thread) (rd wr : RegSet) : returnAddr (t.tracked rd wr) = returnAddr t := rfl
/-- s31 is a register that is tracked. -/
theorem s1_31_ne_empty : RegSet.s1 31 ≠ .empty := by decide
/-- R231, R232: a ready jump that links goes to its target, s31 the return address. -/
theorem link_ready {rd : RegSet} {pc : Thread → PC} {s : State} (h : Ready s rd (RegSet.s1 31)) :
    inBight rd (RegSet.s1 31) none (fun s => s.mapMe (fun t => (t.ws 31 (returnAddr t)).goto (pc t))) s =
      s.mapMe (fun t => { (if RegSet.s1 31 = .empty then t.tracked rd (RegSet.s1 31) else
        (t.tracked rd (RegSet.s1 31)).ws 31 (u ((t.pc.toNat + 4) % 2 ^ 18))) with pc := pc (t.tracked rd (RegSet.s1 31)), wait := .none }) := by
  rw [inBight_ready h, State.mapMe_mapMe]
  simp only [if_neg s1_31_ne_empty, returnAddr_eq]
  rfl
/-- R231, R232: a ready jump that does not link goes to its target. -/
theorem goto_ready {rd : RegSet} {pc : Thread → PC} {s : State} (h : Ready s rd .empty) :
    inBight rd .empty none (fun s => s.mapMe (fun t => t.goto (pc t))) s =
      s.mapMe (fun t => { (if RegSet.empty = .empty then t.tracked rd .empty else
        (t.tracked rd .empty).ws 31 (u ((t.pc.toNat + 4) % 2 ^ 18))) with pc := pc (t.tracked rd .empty), wait := .none }) := by
  rw [inBight_ready h, State.mapMe_mapMe]; rfl

/-- R232: the address of a legal register jump, cut to the PC. -/
theorem truncate_eq_ofNat (x : Word) : (x.truncate 18 : PC) = .ofNat 18 x.toNat := by
  rw [BitVec.truncate_eq_setWidth, ← BitVec.ofNat_toNat]

/-- A change of the running slot is what it makes of the slot as it stands. -/
theorem mapMe_congr {s : State} {f g : Thread → Thread} (h : f s.me = g s.me) : s.mapMe f = s.mapMe g := by
  show s.setMe (f s.me) = s.setMe (g s.me)
  rw [h]

end Sys2Proof.Machine

/-- Settles O4: a legal target passes the checks, and either fault fails them first. -/
theorem jumpResult : Obligations.JumpResult := by
  refine ⟨fun i s rd wr pc rule ready => ?_, fun a s wr i form ready => ⟨fun far => ?_, fun near odd => ?_⟩⟩
  · unfold jumpRule at rule
    split at rule
    case h_1 o =>
      cases rule
      show Host.Outcome.next (inBight _ _ _ (fun s => s.mapMe (fun t => t.goto (target25 t.pc o))) s) = _
      rw [goto_ready ready]
      exact congrArg _ (mapMe_congr (by simp only [target25_eq]; rfl))
    case h_2 o =>
      cases rule
      show Host.Outcome.next (inBight _ _ _ (fun s => s.mapMe (fun t => (t.ws 31 (returnAddr t)).goto (target25 t.pc o))) s) = _
      rw [link_ready ready]
      exact congrArg _ (mapMe_congr (by simp only [target25_eq]; rfl))
    case h_3 a =>
      split at rule <;> cases rule
      rename_i legal
      show Host.Outcome.next (inBight _ _ (jumpCheck (s.me.rs a)) (fun s' => s'.mapMe (fun t => t.goto ((s.me.rs a).truncate 18))) s) = _
      rw [jumpCheck_legal legal.1 legal.2, goto_ready ready, truncate_eq_ofNat]
    case h_4 a =>
      split at rule <;> cases rule
      rename_i legal
      show Host.Outcome.next (inBight _ _ (jumpCheck (s.me.rs a))
        (fun s' => s'.mapMe (fun t => (t.ws 31 (returnAddr t)).goto ((s.me.rs a).truncate 18))) s) = _
      rw [jumpCheck_legal legal.1 legal.2, link_ready ready, truncate_eq_ofNat]
    case h_5 => cases rule
  · rcases form with ⟨rfl, rfl⟩ | ⟨rfl, rfl⟩
    all_goals
      show Host.Outcome.next (inBight _ _ (jumpCheck (s.me.rs a)) _ s) = _
      rw [jumpCheck_address far, inBight_check ready]
  · rcases form with ⟨rfl, rfl⟩ | ⟨rfl, rfl⟩
    all_goals
      show Host.Outcome.next (inBight _ _ (jumpCheck (s.me.rs a)) _ s) = _
      rw [jumpCheck_align near odd, inBight_check ready]

/-- Settles O6: every form is one scalar operation. -/
theorem scalarHazards : Obligations.ScalarHazards := by
  intro i s d rd w rule
  rw [exec_of_scalarRule rule]
  exact ⟨fun owed => congrArg _ (inBight_owed owed), fun x free met => congrArg _ (inBight_clobber free met)⟩


namespace Sys2Proof.Machine

/-- `t'` has what `t` has but for its PC, its wait, its scalar and predicate registers and what its bight records of them. -/
structure SameButRegs (t t' : Thread) : Prop where
  v : t'.v = t.v
  fpctl : t'.fpctl = t.fpctl
  lc : t'.lc = t.lc
  tpc : t'.tpc = t.tpc
  tcause : t'.tcause = t.tcause
  tval : t'.tval = t.tval
  tbs : t'.tbs = t.tbs
  ssave : t'.ssave = t.ssave
  lvl : t'.lvl = t.lvl
  queues : t'.queues = t.queues
  fifo : t'.fifo = t.fifo
  stores : t'.bight.stores = t.bight.stores

/-- A scalar write and a step change no more than registers. -/
theorem sameButRegs_ws (t : Thread) (d : BitVec 5) (rd wr : RegSet) (w : Word) : SameButRegs t ((t.tracked rd wr).ws d w).next := by
  unfold Thread.ws; split <;> exact ⟨rfl, rfl, rfl, rfl, rfl, rfl, rfl, rfl, rfl, rfl, rfl, rfl⟩
/-- A predicate write and a step change no more than registers. -/
theorem sameButRegs_wp (t : Thread) (d : BitVec 3) (rd wr : RegSet) (w : Word) : SameButRegs t ((t.tracked rd wr).wp d w).next := by
  unfold Thread.wp; split <;> exact ⟨rfl, rfl, rfl, rfl, rfl, rfl, rfl, rfl, rfl, rfl, rfl, rfl⟩
/-- A jump changes no more than the PC. -/
theorem sameButRegs_goto (t : Thread) (rd wr : RegSet) (pc : PC) : SameButRegs t ((t.tracked rd wr).goto pc) :=
  ⟨rfl, rfl, rfl, rfl, rfl, rfl, rfl, rfl, rfl, rfl, rfl, rfl⟩

/-- R190, R219: what the scalar, predicate and branch forms leave, beside the registers. -/
def FormFrame (s t : State) : Prop :=
  (∀ a, t.me.rv a = s.me.rv a) ∧ t.me.fpctl = s.me.fpctl ∧ (∀ k, counters t.me k = counters s.me k) ∧
  t.me.tpc = s.me.tpc ∧ t.me.tcause = s.me.tcause ∧ t.me.tval = s.me.tval ∧ t.me.tbs = s.me.tbs ∧ t.me.ssave = s.me.ssave ∧
  t.me.lvl = s.me.lvl ∧ t.me.queues = s.me.queues ∧ t.me.fifo = s.me.fifo ∧ t.me.bight.stores = s.me.bight.stores ∧
  (∀ k, k ≠ s.cur → t.thread k = s.thread k) ∧
  (∀ a, Memory.read t.tmem a = Memory.read s.tmem a) ∧ (∀ a, Memory.read t.vault a = Memory.read s.vault a) ∧
  (∀ a, Memory.read t.host a = Memory.read s.host a) ∧ t.tiles = s.tiles ∧ t.graphs = s.graphs ∧ t.parts = s.parts

/-- A change of the running slot's registers alone keeps the frame. -/
theorem formFrame_mapMe {s : State} {f : Thread → Thread} (h : SameButRegs s.me (f s.me)) : FormFrame s (s.mapMe f) := by
  unfold FormFrame
  rw [State.me_mapMe]
  refine ⟨fun a => by rw [Thread.rv, Thread.rv, h.v], h.fpctl, fun k => by rw [counters, counters, h.lc], h.tpc, h.tcause, h.tval, h.tbs,
    h.ssave, h.lvl, h.queues, h.fifo, h.stores, fun k hk => ?_, fun _ => rfl, fun _ => rfl, fun _ => rfl, rfl, rfl, rfl⟩
  exact (State.thread_mapThread s s.cur k f).trans (if_neg hk.symm)

end Sys2Proof.Machine

/-- Settles O7: a scalar form writes one scalar, a predicate form one predicate, a branch none. -/
theorem scalarFrame : Obligations.ScalarFrame := by
  intro i s t form step
  rcases form with ⟨d, rd, w, rule, ready⟩ | ⟨d, rd, w, rule, ready⟩ | ⟨rd, c, o, rule, ready⟩
  · rw [scalarResult i s d rd w rule ready] at step
    cases step
    refine ⟨fun a other => ?_, fun a _ => ?_, formFrame_mapMe (sameButRegs_ws _ _ _ _ _)⟩
    · rw [State.me_mapMe]
      show ((s.me.tracked rd _).ws d w).rs a = s.me.rs a
      rw [Thread.rs_ws]
      rcases other d rd w rule with h | h <;> simp [h] <;> rfl
    · rw [State.me_mapMe]
      show (_ : Thread).rp a = s.me.rp a
      unfold Thread.ws; split <;> rfl
  · rw [predicateResult i s d rd w rule ready] at step
    cases step
    refine ⟨fun a _ => ?_, fun a other => ?_, formFrame_mapMe (sameButRegs_wp _ _ _ _ _)⟩
    · rw [State.me_mapMe]
      unfold Thread.wp; split <;> rfl
    · rw [State.me_mapMe]
      show ((s.me.tracked rd _).wp d w).rp a = s.me.rp a
      rw [Thread.rp_wp]
      rcases other d rd w rule with h | h <;> simp [h] <;> rfl
  · rw [branchResult i s rd c o rule ready] at step
    cases step
    exact ⟨fun a _ => by rw [State.me_mapMe]; rfl, fun a _ => by rw [State.me_mapMe]; rfl, formFrame_mapMe (sameButRegs_goto _ _ _ _)⟩

namespace Sys2Proof.Machine

/-- R234: a loop counter by its number. -/
theorem counters_ctr (t : Thread) (n : BitVec 2) : counters t n.toNat = t.ctr n := by
  rw [counters, dif_pos n.isLt]; rfl
/-- R234: the counters after the write of one. -/
theorem counters_setCtr (t : Thread) (n : BitVec 2) (c : LoopCtr) :
    counters (t.setCtr n c) = fun k => if k = n.toNat then c else counters t k := by
  funext k
  unfold counters Thread.setCtr
  by_cases h : k < 4
  · simp [h, Vector.getElem_set, eq_comm]
  · have : k ≠ n.toNat := by omega
    simp [h, this]

/-- R237: a count above 0 is stepped, and one at 0 stays. -/
theorem stepped_count (c : LoopCtr) :
    (if c.count ≠ 0 then { c with count := c.count - 1 } else c) = { c with count := if c.count = 0 then 0 else c.count - 1 } := by
  by_cases h : c.count = 0
  · simp only [h, ne_eq, not_true_eq_false, if_false, if_true]
    rw [← h]
  · simp only [h, ne_eq, not_false_eq_true, if_true, if_false]

/-- R237: a chain steps the counters as the rule has it, branches where it does, and leaves the PC. -/
theorem loopStep_counters (fuel : Nat) (n : BitVec 2) (t : Thread) :
    loopRule (counters t) fuel n.toNat = (counters (loopStep fuel n t).1, (loopStep fuel n t).2) ∧ (loopStep fuel n t).1.pc = t.pc := by
  induction fuel generalizing n t with
  | zero => exact ⟨rfl, rfl⟩
  | succ fuel ih =>
    simp only [loopStep, loopRule, counters_ctr, stepped_count]
    generalize (if (t.ctr n).count = 0 then 0 else (t.ctr n).count - 1) = left
    by_cases more : left = 0
    · subst more
      cases chained : (t.ctr n).e
      · simp only [ne_eq, not_true_eq_false, if_false, Bool.not_false, if_true]
        exact ⟨congrArg (·, false) (counters_setCtr _ _ _).symm, rfl⟩
      · simp only [ne_eq, not_true_eq_false, if_false, Bool.not_true, Bool.false_eq_true, reduceCtorEq]
        rw [← chained, ← counters_setCtr]
        exact ih _ _
    · simp only [ne_eq, more, not_false_eq_true, if_true]
      exact ⟨congrArg (·, true) (counters_setCtr _ _ _).symm, rfl⟩

/-- R235: a register's value, as a count of at most 2^32 - 1. -/
theorem saturate (n : Nat) : min n (2 ^ 32 - 1) = if 2 ^ 32 ≤ n then 2 ^ 32 - 1 else n := by
  split <;> omega

/-- R234: the counters of a thread that has written one and stepped on. -/
theorem counters_written {t : Thread} {n : BitVec 2} {c : LoopCtr} {k : Nat} :
    counters (t.setCtr n c).next k = if k = n.toNat then c else counters t k := congrFun (counters_setCtr t n c) k

/-- R235 to R237: the counter that a form writes, in terms of the counters by number. -/
theorem counter_at {t : Thread} {n : BitVec 2} {k : Nat} {f : LoopCtr → LoopCtr} :
    (if k = n.toNat then f (t.ctr n) else counters t k) = if k = n.toNat then f (counters t k) else counters t k := by
  split
  · rename_i h; rw [h, counters_ctr]
  · rfl

/-- R235: a counter loaded. -/
theorem counters_loadCtr {t : Thread} {n : BitVec 2} {v : BitVec 32} {k : Nat} :
    counters (t.loadCtr n v).next k = if k = n.toNat then { counters t k with count := v, start := v } else counters t k :=
  counters_written.trans (counter_at (f := fun c => { c with count := v, start := v }))

end Sys2Proof.Machine

/-- Settles O5: each form writes one counter, and LOOP steps its chain as the rule has it. -/
theorem loopResult : Obligations.LoopResult := by
  intro s n m b im o
  refine ⟨fun ready => ⟨_, congrArg Host.Outcome.next (inBight_ready ready), ?_⟩, ⟨_, rfl, ?_⟩, ⟨_, rfl, ?_⟩, ⟨_, rfl, ?_⟩, ⟨_, rfl, ?_⟩⟩
  · rw [State.mapMe_mapMe, State.me_mapMe, saturate]
    exact ⟨rfl, fun k => counters_loadCtr⟩
  · rw [State.me_mapMe, BitVec.ofNat_toNat]
    exact ⟨rfl, fun k => counters_loadCtr⟩
  · rw [State.me_mapMe]
    exact ⟨rfl, fun k => counters_written.trans (counter_at (f := fun c => { c with e := true, outer := m }))⟩
  · rw [State.me_mapMe]
    exact ⟨rfl, fun k => counters_written.trans (counter_at (f := fun c => { c with e := false }))⟩
  · rw [State.me_mapMe]
    obtain ⟨rule, pc⟩ := loopStep_counters 4 n s.me
    rw [rule]
    dsimp only
    cases (loopStep 4 n s.me).2
    · exact ⟨fun k => rfl, congrArg (· + 4) pc⟩
    · exact ⟨fun k => rfl, target13_eq _ _⟩
end

section
/-! PROOF. Knots, system registers and exceptions. -/
namespace Sys2Proof.Machine
open Sys2Proof.Safety Sys2Proof.Claims

/-- The register `CTXLIST` of every partition, and the threads, stand as they were. -/
def ListKept (s t : State) : Prop := (∀ k, (t.part k).ctxlist = (s.part k).ctxlist) ∧ t.thread = s.thread

theorem ListKept.refl (s : State) : ListKept s s := ⟨fun _ => rfl, rfl⟩
theorem ListKept.trans {s t r : State} (h : ListKept s t) (k : ListKept t r) : ListKept s r :=
  ⟨fun j => (k.1 j).trans (h.1 j), k.2.trans h.2⟩
theorem ListKept.foldl {α : Type} (l : List α) (f : State → α → State) (hf : ∀ s a, ListKept s (f s a)) (s : State) :
    ListKept s (l.foldl f s) := by
  induction l generalizing s with
  | nil => exact .refl s
  | cons a l ih => exact (hf s a).trans (ih (f s a))
theorem ListKept.mapPart (s : State) (k : Nat) (f : Part → Part) (hf : ∀ p, (f p).ctxlist = p.ctxlist) : ListKept s (s.mapPart k f) := by
  refine ⟨fun j => ?_, rfl⟩
  rw [State.part_mapPart]
  split
  · rename_i h; rw [← h]; exact hf _
  · rfl
theorem logRecord_listKept (s : State) (part : Nat) (r : Rec) : ListKept s (logRecord s part r) := by
  refine ⟨fun k => ?_, (logRecord_logged s part r).thread⟩
  obtain ⟨h, l, e⟩ := logRecord_part s part k r
  rw [e]
theorem deviceFault_listKept (s : State) (part tile kind : Nat) (ea : Word) : ListKept s (deviceFault s part tile kind ea) := by
  unfold deviceFault
  repeat' split
  all_goals first
    | exact .refl s
    | exact logRecord_listKept _ _ _
theorem Written.listKept {s t : State} (h : Written s t) : ListKept s t := by
  obtain ⟨a, b, c, d, e, f, rfl⟩ := h; exact ⟨fun _ => rfl, rfl⟩
theorem sysFetch_listKept (s : State) (part tile : Nat) (ea : Word) (n : Nat) : ListKept s (sysFetch s part tile ea n).1 := by
  unfold sysFetch
  split
  · exact .refl s
  · exact (noteRead_written s part ea n).listKept.trans (deviceFault_listKept _ _ _ _ _)
theorem fetchLines_listKept (s : State) (part : Nat) (ea : Word) (n : Nat) : ListKept s (fetchLines s part ea n).1 := by
  unfold fetchLines
  generalize linePieces ea n = ps, some [] = b
  induction ps generalizing s b with
  | nil => exact .refl s
  | cons p ps ih => exact (sysFetch_listKept s part 0 p.1 p.2.2).trans (ih _ _)
theorem readHeader_listKept (s : State) (part : Nat) : ListKept s (readHeader s part) :=
  (fetchLines_listKept s part _ 128).trans (.mapPart _ _ _ fun _ => rfl)
theorem readEntry_listKept (s : State) (part i : Nat) : ListKept s (readEntry s part i) :=
  (fetchLines_listKept s part _ 16).trans (.mapPart _ _ _ fun _ => rfl)
theorem readQueue_listKept (s : State) (part q : Nat) : ListKept s (readQueue s part q) := by
  have h := (fetchLines_listKept s part (queueAt s part q) 64).trans
    (.mapPart _ part (fun p => { p with queues := Assoc.set p.queues q (.ofNat 512 (leNat ((fetchLines s part (queueAt s part q) 64).2.getD []))) })
      fun _ => rfl)
  exact h.trans (readEntry_listKept _ _ _)
/-- R395: the dispatcher's reading of its copies leaves CTXLIST and the threads. -/
theorem readContextList_listKept (s : State) (part : Nat) : ListKept s (readContextList s part) :=
  (readHeader_listKept s part).trans ((ListKept.foldl _ _ (fun s _ => readEntry_listKept s part _) _).trans
    (ListKept.foldl _ _ (fun s _ => readQueue_listKept s part _) _))

/-- The low field of a number, as its bits under a mask. -/
theorem fld_zero (n hi : Nat) : fld n hi 0 = n &&& (2 ^ (hi + 1) - 1) := by
  simp [fld, Nat.and_two_pow_sub_one_eq_mod]
/-- A field of a number in its place, above other bits of the number, as its bits under a mask. -/
theorem fld_add (n hi lo m : Nat) (hm : m < 2 ^ lo) :
    fld n hi lo * 2 ^ lo + (n &&& m) = n &&& ((2 ^ (hi + 1 - lo) - 1) * 2 ^ lo ||| m) := by
  have low : n &&& m < 2 ^ lo := Nat.lt_of_le_of_lt Nat.and_le_right hm
  have field : fld n hi lo * 2 ^ lo = n &&& (2 ^ (hi + 1 - lo) - 1) * 2 ^ lo := by
    apply Nat.eq_of_testBit_eq
    intro i
    simp only [fld, Nat.testBit_mul_two_pow, Nat.testBit_mod_two_pow, Nat.testBit_div_two_pow, Nat.testBit_and, Nat.testBit_two_pow_sub_one]
    by_cases h : lo ≤ i
    · simp [h, Bool.and_comm]
    · simp [h]
  rw [Nat.mul_comm, Nat.two_pow_add_eq_or_of_lt low, Nat.mul_comm, field, Nat.and_or_distrib_left]
/-- The bits of a word under a mask. -/
theorem wd_and (v : Word) (m : Nat) : wd (v.toNat &&& m) = v &&& wd m := by
  apply BitVec.eq_of_toNat_eq
  rw [wd, wd, BitVec.toNat_and, BitVec.toNat_ofNat, BitVec.toNat_ofNat, Nat.and_mod_two_pow, Nat.mod_eq_of_lt v.isLt]
/-- The low bits of a word. -/
theorem setWidth_low (v : Word) (k : Nat) : (v.setWidth k).setWidth 64 = v &&& wd (2 ^ k - 1) := by
  rw [← wd_and, Nat.and_two_pow_sub_one_eq_mod]
  apply BitVec.eq_of_toNat_eq
  simp [wd]
/-- A number below a width, cut at the width. -/
theorem wd_mod (v : Word) (k : Nat) : wd (v.toNat % 2 ^ k) = v &&& wd (2 ^ k - 1) := by
  rw [← wd_and, Nat.and_two_pow_sub_one_eq_mod]

/-- Tables 16-1 to 16-3: what a register of the thread's own reads as once written. -/
theorem sysreg_own (s : State) (i : Nat) (v : Word) :
    let at_ (r : Nat) : Word := sysreg (setSysreg s i r v) i r
    at_ 0x001 = v &&& 0x3EF ∧ at_ 0x201 = v &&& 0x3FFFF ∧ at_ 0x202 = v &&& 0x3FFFF00003FFF ∧ at_ 0x203 = v ∧ at_ 0x204 = v &&& 0x3FFFF ∧
    at_ 0x205 = v ∧ at_ 0x206 = v ∧ at_ 0x207 = v ∧ at_ 0x208 = v ∧ at_ 0x010 = v &&& 0xFFFF ∧ at_ 0x011 = v &&& 0xFFFF := by
  refine ⟨?_, ?_, ?_, ?_, ?_, ?_, ?_, ?_, ?_, ?_, ?_⟩
  case refine_3 =>
    have e : wd (fld v.toNat 49 32 * 2 ^ 32 + fld v.toNat 13 0) = v &&& 0x3FFFF00003FFF := by
      rw [fld_zero, fld_add _ 49 32 _ (by decide), wd_and]; rfl
    simpa [sysreg, setSysreg] using e
  all_goals simp [sysreg, setSysreg, graphIdOf, lastWaveOf]
  all_goals exact setWidth_low v _

/-- Table 16-4: a register of the partition reads as its layout takes the value. -/
theorem sysreg_part (s : State) (i : Nat) (v : Word) :
    let at_ (r : Nat) : Word := sysreg (setSysreg s i r v) i r
    at_ 0x300 = v &&& 0x3FFFF ∧ at_ 0x301 = v &&& 0x8000000000003F3F ∧ at_ 0x302 = v ∧
    (let head := (s.part ((s.thread i).graph / 65536)).errhead
     at_ 0x308 = if head.toNat < v.toNat then head else v) ∧
    at_ 0x303 = (if v.getLsbD 63 then v &&& 0xFFFFFFF80FFFFF00 else v) ∧ at_ 0x304 = v ∧ at_ 0x305 = v ∧ at_ 0x306 = v &&& 0x1F ∧
    at_ 0x309 = v ∧ at_ 0x30A = v ∧ at_ 0x30B = v &&& 0xF := by
  refine ⟨?_, ?_, ?_, ?_, ?_, ?_, ?_, ?_, ?_, ?_, ?_⟩
  case refine_2 =>
    have e : wd (fld v.toNat 63 63 * 2 ^ 63 + fld v.toNat 13 8 * 2 ^ 8 + fld v.toNat 5 0) = v &&& 0x8000000000003F3F := by
      rw [fld_zero, Nat.add_assoc, fld_add _ 13 8 _ (by decide), fld_add _ 63 63 _ (by decide), wd_and]; rfl
    simpa [sysreg, setSysreg] using e
  case refine_10 =>
    obtain ⟨list, threads⟩ := readContextList_listKept
      (s.mapPart (graphPart (s.thread i).graph) (fun p => { p with ctxlist := v, evalDue := true })) (graphPart (s.thread i).graph)
    simp only [sysreg, setSysreg]
    simp [threads, list]
  case refine_5 =>
    have e : ptrootKept v = if v.getLsbD 63 then v &&& 0xFFFFFFF80FFFFF00 else v := rfl
    simpa [sysreg, setSysreg] using e
  all_goals simp [sysreg, setSysreg]
  case refine_1 => exact wd_mod v 18
  case refine_4 => exact ite_congr_iff BitVec.ult_iff_lt rfl rfl
  case refine_8 => exact wd_mod v 5
  case refine_11 => exact wd_mod v 4

/-- Table 16-1: what a shared register reads as once written. -/
theorem sysreg_shared (s : State) (i : Nat) (v : Word) (k : Nat) (h : k < 32) :
    sysreg (setSysreg s i (0x100 + k) v) i (0x100 + k) = v &&& 0xFFFFFFFF ∧
    sysreg (setSysreg s i (0x120 + k) v) i (0x120 + k) = v &&& 0xFC0F := by
  have ne : ¬ (0x100 + k = 0x001) ∧ ¬ (0x100 + k = 0x010) ∧ ¬ (0x100 + k = 0x011) := by omega
  have ne' : ¬ (0x120 + k = 0x001) ∧ ¬ (0x120 + k = 0x010) ∧ ¬ (0x120 + k = 0x011) ∧ ¬ (0x100 ≤ 0x120 + k ∧ 0x120 + k < 0x120) := by omega
  have r : 0x100 ≤ 0x100 + k ∧ 0x100 + k < 0x120 := by omega
  have r' : 0x120 ≤ 0x120 + k ∧ 0x120 + k < 0x140 := by omega
  have hk : k % 32 = k := Nat.mod_eq_of_lt h
  constructor
  · unfold sysreg setSysreg
    simp only [ne, r, if_true, if_false, and_self, Nat.add_sub_cancel_left]
    simp only [State.tile_mapTile, if_true]
    simp [Tile.scale, h, hk, Vector.get]
    exact setWidth_low v 32
  · unfold sysreg setSysreg
    simp only [ne', r', if_true, if_false, and_self, Nat.add_sub_cancel_left]
    simp only [State.tile_mapTile, if_true]
    simp [Tile.fmtEntry, h, hk, Vector.get]
    rw [← Nat.and_two_pow_sub_one_eq_mod v.toNat 16, Nat.and_assoc]
    exact wd_and v _

/-- Tables 16-2 to 16-4: a register that MTS does not write reads as before. -/
theorem sysreg_readOnly (s : State) (i : Nat) (v : Word) (r : Nat) (h : r = 0x200 ∨ r = 0x307 ∨ 0x380 ≤ r ∧ r ≤ 0x387) :
    sysreg (setSysreg s i r v) i r = sysreg s i r := by
  have same : setSysreg s i r v = s := by
    unfold setSysreg
    rw [if_neg (by omega), if_neg (by omega)]
    split
    all_goals first | rfl | omega
  rw [same]

end Sys2Proof.Machine

namespace Sys2Proof.Machine
open Sys2Proof.Safety Sys2Proof.Claims

/-- R246: a register that the thread may read. -/
theorem privCheck_read_ok {lvl : Bool} {r : Nat} (h : r < 0x200 ∨ r < 0x800 ∧ lvl = true) : privCheck lvl false r = false := by
  rcases h with h | ⟨h, rfl⟩
  · simp [privCheck, readableAtU, h]; omega
  · simp [privCheck]; omega

/-- R52: in the graph of a quiet slot no wave is open. -/
theorem quiet_noWave {s : State} (h : Quiet s) : (s.graph s.me.graph).openWave = none := by
  obtain ⟨-, -, -, -, noWave, -⟩ := h; exact noWave

/-- R240: a knot of a quiet slot steps to the next word with a new bight there. -/
theorem knotOp_quiet {s : State} (h : Quiet s) :
    knotOp false s = s.mapMe (fun t => { knotted t (t.pc + 4) with pc := t.pc + 4, wait := .none }) := by
  rw [knotOp, knot_quiet h]
  exact State.mapMe_mapMe s _ _

/-- R53: the modular order of wave numbers, by the numbers. -/
theorem precedes_eq (c n : BitVec 16) :
    precedes c n = !decide ((n.toNat + 2 ^ 16 - c.toNat) % 2 ^ 16 = 0 ∨ 2 ^ 15 ≤ (n.toNat + 2 ^ 16 - c.toNat) % 2 ^ 16) := by
  have e : (n - c).toNat = (n.toNat + 2 ^ 16 - c.toNat) % 2 ^ 16 := by
    rw [BitVec.toNat_sub]; congr 1; omega
  have z : (n - c != 0) = !decide ((n - c).toNat = 0) := by
    rw [bne, Bool.not_eq_eq_eq_not, Bool.not_not, Bool.eq_iff_iff, beq_iff_eq, decide_eq_true_iff, ← BitVec.toNat_inj]
    rfl
  rw [precedes, z, e, Bool.decide_or, Bool.not_or]
  congr 1
  rw [← decide_not]; exact decide_eq_decide.2 Nat.not_le.symm

/-- R241: HALT of a quiet slot, once its knot has committed. -/
theorem execHalt_quiet {s : State} (h : Quiet s) :
    exec .halt s = .next (if s.me.idle then haltNow (s.mapMe (fun t => knotted t t.pc)) else waitAs .haltWait (s.mapMe (fun t => knotted t t.pc))) := by
  show Host.Outcome.next (match knot s s.cur false s.me.pc with
      | .hold s' => haltHeld s'
      | .go s' => if s'.me.idle then haltNow s' else waitAs .haltWait s') = _
  rw [knot_quiet h]
  show Host.Outcome.next (if (s.mapMe (fun t => knotted t s.me.pc)).me.idle then _ else _) = _
  rw [State.me_mapMe]
  rfl

/-- R241: with no wave open the slot stops as it stands. -/
theorem haltNow_noWave {s : State} (h : (s.graph s.me.graph).openWave = none) : haltNow s = s.mapMe Thread.halt := by
  unfold haltNow; rw [h]

/-- R242: KWAIT waits where the last complete wave precedes the thread's. -/
theorem kwaits_eq (s : State) :
    kwaits s = !decide ((s.me.wave.toNat + 2 ^ 16 - (s.graph s.me.graph).lastWave.toNat) % 2 ^ 16 = 0 ∨
      2 ^ 15 ≤ (s.me.wave.toNat + 2 ^ 16 - (s.graph s.me.graph).lastWave.toNat) % 2 ^ 16) := precedes_eq _ _

/-- R242: a ready KWAIT. -/
theorem execKwait_ready {s : State} {d : BitVec 5} (h : Ready s .empty (RegSet.s1 d)) :
    exec (.kwait d) s = .next (if kwaits s then waitAs .kwait s
      else s.mapMe (fun t => ((t.tracked .empty (RegSet.s1 d)).ws d ((s.graph s.me.graph).lastWave.zeroExtend 64)).next)) := by
  show Host.Outcome.next (inBight _ _ _ _ s) = _
  rw [inBight_ready h]
  simp only [State.mapMe_mapMe]

end Sys2Proof.Machine

open Sys2Proof Sys2Proof.Machine Sys2Proof.Safety Sys2Proof.Claims

/-- Settles O8: NOP and YIELD are one change of the running slot, and the knot of a quiet slot opens the new bight at once. -/
theorem knotResult : Obligations.KnotResult :=
  ⟨fun _ => ⟨rfl, rfl⟩, fun _ quiet => congrArg _ (knotOp_quiet quiet)⟩

/-- Settles O11: -/
theorem haltKwaitResult : Obligations.HaltKwaitResult := by
  refine ⟨fun s quiet free => ⟨fun idle => ?_, fun busy => ?_⟩, fun s d ready => ⟨fun met => ?_, fun unmet => ?_⟩⟩
  · have noWave : ((s.mapMe (fun t => knotted t t.pc)).graph (s.mapMe (fun t => knotted t t.pc)).me.graph).openWave = none := by
      rw [State.me_mapMe]; exact quiet_noWave quiet
    rw [execHalt_quiet quiet, idle, if_pos rfl, haltNow_noWave noWave, State.mapMe_mapMe]
    rfl
  · rw [execHalt_quiet quiet, busy, if_neg (by decide), waitAs, State.mapMe_mapMe]
  · have e : u (s.graph s.me.graph).lastWave.toNat = (s.graph s.me.graph).lastWave.zeroExtend 64 := BitVec.ofNat_toNat 64 _
    rw [execKwait_ready ready, kwaits_eq, decide_eq_true met, e]
    rfl
  · rw [execKwait_ready ready, kwaits_eq, decide_eq_false unmet]
    exact ⟨waitAs .kwait s, rfl, by simp [waitAs]⟩

/-- Settles O12 -/
theorem sysregRead : Obligations.SysregRead := by
  refine ⟨fun s d r legal ready => ?_, fun s i v => ?_⟩
  · show Host.Outcome.next (if privCheck s.me.lvl false r.toNat then _ else scalarOp d .empty (sysreg s s.cur r.toNat) s) = _
    rw [privCheck_read_ok legal, scalarOp_ready ready]
    rfl
  · obtain ⟨h001, h201, h202, h203, h204, h205, h206, h207, h208, h010, h011⟩ := sysreg_own s i v
    obtain ⟨h300, h301, h302, h308, h303, h304, h305, h306, h309, h30A, h30B⟩ := sysreg_part s i v
    exact ⟨h001, sysreg_shared s i v, h201, h202, h203, h204, h205, h206, h207, h208, h300, h301, h302, h308, h303, h304, h305, h306, h309,
      h30A, h30B, h010, h011, sysreg_readOnly s i v⟩

namespace Sys2Proof.Machine
open Sys2Proof.Safety Sys2Proof.Claims

/-- R247: the running slot knotted is the running slot. -/
theorem me_knotted (s : State) (npc : PC) : (s.mapMe (fun t => knotted t npc)).me = knotted s.me npc := State.me_mapMe s _

/-- A form that writes no register names those it reads. -/
theorem RegSet.or_empty (r : RegSet) : r.or .empty = r := by
  simp [RegSet.or, RegSet.empty]

/-- R246: a register that the thread may write. -/
theorem privCheck_write_ok {lvl : Bool} {r : Nat} (h : r = 1 ∨ 0x100 ≤ r ∧ r < 0x140 ∨ r < 0x800 ∧ lvl = true) : privCheck lvl true r = false := by
  rcases h with rfl | ⟨h, h'⟩ | ⟨h, rfl⟩
  · cases lvl <;> rfl
  · have : ¬ 0x800 ≤ r := by omega
    simp [privCheck, writableAtU, h, h', this]
  · simp [privCheck]; omega

/-- R246: a register shared by the slots may be written at U. -/
theorem privCheck_shared {lvl : Bool} {r : Nat} (h : 0x100 ≤ r ∧ r < 0x140) : privCheck lvl true r = false :=
  privCheck_write_ok (.inr (.inl h))

/-- R364: a window that passes slot 63. -/
theorem hwinBad_of_passes {v : Word} (h : 63 < v.toNat % 64 + v.toNat / 2 ^ 8 % 64) : hwinBad 0x301 v = true := by
  simpa [hwinBad, fld] using h

/-- Table 16-4: only a value of HWIN names a window. -/
theorem hwinBad_other {r : Nat} {v : Word} (h : r ≠ 0x301) : hwinBad r v = false := by simp [hwinBad, h]

/-- R248: MTS of a register that the thread may write, no bad window. -/
theorem execMts_legal {s : State} {a : BitVec 5} {r : BitVec 12} (hp : privCheck s.me.lvl true r.toNat = false)
    (hw : hwinBad r.toNat (s.me.rs a) = false) :
    exec (.mts a r) s = .next (irrevocable (RegSet.s1 a) .empty (mtsCheck s s.cur r.toNat (s.me.rs a)) (fun s' =>
      if sharedReg r.toNat && (List.range 4).any (fun q => !(s'.me.queue q).waiting.isEmpty) then waitAs .commit s'
      else (setSysreg s' s'.cur r.toNat (s.me.rs a)).mapMe Thread.nextFresh) s) := by
  show Host.Outcome.next (if privCheck s.me.lvl true r.toNat then _ else
    if hwinBad r.toNat (s.me.rs a) && !s.me.notReady (RegSet.s1 a) then _ else _) = _
  rw [hp, hw]
  rfl

/-- R166, R248: a strand format entry whose endpoint the context does not claim. -/
theorem mtsCheck_format {s : State} {r k : Nat} {v : Word} (hk : k < 32) (hr : r = 0x120 + k)
    (h : EpF.used (((s.tile (s.cur / 4)).ctx s.me.pctx.toNat).epF k) = false) : mtsCheck s s.cur r v = some (6, u k) := by
  subst hr
  have range : 0x120 ≤ 0x120 + k ∧ 0x120 + k < 0x140 := by omega
  have e : EpF.used (((s.tile (tileOf s.cur)).ctx (s.thread s.cur).pctx.toNat).epF k) = false := h
  simp only [mtsCheck, range, Nat.add_sub_cancel_left, e, Bool.not_false, and_self, if_true]
  rfl

/-- R166, R248: a scale register that the context does not own. -/
theorem mtsCheck_scale {s : State} {r k : Nat} {v : Word} (hk : k < 32) (hr : r = 0x100 + k)
    (h : MpF.scown ((s.tile (s.cur / 4)).ctx s.me.pctx.toNat).thF / 2 ^ k % 2 = 0) : mtsCheck s s.cur r v = some (6, u (0x100 + k)) := by
  subst hr
  have range : 0x100 ≤ 0x100 + k ∧ 0x100 + k < 0x120 := by omega
  have other : ¬ (0x120 ≤ 0x100 + k) := by omega
  have e : bit (MpF.scown ((s.tile (tileOf s.cur)).ctx (s.thread s.cur).pctx.toNat).thF) k = false := by
    rw [bit, beq_eq_false_iff_ne]
    exact fun odd => absurd (h.symm.trans odd) (by decide)
  simp only [mtsCheck, range, other, Nat.add_sub_cancel_left, e, Bool.not_false, false_and, and_self, if_true, if_false]
  rfl

/-- R249: the engine commands of a slot have all started, or MTS need not wait for them. -/
theorem mts_starts {t : Thread} {r : Nat} (h : sharedReg r = false ∨ ∀ q, q < 4 → (t.queue q).waiting = []) :
    (sharedReg r && (List.range 4).any (fun q => !(t.queue q).waiting.isEmpty)) = false := by
  rcases h with h | h
  · simp [h]
  · rw [Bool.and_eq_false_iff]
    right
    rw [List.any_eq_false]
    intro q hq
    simp [h q (List.mem_range.1 hq)]

end Sys2Proof.Machine

/-- Settles O13: the checks of MTS in the order in which they are made, and its implicit knot. -/
theorem mtsResult : Obligations.MtsResult := by
  refine ⟨fun s a r free => ⟨fun handler hr passes => ?_, fun k hk => ⟨fun hr unclaimed => ?_, fun hr unowned => ?_⟩⟩,
    fun s a r quiet free may window check started => ?_⟩
  · have bad : hwinBad r.toNat (s.me.rs a) = true := by rw [hr]; exact hwinBad_of_passes passes
    have priv : privCheck s.me.lvl true r.toNat = false := privCheck_write_ok (.inr (.inr ⟨by omega, handler⟩))
    refine ⟨Config.freeWord s.drawn, ?_⟩
    show Host.Outcome.next (if privCheck s.me.lvl true r.toNat then _ else
      if hwinBad r.toNat (s.me.rs a) && !s.me.notReady (RegSet.s1 a) then _ else _) = _
    rw [priv, bad, free]
    rfl
  · rw [execMts_legal (privCheck_shared (by omega)) (hwinBad_other (by omega)), mtsCheck_format hk hr unclaimed,
      irrevocable_check (by rw [RegSet.or_empty, free])]
  · rw [execMts_legal (privCheck_shared (by omega)) (hwinBad_other (by omega)), mtsCheck_scale hk hr unowned,
      irrevocable_check (by rw [RegSet.or_empty, free])]
  · rw [execMts_legal (privCheck_write_ok may) window, check, irrevocable_quiet quiet (by rw [RegSet.or_empty, free])]
    have started' : sharedReg r.toNat = false ∨ ∀ q, q < 4 → ((s.mapMe (fun t => knotted t t.pc)).me.queue q).waiting = [] := by
      rw [State.me_mapMe]; exact started
    rw [mts_starts started']
    rfl

namespace Sys2Proof.Machine
open Sys2Proof.Safety Sys2Proof.Claims

/-- Table 16-4: handlers are in force, by the bit of HWIN. -/
theorem bit63 {w : Word} : bit w.toNat 63 = true ↔ w.toNat / 2 ^ 63 % 2 = 1 := by rw [bit, beq_iff_eq]

/-- R366: where a trap of the running slot at U, with handlers in force, leaves its thread. -/
theorem deliver_me {s : State} {x : Trap} (hl : s.me.lvl = false) (hw : (s.graph s.me.graph).hwin.toNat / 2 ^ 63 % 2 = 1) :
    ∃ tbs : PC, (deliver s s.cur x).me = { s.me with
      susp := if x.open_ && !x.disc then some s.me.bight else none,
      tpc := x.pc, tval := x.val, tbs := tbs, tcause := x.cause, lvl := true,
      pc := (s.part (s.me.graph / 65536)).tvec.truncate 18, wait := .none, yield := 0,
      kept := some { s := s.me.s, v := s.me.v, p := s.me.p, lc := s.me.lc, fpctl := s.me.fpctl },
      bight := .openAt ((s.part (s.me.graph / 65536)).tvec.truncate 18) s.me.lc s.me.fpctl } ∧
      (x.open_ = true ∨ x.disc = true → tbs = s.me.bight.start) := by
  obtain ⟨tbs, e, start⟩ := deliver_user (i := s.cur) (x := x) hl (bit63.2 hw)
  refine ⟨tbs, ?_, start⟩
  rw [e]
  exact State.me_setMe s.draw _

/-- R374: the service request of a TRAP, with the PC after it. -/
def serviceRequest (n : BitVec 16) (pc : PC) : Trap :=
  { code := 0x19, val := n.zeroExtend 64, pc := pc, disc := false, e := false, queue := 0, epc := 0, graph := false, open_ := false }

/-- R374: TRAP of a quiet slot delivers the service request of its next instruction. -/
theorem execTrap_quiet {s : State} {n : BitVec 16} (h : Quiet s) (hr : s.me.notReady .empty = false) :
    exec (.trap n) s = .next (deliver (s.mapMe (fun t => knotted t t.pc)) s.cur (serviceRequest n (s.me.pc + 4))) := by
  have e : exec (.trap n) s = .next (irrevocable .empty .empty none (fun s => deliver s s.cur (serviceRequest n (s.me.pc + 4))) s) := rfl
  rw [e, irrevocable_quiet h (by rw [RegSet.or_empty, hr]), State.me_mapMe]
  rfl

/-- R366: the whole state after a precise trap inside the bight at U, with handlers in force. -/
theorem raise_user {s : State} {c : Nat} {v : Word} (hl : s.me.lvl = false) (hw : (s.graph s.me.graph).hwin.toNat / 2 ^ 63 % 2 = 1) :
    raise s c v = s.draw.setMe { s.me with
      susp := some s.me.bight, tpc := s.me.pc, tval := v, tbs := s.me.bight.start, tcause := wd c, lvl := true,
      pc := (s.part (s.me.graph / 65536)).tvec.truncate 18, wait := .none, yield := 0,
      kept := some { s := s.me.s, v := s.me.v, p := s.me.p, lc := s.me.lc, fpctl := s.me.fpctl },
      bight := .openAt ((s.part (s.me.graph / 65536)).tvec.truncate 18) s.me.lc s.me.fpctl } := by
  obtain ⟨tbs, e, start⟩ := deliver_user (i := s.cur)
    (x := { code := c, val := v, pc := s.me.pc, disc := false, e := false, queue := 0, epc := 0, graph := false, open_ := true }) hl (bit63.2 hw)
  have e' : tbs = s.me.bight.start := start (.inl rfl)
  rw [raise, e, e']
  rfl

end Sys2Proof.Machine

/-- Settles O15: an illegal word is a precise trap inside the bight, and so is a poisoned fetch, once its record is written. -/
theorem trapEntry : Obligations.TrapEntry := by
  refine ⟨fun s w user handlers => ?_, fun s pc user handlers => ?_⟩
  · have e : exec (.illegalWord w) s = .next (raise s 1 (w.zeroExtend 64)) := rfl
    rw [e, raise_user user handlers]
    refine ⟨_, rfl, ?_⟩
    rw [State.me_setMe]
    refine ⟨rfl, rfl, rfl, rfl, (BitVec.ofNat_toNat 64 w).symm, rfl, rfl, rfl, rfl, rfl, rfl, rfl, rfl, rfl, fun k hk => ?_,
      fun _ => rfl, fun _ => rfl, fun _ => rfl, rfl, rfl, rfl⟩
    exact (State.thread_setThread s.draw s.cur k _).trans (if_neg hk.symm)
  · have e : exec (.poisonedFetch pc) s = .next (raise (poisonRecord s s.cur 1 (wd (0xE * 2 ^ 60 + pc.toNat)) pc) 8 (pc.zeroExtend 64)) := rfl
    have logged : Logged s (poisonRecord s s.cur 1 (wd (0xE * 2 ^ 60 + pc.toNat)) pc) := record_logged s _
    generalize poisonRecord s s.cur 1 (wd (0xE * 2 ^ 60 + pc.toNat)) pc = t at e logged
    have me : t.me = s.me := by rw [State.me, logged.thread, logged.cur]; rfl
    rw [e, raise_user (by rw [me, user]) (by rw [me, logged.graph, handlers])]
    refine ⟨_, rfl, ?_⟩
    rw [State.me_setMe, me]
    exact ⟨rfl, rfl, (BitVec.ofNat_toNat 64 pc).symm, rfl, rfl, rfl⟩

/-- Settles O17: the implicit knot of a quiet slot, then the delivery of the service request. -/
theorem trapInstruction : Obligations.TrapInstruction := by
  intro s n quiet free user handlers
  have me := State.me_mapMe s (fun t => knotted t t.pc)
  obtain ⟨tbs, delivered, -⟩ := deliver_me (s := s.mapMe (fun t => knotted t t.pc)) (x := serviceRequest n (s.me.pc + 4))
    (by rw [me]; exact user) (by rw [me]; exact handlers)
  have rcnt : (knotted s.me s.me.pc).rcnt = 0 := by simp [knotted, user]
  rw [execTrap_quiet quiet free]
  refine ⟨_, rfl, ?_⟩
  rw [show (deliver (s.mapMe (fun t => knotted t t.pc)) s.cur _).me = _ from delivered, me]
  exact ⟨rfl, rfl, rfl, rfl, (BitVec.ofNat_toNat 64 n).symm, rfl, rcnt, rfl, rfl, rfl⟩

namespace Sys2Proof.Machine
open Sys2Proof.Safety Sys2Proof.Claims

/-- R375: a return of a quiet slot at S acts after its knot, and held faults are retried. -/
theorem sysret_quiet {s : State} {re : Bool} (h : Quiet s) (hl : s.me.lvl = true) :
    sysret re s = post (sysReturn (s.mapMe (fun t => knotted t t.pc)) re) (.heldFaultRetry s.cur) := by
  unfold sysret
  rw [hl, knot_quiet h]
  rfl

/-- R375: a return with a suspended bight puts it back. -/
theorem sysReturn_some {s : State} {b : Bight} (h : s.me.susp = some b) :
    sysReturn s false = s.setMe { s.me with bight := b, susp := none, lvl := false, kept := none, pc := s.me.tpc, wait := .none } := by
  unfold sysReturn; dsimp only; rw [h]; rfl

/-- R375: a return with none suspended opens a bight. -/
theorem sysReturn_none {s : State} {re : Bool} (h : s.me.susp = none) :
    sysReturn s re = s.setMe { s.me with lvl := false, kept := none, pc := s.me.tpc, wait := .none,
                                         bight := .openAt s.me.tpc s.me.lc s.me.fpctl } := by
  unfold sysReturn; dsimp only; rw [h]

/-- R375, R50: a thread that SYSRET.RE has brought back to the start of its suspended bight. -/
def reentered (t : Thread) (b : Bight) : Thread :=
  { t with lc := b.lc0, fpctl := b.fp0, pc := t.tbs, wait := .none, susp := none, lvl := false, kept := none,
           bight := .openAt t.tbs b.lc0 b.fp0, rcnt := .ofNat 8 (min (t.rcnt.toNat + 1) 255) }

/-- R375, R50: SYSRET.RE below the limit. -/
theorem sysReturn_re_below {s : State} {b : Bight} (h : s.me.susp = some b) (below : s.me.rcnt.toNat + 1 < s.me.rlim.toNat) :
    sysReturn s true = s.setMe (reentered s.me b) := by
  unfold sysReturn; dsimp only; rw [h]
  exact if_neg (Nat.not_le.2 below)

/-- R50: REENTRY_LIMIT of a return, raised at the start of the bight that it re-enters. -/
def returnLimit (pc : PC) : Trap :=
  { code := 0x0B, val := 0x43, pc := pc, disc := true, e := false, queue := 0, epc := 0, graph := false, open_ := false }

/-- R375, R50: SYSRET.RE at the limit raises REENTRY_LIMIT there. -/
theorem sysReturn_re_limit {s : State} {b : Bight} (h : s.me.susp = some b) (limit : s.me.rlim.toNat ≤ s.me.rcnt.toNat + 1)
    (hw : (s.graph s.me.graph).hwin.toNat / 2 ^ 63 % 2 = 1) :
    (sysReturn s true).me = { reentered s.me b with
      tpc := s.me.tbs, tval := 0x43, tcause := (returnLimit s.me.tbs).cause, lvl := true, yield := 0,
      pc := (s.part (s.me.graph / 65536)).tvec.truncate 18,
      kept := some { s := s.me.s, v := s.me.v, p := s.me.p, lc := b.lc0, fpctl := b.fp0 },
      bight := .openAt ((s.part (s.me.graph / 65536)).tvec.truncate 18) b.lc0 b.fp0 } := by
  have e : sysReturn s true = deliver (s.setMe (reentered s.me b)) s.cur (returnLimit s.me.tbs) := by
    unfold sysReturn; dsimp only; rw [h]
    exact if_pos limit
  have back := State.me_setMe s (reentered s.me b)
  obtain ⟨tbs, delivered, start⟩ := deliver_me (s := s.setMe (reentered s.me b)) (x := returnLimit s.me.tbs)
    (by rw [back]; rfl) (by rw [back]; exact hw)
  have start' := start (.inr rfl)
  rw [back] at delivered start'
  rw [e]
  exact delivered.trans (by rw [start']; rfl)

/-- A device step to come leaves the running slot. -/
theorem me_post_setMe (s : State) (t : Thread) (i : Instr) : (post (s.setMe t) i).me = t := State.me_setMe s t

/-- R375, R50: the counter of a thread below its limit is stepped by one. -/
theorem reentered_rcnt {t : Thread} {b : Bight} (below : t.rcnt.toNat + 1 < t.rlim.toNat) : (reentered t b).rcnt = t.rcnt + 1 := by
  have := t.rlim.isLt
  apply BitVec.eq_of_toNat_eq
  simp only [reentered, BitVec.toNat_ofNat, BitVec.toNat_add]
  rw [Nat.min_eq_left (by omega)]
  rfl

/-- R50: the counter of a thread brought back, by its number. -/
theorem reentered_count (t : Thread) (b : Bight) : (reentered t b).rcnt.toNat = min (t.rcnt.toNat + 1) 255 := by
  simp only [reentered, BitVec.toNat_ofNat]; omega

/-- R50: a handler's commit leaves what a return needs. -/
theorem knotted_handler {t : Thread} {npc : PC} (h : t.lvl = true) : knotted t npc = { t with bight := .openAt npc t.lc t.fpctl } := by
  unfold knotted; rw [h]; rfl

end Sys2Proof.Machine

/-- Settles O18: the return acts after the handler's knot, which leaves the trap registers, the suspended bight and the counter. -/
theorem sysretResult : Obligations.SysretResult := by
  refine ⟨fun s quiet handler => ?_, fun s b quiet handler held below => ?_, fun s b quiet handler held limit handlers => ?_⟩
  all_goals
    have me : (s.mapMe (fun t => knotted t t.pc)).me = { s.me with bight := .openAt s.me.pc s.me.lc s.me.fpctl } :=
      (State.me_mapMe s _).trans (knotted_handler handler)
    refine ⟨_, congrArg Host.Outcome.next (sysret_quiet quiet handler), ?_⟩
  · cases held : s.me.susp with
    | none =>
      rw [sysReturn_none (by rw [me]; exact held), me, me_post_setMe]
      exact ⟨rfl, rfl, held, rfl, rfl, rfl, rfl, rfl, rfl, fun _ => rfl⟩
    | some b =>
      rw [sysReturn_some (by rw [me]; exact held), me, me_post_setMe]
      exact ⟨rfl, rfl, rfl, rfl, rfl, rfl, rfl, rfl, rfl, fun _ => rfl⟩
  · rw [sysReturn_re_below (by rw [me]; exact held) (by rw [me]; exact below), me, me_post_setMe]
    exact ⟨rfl, rfl, rfl, rfl, rfl, rfl, rfl, rfl, rfl, reentered_rcnt below, rfl⟩
  · have at_limit := sysReturn_re_limit (s := s.mapMe (fun t => knotted t t.pc)) (b := b) (by rw [me]; exact held) (by rw [me]; exact limit)
      (by rw [me]; exact handlers)
    rw [show (post _ _).me = _ from at_limit, me]
    exact ⟨rfl, rfl, rfl, rfl, rfl, rfl, rfl, rfl, rfl, reentered_count s.me b, rfl⟩
end

section
/-! PROOF. O10, of spec/02: a KNOT.W that opens a wave. -/
namespace Sys2Proof.Machine
open Sys2Proof.Safety

/-- The threads, and of every graph the open wave and the checkpoints taken in it, stand as they were. -/
def WaveKept (s t : State) : Prop :=
  t.thread = s.thread ∧ t.cur = s.cur ∧ ∀ k, (t.graph k).openWave = (s.graph k).openWave ∧
    (t.graph k).pending.map Snap.ckpts = (s.graph k).pending.map Snap.ckpts

theorem WaveKept.refl (s : State) : WaveKept s s := ⟨rfl, rfl, fun _ => ⟨rfl, rfl⟩⟩
theorem WaveKept.trans {s t r : State} (h : WaveKept s t) (k : WaveKept t r) : WaveKept s r := by
  obtain ⟨threads, cur, graphs⟩ := h
  obtain ⟨threads', cur', graphs'⟩ := k
  exact ⟨threads'.trans threads, cur'.trans cur, fun k => ⟨(graphs' k).1.trans (graphs k).1, (graphs' k).2.trans (graphs k).2⟩⟩
theorem WaveKept.foldl {α : Type} (l : List α) (f : State → α → State) (hf : ∀ s a, WaveKept s (f s a)) (s : State) :
    WaveKept s (l.foldl f s) := by
  induction l generalizing s with
  | nil => exact .refl s
  | cons a l ih => exact (hf s a).trans (ih (f s a))
theorem WaveKept.mapTile (s : State) (i : Nat) (f : Tile → Tile) : WaveKept s (s.mapTile i f) := ⟨rfl, rfl, fun _ => ⟨rfl, rfl⟩⟩
/-- A change of a graph that keeps its open wave and its checkpoints. -/
theorem WaveKept.mapGraph (s : State) (i : Nat) (f : Graph → Graph) (ho : ∀ g, (f g).openWave = g.openWave)
    (hp : ∀ g, (f g).pending.map Snap.ckpts = g.pending.map Snap.ckpts) : WaveKept s (s.mapGraph i f) := by
  refine ⟨rfl, rfl, fun k => ?_⟩
  rw [State.graph_mapGraph]
  split
  · rename_i h; subst h; exact ⟨ho _, hp _⟩
  · exact ⟨rfl, rfl⟩

theorem emitMarkers_waveKept (s : State) (i : Nat) (n : BitVec 16) : WaveKept s (emitMarkers s i n) := .mapTile _ _ _
theorem snapEps_waveKept (s : State) (g tile : Nat) (eps : List Nat) (n : BitVec 16) : WaveKept s (snapEps s g tile eps n) := by
  unfold snapEps
  apply WaveKept.foldl
  intro s e
  dsimp only
  refine WaveKept.trans ?_ (WaveKept.mapTile _ _ _)
  apply WaveKept.mapGraph
  · exact fun _ => rfl
  · intro g; cases g.pending <;> rfl
theorem snapStreams_waveKept (s : State) (i : Nat) (n : BitVec 16) : WaveKept s (snapStreams s i n) := by
  unfold snapStreams
  apply WaveKept.foldl
  exact fun s e => ⟨rfl, rfl, fun _ => ⟨rfl, rfl⟩⟩

/-- R52 to R54: what the steps of a checkpoint after its record leave: they emit the markers and take the snapshots. -/
theorem markersOut_waveKept (s : State) (i : Nat) (n : BitVec 16) :
    WaveKept s (snapStreams (snapInputs (emitMarkers s i n) i n) i n) :=
  ((emitMarkers_waveKept s i n).trans (snapEps_waveKept _ _ _ _ _)).trans (snapStreams_waveKept _ i n)

/-- R52: a slot that checkpoints with no cut coming advances its wave number, and its checkpoint is on record. -/
theorem checkpoint_kept {s : State} {i : Nat} {n : BitVec 16} {pc : PC} {p : Snap} (hc : (s.graph (s.thread i).graph).cutting = false)
    (hp : (s.graph (s.thread i).graph).pending = some p) :
    (checkpoint s i n pc).thread i = { s.thread i with wave := n } ∧ (checkpoint s i n pc).cur = s.cur ∧
    ((checkpoint s i n pc).graph (s.thread i).graph).openWave = (s.graph (s.thread i).graph).openWave ∧
    ((checkpoint s i n pc).graph (s.thread i).graph).pending.map Snap.ckpts = some (Assoc.set p.ckpts i (Ckpt.take (s.thread i) pc n)) := by
  unfold checkpoint
  dsimp only
  rw [hc]
  obtain ⟨threads, cur, graphs⟩ := markersOut_waveKept ((s.mapGraph (s.thread i).graph (fun g => { g with
    pending := g.pending.map (fun p =>
    { p with ckpts := Assoc.set p.ckpts i (Ckpt.take (s.thread i) pc n),
             regions := p.regions ++ ledBy s i,
             planes := (planeTiles s i).foldl (fun m ti => Assoc.set m (4 * ti + slotOf i) ((s.tile ti).plane (slotOf i))) p.planes }) })).mapThread i
      (fun t => { t with wave := n, run := if (false && t.run == .running) = true then .cut else t.run })) i n
  obtain ⟨wave, ckpts⟩ := graphs (s.thread i).graph
  refine ⟨?_, cur, wave.trans ?_, ckpts.trans ?_⟩
  · rw [threads, State.thread_mapThread, if_pos rfl]; rfl
  · rw [State.mapThread_graph, State.graph_mapGraph, if_pos rfl]
  · rw [State.mapThread_graph, State.graph_mapGraph, if_pos rfl, hp]; rfl

/-- R54: the markers of halted threads leave the slots that are not among them, and the graphs. -/
theorem haltedMarkers_kept {i : Nat} (l : List Nat) (n : BitVec 16) (r : State) (h : i ∉ l) :
    let t := l.foldl (fun s i => emitMarkers (s.mapThread i (fun t => { t with wave := n })) i n) r
    t.thread i = r.thread i ∧ t.cur = r.cur ∧ t.homeQ = r.homeQ ∧ t.graph = r.graph := by
  induction l generalizing r with
  | nil => exact ⟨rfl, rfl, rfl, rfl⟩
  | cons a l ih =>
    obtain ⟨thread, cur, homeQ, graphs⟩ := ih (emitMarkers (r.mapThread a (fun t => { t with wave := n })) a n) (fun m => h (.tail _ m))
    have ne : a ≠ i := fun e => h (e ▸ .head _)
    have other : (emitMarkers (r.mapThread a (fun t => { t with wave := n })) a n).thread i = r.thread i :=
      (congrFun (emitMarkers_waveKept _ a n).1 i).trans ((State.thread_mapThread r a i _).trans (if_neg ne))
    exact ⟨thread.trans other, cur, homeQ, graphs⟩

/-- R53, R55: the state in which wave n of a graph is open, with its snapshot and the device steps to come. -/
def waveOpened (s : State) (k : Nat) (n : BitVec 16) (dl : Option Nat) (snap : Snap) (quiet : List Instr) : State :=
  { s.mapGraph k (fun g => { g with openWave := some n, deadline := dl, pending := some snap }) with agenda := s.agenda ++ quiet }

theorem waveOpened_graph (s : State) (k : Nat) (n : BitVec 16) (dl : Option Nat) (snap : Snap) (quiet : List Instr) :
    (waveOpened s k n dl snap quiet).graph k = { s.graph k with openWave := some n, deadline := dl, pending := some snap } :=
  Assoc.getD_set_same s.graphs k _ Graph.blank

/-- R53, R54: the next wave of a graph opens, and the halted threads' markers go out. -/
theorem openWave_eq (s : State) (k : Nat) (dl : Option Nat) : ∃ snap quiet,
    openWave s k dl = ((graphThreads s k).filter (fun i => (s.thread i).run == .halted)).foldl
      (fun r i => emitMarkers (r.mapThread i (fun t => { t with wave := (s.graph k).lastWave + 1 })) i ((s.graph k).lastWave + 1))
      (waveOpened s k ((s.graph k).lastWave + 1) dl snap quiet) := ⟨_, _, rfl⟩

/-- R53: what a wave that opens leaves of a slot that runs, and what its graph holds. -/
theorem openWave_kept {s : State} {i : Nat} {dl : Option Nat} (hr : (s.thread i).run = .running) (k : Nat) :
    (openWave s k dl).thread i = s.thread i ∧ (openWave s k dl).cur = s.cur ∧ (openWave s k dl).homeQ = s.homeQ ∧
    ((openWave s k dl).graph k).openWave = some ((s.graph k).lastWave + 1) ∧ ((openWave s k dl).graph k).cutting = (s.graph k).cutting ∧
    ((openWave s k dl).graph k).pending.isSome := by
  have notin : i ∉ (graphThreads s k).filter (fun i => (s.thread i).run == .halted) := by
    intro h
    have := (List.mem_filter.1 h).2
    rw [hr] at this
    exact absurd this (by decide)
  obtain ⟨snap, quiet, e⟩ := openWave_eq s k dl
  obtain ⟨thread, cur, homeQ, graphs⟩ := haltedMarkers_kept _ ((s.graph k).lastWave + 1)
    (waveOpened s k ((s.graph k).lastWave + 1) dl snap quiet) notin
  rw [e, graphs, waveOpened_graph]
  exact ⟨thread, cur, homeQ, rfl, rfl, rfl⟩

/-- R193: the word after a PC is another. -/
theorem pc_add_four_ne (pc : PC) : pc + 4 ≠ pc := by
  intro h
  have := congrArg BitVec.toNat h
  simp [BitVec.toNat_add] at this
  omega

/-- R187: a slot none of whose accesses waits at a home has performed its stores. -/
theorem performed_none {s : State} {i : Nat} (h : s.homeQ.any (fun o => o.th == i) = false) : performed s i = (s, true) := by
  have none : s.homeQ.filter (fun o => o.th == i) = [] := by
    rw [List.filter_eq_nil_iff]
    intro o ho
    simpa using List.any_eq_false.1 h o ho
  simp [performed, drainThread, none, h]

/-- R52, R53, R320: a KNOT.W with nothing started and nothing waiting checkpoints the thread in the wave that it opens. -/
theorem waveCheckpoint_go {s : State} {i : Nat} {n : BitVec 16} {npc : PC} (hq : s.homeQ.any (fun o => o.th == i) = false)
    (hs : startedHolds (s.thread i) = false) : waveCheckpoint s i n npc = .go (checkpoint s i n npc) := by
  unfold waveCheckpoint
  rw [performed_none hq]
  dsimp only
  rw [if_neg (by rw [hs]; decide)]

/-- R52, R53: the wave step of a KNOT.W at U with no wave open. -/
theorem waveStep_opens {s : State} {i : Nat} {npc : PC} (hw : (s.graph (s.thread i).graph).openWave = none) (hl : (s.thread i).lvl = false) :
    waveStep s i true npc =
      waveCheckpoint (openWave s (s.thread i).graph none) i ((s.graph (s.thread i).graph).lastWave + 1) npc := by
  unfold waveStep
  dsimp only
  rw [hw, hl]
  rfl

/-- R240: an explicit knot of a quiet slot comes to its wave step, and goes on from there where the slot is not cut. -/
theorem knot_explicit {s t : State} (h : Quiet s)
    (hgo : waveStep (s.mapMe (fun t => knotted t (s.me.pc + 4))) s.cur true (s.me.pc + 4) = .go t) (hc : (t.thread s.cur).run ≠ .cut) :
    knot s s.cur true (s.me.pc + 4) = .go t := by
  have stores : (s.thread s.cur).bight.stores = [] := by obtain ⟨-, h, -⟩ := h; exact h
  have noWave : (s.graph (s.thread s.cur).graph).openWave = none := by obtain ⟨-, -, -, -, h, -⟩ := h; exact h
  have other : (s.me.pc + 4 == (s.thread s.cur).pc) = false := beq_eq_false_iff_ne.2 (pc_add_four_ne _)
  unfold knot
  simp only [stores, noWave, List.any_nil, Bool.and_false, Bool.false_and, Bool.false_eq_true, if_false]
  rw [epochMetBy_none _ noWave, commitBlock_quiet h]
  simp only [release_quiet h, other, Bool.false_and, Bool.false_eq_true, if_false, Bool.or_false, hgo, hc]

end Sys2Proof.Machine

open Sys2Proof Sys2Proof.Machine Sys2Proof.Safety

/-- Settles O10: the knot of a quiet slot releases nothing, and its wave step opens the wave and checkpoints the thread. -/
theorem knotWOpensWave : Obligations.KnotWOpensWave := by
  intro s quiet user started uncut performed
  have run : s.me.run = .running := by obtain ⟨h, -⟩ := quiet; exact h
  have noWave : (s.graph s.me.graph).openWave = none := by obtain ⟨-, -, -, -, h, -⟩ := quiet; exact h
  have me : (s.mapMe (fun t => knotted t (s.me.pc + 4))).thread s.cur = knotted s.me (s.me.pc + 4) := State.me_mapMe s _
  have opens := waveStep_opens (s := s.mapMe (fun t => knotted t (s.me.pc + 4))) (i := s.cur) (npc := s.me.pc + 4)
    (by rw [me]; exact noWave) (by rw [me]; exact user)
  rw [me] at opens
  obtain ⟨thread, cur, homeQ, opened, cutting, pending⟩ := openWave_kept (s := s.mapMe (fun t => knotted t (s.me.pc + 4))) (i := s.cur)
    (dl := none) (by rw [me]; exact run) s.me.graph
  have opens' : waveStep (s.mapMe (fun t => knotted t (s.me.pc + 4))) s.cur true (s.me.pc + 4) =
    waveCheckpoint (openWave (s.mapMe (fun t => knotted t (s.me.pc + 4))) s.me.graph none) s.cur ((s.graph s.me.graph).lastWave + 1) (s.me.pc + 4) :=
    opens
  generalize openWave (s.mapMe (fun t => knotted t (s.me.pc + 4))) s.me.graph none = s2 at *
  rw [me] at thread
  obtain ⟨p, hp⟩ := Option.isSome_iff_exists.1 pending
  have graph : (s2.thread s.cur).graph = s.me.graph := by rw [thread]; rfl
  obtain ⟨thread', cur', opened', ckpts⟩ := checkpoint_kept (s := s2) (i := s.cur) (n := (s.graph s.me.graph).lastWave + 1) (pc := s.me.pc + 4) (p := p)
    (by rw [graph, cutting]; exact uncut) (by rw [graph]; exact hp)
  rw [waveCheckpoint_go (by rw [homeQ]; exact performed) (by rw [thread]; exact started)] at opens'
  have goes := knot_explicit quiet opens' (by rw [thread', thread]; simp [knotted, run])
  rw [graph] at opened' ckpts
  generalize checkpoint s2 s.cur ((s.graph s.me.graph).lastWave + 1) (s.me.pc + 4) = s3 at *
  have cur3 : s3.cur = s.cur := cur'.trans cur
  have me3 : s3.me = { knotted s.me (s.me.pc + 4) with wave := (s.graph s.me.graph).lastWave + 1 } := by
    rw [State.me, cur3, thread', thread]
  refine ⟨s3.mapMe Thread.next, ?_, ?_⟩
  · show Host.Outcome.next (knotOp true s) = _
    rw [knotOp, goes]
  · rw [State.me_mapMe, me3]
    refine ⟨rfl, rfl, opened'.trans opened, ?_⟩
    rw [State.mapMe_graph]
    obtain ⟨q, hq, taken⟩ := Option.map_eq_some_iff.1 ckpts
    rw [hq, Option.bind_some, taken, Assoc.get?_set_same, thread]
    rfl
end

section
/-! PROOF. Scalar loads and stores (O19, O20, O22), atomics, cleats, groups, tokens and the tag table (O24 to O26, O29 to O33), of
spec/10_isa_memory_sync.md. -/

namespace Sys2Proof.Machine
open Sys2Proof.Safety Sys2Proof.Claims

/-! ### Bytes and addresses -/

/-- R2: the claims' number of a list of bytes is the model's. -/
theorem littleEndian_eq (bs : List Byte) : littleEndian bs = leNat bs := by
  induction bs with
  | nil => rfl
  | cons b bs ih => show b.toNat + 256 * littleEndian bs = _; rw [ih]; rfl

/-- R2: the number of the bytes of a number. -/
theorem leNat_leBytes (n v : Nat) : leNat (leBytes n v) = v % 2 ^ (8 * n) := by
  induction n generalizing v with
  | zero => simp [leBytes, leNat, Nat.mod_one]
  | succ n ih =>
    rw [leBytes, leNat, ih, BitVec.toNat_ofNat, Nat.mul_succ, Nat.add_comm (8 * n) 8, Nat.pow_add, Nat.mod_mul]

/-- R24, R284: a placed access lies in an address space. -/
theorem addressOk_of_placed {n : Nat} {ea : Word} (h : Placed n ea) : addressOk ea n = true := by
  have := ea.isLt
  obtain ⟨-, ⟨space, fits⟩ | ⟨space, high, fits⟩⟩ := h
  · have s0 : spaceOf ea = 0 := by simp only [spaceOf, fld]; omega
    rw [addressOk, if_pos s0]
    exact decide_eq_true fits
  · have sE : spaceOf ea = 0xE := by simp only [spaceOf, fld]; omega
    rw [addressOk, if_neg (by rw [sE]; decide), sE]
    simp only [fld, Nat.reduceAdd, Nat.reduceSub, high, decide_eq_true fits]
    rfl

/-- R24, R284: a placed access passes the checks of its address. -/
theorem addrChecks_of_placed {n : Nat} {ea : Word} (h : Placed n ea) : addrChecks n [(ea, n)] = none :=
  addrChecks_ok (addressOk_of_placed h) h.1

/-- R287: base and offset, as integers. -/
theorem ea13_eq (t : Thread) (a : BitVec 5) (o : BitVec 13) : ea13 t a o = z ((t.rs a).toNat + o.toInt) := by
  rw [ea13, z, BitVec.ofInt_add, BitVec.ofInt_natCast, BitVec.ofNat_toNat, BitVec.setWidth_eq]; rfl

/-- R289: base and shifted index, as numbers. -/
theorem eaIndexed_eq (t : Thread) (a b : BitVec 5) (k : BitVec 2) : eaIndexed t a b k = u ((t.rs a).toNat + (t.rs b).toNat * 2 ^ k.toNat) := by
  apply BitVec.eq_of_toNat_eq
  simp [eaIndexed, u, Nat.shiftLeft_eq]

/-- A form that writes no register meets none that its bight has read. -/
theorem RegSet.inter_empty_first (r : RegSet) : (r.inter .empty).first = none := by
  have : r.inter .empty = .empty := by simp [RegSet.inter, RegSet.empty]
  rw [this]; decide

/-- R45: a form that writes no register is ready once those that it reads are. -/
theorem ready_empty {s : State} {rd : RegSet} (h : s.me.notReady (rd.or .empty) = false) : Ready s rd .empty :=
  ⟨h, RegSet.inter_empty_first _⟩

/-! ### Reads -/

/-- R285: a read that names a deferred update waits while its knot does. -/
theorem loadOp_hold {rd wr : RegSet} {unit : Nat} {p : Bool} {els : List (Word × Nat)} {chk : List (List Byte) → Option (Nat × Word)}
    {body : List (List Byte) → State → State} {s s1 : State} (h : s.me.notReady (rd.or wr) = false) (ha : addrChecks unit els = none)
    (hd : els.any (fun e => hitsDeferred s.me.bight.stores e.1 e.2) = true) (hk : knot s s.cur false s.me.pc = .hold s1) :
    loadOp rd wr unit p els chk body s = s1 := by
  unfold loadOp afterDeferred
  rw [h, ha, hd, if_pos rfl, hk]
  rfl

/-- R285: the state in which a ready read is made. -/
theorem afterDeferred_readsIn {s s1 : State} {els : List (Word × Nat)} {rd wr : RegSet} (h : ReadsIn s els rd wr s1) : afterDeferred els s = .go s1 := by
  obtain ⟨-, h, -⟩ := h
  unfold afterDeferred
  split
  · rename_i hits; rw [if_pos hits] at h; exact h
  · rename_i hits; rw [if_neg hits] at h; rw [h]

/-- R101, R112: a ready read whose bank another has waits. -/
theorem loadOp_busy {rd wr : RegSet} {unit : Nat} {p : Bool} {els : List (Word × Nat)} {chk : List (List Byte) → Option (Nat × Word)}
    {body : List (List Byte) → State → State} {s s1 : State} (h : ReadsIn s els rd wr s1) (ha : addrChecks unit els = none)
    (he : epochMet s1 els = none) (hb : homeBusy s1 false els = true) :
    loadOp rd wr unit p els chk body s = s1.mapMe (fun t => { t with wait := .home }) := by
  have go := afterDeferred_readsIn h
  obtain ⟨ready, -, clear⟩ := h
  unfold loadOp
  rw [ready, ha, go]
  simp only [Bool.false_eq_true, if_false]
  rw [clear, he, hb]
  rfl

/-- R41, R283 to R287: a ready read of one element, made in `s1`. -/
theorem loadOp_readsIn {rd wr : RegSet} {n : Nat} {p : Bool} {ea : Word} {chk : List (List Byte) → Option (Nat × Word)}
    {body : List (List Byte) → State → State} {s s1 s' : State} {c : Nat} {bs : List Byte} (h : ReadsIn s [(ea, n)] rd wr s1)
    (ha : addrChecks n [(ea, n)] = none) (he : epochMet s1 [(ea, n)] = none) (hb : homeBusy s1 false [(ea, n)] = false)
    (hr : readElement s1 p ea n = (s', c, bs)) :
    loadOp rd wr n p [(ea, n)] chk body s =
      if c = 0 then match chk [bs] with
        | some (c, v) => raise (s'.mapMe (fun t => { t with bight := s1.me.bight.read rd })) c v
        | none => body [bs] (s'.mapMe (fun t => t.tracked rd wr))
      else accessTrap s' c ea := by
  have go := afterDeferred_readsIn h
  obtain ⟨ready, -, clear⟩ := h
  unfold loadOp
  rw [ready, ha, go]
  simp only [Bool.false_eq_true, if_false]
  rw [clear, he, hb, readElements_one, hr]
  by_cases hc : c = 0
  · subst hc; rfl
  · rw [worse_zero_fail ea hc, if_neg hc]
    cases c with
    | zero => exact absurd rfl hc
    | succ c => rfl

/-- Table 10-2: size and extension of a form code. -/
theorem loadForm_eq (f : BitVec 3) : loadForm f = loadShape f.toNat := by decide +revert

/-- R287, R289, R290: a scalar load is one `loadScalar`, with the size, the extension and the address of its table. -/
theorem exec_of_loadRule {s : State} {i : Instr} {d : BitVec 5} {rd : RegSet} {n : Nat} {sg : Bool} {ea : Word}
    (h : loadRule s i = some (d, rd, n, sg, ea)) : exec i s = .next (loadScalar n sg d rd ea s) := by
  unfold loadRule at h
  dsimp only at h
  split at h
  case h_10 => cases h
  case h_9 => cases h; rfl
  case h_8 d a b f k =>
    cases h
    rw [← eaIndexed_eq, ← loadForm_eq]; rfl
  all_goals
    cases h
    exact congrArg (fun ea => Host.Outcome.next (loadScalar _ _ _ _ ea s)) (ea13_eq _ _ _)

/-- R1: the model's sign extension is the claims'. -/
theorem sextN_eq (n w : Nat) : sextN n w = sx n w := by
  simp only [sextN, sx, ← Nat.not_le, ite_not]

/-- R287: the value of the bytes of a load. -/
theorem extend_eq (sg : Bool) (bs : List Byte) :
    extend sg bs = if sg then z (sx (littleEndian bs) (8 * bs.length)) else u (littleEndian bs) := by
  rw [littleEndian_eq]
  cases sg
  · rfl
  · rw [extend, sextN_eq]; rfl

/-! ### Buffered updates -/

/-- R112: an update whose translation walks through a held bank waits. -/
theorem bufferOp_walk {rd : RegSet} {unit : Nat} {u : Update} {els : List (Word × Nat)} {ops : List BufOp} {s : State}
    (h : s.me.notReady rd = false) (ha : addrChecks unit els = none) (hm : deferMet s u els = none) (hw : walkBusy s els = true) :
    bufferOp rd unit u els ops s = s.mapMe (fun t => { t with wait := .home }) := by
  unfold bufferOp; rw [h, ha, hm, hw]; rfl

/-- R288 to R290: a scalar store is one `storeScalar`, with the size, the address and the scope of its table. -/
theorem exec_of_storeRule {s : State} {i : Instr} {d : BitVec 5} {rd : RegSet} {n : Nat} {ea : Word} {sc : Nat}
    (h : storeRule s i = some (d, rd, n, ea, sc)) : exec i s = .next (storeScalar n d rd ea sc s) := by
  unfold storeRule at h
  dsimp only at h
  split at h
  case h_7 => cases h
  case h_6 => cases h; rfl
  case h_5 d a b f k =>
    cases h
    rw [← eaIndexed_eq]; rfl
  all_goals
    cases h
    exact congrArg (fun ea => Host.Outcome.next (storeScalar _ _ _ ea _ s)) (ea13_eq _ _ _)

end Sys2Proof.Machine

open Sys2Proof Sys2Proof.Machine Sys2Proof.Safety Sys2Proof.Claims

/-- Settles O19: every form is one read of one element, made in the state after its implicit knot. -/
theorem loadResult : Obligations.LoadResult := by
  intro s i d rd n sg ea rule placed
  have checks := addrChecks_of_placed placed
  rw [exec_of_loadRule rule]
  refine ⟨fun s1 ready hits waits => ?_, fun s1 reads unmet => ⟨fun busy => ?_, fun free s' c bs read => ?_⟩⟩
  · exact congrArg _ (loadOp_hold ready checks (by simpa using hits) waits)
  · exact congrArg _ (loadOp_busy reads checks unmet busy)
  · rw [loadScalar, loadOp_readsIn reads checks unmet free read]
    refine ⟨fun ok => ?_, fun fails => by rw [if_neg fails]⟩
    rw [if_pos ok]
    dsimp only
    rw [List.headD_cons, extend_eq, State.mapMe_mapMe]

/-- Settles O20: the checks of the address come first in a load and in a store. -/
theorem accessTraps : Obligations.AccessTraps := by
  intro s i n ea rd wr form ready
  rcases form with ⟨d, sg, r, rule, rfl, rfl⟩ | ⟨d, sc, r, rule, rfl, rfl⟩
  · rw [exec_of_loadRule rule]
    exact ⟨fun outside => congrArg _ (loadOp_check ready (addrChecks_address outside)),
      fun inside odd => congrArg _ (loadOp_check ready (addrChecks_align inside odd))⟩
  · rw [exec_of_storeRule rule]
    rw [RegSet.or_empty] at ready
    exact ⟨fun outside => congrArg _ (bufferOp_check ready (addrChecks_address outside)),
      fun inside odd => congrArg _ (bufferOp_check ready (addrChecks_align inside odd))⟩

/-- Settles O22: every form is one buffered store. -/
theorem storeResult : Obligations.StoreResult := by
  refine ⟨fun s s' i d rd n ea sc c rule ready placed => ?_, fun s i d rd n ea sc rule ready placed walks full align => ?_⟩
  · have checks := addrChecks_of_placed placed
    rw [exec_of_storeRule rule]
    refine ⟨fun busy => congrArg _ (bufferOp_walk ready checks rfl busy), fun free fits enters => ⟨fun ok => ?_, fun fails => ?_, ?_⟩⟩
    · rw [storeScalar, bufferOp_one ready (addressOk_of_placed placed) placed.1 fits enters rfl free, if_pos ok]; rfl
    · rw [storeScalar, bufferOp_one ready (addressOk_of_placed placed) placed.1 fits enters rfl free, if_neg fails]
    · rw [littleEndian_eq, leNat_leBytes]
  · rw [exec_of_storeRule rule]
    refine ⟨_, congrArg _ (bufferOp_full ready (addrChecks_of_placed placed) full ?_ rfl walks)⟩
    rw [enterElements_one, worse_zero_fst]
    exact align

namespace Sys2Proof.Machine
open Sys2Proof.Safety Sys2Proof.Claims

/-! ### Cleats -/

/-- R302: a cleat update whose operand is legal is one buffered update. -/
theorem cleatUpdate_ok {rd : RegSet} {ea : Word} {u : CleatUpd} {sc : Nat} {s : State} :
    cleatUpdate rd ea none u sc s = bufferOp rd 16 .cleat [(ea, 16)] [.cleat ea u sc] s := rfl

/-- R302: a cleat update whose operand is out of range raises CLEAT_OVER. -/
theorem cleatUpdate_over {rd : RegSet} {ea v : Word} {u : CleatUpd} {sc : Nat} {s : State} (hr : s.me.notReady rd = false) (hp : Placed 16 ea) :
    cleatUpdate rd ea (some v) u sc s = raise s 0x17 v := by
  unfold cleatUpdate
  rw [addrChecks_of_placed hp]
  simp [hr]

/-- R302: the signed value of a count below 2^47. -/
theorem sw_small {v : Word} (h : v.toNat < 2 ^ 47) : sw v = v.toNat := by
  rw [sw, BitVec.toInt_eq_toNat_of_lt (by omega)]

/-- R303: the test of a phase, by the bytes of the cleat. -/
theorem hasFlipped_eq (c p : Nat) : hasFlipped c p =
    decide (1 ≤ (c / 2 ^ 96 % 2 ^ 31 + 2 ^ 31 - p % 2 ^ 31) % 2 ^ 31 ∧ (c / 2 ^ 96 % 2 ^ 31 + 2 ^ 31 - p % 2 ^ 31) % 2 ^ 31 ≤ 2 ^ 30) := by
  rw [Bool.decide_and]; rfl

/-- R303: a read of a cleat with OVF clear goes on with its value, and with OVF set raises CLEAT_OVER. -/
theorem cleatRead_readsIn {rd wr : RegSet} {ea : Word} {body : Nat → State → State} {s s1 s' : State} {bs : List Byte}
    (h : ReadsIn s [(ea, 16)] rd wr s1) (hp : Placed 16 ea) (he : epochMet s1 [(ea, 16)] = none) (hb : homeBusy s1 false [(ea, 16)] = false)
    (hr : readElement s1 true ea 16 = (s', 0, bs)) :
    cleatRead rd wr ea body s = if littleEndian bs / 2 ^ 127 % 2 = 1 then raise (s'.mapMe (fun t => { t with bight := s1.me.bight.read rd })) 0x17 ea
      else body (littleEndian bs) (s'.mapMe (fun t => t.tracked rd wr)) := by
  rw [cleatRead, loadOp_readsIn h (addrChecks_of_placed hp) he hb hr, if_pos rfl, littleEndian_eq]
  by_cases hv : leNat bs / 2 ^ 127 % 2 = 1
  · have b : bit (leNat ([bs].headD [])) 127 = true := by rw [List.headD_cons, bit, hv]; rfl
    rw [b, if_pos rfl, if_pos hv]
  · have b : bit (leNat ([bs].headD [])) 127 = false := by rw [List.headD_cons, bit]; exact beq_eq_false_iff_ne.2 hv
    rw [b, if_neg (by decide), if_neg hv]
    rfl

/-- R285: a read that writes no register is made where one that writes one is. -/
theorem readsIn_empty {s s1 : State} {els : List (Word × Nat)} {rd wr : RegSet} (h : ReadsIn s els rd wr s1)
    (hr : s.me.notReady (rd.or .empty) = false) : ReadsIn s els rd .empty s1 := by
  obtain ⟨-, made, -⟩ := h
  exact ⟨hr, made, RegSet.inter_empty_first _⟩

/-! ### Atomics and fences -/

/-- R197: a kind that acquires, and whether its acquire reaches past the bight. -/
theorem nextAcquired_eq (t : Thread) (k : BitVec 2) (sc : BitVec 4) : t.nextAcquired k sc = doneAt t k sc := by
  have w : (if (acquires k && decide (2 ≤ sc.toNat)) = true then Wait.acquire else Wait.none) =
      if k.toNat % 2 = 1 ∧ 2 ≤ sc.toNat then Wait.acquire else Wait.none := by
    simp only [acquires, Bool.and_eq_true, beq_iff_eq, decide_eq_true_eq]
  rw [Thread.nextAcquired, doneAt, w]
  rfl
/-- R47: an irrevocable instruction done, with no acquire. -/
theorem nextFresh_eq (t : Thread) : t.nextFresh = doneAt t 0 0 := rfl

/-- R197, R181: an access that does not release needs nothing before it. -/
theorem kindBefore_relaxed {k : BitVec 2} (h : k.toNat < 2) : kindBefore k = 0 := by
  have : releases k = false := by simp [releases]; omega
  rw [kindBefore, this]; rfl
/-- R197: an access that releases has its own kind before it. -/
theorem kindBefore_cases (k : BitVec 2) : kindBefore k = 0 ∨ kindBefore k = k := by
  unfold kindBefore; split
  · exact .inr rfl
  · exact .inl rfl
/-- R181: what releases nothing waits for no wave. -/
theorem farRelease_zero (s : State) (sc : BitVec 4) : farRelease s 0 sc = false := rfl

/-- R47, R179: what an ordered access asks before it, by the kind it has. -/
theorem before_met {s : State} {k : BitVec 2} {sc : BitVec 4} (h : k.toNat < 2 ∨ fenceMet (atKnot s) k sc = true ∧ farRelease s k sc = false) :
    farRelease s (kindBefore k) sc = false ∧ (kindBefore k = 0 ∨ fenceMet (atKnot s) (kindBefore k) sc = true) := by
  rcases h with h | ⟨met, near⟩
  · rw [kindBefore_relaxed h]; exact ⟨rfl, .inl rfl⟩
  · rcases kindBefore_cases k with e | e
    · rw [e]; exact ⟨rfl, .inl rfl⟩
    · rw [e]; exact ⟨near, .inr met⟩

/-- R295: the old value of an atomic, as sD receives it. -/
theorem amoOld_eq {op : Nat} {old : List Byte} (h : old.length = amoWidth op) :
    amoOld op old = if op ∈ [1, 3, 5, 11, 13, 15, 17, 24] then z (sx (littleEndian old) (8 * amoWidth op)) else u (littleEndian old) := by
  rw [littleEndian_eq]
  have member : op ∈ [1, 3, 5, 11, 13, 15, 17, 24] ↔ op = 1 ∨ op = 3 ∨ op = 5 ∨ op = 11 ∨ op = 13 ∨ op = 15 ∨ op = 17 ∨ op = 24 := by simp
  unfold amoOld
  rw [← h, List.take_length, h]
  by_cases signed : op = 1 ∨ op = 3 ∨ op = 5 ∨ op = 11 ∨ op = 13 ∨ op = 15 ∨ op = 17 ∨ op = 24
  · have four : amoWidth op = 4 := by rcases signed with rfl | rfl | rfl | rfl | rfl | rfl | rfl | rfl <;> rfl
    rw [if_pos signed, if_pos (member.2 signed), four, sextN_eq]; rfl
  · rw [if_neg signed, if_neg (fun m => signed (member.1 m))]; rfl

/-- R294, R298: a returning atomic of a quiet slot whose order is met. -/
theorem returningAtomic_ok {d a b : BitVec 5} {op : Nat} {k : BitVec 2} {sc : BitVec 4} {rd : RegSet} {cmp : Word} {s s' : State} {old : List Byte}
    (h : Quiet s) (hq : s.homeQ = []) (hr : s.me.notReady (rd.or (RegSet.s1 d)) = false) (hp : Placed (amoWidth op) (s.me.rs a))
    (he : epochMet (atKnot s) [(s.me.rs a, amoWidth op)] = none) (hb : homeBusy (atKnot s) true [(s.me.rs a, amoWidth op)] = false)
    (ho : k.toNat < 2 ∨ fenceMet (atKnot s) k sc = true ∧ farRelease s k sc = false)
    (hw : rmwPiece (atKnot s) (agOf (atKnot s) s.cur) (s.me.rs a) (amoWidth op) (some op) (amoBytes op (s.me.rs b) cmp) = (s', 0, old)) :
    returningAtomic d a b op k sc rd cmp s = s'.mapMe (fun t => doneAt (t.ws d (amoOld op old)) k sc) := by
  obtain ⟨near, met⟩ := before_met ho
  unfold returningAtomic
  dsimp only
  rw [addrChecks_of_placed hp, irrevocableFenced_quiet h hr hq near met]
  refine (rmwOutside_ok he hb hw).trans ?_
  simp only [nextAcquired_eq]

end Sys2Proof.Machine

/-- Settles O24: AMO is one buffered update, whose read half meets no open wave. -/
theorem amoResult : Obligations.AmoResult := by
  intro s s' a b o k sc c ready ea op placed unmet free fits enters
  have e : exec (.amo a b o k sc) s = .next (bufferOp (readsSS a b) (amoWidth o.toNat) (.amo o.toNat) [(ea, amoWidth o.toNat)] [op] s) := rfl
  rw [e, bufferOp_one ready (addressOk_of_placed placed) placed.1 fits enters unmet free]
  exact ⟨fun ok => by rw [if_pos ok]; rfl, fun fails => by rw [if_neg fails]⟩

/-- Settles O25: each form is one cleat update, whose operand is checked first. -/
theorem cleatUpdates : Obligations.CleatUpdates := by
  intro s s' a b k sc ready ready1 ea v enters placed
  have entered : ∀ (rd : RegSet) (c : CleatUpd) (n : Nat), s.me.notReady rd = false → enters c n →
      cleatUpdate rd ea none c n s = s'.mapMe (fun t => buffered t rd [.cleat ea c n]) := by
    intro rd c n free ⟨fits, unmet, walks, passes⟩
    rw [cleatUpdate_ok, bufferOp_one free (addressOk_of_placed placed) placed.1 fits passes unmet walks, if_pos rfl]; rfl
  have init : exec (.cleatInit a b) s = .next (cleatUpdate (readsSS a b) ea (if 0xFFFF < v.toNat then some v else none) (.init v.toNat) 0 s) := rfl
  have exp : exec (.cleatExp a b) s = .next (cleatUpdate (readsSS a b) ea (if 2 ^ 47 ≤ v.toNat then some v else none) (.rmw (sw v) 0) 0 s) := rfl
  refine ⟨fun small into => ?_, fun large => ?_, fun small into => ?_, fun large => ?_, fun into => ?_⟩
  · rw [init, if_neg (by omega), entered _ _ _ ready into]
  · rw [init, if_pos large, cleatUpdate_over ready placed]
  · rw [exp, if_neg (by omega), sw_small small, entered _ _ _ ready into]
  · rw [exp, if_pos large, cleatUpdate_over ready placed]
  · exact congrArg _ (entered _ _ _ ready1 into)

/-- Settles O26: each form is one read of the cleat, made after the implicit knot of the read. -/
theorem cleatReads : Obligations.CleatReads := by
  intro s s1 s' d a b k sc bs reads ready free ea c x placed unmet idle read
  have wait : exec (.cleatWait a b k sc) s = .next (cleatRead (readsSS a b) .empty ea
      (fun c s' => if hasFlipped c (s.me.rs b).toNat then s'.mapMe Thread.next else waitAs .cleatWait s') s) := by
    have again : (s.me.wait == .cleatWait && homeBusy s false [(s.me.rs a, 16)]) = false := by
      rw [Bool.and_eq_false_iff]
      by_cases w : s.me.wait = .cleatWait
      · exact .inr (free w)
      · exact .inl (beq_eq_false_iff_ne.2 w)
    show Host.Outcome.next (if (s.me.wait == .cleatWait && homeBusy s false [(s.me.rs a, 16)]) = true then _ else _) = _
    rw [again]; rfl
  have test : exec (.cleatTest d a b k sc) s = .next (cleatRead (readsSS a b) (RegSet.s1 d) ea
      (fun c s' => s'.mapMe (fun t => (t.ws d (if hasFlipped c (s.me.rs b).toNat then 1 else 0)).next)) s) := rfl
  rw [wait, test, cleatRead_readsIn reads placed unmet idle read, cleatRead_readsIn (readsIn_empty reads ready) placed unmet idle read]
  refine ⟨fun clear => ?_, fun ovf => ?_⟩
  · have no : ¬ littleEndian bs / 2 ^ 127 % 2 = 1 := fun h => absurd (clear.symm.trans h) (by decide)
    rw [if_neg no, if_neg no, hasFlipped_eq]
    refine ⟨fun flipped => ?_, fun not => ?_⟩
    · rw [decide_eq_true flipped]
      exact ⟨congrArg _ (State.mapMe_mapMe _ _ _), congrArg _ (State.mapMe_mapMe _ _ _)⟩
    · rw [decide_eq_false not, if_neg Bool.false_ne_true]
      exact ⟨congrArg _ (State.mapMe_mapMe _ _ _), congrArg _ (State.mapMe_mapMe _ _ _)⟩
  · rw [if_pos ovf, if_pos ovf]
    exact ⟨rfl, rfl⟩

/-- Settles O29: each form is one returning atomic. -/
theorem returningAtomics : Obligations.ReturningAtomics := by
  intro s s' d a b o k sc old quiet none readyCas ready placed unmet free order length x w v
  have value : amoOld o.toNat old = v := amoOld_eq length
  refine ⟨fun rmw => ?_, fun rmw => ?_⟩
  · rw [← value]
    exact congrArg _ (returningAtomic_ok quiet none ready placed unmet free order rmw)
  · rw [← value]
    exact congrArg _ (returningAtomic_ok quiet none readyCas placed unmet free order rmw)

/-- Settles O30: a fence whose condition is met acts right after its implicit knot. -/
theorem fenceResult : Obligations.FenceResult := by
  intro s k sc quiet none ready met near
  exact congrArg _ (irrevocableFenced_quiet quiet (by rw [RegSet.or_empty, ready]) none near (.inr met))

namespace Sys2Proof.Machine
open Sys2Proof.Safety Sys2Proof.Claims

/-! ### Groups and tokens -/

/-- R170: an irrevocable read-modify-write of a quiet slot with no fence. -/
theorem irrevocable_rmw {rd wr : RegSet} {ea : Word} {n : Nat} {op : Option Nat} {f : List Byte → List Byte} {body : List Byte → State → State}
    {s s' : State} {old : List Byte} (h : Quiet s) (hr : s.me.notReady (rd.or wr) = false) (hp : Placed n ea)
    (he : epochMet (atKnot s) [(ea, n)] = none) (hb : homeBusy (atKnot s) true [(ea, n)] = false)
    (hw : rmwPiece (atKnot s) (agOf (atKnot s) s.cur) ea n op f = (s', 0, old)) :
    irrevocable rd wr (addrChecks n [(ea, n)]) (rmwOutside ea n op f body) s = body old s' := by
  rw [addrChecks_of_placed hp, irrevocable_quiet h hr]
  exact rmwOutside_ok he hb hw

/-- R170, R179: the same with a fence before it that is met. -/
theorem irrevocableFenced_rmw {rd wr : RegSet} {ea : Word} {n : Nat} {op : Option Nat} {f : List Byte → List Byte}
    {body : List Byte → State → State} {k : BitVec 2} {sc : BitVec 4} {s s' : State} {old : List Byte} (h : Quiet s) (hq : s.homeQ = [])
    (hr : s.me.notReady (rd.or wr) = false) (hp : Placed n ea) (he : epochMet (atKnot s) [(ea, n)] = none)
    (hb : homeBusy (atKnot s) true [(ea, n)] = false) (hf : farRelease s k sc = false) (hm : k = 0 ∨ fenceMet (atKnot s) k sc = true)
    (hw : rmwPiece (atKnot s) (agOf (atKnot s) s.cur) ea n op f = (s', 0, old)) :
    irrevocableFenced rd wr (addrChecks n [(ea, n)]) k sc (rmwOutside ea n op f body) s = body old s' := by
  rw [addrChecks_of_placed hp, irrevocableFenced_quiet h hr hq hf hm]
  exact rmwOutside_ok he hb hw

/-- R179: what a fence of a kind asks, whether the kind is none or its condition is met. -/
theorem fence_asks {s : State} {k : BitVec 2} {sc : BitVec 4} (h : k.toNat = 0 ∨ fenceMet (atKnot s) k sc = true ∧ farRelease s k sc = false) :
    farRelease s k sc = false ∧ (k = 0 ∨ fenceMet (atKnot s) k sc = true) := by
  rcases h with h | ⟨met, near⟩
  · have : k = 0 := BitVec.eq_of_toNat_eq h
    subst this; exact ⟨rfl, .inl rfl⟩
  · exact ⟨near, .inr met⟩

/-- R305: the ticket of a member. -/
theorem ticketClass_member {t : Word} {gen : Nat} (h : t.toNat / 2 ^ 32 = 2 ^ 31) (hg : gen < 2 ^ 32)
    (hm : (gen + 2 ^ 32 - t.toNat % 2 ^ 32) % 2 ^ 32 < 2 ^ 31) : ticketClass t gen = .member := by
  have top : t.getLsbD 63 = true := by
    rw [← BitVec.testBit_toNat, Nat.testBit_eq_decide_div_mod_eq]
    exact decide_eq_true (by omega)
  have middle : fld t.toNat 62 32 = 0 := by simp only [fld]; omega
  have first : ¬ (t.toNat % 2 ^ 32 + 2 ^ 32 - gen) % 2 ^ 32 = 1 := by omega
  unfold ticketClass
  rw [top, middle]
  simp only [Bool.not_true, bne_self_eq_false, Bool.or_self, Bool.false_eq_true, if_false]
  rw [if_neg first, if_pos hm]

/-- R305: a ticket without its mark is invalid. -/
theorem ticketClass_invalid {t : Word} {gen : Nat} (h : t.toNat / 2 ^ 32 ≠ 2 ^ 31) : ticketClass t gen = .invalid := by
  have lt := t.isLt
  unfold ticketClass
  rw [if_pos]
  rw [Bool.or_eq_true, Bool.not_eq_true', ← BitVec.testBit_toNat, Nat.testBit_eq_decide_div_mod_eq, decide_eq_false_iff_not, bne_iff_ne, fld]
  omega

/-- R304, Table 10-6: the fields of a group object, by the number of its bytes. -/
theorem groupOf_eq (bs : List Byte) : groupOf bs =
    { leaves := littleEndian bs / 2 ^ 80 % 2 ^ 16, joins := littleEndian bs / 2 ^ 64 % 2 ^ 16, arrived := littleEndian bs / 2 ^ 48 % 2 ^ 16,
      members := littleEndian bs / 2 ^ 32 % 2 ^ 16, gen := littleEndian bs % 2 ^ 32 } := by
  rw [littleEndian_eq]; simp [groupOf, fld]

/-- R307: JOIN within the limit, and past it. -/
theorem groupJoin_isNone (g : Group) : (groupJoin g).isNone = decide (65535 ≤ g.members + g.joins) := by
  unfold groupJoin
  by_cases h : 65535 ≤ g.members + g.joins
  · rw [if_pos (by omega), decide_eq_true h]; rfl
  · rw [if_neg (by omega), decide_eq_false h]; rfl

/-- R304: the arrival of the last member completes the generation. -/
theorem groupTest_complete {g : Group} (h : g.arrived + 1 = g.members) :
    (groupTest { g with arrived := g.arrived + 1 }).gen = (g.gen + 1) % 2 ^ 32 := by
  unfold groupTest
  rw [if_pos ⟨h, fun z => absurd (h.trans z.1) (Nat.succ_ne_zero _)⟩]

/-- R304: any other arrival leaves the generation. -/
theorem groupTest_incomplete {g : Group} (h : g.arrived + 1 ≠ g.members) : groupTest { g with arrived := g.arrived + 1 } = { g with arrived := g.arrived + 1 } := by
  unfold groupTest
  rw [if_neg fun c => h c.1]

/-- R200: the FIFO from queue V to another. -/
theorem fifoIndex_give {q : Nat} (h : 2 ≤ q) : fifoIndex 1 q = q - 2 := by
  unfold fifoIndex; rw [if_pos (by omega)]; omega
/-- R200: the FIFO from another queue to V. -/
theorem fifoIndex_take {q : Nat} (h : 2 ≤ q) : fifoIndex q 1 = 4 * (q - 1) := by
  unfold fifoIndex; rw [if_neg (by omega)]; omega

/-- R307: what GBAR comes to once its arrival is made on an object of these old bytes. -/
def gbarDone (ea t : Word) (k : BitVec 2) (sc : BitVec 4) (old : List Byte) (s : State) : State :=
  match ticketClass t (groupOf old).gen, groupArrive t (groupOf old) with
  | .member, some g' =>
    if g'.gen = (groupOf old).gen then (s.mapMe (fun t => { t with gbar := some (ea, .ofNat 32 (groupOf old).gen), wait := .gbar }))
    else s.mapMe (fun t => t.nextAcquired k sc)
  | .joining, _ => waitAs .gbar s
  | _, _ => raiseOutside s 0x17 t

/-- R307: the last arrival of a generation goes on. -/
theorem gbarDone_completes {ea t : Word} {k : BitVec 2} {sc : BitVec 4} {old : List Byte} {s : State}
    (hc : ticketClass t (groupOf old).gen = .member) (hg : (groupOf old).gen < 2 ^ 32) (h : (groupOf old).arrived + 1 = (groupOf old).members) :
    gbarDone ea t k sc old s = s.mapMe (fun t => doneAt t k sc) := by
  have passed : ¬ (groupTest { groupOf old with arrived := (groupOf old).arrived + 1 }).gen = (groupOf old).gen := by
    rw [groupTest_complete h]; omega
  unfold gbarDone groupArrive
  rw [hc]
  simp only [if_neg passed, nextAcquired_eq]

/-- R307: any other arrival waits for the generation to pass. -/
theorem gbarDone_waits {ea t : Word} {k : BitVec 2} {sc : BitVec 4} {old : List Byte} {s : State}
    (hc : ticketClass t (groupOf old).gen = .member) (h : (groupOf old).arrived + 1 ≠ (groupOf old).members) :
    gbarDone ea t k sc old s = s.mapMe (fun t => { t with gbar := some (ea, .ofNat 32 (groupOf old).gen), wait := .gbar }) := by
  unfold gbarDone groupArrive
  rw [hc]
  simp only [groupTest_incomplete h, if_true]

/-- R305: an arrival with an invalid ticket raises CLEAT_OVER. -/
theorem gbarDone_invalid {ea t : Word} {k : BitVec 2} {sc : BitVec 4} {old : List Byte} {s : State}
    (hc : ticketClass t (groupOf old).gen = .invalid) : gbarDone ea t k sc old s = raiseOutside s 0x17 t := by
  unfold gbarDone
  rw [hc]

/-- R307: GBAR of a quiet slot that has not arrived. -/
theorem execGbar_quiet {a b : BitVec 5} {k : BitVec 2} {sc : BitVec 4} {s s' : State} {old : List Byte} (h : Quiet s) (hq : s.homeQ = [])
    (hi : s.me.gbar = none) (hr : s.me.notReady ((readsSS a b).or .empty) = false) (hp : Placed 16 (s.me.rs a))
    (he : epochMet (atKnot s) [(s.me.rs a, 16)] = none) (hb : homeBusy (atKnot s) true [(s.me.rs a, 16)] = false)
    (hf : farRelease s (kindBefore k) sc = false) (hm : kindBefore k = 0 ∨ fenceMet (atKnot s) (kindBefore k) sc = true)
    (hw : rmwPiece (atKnot s) (agOf (atKnot s) s.cur) (s.me.rs a) 16 none (groupRmw (groupArrive (s.me.rs b))) = (s', 0, old)) :
    exec (.gbar a b k sc) s = .next (gbarDone (s.me.rs a) (s.me.rs b) k sc old s') := by
  have e : exec (.gbar a b k sc) s = .next (irrevocableFenced (readsSS a b) .empty (addrChecks 16 [(s.me.rs a, 16)]) (kindBefore k) sc
      (rmwOutside (s.me.rs a) 16 none (groupRmw (groupArrive (s.me.rs b))) (gbarDone (s.me.rs a) (s.me.rs b) k sc)) s) := by
    show Host.Outcome.next (match s.me.gbar with | some (x, gen) => gbarPoll x gen k sc s | none => _) = _
    rw [hi]; rfl
  rw [e, irrevocableFenced_rmw h hq hr hp he hb hf hm hw]

end Sys2Proof.Machine

/-- Settles O31: each form is one read-modify-write of the object, whose old bytes decide what the slot does. -/
theorem groupResult : Obligations.GroupResult := by
  refine ⟨fun s s' d a old quiet ready placed unmet free rmw => ?_, fun s s' a b k sc old quiet none idle ready placed unmet free order before => ?_⟩
  · intro g joins members
    have e : exec (.join d a) s = .next (if (groupJoin (groupOf old)).isNone then raiseOutside s' 0x17 (s.me.rs a) else
        s'.mapMe (fun t => (t.ws d (wd (2 ^ 63 + ((groupOf old).gen + 1) % 2 ^ 32))).nextFresh)) :=
      congrArg _ (irrevocable_rmw quiet ready placed unmet free rmw)
    have full : (groupJoin (groupOf old)).isNone = decide (65535 ≤ members + joins) := by rw [groupJoin_isNone, groupOf_eq]
    rw [e, full]
    refine ⟨fun room => ?_, fun none => ?_⟩
    · rw [decide_eq_false (by omega), groupOf_eq]; rfl
    · rw [decide_eq_true none]; rfl
  · intro t gen arrived members joins member
    have ready' : s.me.notReady ((readsSS a b).or .empty) = false := by rw [RegSet.or_empty, ready]
    have gen_lt : (groupOf old).gen < 2 ^ 32 := by rw [groupOf_eq]; exact Nat.mod_lt _ (by decide)
    have class_member : member → ticketClass t (groupOf old).gen = .member := by
      intro ⟨mark, from_⟩
      exact ticketClass_member mark gen_lt (by rw [groupOf_eq]; exact from_)
    refine ⟨fun rmw => ?_, fun rmw => ?_⟩
    · obtain ⟨near, met⟩ := fence_asks order
      have e : exec (.leave a b k sc) s = .next (if (groupLeave t (groupOf old)).isNone then raiseOutside s' 0x17 t else s'.mapMe Thread.nextFresh) :=
        congrArg _ (irrevocableFenced_rmw quiet none ready' placed unmet free near met rmw)
      rw [e]
      refine ⟨fun m => ?_, fun invalid => ?_⟩
      · rw [groupLeave, class_member m]; rfl
      · rw [groupLeave, ticketClass_invalid invalid]; rfl
    · obtain ⟨near, met⟩ : farRelease s (kindBefore k) sc = false ∧ (kindBefore k = 0 ∨ fenceMet (atKnot s) (kindBefore k) sc = true) := by
        rcases before with zero | ⟨met, near⟩
        · rw [zero]; exact ⟨rfl, .inl rfl⟩
        · exact ⟨near, .inr met⟩
      rw [execGbar_quiet quiet none idle ready' placed unmet free near met rmw]
      have old_gen : (groupOf old).gen = gen := by rw [groupOf_eq]
      refine ⟨fun m last => ?_, fun m more _ => ?_, fun invalid => ?_⟩
      · rw [gbarDone_completes (class_member m) gen_lt (by rw [groupOf_eq]; exact last)]
      · rw [gbarDone_waits (class_member m) (by rw [groupOf_eq]; exact more), old_gen]
      · rw [gbarDone_invalid (ticketClass_invalid invalid)]

/-- Settles O32: each form acts right after the implicit knot, which leaves the FIFOs. -/
theorem tokenResult : Obligations.TokenResult := by
  intro s q quiet ready low high give take
  have ready' : s.me.notReady (RegSet.or .empty .empty) = false := by rw [RegSet.or_empty, ready]
  have fifo : ∀ f, (s.mapMe (fun t => knotted t t.pc)).me.fifoAt f = s.me.fifoAt f := fun f => by rw [State.me_mapMe]; rfl
  have gives : exec (.tgive q) s = .next (if s.me.fifoAt give < 15 then s.mapMe (fun t => doneAt ((knotted t t.pc).setFifo give (t.fifoAt give + 1)) 0 0)
      else s.mapMe (fun t => { knotted t t.pc with wait := .token })) := by
    refine (congrArg Host.Outcome.next (irrevocable_quiet quiet ready')).trans ?_
    simp only [fifoIndex_give low, fifo, State.mapMe_mapMe, waitAs]
    rfl
  have takes : exec (.ttake q) s = .next (if 1 ≤ s.me.fifoAt take then s.mapMe (fun t => doneAt ((knotted t t.pc).setFifo take (t.fifoAt take - 1)) 0 0)
      else s.mapMe (fun t => { knotted t t.pc with wait := .token })) := by
    refine (congrArg Host.Outcome.next (irrevocable_quiet quiet ready')).trans ?_
    simp only [fifoIndex_take low, fifo, State.mapMe_mapMe, waitAs]
    rfl
  rw [gives, takes]
  exact ⟨fun room => by rw [if_pos room], fun full => by rw [if_neg (by omega)], fun some => by rw [if_pos (Nat.succ_le_of_lt some)],
    fun none => by rw [if_neg (by omega)]⟩
end

section
/-! PROOF. O33, of spec/10_isa_memory_sync.md: the tag table. -/

namespace Sys2Proof.Machine
open Sys2Proof.Safety Sys2Proof.Claims

/-- R310: a slot whose entry, as the bight sees it, is valid and holds bits 55:12 of an address. -/
def tagHit (s : State) (x : Word) (i : Nat) : Bool := bit (tagSeen s i).toNat 63 && fld (tagSeen s i).toNat 55 12 == fld x.toNat 55 12

/-- R106: a hit, by the number of the entry. -/
theorem tagHit_iff (s : State) (x : Word) (i : Nat) : tagHit s x i = true ↔
    (tagSeen s i).toNat / 2 ^ 63 = 1 ∧ (tagSeen s i).toNat / 2 ^ 12 % 2 ^ 44 = x.toNat / 2 ^ 12 % 2 ^ 44 := by
  have := (tagSeen s i).isLt
  rw [tagHit, Bool.and_eq_true, bit, beq_iff_eq, beq_iff_eq]
  refine and_congr ?_ Iff.rfl
  omega

/-- The first of the numbers below n that has a property. -/
theorem pick_head_some {n i : Nat} {p : Nat → Bool} (hi : i < n) (h : p i = true) (first : ∀ j, j < i → p j = false) :
    (pick n p).head? = some i := by
  rw [pick, List.head?_filter, List.find?_range_eq_some]
  exact ⟨h, List.mem_range.2 hi, fun j hj => by simp [first j hj]⟩
/-- None of the numbers below n has the property. -/
theorem pick_head_none {n : Nat} {p : Nat → Bool} (h : ∀ i, i < n → p i = false) : (pick n p).head? = none := by
  have : pick n p = [] := List.filter_eq_nil_iff.2 fun i hi => by simp [h i (List.mem_range.1 hi)]
  rw [this]; rfl

/-- R310: LOOKUP finds the lowest slot that hits. -/
theorem tagLookup_some {s : State} {x : Word} {i : Nat} (hi : i < 64) (h : tagHit s x i = true) (first : ∀ j, j < i → tagHit s x j = false) :
    tagLookup s x = u i := by
  have e : (pick 64 (tagHit s x)).head? = some i := pick_head_some hi h first
  show (match (pick 64 (tagHit s x)).head? with | some i => wd i | none => BitVec.allOnes 64) = _
  rw [e]; rfl
/-- R310: LOOKUP with no hit. -/
theorem tagLookup_none {s : State} {x : Word} (h : ∀ i, i < 64 → tagHit s x i = false) : tagLookup s x = u (2 ^ 64 - 1) := by
  have e : (pick 64 (tagHit s x)).head? = none := pick_head_none h
  show (match (pick 64 (tagHit s x)).head? with | some i => wd i | none => BitVec.allOnes 64) = _
  rw [e]; rfl

/-- R106: an entry read with its low byte zero. -/
theorem clear_low_byte (w : Word) : w &&& ~~~0xFF#64 = u (w.toNat / 2 ^ 8 * 2 ^ 8) := by
  apply BitVec.eq_of_getLsbD_eq
  intro i hi
  have mask : (0xFF#64).getLsbD i = decide (i < 8) := by
    rw [← BitVec.testBit_toNat]
    exact Nat.testBit_two_pow_sub_one 8 i
  rw [BitVec.getLsbD_and, BitVec.getLsbD_not, mask, u, BitVec.getLsbD_ofNat, Nat.testBit_mul_two_pow, Nat.testBit_div_two_pow, BitVec.testBit_toNat]
  by_cases h : 8 ≤ i
  · simp [h, hi]
  · simp [h, Nat.not_le.1 h]

/-- R310: an index within the table. -/
theorem tagIndex_ok {x : Word} (h : x.toNat ≤ 63) : tagIndex x = none := if_neg (by omega)
/-- R310: an index past the table. -/
theorem tagIndex_past {x : Word} (h : 63 < x.toNat) : tagIndex x = some (3, x) := if_pos h

/-- R106, R310: a tag-table write within the limits enters the store buffer. -/
theorem tagWrite_ready {rd : RegSet} {x : Word} {op : BufOp} {s : State} (h : s.me.notReady (rd.or .empty) = false) (hx : x.toNat ≤ 63)
    (hb : buffersFit (s.me.bight.stores ++ [op]) = true) : tagWrite rd x op s = s.mapMe (fun t => { t with pc := t.pc + 4, wait := .none, bight :=
          { (t.tracked rd .empty).bight with stores := t.bight.stores ++ [op] } }) := by
  rw [tagWrite, tagIndex_ok hx, inBight_ready (ready_empty h), hb, Bool.not_true, if_neg Bool.false_ne_true]
  exact State.mapMe_mapMe _ _ _
/-- R310: a tag-table write past the table raises ADDRESS. -/
theorem tagWrite_past {rd : RegSet} {x : Word} {op : BufOp} {s : State} (h : s.me.notReady (rd.or .empty) = false) (hx : 63 < x.toNat) :
    tagWrite rd x op s = raise s 3 x := by
  rw [tagWrite, tagIndex_past hx, inBight_check h]

end Sys2Proof.Machine

open Sys2Proof Sys2Proof.Machine Sys2Proof.Safety Sys2Proof.Claims

/-- Settles O33: the reading forms write one scalar, and the writing forms enter one update, their index checked first. -/
theorem tagTableResult : Obligations.TagTableResult := by
  intro s d a b x hit
  have hits : ∀ i, tagHit s x i = true ↔ hit i := tagHit_iff s x
  have misses : ∀ i, ¬ hit i → tagHit s x i = false := fun i h => Bool.eq_false_iff.2 fun t => h ((hits i).1 t)
  refine ⟨fun ready => ⟨fun i hi h first => ?_, fun none => ?_, fun inside => ?_, fun past => ?_⟩, fun _ free1 free2 =>
    ⟨fun inside fits => congrArg _ (tagWrite_ready free2 inside fits), fun inside fits => congrArg _ (tagWrite_ready free1 inside fits),
      fun past => ⟨congrArg _ (tagWrite_past free2 past), congrArg _ (tagWrite_past free1 past)⟩⟩⟩
  · show Host.Outcome.next (scalarOp d _ (tagLookup s x) s) = _
    rw [scalarOp_ready ready, tagLookup_some hi ((hits i).2 h) fun j hj => misses j (first j hj)]
  · show Host.Outcome.next (scalarOp d _ (tagLookup s x) s) = _
    rw [scalarOp_ready ready, tagLookup_none fun i hi => misses i (none i hi)]
  · show Host.Outcome.next (inBight _ _ (tagIndex x) (fun s' => s'.mapMe (fun t => (t.ws d (tagSeen s x.toNat &&& ~~~0xFF#64)).next)) s) = _
    rw [tagIndex_ok inside, inBight_ready ready, State.mapMe_mapMe, clear_low_byte]
  · show Host.Outcome.next (inBight _ _ (tagIndex x) _ s) = _
    obtain ⟨free, -⟩ := ready
    rw [tagIndex_past past, inBight_check free]
end

section
/-! PROOF. O9, of spec/02_graphs_threads_bights.md, and O23 and O28, of spec/10_isa_memory_sync.md: accesses to tile memory. -/

namespace Sys2Proof.Machine
open Sys2Proof.Safety Sys2Proof.Claims

/-! ### The grant of a bank (R101) -/

/-- R101: a grant changes the arbiters of a tile alone. -/
theorem portUse_eq (s : State) (tile who off n : Nat) : ∃ ts, portUse s tile who off n = { s with tiles := ts } := by
  unfold portUse State.mapPorts
  dsimp only
  split
  · exact ⟨s.tiles, rfl⟩
  · exact ⟨_, rfl⟩

/-! ### Poison (R108, R446, R448) -/

/-- R108: a range free of poison holds neither a poisoned word nor one that a read finds uncorrectable. -/
theorem tmemPoison_false {s : State} {key n : Nat} (h : tmemPoison s key n = false) :
    s.tpoison.any (wordIn key n) = false ∧ s.tbad.any (wordIn key n) = false := by
  rwa [tmemPoison, Bool.or_eq_false_iff] at h
/-- R446: a range with no uncorrectable word is read as it stands. -/
theorem tmemSense_clean {s : State} {key n : Nat} (h : s.tbad.any (wordIn key n) = false) : tmemSense s key n = s := by
  unfold tmemSense; rw [h]; rfl
/-- A word at an end of a range, which the range covers in part, meets the range. -/
theorem wordIn_edge {key n k w : Nat} (h : k = key ∨ k = key + n) (hk : k % 8 ≠ 0) (hw : wordIn (k / 8 * 8) 8 w = true) : wordIn key n w = true := by
  simp only [wordIn, Bool.and_eq_true, decide_eq_true_eq] at hw ⊢
  omega
/-- R448: a word that a write covers in part is read as it stands, where the range is free of poison. -/
theorem edge_clean {s : State} {key n k : Nat} (h : s.tbad.any (wordIn key n) = false) (hk : k = key ∨ k = key + n) :
    (if k % 8 = 0 then s else tmemSense s (k / 8 * 8) 8) = s := by
  split
  · rfl
  · rename_i odd
    refine tmemSense_clean (List.any_eq_false.2 fun w hw met => ?_)
    exact List.any_eq_false.1 h w hw (wordIn_edge hk odd met)
/-- R448: a write of a range free of poison is narrower than no poisoned word. -/
theorem narrowRecords_clean {s : State} {a : Ag} {key n : Nat} (h : s.tpoison.any (wordIn key n) = false) : narrowRecords s a key n = s := by
  have none : s.tpoison.filter (fun w => wordIn key n w && !(decide (key ≤ 8 * w) && decide (8 * w + 8 ≤ key + n))) = [] := by
    rw [List.filter_eq_nil_iff]
    intro w hw met
    rw [Bool.and_eq_true] at met
    exact List.any_eq_false.1 h w hw met.1
  unfold narrowRecords
  rw [none]; rfl

/-! ### The records of a snapshot (R60, R421) -/

/-- `t` differs from `s` in what the graphs record of their snapshots, at most. -/
def Noting (s t : State) : Prop := ∃ gs, t = { s with graphs := gs } ∧ ∀ k, (t.graph k).openWave = (s.graph k).openWave

theorem Noting.refl (s : State) : Noting s s := ⟨s.graphs, rfl, fun _ => rfl⟩
theorem Noting.trans {s t r : State} (h : Noting s t) (k : Noting t r) : Noting s r := by
  obtain ⟨gs, rfl, waves⟩ := h
  obtain ⟨gs', rfl, waves'⟩ := k
  exact ⟨gs', rfl, fun k => (waves' k).trans (waves k)⟩
/-- A change of a graph that keeps its open wave. -/
theorem Noting.mapGraph (s : State) (i : Nat) (f : Graph → Graph) (hf : (f (s.graph i)).openWave = (s.graph i).openWave) :
    Noting s (s.mapGraph i f) := by
  refine ⟨_, rfl, fun k => ?_⟩
  rw [State.graph_mapGraph]
  split
  · rename_i h; subst h; exact hf
  · rfl
theorem settleSnap_noting (s : State) (op : HomeOp) : Noting s (settleSnap s op) := by
  unfold settleSnap
  dsimp only
  split
  · exact .refl s
  · exact .mapGraph s _ _ rfl
theorem tmemKeep_noting (s : State) (a : Ag) (key n : Nat) : Noting s (tmemKeep s a key n) := by
  unfold tmemKeep
  dsimp only
  split
  · split
    · exact .mapGraph s _ _ rfl
    · exact .refl s
  · exact .refl s
theorem patchLate_noting (s : State) (a : Ag) (key n : Nat) (upd : List Byte → List Byte) : Noting s (patchLate s a key n upd) := by
  unfold patchLate
  dsimp only
  split
  · split
    · exact .refl s
    · exact .mapGraph s _ _ rfl
  · exact .refl s

/-! ### A local write (R170, R448) -/

/-- `t` is `s` after a write of bytes at a key of tile memory: beside tile memory and its poison it differs in the arbiters of the banks and
in what the graphs record of their snapshots, at most. -/
def LocalWrite (s t : State) (key : Nat) (bytes : List Byte) : Prop :=
  ∃ ts gs ps bs, t = { s with tmem := Memory.writeBytes s.tmem key bytes, tiles := ts, graphs := gs, tpoison := ps, tbad := bs } ∧
    ∀ k, (t.graph k).openWave = (s.graph k).openWave

/-- What the graphs record before a local write is not of it. -/
theorem LocalWrite.noted {s t r : State} {key : Nat} {bytes : List Byte} (h : Noting s t) (k : LocalWrite t r key bytes) :
    LocalWrite s r key bytes := by
  obtain ⟨gs, rfl, waves⟩ := h
  obtain ⟨ts', gs', ps, bs, rfl, waves'⟩ := k
  exact ⟨ts', gs', ps, bs, rfl, fun k => (waves' k).trans (waves k)⟩
/-- A grant taken before a local write is not of it. -/
theorem LocalWrite.granted {s r : State} {ts : Assoc Tile} {key : Nat} {bytes : List Byte} (k : LocalWrite { s with tiles := ts } r key bytes) :
    LocalWrite s r key bytes := by
  obtain ⟨ts', gs', ps, bs, rfl, waves'⟩ := k
  exact ⟨ts', gs', ps, bs, rfl, fun k => waves' k⟩

/-- R448: a write by an agent of a range free of poison. -/
theorem tmemWriteBy_clean {s : State} {a : Ag} {key : Nat} {bytes : List Byte} {upd : List Byte → List Byte}
    (h : tmemPoison s key bytes.length = false) : LocalWrite s (tmemWriteBy s a key bytes upd) key bytes := by
  obtain ⟨poison, bad⟩ := tmemPoison_false h
  unfold tmemWriteBy
  dsimp only
  rw [edge_clean bad (.inl rfl), edge_clean bad (.inr rfl), narrowRecords_clean poison]
  obtain ⟨gs, e, waves⟩ := (tmemKeep_noting s a key bytes.length).trans (patchLate_noting _ a key bytes.length upd)
  generalize patchLate (tmemKeep s a key bytes.length) a key bytes.length upd = r at e waves ⊢
  subst e
  exact ⟨_, _, _, _, rfl, waves⟩

/-! ### Reads (R41, R107) -/

/-- R286: n bytes from an address within one line are one piece. -/
theorem linePieces_one {ea : Word} {n : Nat} (h0 : 0 < n) (h : ea.toNat % 64 + n ≤ 64) : linePieces ea n = [(ea, 0, n)] := by
  have one : (ea.toNat % 64 + n + 63) / 64 = 1 := by omega
  have fits : min n (64 * (0 + 1) - ea.toNat % 64) = n := by omega
  unfold linePieces
  simp only [one, List.range_one, List.filterMap_cons, List.filterMap_nil, if_true, fits, h0, Nat.sub_zero]
  simp [wd]

/-- R108, R364: open local bytes pass the checks of their agent. -/
theorem localOpen_key {s : State} {n : Nat} {ea : Word} (h : LocalOpen s n ea) : isLocal ea = true ∧
    (!(agOf s s.cur).lvl && inWindow (s.graph (agOf s s.cur).graph).hwin (ea.toNat % 2 ^ 18) n) = false := by
  obtain ⟨space, -, -, window, -⟩ := h
  have lt := ea.isLt
  constructor
  · rw [isLocal, spaceOf, fld, beq_iff_eq]; omega
  · rw [Bool.and_eq_false_iff]
    rcases window with handler | open_
    · exact .inl (by rw [Bool.not_eq_false']; exact handler)
    · exact .inr open_

/-- R41, R107: a read of open local bytes by the running slot. -/
theorem readPiece_open {s : State} {n : Nat} {ea : Word} (h : LocalOpen s n ea) : readPiece s (agOf s s.cur) ea n =
    (portUse s (s.cur / 4) 0 (ea.toNat % 2 ^ 18) n, 0, Memory.readBytes s.tmem (2 ^ 18 * (s.cur / 4) + ea.toNat % 2 ^ 18) n) := by
  obtain ⟨loc, passes⟩ := localOpen_key h
  obtain ⟨-, -, -, -, clean⟩ := h
  obtain ⟨ts, granted⟩ := portUse_eq s (agOf s s.cur).tile (agOf s s.cur).port (ea.toNat % 2 ^ 18) n
  unfold readPiece
  rw [if_pos loc]
  dsimp only
  rw [passes, if_neg Bool.false_ne_true]
  have sense : tmemSense (portUse s (agOf s s.cur).tile (agOf s s.cur).port (ea.toNat % 2 ^ 18) n)
      (tmemKey (agOf s s.cur).tile (ea.toNat % 2 ^ 18)) n = portUse s (agOf s s.cur).tile (agOf s s.cur).port (ea.toNat % 2 ^ 18) n :=
    tmemSense_clean (by rw [granted]; exact (tmemPoison_false clean).2)
  have poison : tmemPoison (portUse s (agOf s s.cur).tile (agOf s s.cur).port (ea.toNat % 2 ^ 18) n)
      (tmemKey (agOf s s.cur).tile (ea.toNat % 2 ^ 18)) n = false := by rw [granted]; exact clean
  have tmem : (portUse s (agOf s s.cur).tile (agOf s s.cur).port (ea.toNat % 2 ^ 18) n).tmem = s.tmem := by rw [granted]
  rw [sense, poison, tmem]
  rfl

/-- R286: a read within one line is one piece. -/
theorem readRange_one {s : State} {a : Ag} {ea : Word} {n : Nat} (h0 : 0 < n) (h : ea.toNat % 64 + n ≤ 64) :
    readRange s a ea n = readPiece s a ea n := by
  unfold readRange
  rw [linePieces_one h0 h]
  show (_, firstCause 0 _, [] ++ _) = _
  rw [List.nil_append]
  rfl

/-- R41: byte k of a read, the bight's own stores in place. -/
theorem overlay_getElem? {b : List BufOp} {ea : Word} {bytes : List Byte} {k : Nat} (h : k < bytes.length) :
    (overlay b ea bytes)[k]? = some ((bufByte b (spaceOf ea) ((if isLocal ea then ea.toNat % 2 ^ 18 else vaOf ea) + k)).getD (bytes.getD k 0)) := by
  unfold overlay
  simp [h]

/-! ### A read-modify-write (R102, R170, R296) -/

/-- R170: a read-modify-write of open local bytes by the running slot: its old bytes, and the write of the new ones. -/
theorem rmwPiece_open {s : State} {n : Nat} {ea : Word} {op : Option Nat} {f : List Byte → List Byte} (h : LocalOpen s n ea)
    (h18 : op ≠ some 18) (h21 : op ≠ some 21) (h22 : op ≠ some 22) (hf : ∀ l, l.length = n → (f l).length = n) :
    ∃ s', rmwPiece s (agOf s s.cur) ea n op f = (s', 0, Memory.readBytes s.tmem (2 ^ 18 * (s.cur / 4) + ea.toNat % 2 ^ 18) n) ∧
      LocalWrite s s' (2 ^ 18 * (s.cur / 4) + ea.toNat % 2 ^ 18)
        (f (Memory.readBytes s.tmem (2 ^ 18 * (s.cur / 4) + ea.toNat % 2 ^ 18) n)) := by
  obtain ⟨loc, passes⟩ := localOpen_key h
  obtain ⟨-, -, -, -, clean⟩ := h
  obtain ⟨ts, granted⟩ := portUse_eq s (agOf s s.cur).tile (agOf s s.cur).port (ea.toNat % 2 ^ 18) n
  have code : (op == some 18 || op == some 21 || op == some 22) = false := by simp [h18, h21, h22]
  have sense : tmemSense { s with tiles := ts } (tmemKey (agOf s s.cur).tile (ea.toNat % 2 ^ 18)) n = { s with tiles := ts } :=
    tmemSense_clean (tmemPoison_false clean).2
  have poison : tmemPoison { s with tiles := ts } (tmemKey (agOf s s.cur).tile (ea.toNat % 2 ^ 18)) n = false := clean
  unfold rmwPiece
  rw [if_pos loc]
  dsimp only
  rw [passes, code, granted, sense, poison]
  exact ⟨_, rfl, .granted (tmemWriteBy_clean (by rw [hf _ (Memory.readBytes_length _ _ _)]; exact clean))⟩

/-- R27, R296: the codes of an atomic that tile memory refuses. -/
theorem entry_refused {up : Update} : (match up with | .amo k => k == 18 || k == 21 || k == 22 | _ => false) = true ↔
    up = .amo 18 ∨ up = .amo 21 ∨ up = .amo 22 := by
  cases up with
  | amo k => simp only [Update.amo.injEq, Bool.or_eq_true, beq_iff_eq, or_assoc]
  | store => simp only [reduceCtorEq, Bool.false_eq_true, or_self]
  | cleat => simp only [reduceCtorEq, Bool.false_eq_true, or_self]

/-! ### The release of one local store (R44, R171) -/

/-- R42: a store to tile memory takes its grant and writes its bytes. -/
theorem performLocal_eq {s : State} {op : HomeOp} {bytes : List Byte} {b : Bool} (ha : op.act = .store bytes b) :
    performLocal s op = tmemWriteBy (portUse s op.agent.tile op.agent.port (op.ea.toNat % 2 ^ 18) bytes.length) op.agent
      (tmemKey op.agent.tile (op.ea.toNat % 2 ^ 18)) bytes := by
  unfold performLocal
  rw [ha]
  rfl

/-- R42: a store to tile memory performed, where the range is free of poison. -/
theorem performLocal_store {s : State} {op : HomeOp} {bytes : List Byte} {b : Bool} (ha : op.act = .store bytes b)
    (h : tmemPoison s (tmemKey (tileOf op.th) (op.ea.toNat % 2 ^ 18)) bytes.length = false) :
    LocalWrite s (performLocal (settleSnap s op) op) (tmemKey (tileOf op.th) (op.ea.toNat % 2 ^ 18)) bytes := by
  have snap := settleSnap_noting s op
  have clean : tmemPoison (settleSnap s op) (tmemKey (tileOf op.th) (op.ea.toNat % 2 ^ 18)) bytes.length = false := by
    obtain ⟨gs, e, -⟩ := snap
    rw [e]; exact h
  refine .noted snap ?_
  obtain ⟨ts, e⟩ := portUse_eq (settleSnap s op) op.agent.tile op.agent.port (op.ea.toNat % 2 ^ 18) bytes.length
  rw [performLocal_eq ha, e]
  exact .granted (tmemWriteBy_clean clean)

/-- R42: the access that a buffered store to tile memory makes. -/
def storeAccess (s : State) (ea : Word) (bytes : List Byte) : HomeOp :=
  { part := graphPart (s.thread s.cur).graph, ea := ea, leaf := 0, large := false, act := .store bytes false, th := s.cur,
    graph := (s.thread s.cur).graph, epoch := (s.thread s.cur).wave, acq := false, hold := none, rel := 0 }

/-- R42, R44: the release of a buffered store to tile memory is its one access. -/
theorem releaseOp_local {s : State} {ea : Word} {bytes : List Byte} (h : isLocal ea = true) :
    releaseOp s.cur none s (.store ea bytes 0) = offerOp s (storeAccess s ea bytes) := by
  unfold releaseOp homeOps
  simp only [h, if_true, List.foldl_cons, List.foldl_nil]
  rfl

/-- R60, R180: an access that nothing holds back is performed in tile memory. -/
theorem offerOp_local {s : State} {ea : Word} {bytes : List Byte} (h : isLocal ea = true) (hh : s.held.any (fun o => o.th == s.cur) = false)
    (hw : localWaits s (tileOf s.cur) ea bytes.length = false) :
    offerOp s (storeAccess s ea bytes) = performLocal (settleSnap s (storeAccess s ea bytes)) (storeAccess s ea bytes) := by
  have size : (storeAccess s ea bytes).act.size = bytes.length := rfl
  have th : (storeAccess s ea bytes).th = s.cur := rfl
  have at_ : (storeAccess s ea bytes).ea = ea := rfl
  have rel : (storeAccess s ea bytes).rel = 0 := rfl
  have ready : opReady s (storeAccess s ea bytes) = true := rfl
  have few : (3 ≤ 0) = False := eq_false (by decide)
  unfold offerOp acceptOp
  simp only [size, th, at_, rel, hh, hw, h, ready, few, Bool.and_false, Bool.or_self, Bool.false_eq_true, if_false,
    decide_false, Bool.false_and, Bool.not_true, if_true]

/-- R44 step 1: a bight with one store to tile memory and nothing else commits where the store need not wait. -/
theorem commitBlock_local {s : State} {ea : Word} {bytes : List Byte} (hs : s.me.bight.stores = [.store ea bytes 0]) (hp : s.me.bight.pushes = [])
    (hl : isLocal ea = true) (hw : localWaits s (tileOf s.cur) ea bytes.length = false) : commitBlock s s.cur = (s, none) := by
  have stores : (s.thread s.cur).bight.stores = [.store ea bytes 0] := hs
  have pushes : (s.thread s.cur).bight.pushes = [] := hp
  have waits : BufOp.awaitsSave s (tileOf s.cur) (.store ea bytes 0) = false := hw
  have scope : BufOp.relScope (.store ea bytes 0) = 0 := rfl
  have pieces : BufOp.pieces (.store ea bytes 0) = [] := by rw [BufOp.pieces, if_pos hl]
  simp [commitBlock, recheck, pushEps, stores, pushes, waits, scope, pieces]

/-- R44 step 2: the release of a bight with one store to tile memory and nothing else. -/
theorem release_local {s : State} {ea : Word} {bytes : List Byte} {npc : PC} (hs : s.me.bight.stores = [.store ea bytes 0])
    (hp : s.me.bight.pushes = []) (ho : s.me.bight.pops = []) (hl : isLocal ea = true) (hh : s.held.any (fun o => o.th == s.cur) = false)
    (hw : localWaits s (tileOf s.cur) ea bytes.length = false)
    (hc : tmemPoison s (tmemKey (tileOf s.cur) (ea.toNat % 2 ^ 18)) bytes.length = false) :
    ∃ t, LocalWrite s t (tmemKey (tileOf s.cur) (ea.toNat % 2 ^ 18)) bytes ∧ release s s.cur none npc = t.mapThread s.cur (fun t => knotted t npc) := by
  have stores : (s.thread s.cur).bight.stores = [.store ea bytes 0] := hs
  have pushes : (s.thread s.cur).bight.pushes = [] := hp
  have pops : (s.thread s.cur).bight.pops = [] := ho
  refine ⟨_, performLocal_store (op := storeAccess s ea bytes) rfl hc, ?_⟩
  unfold release
  simp only [stores, pushes, pops, List.foldl_nil, List.foldl_cons, List.isEmpty_nil, Bool.and_self, if_true]
  rw [releaseOp_local hl, offerOp_local hl hh hw]
  rfl

/-- R193: the word after a PC is another. -/
theorem pc_next_beq (pc : PC) : (pc + 4 == pc) = false := beq_eq_false_iff_ne.2 (pc_add_four_ne pc)

/-- R44, R240: the knot of a bight with one store to tile memory and nothing else, where no wave is open. -/
theorem knot_local {s : State} {ea : Word} {bytes : List Byte} (hr : s.me.run = .running) (hs : s.me.bight.stores = [.store ea bytes 0])
    (hp : s.me.bight.pushes = []) (ho : s.me.bight.pops = []) (hn : (s.graph s.me.graph).openWave = none) (hl : isLocal ea = true)
    (hh : s.held.any (fun o => o.th == s.cur) = false) (hw : localWaits s (tileOf s.cur) ea bytes.length = false)
    (hc : tmemPoison s (tmemKey (tileOf s.cur) (ea.toNat % 2 ^ 18)) bytes.length = false) :
    ∃ t, LocalWrite s t (tmemKey (tileOf s.cur) (ea.toNat % 2 ^ 18)) bytes ∧
      knot s s.cur false (s.me.pc + 4) = .go (t.mapThread s.cur (fun t => knotted t (s.me.pc + 4))) := by
  have stores : (s.thread s.cur).bight.stores = [.store ea bytes 0] := hs
  have noWave : (s.graph (s.thread s.cur).graph).openWave = none := hn
  have scope : BufOp.relScope (.store ea bytes 0) = 0 := rfl
  have other : (s.me.pc + 4 == (s.thread s.cur).pc) = false := pc_next_beq s.me.pc
  obtain ⟨t, written, released⟩ := release_local (npc := s.me.pc + 4) hs hp ho hl hh hw hc
  refine ⟨t, written, ?_⟩
  obtain ⟨ts, gs, ps, bs, rfl, waves⟩ := written
  generalize hr1 : ({ s with tmem := _, tiles := ts, graphs := gs, tpoison := ps, tbad := bs } : State) = r at released waves ⊢
  have thread : r.thread s.cur = s.me := by rw [← hr1]; rfl
  have me : (r.mapThread s.cur (fun t => knotted t (s.me.pc + 4))).thread s.cur = knotted s.me (s.me.pc + 4) := by
    rw [State.thread_mapThread, if_pos rfl, thread]
  have waved : waveStep (r.mapThread s.cur (fun t => knotted t (s.me.pc + 4))) s.cur false (s.me.pc + 4) =
      .go (r.mapThread s.cur (fun t => knotted t (s.me.pc + 4))) := by
    have none : ((r.mapThread s.cur (fun t => knotted t (s.me.pc + 4))).graph (knotted s.me (s.me.pc + 4)).graph).openWave = none :=
      (waves s.me.graph).trans hn
    unfold waveStep
    dsimp only
    rw [me, none]
    rfl
  have running : ((r.mapThread s.cur (fun t => knotted t (s.me.pc + 4))).thread s.cur).run ≠ .cut := by
    rw [me]; simp [knotted, hr]
  unfold knot
  simp only [stores, scope, List.any_cons, List.any_nil, Nat.le_zero, show ¬ (8 : Nat) = 0 by decide, decide_false, Bool.or_self,
    Bool.and_false, Bool.false_and, Bool.false_eq_true, if_false]
  rw [epochMetBy_none _ noWave, commitBlock_local hs hp hl hw]
  simp only [released, other, Bool.false_and, Bool.false_eq_true, if_false, waved, running]

end Sys2Proof.Machine

open Sys2Proof Sys2Proof.Machine Sys2Proof.Safety Sys2Proof.Claims

/-- Settles O23: the checks of a local element come before anything else of its entry, and a read of open local bytes is one piece. -/
theorem localAccess : Obligations.LocalAccess := by
  refine ⟨fun s ops up ea n space => ?_, fun s n ea opened => ?_⟩
  · have loc : isLocal ea = true := by
      have lt := ea.isLt
      rw [isLocal, spaceOf, fld, beq_iff_eq]; omega
    unfold enterElement
    rw [if_pos loc]
    refine congrArg (Prod.mk s) (ite_congr_iff ?_ rfl rfl)
    rw [Bool.or_eq_true, Bool.and_eq_true, Bool.not_eq_true']
    exact or_congr Iff.rfl entry_refused
  · have loc : isLocal ea = true := (localOpen_key opened).1
    have piece := readPiece_open opened
    obtain ⟨space, positive, line, -, -⟩ := opened
    have lt := ea.isLt
    have sp : spaceOf ea = 0xE := by rw [spaceOf, fld]; omega
    have plain : readElement s false ea n = (portUse s (s.cur / 4) 0 (ea.toNat % 2 ^ 18) n, 0,
        overlay s.me.bight.stores ea (Memory.readBytes s.tmem (2 ^ 18 * (s.cur / 4) + ea.toNat % 2 ^ 18) n)) := by
      unfold readElement
      simp only [Bool.false_and, Bool.false_eq_true, if_false]
      rw [readRange_one positive line, piece]
      rfl
    refine ⟨_, plain, by simp [overlay], fun k hk => ?_⟩
    rw [overlay_getElem? (by simpa using hk), if_pos loc, sp, List.getD_eq_getElem?_getD, Memory.readBytes_getElem? _ _ _ _ hk]
    rfl

/-- Settles O28: the update writes the new bytes where the old ones stood. -/
theorem localUpdate : Obligations.LocalUpdate := by
  intro s n ea op f opened ne18 ne21 ne22 keeps
  obtain ⟨s', rmw, ts, gs, ps, bs, rfl, -⟩ := rmwPiece_open opened ne18 ne21 ne22 keeps
  have length : (f (Memory.readBytes s.tmem (2 ^ 18 * (s.cur / 4) + ea.toNat % 2 ^ 18) n)).length = n := keeps _ (Memory.readBytes_length _ _ _)
  refine ⟨_, _, rmw, rfl, rfl, rfl, rfl, ?_, fun a away => ?_⟩
  · have same := Memory.readBytes_writeBytes s.tmem (2 ^ 18 * (s.cur / 4) + ea.toNat % 2 ^ 18)
      (f (Memory.readBytes s.tmem (2 ^ 18 * (s.cur / 4) + ea.toNat % 2 ^ 18) n))
    rwa [length] at same
  · exact Memory.read_writeBytes_other _ _ _ _ (by rw [length]; exact away)

/-- Settles O9: the one access of the store is performed at once, and the knot goes on. -/
theorem knotReleasesStores : Obligations.KnotReleasesStores := by
  intro s ea bytes run stores pushes pops noWave notPending space free saved granted clean
  have loc : isLocal ea = true := by
    have lt := ea.isLt
    rw [isLocal, spaceOf, fld, beq_iff_eq]; omega
  have waits : localWaits s (tileOf s.cur) ea bytes.length = false := by
    rw [localWaits, Bool.and_eq_false_iff]
    exact .inr (by rw [Bool.or_eq_false_iff]; exact ⟨saved, granted⟩)
  obtain ⟨t, ⟨ts, gs, ps, bs, rfl, -⟩, goes⟩ := knot_local run stores pushes pops noWave loc free waits clean
  have e : exec .knot s = .next (knotOp false s) := rfl
  rw [e, knotOp, goes]
  refine ⟨_, rfl, ?_, ?_, fun a => ?_, fun _ => rfl, fun _ => rfl⟩
  · rw [State.me_mapMe, State.me, State.mapThread_cur, State.thread_mapThread_same]; rfl
  · rw [State.me_mapMe, State.me, State.mapThread_cur, State.thread_mapThread_same]; rfl
  · exact Memory.read_writeBytes s.tmem _ a bytes
end

section
/-! PROOF. O27, of spec/10_isa_memory_sync.md: the arithmetic of cleat updates and of the integer atomics. -/

namespace Sys2Proof.Machine
open Sys2Proof.Safety Sys2Proof.Claims

/-- A list of bytes is a number of its width. -/
theorem leNat_lt (bs : List Byte) : leNat bs < 2 ^ (8 * bs.length) := by
  induction bs with
  | nil => exact Nat.one_pos
  | cons b bs ih =>
    have hb : b.toNat < 2 ^ 8 := b.isLt
    rw [leNat, List.length_cons, Nat.mul_succ, Nat.pow_add]
    omega

/-- A number of the width survives its bytes. -/
theorem leNat_leBytes_of_lt {n v : Nat} (h : v < 2 ^ (8 * n)) : leNat (leBytes n v) = v := by
  rw [leNat_leBytes, Nat.mod_eq_of_lt h]

/-- R301: OVF is sticky. -/
theorem cleatRmw_ovf {c : Nat} (db : Int) (da : Nat) (h : c / 2 ^ 127 = 1) : cleatRmw c db da = c := by
  have b : bit c 127 = true := by rw [bit, h]; rfl
  rw [cleatRmw, if_pos b]

/-- R301: the update of a cleat with OVF clear, by its counts. -/
theorem cleatRmw_clear {c : Nat} (db : Int) (da : Nat) (h : c / 2 ^ 127 = 0) :
    cleatRmw c db da =
      let nb := sx (c % 2 ^ 64) 64 + db
      let na : Int := ((c / 2 ^ 64 % 2 ^ 16 : Nat) : Int) - (da : Int)
      if na < 0 ∨ 2 ^ 47 ≤ nb ∨ nb ≤ -2 ^ 47 then c + 2 ^ 127
      else if nb = 0 ∧ na = 0 then
        setFld (setFld (setFld c 96 31 (c / 2 ^ 96 % 2 ^ 31 + 1)) 64 16 (c / 2 ^ 80 % 2 ^ 16)) 0 64 0
      else setFld (setFld c 64 16 na.toNat) 0 64 (wi nb).toNat := by
  have b : bit c 127 = false := by rw [bit, h]; rfl
  have bytes : fld c 63 0 = c % 2 ^ 64 := by simp only [fld, Nat.pow_zero, Nat.div_one]
  have bound (x : Int) : 2 ^ 47 ≤ x.natAbs ↔ 2 ^ 47 ≤ x ∨ x ≤ -2 ^ 47 := by omega
  rw [cleatRmw, if_neg (by rw [b]; decide)]
  simp only [bytes, sextN_eq, bound]
  rfl

/-- R301: the counts of a cleat replaced. -/
theorem setFld_counts {c : Nat} {na nb : Int} (h0 : 0 ≤ na) (h1 : na < 2 ^ 16) :
    ((setFld (setFld c 64 16 na.toNat) 0 64 (wi nb).toNat : Nat) : Int) = (c / 2 ^ 80 * 2 ^ 80 : Nat) + na * 2 ^ 64 + nb % 2 ^ 64 := by
  have low : (wi nb).toNat = (nb % 2 ^ 64).toNat := BitVec.toNat_ofInt (n := 64) nb
  rw [low]
  unfold setFld
  omega

/-- R301: the next phase of a cleat: its counts as expected, its phase one higher. -/
theorem setFld_phase {c : Nat} (h : c / 2 ^ 127 = 0) :
    setFld (setFld (setFld c 96 31 (c / 2 ^ 96 % 2 ^ 31 + 1)) 64 16 (c / 2 ^ 80 % 2 ^ 16)) 0 64 0 =
      (c / 2 ^ 96 % 2 ^ 31 + 1) % 2 ^ 31 * 2 ^ 96 + c / 2 ^ 80 % 2 ^ 16 * 2 ^ 80 + c / 2 ^ 80 % 2 ^ 16 * 2 ^ 64 := by
  unfold setFld
  omega

/-- The choice of the smaller of two, by the opposite test. -/
theorem ite_lt {α : Type} (x y : Int) (a b : α) : (if y < x then b else a) = if x ≤ y then a else b := by
  simp only [← Int.not_le, ite_not]

/-- A number of w bits is known by its signed value. -/
theorem sx_inj {x y w : Nat} (hx : x < 2 ^ w) (hy : y < 2 ^ w) (h : sx x w = sx y w) : x = y := by
  unfold sx at h
  rw [Nat.mod_eq_of_lt hx, Nat.mod_eq_of_lt hy] at h
  split at h <;> split at h <;> omega

/-- The choice of the larger of two by either test: of equals both are one. -/
theorem ite_sx_lt {x y w : Nat} (hx : x < 2 ^ w) (hy : y < 2 ^ w) :
    (if sx x w < sx y w then y else x) = if sx x w ≤ sx y w then y else x := by
  rcases Int.lt_trichotomy (sx x w) (sx y w) with lt | eq | gt
  · rw [if_pos lt, if_pos (Int.le_of_lt lt)]
  · rw [sx_inj hx hy eq, ite_self, ite_self]
  · rw [if_neg (Int.lt_asymm gt), if_neg (Int.not_le.2 gt)]

/-- R294: the integer atomics leave a number of their width. -/
theorem amoBytes_value {op : Nat} {b cmp : Word} {old : List Byte} {v : Nat}
    (h : amoNew op (leNat old) (b.toNat % 2 ^ (8 * amoWidth op)) (cmp.toNat % 2 ^ (8 * amoWidth op)) = v) (hv : v < 2 ^ (8 * amoWidth op)) :
    littleEndian (amoBytes op b cmp old) = v := by
  rw [littleEndian_eq, amoBytes, h, leNat_leBytes_of_lt hv]

end Sys2Proof.Machine

open Sys2Proof Sys2Proof.Machine Sys2Proof.Safety Sys2Proof.Claims

/-- Settles O27, clause by clause of cleat_rmw and row by row of Table 10-3. -/
theorem updateArithmetic : Obligations.UpdateArithmetic := by
  refine ⟨fun old db da length => ?_, fun old b cmp op length => ?_⟩
  · have lt : leNat old < 2 ^ 128 := by have := leNat_lt old; rwa [length] at this
    have new : littleEndian (cleatBytes (.rmw db da) old) = cleatRmw (leNat old) db da % 2 ^ 128 := by
      rw [littleEndian_eq]; exact leNat_leBytes 16 _
    dsimp only
    rw [new, littleEndian_eq]
    generalize leNat old = c at lt
    have size : c / 2 ^ 64 % 2 ^ 16 < 2 ^ 16 := Nat.mod_lt _ (by decide)
    refine ⟨fun ovf => ?_, fun clear out => ?_, fun clear h1 h2 h3 h4 => ?_, fun clear h1 h2 => ?_⟩
    · rw [cleatRmw_ovf db da ovf, Nat.mod_eq_of_lt lt]
    · rw [cleatRmw_clear db da clear]
      dsimp only
      rw [if_pos out]
      omega
    · rw [cleatRmw_clear db da clear]
      dsimp only
      rw [if_neg (by omega), if_neg h4]
      generalize sx (c % 2 ^ 64) 64 + db = nb at h2 h3 h4
      have value := setFld_counts (c := c) (nb := nb) h1 (by omega)
      omega
    · rw [cleatRmw_clear db da clear]
      dsimp only
      rw [if_neg (by rw [h1, h2]; decide), if_pos ⟨h1, h2⟩, setFld_phase clear]
      omega
  · have hx : leNat old < 2 ^ (8 * amoWidth op) := by have := leNat_lt old; rwa [length] at this
    have hy : b.toNat % 2 ^ (8 * amoWidth op) < 2 ^ (8 * amoWidth op) := Nat.mod_lt _ (Nat.two_pow_pos _)
    dsimp only
    rw [littleEndian_eq old]
    refine ⟨fun o => amoBytes_value ?_ (Nat.mod_lt _ (Nat.two_pow_pos _)), fun o => amoBytes_value ?_ (by split <;> assumption),
      fun o => amoBytes_value ?_ (by split <;> assumption), fun o => amoBytes_value ?_ (by split <;> assumption),
      fun o => amoBytes_value ?_ (by split <;> assumption), fun o => amoBytes_value ?_ (Nat.lt_of_le_of_lt Nat.and_le_left hx),
      fun o => amoBytes_value ?_ (Nat.or_lt_two_pow hx hy), fun o => amoBytes_value ?_ (Nat.xor_lt_two_pow hx hy),
      fun o => amoBytes_value ?_ hy, fun o => amoBytes_value ?_ (by split <;> assumption)⟩
    · rcases o with rfl | rfl <;> rfl
    · rw [← ite_lt, ← sextN_eq, ← sextN_eq]
      rcases o with rfl | rfl <;> rfl
    · rw [← ite_sx_lt hx hy, ← sextN_eq, ← sextN_eq]
      rcases o with rfl | rfl <;> rfl
    · rw [← Nat.min_def]
      rcases o with rfl | rfl <;> rfl
    · rw [← Nat.max_def]
      rcases o with rfl | rfl <;> rfl
    · rcases o with rfl | rfl <;> rfl
    · rcases o with rfl | rfl <;> rfl
    · rcases o with rfl | rfl <;> rfl
    · rcases o with rfl | rfl <;> rfl
    · rcases o with rfl | rfl <;> rfl
end

section
/-! PROOF. O21, of spec/20_translation.md: a global read through a page in the tile's translation cache. -/

namespace Sys2Proof.Machine
open Sys2Proof.Safety Sys2Proof.Claims

/-! ### Routes (R131, R455) -/

/-- An entry that is found is of the list. -/
theorem Assoc.any_of_getD {α : Type} (m : Assoc α) (k : Nat) (d : α) (p : Nat × α → Bool) (hd : p (k, d) = false)
    (h : p (k, Assoc.getD m k d) = true) : m.any p = true := by
  induction m with
  | nil => rw [show Assoc.getD [] k d = d from rfl, hd] at h; cases h
  | cons e r ih =>
    obtain ⟨j, w⟩ := e
    rw [List.any_cons, Bool.or_eq_true]
    by_cases e : j = k
    · exact .inl (by simpa [Assoc.getD, Assoc.get?, e] using h)
    · exact .inr (ih (by simpa [Assoc.getD, Assoc.get?, e] using h))

/-- A change of an entry that a test does not see leaves the test's answer over the list. -/
theorem Assoc.any_set {α : Type} (m : Assoc α) (k : Nat) (d v : α) (p : Nat × α → Bool) (hd : p (k, d) = false)
    (h : p (k, v) = p (k, Assoc.getD m k d)) : (Assoc.set m k v).any p = m.any p := by
  induction m with
  | nil => rw [show Assoc.getD [] k d = d from rfl, hd] at h; simp [Assoc.set, h]
  | cons e r ih =>
    obtain ⟨j, w⟩ := e
    unfold Assoc.set
    split
    · rw [List.any_cons, h]
      cases found : p (k, Assoc.getD ((j, w) :: r) k d) with
      | false => rw [Bool.false_or]
      | true => rw [Bool.true_or, Assoc.any_of_getD _ k d p hd found]
    · split
      · next same => subst same; simpa [Assoc.getD, Assoc.get?] using congrArg (· || r.any p) h
      · next other =>
        rw [List.any_cons, List.any_cons, ih (by simpa [Assoc.getD, Assoc.get?, other] using h)]

/-- R131: a change of a tile that keeps its router leaves the routes. -/
theorem routeCrosses_mapTile (s : State) (i : Nat) (f : Tile → Tile) (h : (f (s.tile i)).routerRetired = (s.tile i).routerRetired)
    (y : Bool) (a b : Nat) : routeCrosses (s.mapTile i f) y a b = routeCrosses s y a b := by
  unfold routeCrosses
  exact Assoc.any_set s.tiles i .reset (f (s.tile i)) _ rfl (by dsimp only; rw [h]; rfl)

/-- R452: a change of a tile that keeps what is retired of it leaves the homes reached. -/
theorem homeDead_mapTile (s : State) (i : Nat) (f : Tile → Tile) (hr : (f (s.tile i)).routerRetired = (s.tile i).routerRetired)
    (ht : (f (s.tile i)).retired = (s.tile i).retired) (a home : Nat) : homeDead (s.mapTile i f) a home = homeDead s a home := by
  unfold homeDead
  rw [routeCrosses_mapTile s i f hr, routeCrosses_mapTile s i f hr, State.tile_mapTile]
  congr 1
  split
  · next e => rw [← e, ht]
  · rfl

/-! ### Sectors (R118, R442) -/

/-- R118: the verdict on a clean sector is of its tag. -/
theorem readSector_clean {s : State} {k tag : Nat} {c : Bool} (h : (s.sector k).cond = .clean) :
    readSector s k tag c = (s, if (s.sector k).tag.toNat = tag then 0 else 7) := by
  rw [readSector, h]

/-- R118: a read of clean sectors changes nothing. -/
theorem readEach_clean {s : State} {tag : Nat → Nat} (ks : List Nat) (h : ∀ k ∈ ks, (s.sector k).cond = .clean) :
    readEach s ks tag = (s, ks.map (fun k => if (s.sector k).tag.toNat = tag k then 0 else 7)) := by
  have key (l : List (Nat × Nat)) (cs : List Nat) (hl : ∀ x ∈ l, (s.sector x.1).cond = .clean) (f : Nat × Nat → Bool) :
      l.foldl (fun (acc : State × List Nat) x => ((readSector acc.1 x.1 (tag x.1) (f x)).1, acc.2 ++ [(readSector acc.1 x.1 (tag x.1) (f x)).2])) (s, cs) =
        (s, cs ++ l.map (fun x => if (s.sector x.1).tag.toNat = tag x.1 then 0 else 7)) := by
    induction l generalizing cs with
    | nil => simp
    | cons x l ih =>
      rw [List.foldl_cons, readSector_clean (hl x (List.mem_cons_self ..)), ih _ (fun y m => hl y (List.mem_cons_of_mem x m)), List.map_cons,
        List.append_assoc]
      rfl
  have zip := key ks.zipIdx [] (fun x m => h _ (List.fst_mem_of_mem_zipIdx m))
  unfold readEach
  refine (zip _).trans ?_
  rw [List.nil_append]
  refine congrArg _ ?_
  calc ks.zipIdx.map (fun x => if (s.sector x.1).tag.toNat = tag x.1 then 0 else 7)
      = (ks.zipIdx.map Prod.fst).map (fun k => if (s.sector k).tag.toNat = tag k then 0 else 7) := by rw [List.map_map]; rfl
    _ = ks.map (fun k => if (s.sector k).tag.toNat = tag k then 0 else 7) := by rw [List.zipIdx_map_fst]

/-- R118: the verdict on clean sectors that all have the tag. -/
theorem readSectors_tagged {s : State} {ks : List Nat} {tag : Nat} (h : ∀ k ∈ ks, (s.sector k).cond = .clean)
    (ht : ∀ k ∈ ks, (s.sector k).tag.toNat = tag) : readSectors s ks tag = (s, 0) := by
  rw [readSectors, readEach_clean ks h, List.map_congr_left (g := fun _ => 0) (fun k m => if_pos (ht k m))]
  have no (c : Nat) (hc : c ≠ 0) : (ks.map (fun _ => 0)).contains c = false := by
    rw [← Bool.not_eq_true, List.contains_iff_mem, List.mem_map]
    exact fun ⟨_, _, e⟩ => hc e.symm
  rw [verdictOf, no 7 (by decide), no 8 (by decide)]
  rfl

/-- R118: the verdict on clean sectors of which one has another tag. -/
theorem readSectors_mismatch {s : State} {ks : List Nat} {tag : Nat} (h : ∀ k ∈ ks, (s.sector k).cond = .clean)
    (ht : ∃ k ∈ ks, (s.sector k).tag.toNat ≠ tag) : readSectors s ks tag = (s, 7) := by
  obtain ⟨k, m, ne⟩ := ht
  have seven : (ks.map (fun k => if (s.sector k).tag.toNat = tag then 0 else 7)).contains 7 = true :=
    List.contains_iff_mem.2 (List.mem_map.2 ⟨k, m, if_neg ne⟩)
  rw [readSectors, readEach_clean ks h, verdictOf, seven]
  rfl

/-- R118: the sectors of n bytes. -/
theorem mem_sectorsOf {key n k : Nat} (hn : 0 < n) : k ∈ sectorsOf key n ↔ key / 32 ≤ k ∧ k ≤ (key + n - 1) / 32 := by
  rw [sectorsOf, List.mem_map]
  constructor
  · rintro ⟨i, m, rfl⟩
    have := List.mem_range.1 m
    omega
  · intro h
    exact ⟨k - key / 32, List.mem_range.2 (by omega), by omega⟩

/-! ### A read through a cached page (R427, R429, R431) -/

/-- R431: the state after a translation that the tile's cache holds: the entry is the one used last. -/
def usedTlb (s : State) (x : TlbEntry) : State :=
  s.mapTile (s.cur / 4) (fun t => { t with tlb := tlbUse Config.tlb1Entries x (s.tile (s.cur / 4)).tlb })

/-- R431, R432: a translation for a read that the tile's cache holds. -/
theorem translate_cached {s : State} {va : Nat} {x : TlbEntry}
    (h : (s.tile (s.cur / 4)).tlb.find? (tlbHit (s.me.graph / 65536) va) = some x) (hl : s.me.lvl = true ∨ Pte.sup x.entry.toNat = false) :
    translate s (agOf s s.cur) va false = (usedTlb s x, 0, x.entry.toNat, x.large) := by
  have hit : (tlb1 s (agOf s s.cur)).find? (tlbHit (agOf s s.cur).part va) = some x := h
  have passes : leafCheck x.entry.toNat false (agOf s s.cur).lvl = 0 := by
    have lvl : (agOf s s.cur).lvl = s.me.lvl := rfl
    rw [leafCheck, lvl]
    rcases hl with handler | open_
    · simp [handler]
    · simp [open_]
  unfold translate
  dsimp only
  rw [hit]
  dsimp only
  rw [passes]
  rfl

/-- R171: where no access waits, none is performed. -/
theorem drainLine_none {s : State} (l : Nat × Nat) (h : s.homeQ = []) : drainLine s l = s := by
  have e : s = { s with homeQ := [] } := by rw [← h]
  rw [e]
  rfl

/-- R112: a background access leaves vaults, sectors and threads. -/
theorem homeRow_frame (s : State) (key : Nat) : (homeRow s key).vault = s.vault ∧ (homeRow s key).threads = s.threads ∧
    ∀ k, (homeRow s key).sector k = s.sector k := by
  unfold homeRow
  dsimp only
  split
  · exact ⟨rfl, rfl, fun _ => rfl⟩
  · exact ⟨rfl, rfl, fun _ => rfl⟩

end Sys2Proof.Machine

open Sys2Proof Sys2Proof.Machine Sys2Proof.Safety Sys2Proof.Claims

/-- Settles O21: the cached leaf gives the vault's key, and the home reads there. -/
theorem globalRead : Obligations.GlobalRead := by
  intro s n ea x space positive line noneWaits cached level notHost notCodec alive noStores key clean
  have loc : isLocal ea = false := by rw [isLocal, spaceOf, fld]; simp; omega
  have place : placeOf x.entry.toNat x.large (vaOf ea) = .vault key := by
    rw [placeOf]
    simp only [notHost, notCodec, Bool.false_eq_true, if_false]
    rfl
  have tag : tagOf ea = ea.toNat / 2 ^ 56 % 16 := rfl
  have reached : homeDead (usedTlb s x) (agOf s s.cur).tile (Pte.tile x.entry.toNat) = false :=
    (homeDead_mapTile s _ _ rfl rfl _ _).trans alive
  obtain ⟨vault, threads, sector⟩ := homeRow_frame (usedTlb s x) key
  have clean' (k : Nat) (m : k ∈ sectorsOf key n) : ((homeRow (usedTlb s x) key).sector k).cond = .clean := by
    obtain ⟨lo, hi⟩ := (mem_sectorsOf positive).1 m
    rw [sector]
    exact clean k lo hi
  have piece (c : Nat) (hc : readSectors (homeRow (usedTlb s x) key) (sectorsOf key n) (tagOf ea) = (homeRow (usedTlb s x) key, c)) :
      readPiece s (agOf s s.cur) ea n = (homeRow (usedTlb s x) key, c, Memory.readBytes s.vault key n) := by
    unfold readPiece
    rw [loc, if_neg (by decide), translate_cached (va := vaOf ea) cached level]
    show homeRead (drainLine (usedTlb s x) _) _ _ _ _ _ _ = _
    rw [drainLine_none _ (show (usedTlb s x).homeQ = [] from noneWaits), homeRead, place]
    dsimp only
    rw [reached, if_neg (by decide), hc, ← show (homeRow (usedTlb s x) key).vault = s.vault from vault]
  have element (c : Nat) (hne : c ≠ 8) (hc : readSectors (homeRow (usedTlb s x) key) (sectorsOf key n) (tagOf ea) = (homeRow (usedTlb s x) key, c)) :
      readElement s false ea n = (homeRow (usedTlb s x) key, c, overlay s.me.bight.stores ea (Memory.readBytes s.vault key n)) := by
    unfold readElement
    simp only [Bool.false_and, Bool.false_eq_true, if_false]
    rw [readRange_one positive line, piece c hc]
    simp [hne]
  refine ⟨homeRow (usedTlb s x) key, overlay s.me.bight.stores ea (Memory.readBytes s.vault key n), ⟨fun same => ?_, fun other => ?_⟩,
    vault, threads, ?_, fun k hk => ?_⟩
  · refine element 0 (by decide) (readSectors_tagged clean' (fun k m => ?_))
    obtain ⟨lo, hi⟩ := (mem_sectorsOf positive).1 m
    rw [sector, tag]
    exact same k lo hi
  · obtain ⟨k, lo, hi, ne⟩ := other
    exact element 7 (by decide) (readSectors_mismatch clean' ⟨k, (mem_sectorsOf positive).2 ⟨lo, hi⟩, by rw [sector, tag]; exact ne⟩)
  · simp [overlay]
  · rw [overlay_getElem? (by simpa using hk), noStores, List.getD_eq_getElem?_getD, Memory.readBytes_getElem? _ _ _ _ hk]
    rfl
end

section
/-! PROOF. O56, O57 and O58: what reset leaves, and one step of the machine, of spec/02_graphs_threads_bights.md and
spec/07_encoding_and_assembly.md. -/

namespace Sys2Proof.Machine
open Sys2Proof.Safety Sys2Proof.Claims

/-! ### One step (R35, R104, R193, R318) -/

/-- R35: in service and with nothing on the agenda, the step is the turn of the slot that is picked. -/
theorem step_turn {s : State} {i : Nat} (ha : s.agenda = []) (hp : s.mod.powered = true) (ht : s.mod.tripped = false) (hf : s.mod.frozen = false)
    (h : pickSlot s = some i) : step s = threadTurn (takeSlot s i) i := by
  unfold step
  rw [hp, ht, hf, if_neg (by decide), ha]
  dsimp only
  rw [h]

/-- R193, R203: the turn of a slot with no trap to take, whose fetch is not refused. -/
theorem threadTurn_fetched {s : State} {i : Nat} (hd : dueTrap (s.thread i) = false) (hr : fetchRefused s i = false) :
    threadTurn s i = exec (fetched s i).1 (fetched s i).2 := by
  unfold threadTurn
  rw [hd, hr, if_neg (by decide), if_neg (by decide)]

/-- R193: a delivered word is the next instruction's. -/
theorem fetched_word {s s' : State} {i w : Nat} (h : fetchWord s (tileOf i) (s.thread i).pc = (w, false, s')) :
    fetched s i = (wordInstr w, s') := by
  unfold fetched
  dsimp only
  rw [h]
  rfl
/-- R193, R447: a poisoned word is delivered as poison. -/
theorem fetched_poison {s s' : State} {i w : Nat} (h : fetchWord s (tileOf i) (s.thread i).pc = (w, true, s')) :
    fetched s i = (.poisonedFetch (s.thread i).pc, s') := by
  unfold fetched
  dsimp only
  rw [h]

/-- R104, R193: the instruction that a fetch from memory gives, whose state is `p` of the poison read and `k` of the word kept. -/
theorem exec_fetched_memory {s p k : State} {i w : Nat} {bad : Bool}
    (h : fetchWord s (tileOf i) (s.thread i).pc = (w, bad, if bad then p else k)) :
    exec (fetched s i).1 (fetched s i).2 = if bad then exec (.poisonedFetch (s.thread i).pc) p else exec (wordInstr w) k := by
  cases bad with
  | false => rw [fetched_word h]; rfl
  | true => rw [fetched_poison h]; rfl

/-- R35: the pick of a slot leaves its tile's instruction buffer. -/
theorem takeSlot_ibuf {s : State} {i : Nat} {o : Option (BitVec 32)} (h : Assoc.get? (s.tile (i / 4)).ibuf (s.thread i).pc.toNat = o) :
    Assoc.get? ((takeSlot s i).tile (tileOf i)).ibuf ((takeSlot s i).thread i).pc.toNat = o :=
  (congrArg (fun t : Tile => Assoc.get? t.ibuf (s.thread i).pc.toNat)
    (State.tile_mapTile_same s (tileOf i) (fun t => { t with lastSlot := slotOf i }))).trans h

end Sys2Proof.Machine

open Sys2Proof Sys2Proof.Machine Sys2Proof.Safety Sys2Proof.Claims

/-- Settles O56: the cases of the fetch are those of the tile's instruction buffer. -/
theorem stepRunsDecoded : Obligations.StepRunsDecoded := by
  refine ⟨fun s i issues open_ => ?_, fun s i issues refused => ?_, fun s i agenda power trip freeze picked due => ?_,
    fun s x rest agenda power trip freeze => ?_, fun s agenda off => ?_, fun s agenda power trip freeze => ?_⟩
  · obtain ⟨agenda, power, trip, freeze, picked, free⟩ := issues
    have turn : step s = exec (fetched (takeSlot s i) i).1 (fetched (takeSlot s i) i).2 :=
      (step_turn agenda power trip freeze picked).trans (threadTurn_fetched free open_)
    dsimp only
    rw [turn, littleEndian_eq]
    refine ⟨fun absent => ?_, fun c kept => ⟨fun same clean => ?_, fun differs => ?_⟩⟩
    · refine exec_fetched_memory (i := i) ?_
      unfold fetchWord
      dsimp only
      rw [takeSlot_ibuf absent]
      rfl
    · refine congrArg (fun x : Instr × State => exec x.1 x.2) (fetched_word (i := i) (s' := takeSlot s i) ?_)
      unfold fetchWord
      dsimp only
      rw [takeSlot_ibuf kept]
      exact if_pos (Bool.and_eq_true_iff.2 ⟨decide_eq_true same, congrArg (!·) clean⟩)
    · have stale (w bad) (h : c.toNat ≠ w ∨ bad = true) : ¬(decide (c.toNat = w) && !bad) = true := by
        rcases h with h | h <;> simp [h]
      by_cases new : Config.fetchNew (takeSlot s i).drawn = true
      · refine .inr (exec_fetched_memory (i := i) ?_)
        unfold fetchWord
        dsimp only
        rw [takeSlot_ibuf kept]
        exact (if_neg (stale _ _ differs)).trans (if_pos new)
      · refine .inl (congrArg (fun x : Instr × State => exec x.1 x.2) (fetched_word (i := i) (s' := (takeSlot s i).draw) ?_))
        unfold fetchWord
        dsimp only
        rw [takeSlot_ibuf kept]
        exact (if_neg (stale _ _ differs)).trans (if_neg new)
  · obtain ⟨agenda, power, trip, freeze, picked, free⟩ := issues
    refine ⟨wd (0xE * 2 ^ 60 + (s.thread i).pc.toNat), (step_turn agenda power trip freeze picked).trans ?_⟩
    unfold threadTurn
    rw [show dueTrap ((takeSlot s i).thread i) = false from free, show fetchRefused (takeSlot s i) i = true from refused]
    rfl
  · refine (step_turn agenda power trip freeze picked).trans ?_
    unfold threadTurn
    rw [show dueTrap ((takeSlot s i).thread i) = true from due]
    rfl
  · unfold step
    rw [power, trip, freeze, agenda]
    rfl
  · unfold step
    rw [agenda]
    rcases off with off | off
    · rw [off]; rfl
    · rw [off, Bool.or_true]; rfl
  · unfold step
    rw [power, trip, freeze, agenda]
    rfl

/-- Settles O57: the state at reset holds no tile, partition, thread or zone but the default one. -/
theorem resetState : Obligations.ResetState := by
  have tile (i : Nat) : State.reset.tile i = .reset := rfl
  refine ⟨fun i k => ⟨?_, fun h => ?_, ?_, ?_, rfl⟩, fun k => ⟨rfl, Nat.zero_div _, rfl⟩, fun i => ⟨rfl, rfl⟩, fun i => ⟨rfl, rfl, rfl⟩, rfl⟩
  · rw [tile, Tile.scale, Tile.reset]; exact Vector.getElem_replicate _
  · simp only [tile, Tile.reset]; exact Vector.getElem_replicate h
  · rw [tile, Tile.fmtEntry, Tile.reset]; exact congrArg BitVec.toNat (Vector.getElem_replicate _)
  · rw [tile, Tile.plane, Tile.reset]; exact congrArg Plane.desc (Vector.getElem_replicate _)

/-- Settles O58: every memory is empty at reset. -/
theorem memoryAtReset : Obligations.MemoryAtReset := ⟨rfl, rfl, rfl, rfl⟩
end

section
/-! PROOF. O34, O35 and O37, of spec/09_isa_vector.md: the vector forms. -/

namespace Sys2Proof.Machine
open Sys2Proof.Safety Sys2Proof.Claims

/-! ### The shape of a vector form (R253, R254) -/

/-- R254: no trapping NaN among the results. -/
theorem nanOf_quieted {s : State} {c1 c2 : Nat} {rs : List (Nat × Res)} (h : Quieted s rs) : nanOf s.me c1 c2 rs = none := by
  unfold nanOf
  split
  · next trap =>
    rcases h with off | quiet
    · rw [Fpctl.nanTrap, bit, beq_iff_eq] at trap
      omega
    · rw [List.find?_eq_none.2 (fun r m => by rw [quiet r m]; decide)]
      rfl
  · rfl

/-- R254: a NaN among the results, with NANTRAP. -/
theorem nanOf_not_quieted {s : State} {c1 c2 : Nat} {rs : List (Nat × Res)} (h : ¬Quieted s rs) : ∃ v, nanOf s.me c1 c2 rs = some v := by
  rw [Quieted, not_or] at h
  obtain ⟨on, loud⟩ := h
  have trap : Fpctl.nanTrap s.me.fpctl = true := by rw [Fpctl.nanTrap, bit, beq_iff_eq]; omega
  have found : (rs.find? (fun r => r.2.isNan)).isSome = true := by
    rw [List.find?_isSome]
    simpa using loud
  obtain ⟨r, e⟩ := Option.isSome_iff_exists.1 found
  exact ⟨_, by rw [nanOf, if_pos trap, e]; rfl⟩

/-- R253, R254: a ready vector form whose value of FP_NAN is that of its results. -/
theorem vectorOp_results {s : State} {rd wr : RegSet} {c1 c2 : Nat} {rs : List (Nat × Res)} {f : Thread → Thread} (h : Ready s rd wr) :
    (Quieted s rs → vectorOp rd wr (nanOf s.me c1 c2 rs) f s = s.mapMe (fun th => (f (th.tracked rd wr)).next)) ∧
    (¬Quieted s rs → ∃ v, vectorOp rd wr (nanOf s.me c1 c2 rs) f s = raise (s.mapMe (fun th => { th with bight := th.bight.read rd })) 0x13 v) := by
  refine ⟨fun quiet => ?_, fun loud => ?_⟩
  · rw [nanOf_quieted quiet]
    exact vectorOp_ready h
  · obtain ⟨v, e⟩ := nanOf_not_quieted (c1 := c1) (c2 := c2) loud
    exact ⟨v, by rw [e]; exact vectorOp_nan h⟩

/-! ### Forms that act element by element (Tables 9-2 to 9-10) -/

/-- The smaller of two integers, by the test of the form. -/
theorem ite_min (x y : Int) : (if y < x then y else x) = min x y := by omega
/-- The larger of two integers, by the test of the form. -/
theorem ite_max (x y : Int) : (if x < y then y else x) = max x y := by omega

/-- An element of one of two registers. -/
theorem lane_ite (m : Thread) (c : Prop) [Decidable c] (a b : BitVec 5) (w k : Nat) :
    m.lane (if c then a else b) w k = if c then m.lane a w k else m.lane b w k := by
  split <;> rfl
/-- A choice by the opposite test. -/
theorem ite_le_lt (n k x y : Nat) : (if n ≤ k then x else y) = if k < n then y else x := by
  simp only [← Nat.not_lt, ite_not]

/-- Tables 9-2 to 9-10: a form of the tables is `lanewise` with the results of its rule. -/
theorem exec_of_laneRule {s : State} {i : Instr} {t : VType} {d : BitVec 5} {g : BitVec 3} {rd : RegSet} {f : Nat → Res}
    (h : laneRule s i = some (t, d, g, rd, f)) : ∃ c1 c2, exec i s = .next (lanewise t d g rd c1 c2 f s) := by
  unfold laneRule at h
  dsimp only at h
  split at h
  case h_33 => cases h
  all_goals
    cases h
    refine ⟨_, _, congrArg (fun f => Host.Outcome.next (lanewise _ _ _ _ _ _ f s)) (funext fun k => ?_)⟩
  case h_4.refl => exact ite_congr_iff Iff.rfl rfl (congrArg (fun x => plain (VType.ofInt _ x)) (ite_min _ _))
  case h_5.refl => exact ite_congr_iff Iff.rfl rfl (congrArg (fun x => plain (VType.ofInt _ x)) (ite_max _ _))
  case h_20.refl | h_21.refl => exact congrArg rawBits (lane_ite _ _ _ _ _ _)
  case h_24.refl => exact congrArg rawBits (ite_le_lt _ _ _ _)
  case h_1.refl | h_2.refl | h_3.refl | h_6.refl | h_7.refl | h_8.refl | h_9.refl | h_10.refl | h_11.refl | h_12.refl | h_13.refl | h_14.refl | h_15.refl | h_16.refl | h_17.refl | h_18.refl | h_19.refl | h_22.refl | h_23.refl | h_25.refl | h_26.refl | h_27.refl | h_28.refl | h_29.refl | h_30.refl | h_31.refl | h_32.refl => rfl

/-! ### The elements of a register (R66, R251) -/

/-- The number of a list of elements of w bytes. -/
def lanesNat (w : Nat) (ls : List Nat) : Nat := ls.foldr (fun x acc => x % 2 ^ (8 * w) + 2 ^ (8 * w) * acc) 0

/-- A list of elements is a number of their width together. -/
theorem lanesNat_lt (w : Nat) (ls : List Nat) : lanesNat w ls < 2 ^ (8 * w * ls.length) := by
  induction ls with
  | nil => exact Nat.one_pos
  | cons x ls ih =>
    have hx : x % 2 ^ (8 * w) < 2 ^ (8 * w) := Nat.mod_lt _ (Nat.two_pow_pos _)
    rw [List.length_cons, Nat.mul_succ, Nat.pow_add, Nat.mul_comm (2 ^ _)]
    calc lanesNat w (x :: ls) = x % 2 ^ (8 * w) + 2 ^ (8 * w) * lanesNat w ls := rfl
      _ < 2 ^ (8 * w) + 2 ^ (8 * w) * lanesNat w ls := Nat.add_lt_add_right hx _
      _ = 2 ^ (8 * w) * (lanesNat w ls + 1) := by rw [Nat.mul_add, Nat.mul_one, Nat.add_comm]
      _ ≤ 2 ^ (8 * w) * 2 ^ (8 * w * ls.length) := Nat.mul_le_mul_left _ ih

/-- Element k of the number of a list. -/
theorem lanesNat_div_mod (w k : Nat) (ls : List Nat) : lanesNat w ls / 2 ^ (8 * w * k) % 2 ^ (8 * w) = ls.getD k 0 % 2 ^ (8 * w) := by
  induction ls generalizing k with
  | nil => simp [lanesNat]
  | cons x ls ih =>
    have step : lanesNat w (x :: ls) = x % 2 ^ (8 * w) + 2 ^ (8 * w) * lanesNat w ls := rfl
    cases k with
    | zero => rw [step, Nat.mul_zero, Nat.pow_zero, Nat.div_one, Nat.add_mul_mod_self_left, Nat.mod_mod]; rfl
    | succ k =>
      rw [step, Nat.mul_succ, Nat.pow_add, Nat.mul_comm (2 ^ (8 * w * k)), ← Nat.div_div_eq_div_mul, Nat.add_mul_div_left _ _ (Nat.two_pow_pos _),
        Nat.div_eq_of_lt (Nat.mod_lt _ (Nat.two_pow_pos _)), Nat.zero_add, ih]
      rfl

/-- R66: the elements of a register made of as many. -/
theorem lanesOf_ofLanes {w : Nat} (hw : w = 1 ∨ w = 2 ∨ w = 4 ∨ w = 8) {ls : List Nat} (h : ls.length = 64 / w) :
    lanesOf w (ofLanes w ls) = ls.map (· % 2 ^ (8 * w)) := by
  have whole : 8 * w * ls.length = 512 := by rw [h]; rcases hw with rfl | rfl | rfl | rfl <;> rfl
  have fits : (ofLanes w ls).toNat = lanesNat w ls := by
    show (BitVec.ofNat 512 (lanesNat w ls)).toNat = _
    rw [BitVec.toNat_ofNat, Nat.mod_eq_of_lt (whole ▸ lanesNat_lt w ls)]
  apply List.ext_getElem?
  intro k
  rw [lanesOf, fits, List.getElem?_map, List.getElem?_map]
  by_cases hk : k < 64 / w
  · rw [List.getElem?_range hk, List.getElem?_eq_getElem (h ▸ hk), Option.map_some, Option.map_some, lanesNat_div_mod,
      List.getD_eq_getElem?_getD, List.getElem?_eq_getElem (h ▸ hk), Option.getD_some]
  · rw [List.getElem?_eq_none (by simpa using hk), List.getElem?_eq_none (by rw [h]; omega)]
    rfl

/-- The elements of a register are of their width. -/
theorem lanesOf_mod (w : Nat) (v : Vec) : (lanesOf w v).map (· % 2 ^ (8 * w)) = lanesOf w v := by
  rw [lanesOf, List.map_map]
  exact List.map_congr_left fun k _ => Nat.mod_mod _ _

/-- R251: elements put in their places keep the count. -/
theorem putLanes_length (ps : List (Nat × Nat)) (ls : List Nat) : (ps.foldl (fun ls p => ls.set p.1 p.2) ls).length = ls.length := by
  induction ps generalizing ls with
  | nil => rfl
  | cons p ps ih => rw [List.foldl_cons, ih, List.length_set]

/-- R251: an element of no place that is put stays. -/
theorem putLanes_other (ps : List (Nat × Nat)) (ls : List Nat) {k : Nat} (h : k ∉ ps.map Prod.fst) :
    (ps.foldl (fun ls p => ls.set p.1 p.2) ls)[k]? = ls[k]? := by
  induction ps generalizing ls with
  | nil => rfl
  | cons p ps ih =>
    rw [List.map_cons, List.mem_cons, not_or] at h
    rw [List.foldl_cons, ih _ h.2, List.getElem?_set_ne (Ne.symm h.1)]

/-- R251: an element put in its place, which no other is put in. -/
theorem putLanes_at (ps : List (Nat × Nat)) (ls : List Nat) (hn : (ps.map Prod.fst).Nodup) (hl : ∀ p ∈ ps, p.1 < ls.length) {p : Nat × Nat}
    (hp : p ∈ ps) : (ps.foldl (fun ls p => ls.set p.1 p.2) ls)[p.1]? = some p.2 := by
  induction ps generalizing ls with
  | nil => cases hp
  | cons q ps ih =>
    rw [List.map_cons, List.nodup_cons] at hn
    obtain ⟨fresh, hn⟩ := hn
    rw [List.foldl_cons]
    rcases List.mem_cons.1 hp with rfl | hp
    · rw [putLanes_other ps _ fresh, List.getElem?_set_self (hl p (List.mem_cons_self ..))]
    · exact ih _ hn (fun r m => by rw [List.length_set]; exact hl r (List.mem_cons_of_mem q m)) hp

/-! ### Forms that act on whole registers -/

/-- R254: without results there is no trapping NaN. -/
theorem nanOf_nil (t : Thread) (c1 c2 : Nat) : nanOf t c1 c2 [] = none := by
  unfold nanOf
  split <;> rfl

/-- R281: the active elements below an element, counted. -/
theorem pick_filter_lt {n k : Nat} (p : Nat → Bool) (h : k ≤ n) : (pick n p).filter (fun j => decide (j < k)) = (List.range k).filter p := by
  have below : (List.range n).filter (fun j => decide (j < k)) = List.range k := by
    obtain ⟨m, rfl⟩ := Nat.exists_eq_add_of_le h
    rw [List.range_add, List.filter_append, List.filter_eq_self.2 (fun j m => decide_eq_true (List.mem_range.1 m)),
      List.filter_eq_nil_iff.2 (by simp), List.append_nil]
  rw [pick, List.filter_filter, ← below, List.filter_filter]
  exact List.filter_congr fun j _ => Bool.and_comm _ _

/-- Tables 9-6, 9-9 and 9-12: a form of the rule is one vector operation with the FP_NAN value of its results. -/
theorem exec_of_wholeRule {s : State} {i : Instr} {rd wr : RegSet} {rs : List (Nat × Res)} {f : Thread → Thread}
    (h : wholeRule s i = some (rd, wr, rs, f)) : ∃ c1 c2, exec i s = .next (vectorOp rd wr (nanOf s.me c1 c2 rs) f s) := by
  unfold wholeRule at h
  dsimp only at h
  split at h
  case h_13 => cases h
  all_goals cases h
  case h_1.refl | h_2.refl | h_10.refl | h_12.refl => exact ⟨0, 0, by rw [nanOf_nil]; rfl⟩
  case h_11.refl d a t n =>
    have same : (List.range (VType.ofCode t).lanes).map (fun k => if active (s.me.rp n) (VType.ofCode t).w k then
          s.me.lane a (VType.ofCode t).w ((activeLanes (s.me.rp n) (VType.ofCode t).w).filter (fun j => decide (j < k))).length else 0) =
        (List.range (VType.ofCode t).lanes).map (fun k => if (s.me.rp n).getLsbD ((VType.ofCode t).w * k) then
          s.me.lane a (VType.ofCode t).w (((List.range k).filter (fun j => (s.me.rp n).getLsbD ((VType.ofCode t).w * j))).length) else 0) :=
      List.map_congr_left fun k m => by rw [activeLanes, pick_filter_lt (n := 64 / (VType.ofCode t).w) _ (Nat.le_of_lt (List.mem_range.1 m))]; rfl
    refine ⟨0, 0, ?_⟩
    rw [nanOf_nil, ← same]
    rfl
  all_goals exact ⟨_, _, rfl⟩

end Sys2Proof.Machine

open Sys2Proof Sys2Proof.Machine Sys2Proof.Safety Sys2Proof.Claims

/-- Settles O34: every form of the tables is `lanewise`, a vector operation with the FP_NAN value of its results. -/
theorem vectorResult : Obligations.VectorResult := by
  intro s i t d g rd f rule reads ready
  obtain ⟨c1, c2, e⟩ := exec_of_laneRule rule
  obtain ⟨quiet, loud⟩ := vectorOp_results (c1 := c1) (c2 := c2) (rs := activeResults s t g f)
    (f := fun th => th.writeLanes t.w d (activeResults s t g f)) ready
  rw [e]
  refine ⟨fun q => congrArg _ (quiet q), fun l => ?_⟩
  obtain ⟨v, trapped⟩ := loud l
  exact ⟨v, congrArg _ trapped⟩

/-- Settles O35: the elements of the register written are those put in their places, cut at their width. -/
theorem laneFrame : Obligations.LaneFrame := by
  intro th w d rs hw unique inside t
  have places : (rs.map Prod.fst).zip (rs.map (fun r => r.2.bits)) = rs.map (fun r => (r.1, r.2.bits)) := by
    rw [List.zip_map', ]
  have length : (lanesOf w (th.rv d)).length = 64 / w := by simp [lanesOf]
  have elements : lanesOf w (t.rv d) = ((rs.map (fun r => (r.1, r.2.bits))).foldl (fun ls p => ls.set p.1 p.2) (lanesOf w (th.rv d))).map (· % 2 ^ (8 * w)) := by
    have written : t.rv d = setLanes w (th.rv d) (rs.map Prod.fst) (rs.map (fun r => r.2.bits)) := by
      rw [show t = (th.flagged rs).wv d (setLanes w (th.rv d) (rs.map Prod.fst) (rs.map (fun r => r.2.bits))) from rfl, Thread.rv_wv, if_pos rfl]
    rw [written, setLanes, places, lanesOf_ofLanes hw (by rw [putLanes_length, length])]
  have fsts : (rs.map (fun r => (r.1, r.2.bits))).map Prod.fst = rs.map Prod.fst := by rw [List.map_map]; rfl
  refine ⟨fun r m => ?_, fun k hk away => ?_, fun a ne => ?_, rfl, rfl, rfl, rfl, rfl, rfl, rfl, rfl, rfl⟩
  · have put := putLanes_at (rs.map (fun r => (r.1, r.2.bits))) (lanesOf w (th.rv d)) (by rw [fsts]; exact unique)
      (fun p m => by
        obtain ⟨r, mr, rfl⟩ := List.mem_map.1 m
        rw [length]; exact inside r mr) (List.mem_map_of_mem m)
    rw [Thread.lane, elements, List.getD_eq_getElem?_getD, List.getElem?_map, put]
    rfl
  · have stays := putLanes_other (rs.map (fun r => (r.1, r.2.bits))) (lanesOf w (th.rv d)) (k := k) (by rw [fsts]; exact away)
    rw [Thread.lane, elements, List.getD_eq_getElem?_getD, List.getElem?_map, stays, ← List.getElem?_map, lanesOf_mod,
      ← List.getD_eq_getElem?_getD]
    rfl
  · rw [show t = (th.flagged rs).wv d (setLanes w (th.rv d) (rs.map Prod.fst) (rs.map (fun r => r.2.bits))) from rfl, Thread.rv_wv, if_neg ne]
    rfl

/-- Settles O37: every form is one vector operation; VEXT is one scalar operation. -/
theorem vectorWhole : Obligations.VectorWhole := by
  refine ⟨fun s i rd wr rs f rule ready => ?_, fun s d a b t ready => ?_⟩
  · obtain ⟨c1, c2, e⟩ := exec_of_wholeRule rule
    obtain ⟨quiet, loud⟩ := vectorOp_results (c1 := c1) (c2 := c2) (rs := rs) (f := f) ready
    rw [e]
    refine ⟨fun q => congrArg _ (quiet q), fun l => ?_⟩
    obtain ⟨v, trapped⟩ := loud l
    exact ⟨v, congrArg _ trapped⟩
  · exact congrArg _ (scalarOp_ready ready)
end

section
/-! PROOF. O38 to O40, of spec/10_isa_memory_sync.md: vector loads and stores. -/

namespace Sys2Proof.Machine
open Sys2Proof.Safety Sys2Proof.Claims

/-! ### The elements of a vector access (R284 to R286) -/

/-- R283, R284: elements that stand at multiples of their size in an address space pass their checks. -/
theorem addrChecks_all {w : Nat} {els : List (Word × Nat)} (hw : ∀ e ∈ els, e.2 = w) (h : ∀ e ∈ els, Placed w e.1) : addrChecks w els = none := by
  have placed : els.find? (fun e => !addressOk e.1 e.2) = none :=
    List.find?_eq_none.2 fun e m => by rw [hw e m, addressOk_of_placed (h e m)]; decide
  have aligned : els.find? (fun e => e.1.toNat % w != 0) = none :=
    List.find?_eq_none.2 fun e m => by obtain ⟨zero, -⟩ := h e m; rw [zero]; decide
  unfold addrChecks
  rw [placed, aligned]

/-- R41, R283 to R287: a ready read of legal elements, made in `s1`. -/
theorem loadOp_elements {rd wr : RegSet} {w : Nat} {p : Bool} {els : List (Word × Nat)} {body : List (List Byte) → State → State} {s s1 s' : State}
    {c : Nat} {at_ : Word} {bs : List (List Byte)} (h : ReadsIn s els rd wr s1) (ha : addrChecks w els = none) (he : epochMet s1 els = none)
    (hb : homeBusy s1 false els = false) (hr : readElements s1 p els = (s', (c, at_), bs)) :
    loadOp rd wr w p els (fun _ => none) body s = if c = 0 then body bs (s'.mapMe (fun t => t.tracked rd wr)) else accessTrap s' c at_ := by
  have go := afterDeferred_readsIn h
  obtain ⟨ready, -, clear⟩ := h
  unfold loadOp
  rw [ready, ha, go]
  simp only [Bool.false_eq_true, if_false]
  rw [clear, he, hb, hr]
  cases c <;> rfl

/-- R291: base and line offset, as integers. -/
theorem lineBase_eq (t : Thread) (a : BitVec 5) (o : BitVec 10) (k : Nat) :
    lineBase t a o + wd k = z ((t.rs a).toNat + 64 * o.toInt + (k : Nat)) := by
  rw [z, BitVec.ofInt_add, BitVec.ofInt_add, BitVec.ofInt_natCast, BitVec.ofInt_natCast, BitVec.ofNat_toNat, BitVec.setWidth_eq, BitVec.ofInt_mul]
  have line : BitVec.ofInt 64 64 * BitVec.ofInt 64 o.toInt = o.signExtend 64 <<< 6 := by
    rw [BitVec.shiftLeft_eq_mul_twoPow, BitVec.mul_comm]
    rfl
  rw [line]
  rfl

/-- R292: element k of a strided access, as numbers. -/
theorem eaStride_eq (t : Thread) (a b : BitVec 5) (k : Nat) : eaStride t a b k = u ((t.rs a).toNat + k * (t.rs b).toNat) := by
  apply BitVec.eq_of_toNat_eq
  simp [eaStride, u, wd, BitVec.toNat_add, BitVec.toNat_mul]

/-- R293: element k of a gather or scatter, as integers. -/
theorem eaGather_eq (t : Thread) (a b : BitVec 5) (w : Nat) (x : Bool) (k : Nat) :
    eaGather t a b w x k = z ((t.rs a).toNat + sx (t.lane b w k) (8 * w) * (if x then w else 1 : Nat)) := by
  rw [eaGather, z, BitVec.ofInt_add, BitVec.ofInt_natCast, BitVec.ofNat_toNat, BitVec.setWidth_eq, sextN_eq]
  rfl

/-- R291 to R293: a vector load is one `vectorLoad`, with the width and the addresses of its rule. -/
theorem exec_of_gatherRule {s : State} {i : Instr} {d : BitVec 5} {g : BitVec 3} {w : Nat} {rd : RegSet} {ea : Nat → Word}
    (h : gatherRule s i = some (d, g, w, rd, ea)) : exec i s = .next (vectorLoad w d g rd ea s) := by
  unfold gatherRule at h
  dsimp only at h
  split at h
  case h_4 => cases h
  all_goals
    cases h
    refine congrArg (fun ea => Host.Outcome.next (vectorLoad _ _ _ _ ea s)) (funext fun k => ?_)
  case h_1.refl => exact lineBase_eq _ _ _ _
  case h_2.refl => exact eaStride_eq _ _ _ _
  case h_3.refl => exact eaGather_eq _ _ _ _ _ _

/-- R292, R293: a scattering store is one `scatter`, with the width and the addresses of its rule. -/
theorem exec_of_scatterRule {s : State} {i : Instr} {d : BitVec 5} {g : BitVec 3} {w : Nat} {rd : RegSet} {ea : Nat → Word}
    (h : scatterRule s i = some (d, g, w, rd, ea)) : exec i s = .next (scatter w d g rd ea s) := by
  unfold scatterRule at h
  dsimp only at h
  split at h
  case h_3 => cases h
  all_goals
    cases h
    refine congrArg (fun ea => Host.Outcome.next (scatter _ _ _ _ ea s)) (funext fun k => ?_)
  case h_1.refl => exact eaStride_eq _ _ _ _
  case h_2.refl => exact eaGather_eq _ _ _ _ _ _

/-! ### Runs of elements (R286, R291) -/

/-- An element before the runs of others joins the first of them, or is a run of its own. -/
def joinRun (i : Nat) : List (Nat × Nat) → List (Nat × Nat)
  | (j, n) :: q => if j = i + 1 then (i, n + 1) :: q else (i, 1) :: (j, n) :: q
  | [] => [(i, 1)]
theorem runs_cons (i : Nat) (is : List Nat) : runs (i :: is) = joinRun i (runs is) := by
  rw [runs]
  cases runs is <;> rfl

/-- The run of an element and those after it begin with it and as before. -/
theorem joinRun_first {i : Nat} {rs : List (Nat × Nat)} {r : Nat × Nat} (h : r ∈ joinRun i rs) : (r.1 = i ∧ 0 < r.2) ∨ r ∈ rs := by
  unfold joinRun at h
  split at h
  · split at h
    · rcases List.mem_cons.1 h with rfl | m
      · exact .inl ⟨rfl, Nat.succ_pos _⟩
      · exact .inr (List.mem_cons_of_mem _ m)
    · rcases List.mem_cons.1 h with rfl | m
      · exact .inl ⟨rfl, Nat.one_pos⟩
      · exact .inr m
  · rcases List.mem_cons.1 h with rfl | m
    · exact .inl ⟨rfl, Nat.one_pos⟩
    · cases m
/-- The run of an element and those after it hold it and what they held. -/
theorem joinRun_cover {i k : Nat} {rs : List (Nat × Nat)} :
    (∃ r ∈ joinRun i rs, r.1 ≤ k ∧ k < r.1 + r.2) ↔ k = i ∨ ∃ r ∈ rs, r.1 ≤ k ∧ k < r.1 + r.2 := by
  unfold joinRun
  split
  · split
    · simp only [List.mem_cons, or_and_right, exists_or, exists_eq_left, ← or_assoc]
      exact or_congr_left (by omega)
    · simp only [List.mem_cons, or_and_right, exists_or, exists_eq_left]
      exact or_congr_left (by omega)
  · simp only [List.mem_cons, exists_eq_left, List.not_mem_nil, false_and, exists_false, or_false]
    omega

/-- A run begins at one of the elements. -/
theorem runs_first {is : List Nat} {r : Nat × Nat} (h : r ∈ runs is) : r.1 ∈ is ∧ 0 < r.2 := by
  induction is generalizing r with
  | nil => cases h
  | cons i is ih =>
    rw [runs_cons] at h
    rcases joinRun_first h with ⟨rfl, positive⟩ | m
    · exact ⟨List.mem_cons_self .., positive⟩
    · exact ⟨List.mem_cons_of_mem _ (ih m).1, (ih m).2⟩
/-- The runs hold the elements and no other. -/
theorem runs_cover {is : List Nat} {k : Nat} : (∃ r ∈ runs is, r.1 ≤ k ∧ k < r.1 + r.2) ↔ k ∈ is := by
  induction is with
  | nil => simp [runs]
  | cons i is ih => rw [runs_cons, joinRun_cover, ih, List.mem_cons]

/-- R291: a ready vector load of legal elements. -/
theorem vectorLoad_elements {s s1 s' : State} {w : Nat} {d : BitVec 5} {g : BitVec 3} {rd : RegSet} {ea : Nat → Word} {c : Nat} {at_ : Word}
    {bs : List (List Byte)} (h : ReadsIn s ((activeOnes s g w).map (fun k => (ea k, w))) (rd.or (governed d g)) (RegSet.v1 d) s1)
    (ha : addrChecks w ((activeOnes s g w).map (fun k => (ea k, w))) = none) (he : epochMet s1 ((activeOnes s g w).map (fun k => (ea k, w))) = none)
    (hb : homeBusy s1 false ((activeOnes s g w).map (fun k => (ea k, w))) = false)
    (hr : readElements s1 false ((activeOnes s g w).map (fun k => (ea k, w))) = (s', (c, at_), bs)) :
    vectorLoad w d g rd ea s = if c = 0 then s'.mapMe (fun t =>
      ((t.tracked (rd.or (governed d g)) (RegSet.v1 d)).wv d (setLanes w (t.rv d) (activeOnes s g w) (bs.map leNat))).next) else accessTrap s' c at_ := by
  have lanes : activeLanes (s.me.rp g) w = activeOnes s g w := rfl
  unfold vectorLoad
  rw [lanes]
  dsimp only
  rw [loadOp_elements h ha he hb hr, State.mapMe_mapMe]
  rfl

/-! ### The buffer of a line of stores (R40, R46, R291) -/

/-- A list of one value repeated holds it once. -/
theorem eraseDups_length_le_one {α : Type} [BEq α] [LawfulBEq α] {l : List α} {x : α} (h : ∀ y ∈ l, y = x) : l.eraseDups.length ≤ 1 := by
  cases l with
  | nil => simp
  | cons y l =>
    have rest : l.filter (fun z => !z == y) = [] :=
      List.filter_eq_nil_iff.2 fun z m => by
        rw [h z (List.mem_cons_of_mem y m), h y (List.mem_cons_self ..)]; simp
    rw [List.eraseDups_cons, rest]
    simp

/-- Table 2-2: stores to one line stay within the limits. -/
theorem buffersFit_one {ops : List BufOp} {l : Nat × Nat} (h : ∀ o ∈ ops, ∃ ea bytes sc, o = .store ea bytes sc ∧ o.lines = [l]) :
    buffersFit ops = true := by
  have tags (p : BufOp → Bool) (hp : ∀ ea bytes sc, p (.store ea bytes sc) = false) : ops.filter p = [] :=
    List.filter_eq_nil_iff.2 fun o m => by obtain ⟨ea, bytes, sc, rfl, -⟩ := h o m; rw [hp]; exact Bool.false_ne_true
  have lines (p : BufOp → Bool) : ∀ x ∈ (ops.filter p).flatMap BufOp.lines, x = l := by
    intro x m
    obtain ⟨o, mo, mx⟩ := List.mem_flatMap.1 m
    obtain ⟨ea, bytes, sc, -, one⟩ := h o (List.mem_filter.1 mo).1
    rw [one] at mx
    exact List.mem_singleton.1 mx
  have used : entriesUsed ops ≤ 32 := by
    unfold entriesUsed
    dsimp only
    exact Nat.le_trans (Nat.add_le_add (eraseDups_length_le_one (lines _)) (Nat.le_of_eq (congrArg List.length (tags _ (fun _ _ _ => rfl))))) (by decide)
  unfold buffersFit
  rw [decide_eq_true used, Bool.true_and, List.all_eq_true]
  intro o m
  obtain ⟨ea, bytes, sc, rfl, -⟩ := h o m
  rfl

/-- R41: the byte that a buffer holds, after one more of its updates. -/
def bufStep (sp a : Nat) (acc : Option Byte) : BufOp → Option Byte
  | .store ea bytes _ =>
    let base := if isLocal ea then ea.toNat % 2 ^ 18 else vaOf ea
    if spaceOf ea = sp ∧ base ≤ a ∧ a < base + bytes.length then some (bytes.getD (a - base) 0) else acc
  | _ => acc
theorem bufByte_eq (b : List BufOp) (sp a : Nat) : bufByte b sp a = b.foldl (bufStep sp a) none := by
  unfold bufByte
  congr 1

/-- R41: the byte of an address in a buffer whose updates of it agree. -/
theorem bufByte_agree {α : Type} {rs : List α} {f : α → BufOp} {sp a : Nat} {v : Byte} (p : α → Prop) [DecidablePred p]
    (h : ∀ r ∈ rs, ∀ acc, bufStep sp a acc (f r) = if p r then some v else acc) :
    bufByte (rs.map f) sp a = if ∃ r ∈ rs, p r then some v else none := by
  rw [bufByte_eq]
  generalize (none : Option Byte) = acc
  induction rs generalizing acc with
  | nil => simp
  | cons r rs ih =>
    rw [List.map_cons, List.foldl_cons, h r (List.mem_cons_self ..), ih (fun r m => h r (List.mem_cons_of_mem _ m))]
    by_cases now : p r
    · simp [now]
    · simp [now]

/-! ### A line of tile memory (R24, R291) -/

/-- R291: a line of tile memory, whose elements stand at its multiples. -/
structure LocalLine (ea : Nat → Word) : Prop where
  space : (ea 0).toNat / 2 ^ 18 = 0xE * 2 ^ 42
  line : (ea 0).toNat % 64 = 0
  element : ∀ k, k < 64 → (ea k).toNat = (ea 0).toNat + k

/-- R291: the addresses of VST on an aligned base make a line. -/
theorem localLine_vst {t : Thread} {a : BitVec 5} {o : BitVec 10} (ha : (t.rs a).toNat % 64 = 0)
    (hs : (lineBase t a o + wd 0).toNat / 2 ^ 18 = 0xE * 2 ^ 42) : LocalLine (fun k => lineBase t a o + wd k) := by
  have zero : lineBase t a o + wd 0 = lineBase t a o := BitVec.add_zero _
  have aligned : (lineBase t a o).toNat % 64 = 0 := by
    have shifted : (o.signExtend 64 <<< 6).toNat % 64 = 0 := by
      rw [BitVec.toNat_shiftLeft, Nat.shiftLeft_eq]; omega
    rw [lineBase, eaLines, BitVec.toNat_add]
    omega
  have lt := (lineBase t a o).isLt
  refine ⟨hs, by rw [zero]; exact aligned, fun k hk => ?_⟩
  have low : (wd k).toNat = k := by rw [wd, BitVec.toNat_ofNat]; omega
  rw [zero, BitVec.toNat_add, low]
  omega

variable {ea : Nat → Word}

/-- An element of a line is local. -/
theorem LocalLine.isLocal (h : LocalLine ea) {k : Nat} (hk : k < 64) : spaceOf (ea k) = 0xE ∧ isLocal (ea k) = true := by
  have e := h.element k hk
  have s := h.space
  have l := h.line
  have space : spaceOf (ea k) = 0xE := by rw [spaceOf, fld]; omega
  exact ⟨space, by rw [Machine.isLocal, space]; rfl⟩

/-- The offset of an element of a line. -/
theorem LocalLine.offset (h : LocalLine ea) {k : Nat} (hk : k < 64) : (ea k).toNat % 2 ^ 18 = (ea 0).toNat % 2 ^ 18 + k := by
  have e := h.element k hk
  have l := h.line
  omega

/-- An element of a line at a multiple of its size is placed. -/
theorem LocalLine.placed (h : LocalLine ea) {k w : Nat} (hk : k + w ≤ 64) (hw : 0 < w) (hm : k % w = 0) (hd : w ∣ 64) : Placed w (ea k) := by
  have e := h.element k (by omega)
  have s := h.space
  have l := h.line
  refine ⟨?_, .inr ⟨?_, ?_, ?_⟩⟩
  · rw [e]
    exact Nat.mod_eq_zero_of_dvd ((Nat.dvd_add_iff_left (Nat.dvd_of_mod_eq_zero hm)).1 (Nat.dvd_trans hd (Nat.dvd_of_mod_eq_zero l)))
  · omega
  · omega
  · omega

/-- Bytes of a line occupy the line. -/
theorem LocalLine.lines (h : LocalLine ea) {k : Nat} {bytes : List Byte} (hb : 0 < bytes.length) (hk : k + bytes.length ≤ 64) (sc : Nat) :
    (BufOp.store (ea k) bytes sc).lines = [(0xE, (ea 0).toNat % 2 ^ 18 / 64)] := by
  obtain ⟨space, loc⟩ := h.isLocal (k := k) (by omega)
  have e := h.element k (by omega)
  have l := h.line
  have o := h.offset (k := k) (by omega)
  rw [BufOp.lines, linePieces_one hb (by omega), List.map_cons, List.map_nil]
  dsimp only
  rw [space, if_pos loc, o]
  congr 2
  omega

/-- R364: an element of a line that the handler window does not touch. -/
theorem inWindow_part {hwin : Word} {base k n : Nat} (hk : k + n ≤ 64) (h : inWindow hwin base 64 = false) : inWindow hwin (base + k) n = false := by
  rw [← Bool.not_eq_true] at h ⊢
  refine fun inside => h ?_
  unfold inWindow at inside ⊢
  simp only [Bool.and_eq_true, decide_eq_true_eq] at inside ⊢
  obtain ⟨⟨valid, lo⟩, hi⟩ := inside
  exact ⟨⟨valid, by omega⟩, by omega⟩

/-- R42: a store to a line open to the slot passes its checks. -/
theorem LocalLine.enters (h : LocalLine ea) {s : State} {ops : List BufOp} {k w : Nat} (hk : k + w ≤ 64) (hw : 0 < w)
    (hi : s.me.lvl = true ∨ inWindow (s.graph s.me.graph).hwin ((ea 0).toNat % 2 ^ 18) 64 = false) :
    enterElement ops s .store (ea k) w = (s, 0) := by
  have loc := (h.isLocal (k := k) (by omega)).2
  have o := h.offset (k := k) (by omega)
  have passes : (!(agOf s s.cur).lvl && inWindow (s.graph (agOf s s.cur).graph).hwin ((ea k).toNat % 2 ^ 18) w) = false := by
    rw [Bool.and_eq_false_iff, o]
    rcases hi with handler | open_
    · exact .inl (by rw [Bool.not_eq_false']; exact handler)
    · exact .inr (inWindow_part hk open_)
  unfold enterElement
  rw [if_pos loc]
  dsimp only
  rw [passes]
  rfl

/-- R42: elements that pass enter without a change. -/
theorem enterElements_pass {s : State} {ops : List BufOp} {up : Update} {els : List (Word × Nat)}
    (h : ∀ e ∈ els, enterElement ops s up e.1 e.2 = (s, 0)) : enterElements ops s up els = (s, (0, 0)) := by
  unfold enterElements
  induction els with
  | nil => rfl
  | cons e els ih =>
    rw [List.foldl_cons]
    dsimp only
    rw [h e (List.mem_cons_self ..)]
    exact ih (fun e m => h e (List.mem_cons_of_mem _ m))

end Sys2Proof.Machine

open Sys2Proof Sys2Proof.Machine Sys2Proof.Safety Sys2Proof.Claims

/-- Settles O38: every form is one `vectorLoad`. -/
theorem vectorLoad : Obligations.VectorLoad := by
  intro s s1 s' i d g w rd ea c at_ bs rule reads els readsIn placed met busy read
  have checks : addrChecks w els = none := by
    refine addrChecks_all (fun e m => ?_) placed
    obtain ⟨k, -, rfl⟩ := List.mem_map.1 m
    rfl
  have numbers : bs.map littleEndian = bs.map leNat := List.map_congr_left fun b _ => littleEndian_eq b
  rw [exec_of_gatherRule rule, vectorLoad_elements readsIn checks met busy read, numbers]
  exact ⟨fun zero => by rw [if_pos zero]; rfl, fun ne => by rw [if_neg ne]⟩

/-- Settles O39: every form is one `scatter`. -/
theorem vectorScatter : Obligations.VectorScatter := by
  intro s s' i d g w rd ea c at_ rule reads ops els free placed walks fits entered
  have checks : addrChecks w els = none := by
    refine addrChecks_all (fun e m => ?_) placed
    obtain ⟨k, -, rfl⟩ := List.mem_map.1 m
    rfl
  have stored : scatter w d g rd ea s = if c = 0 then s'.mapMe (fun th => buffered th reads ops) else accessTrap s' c at_ :=
    bufferOp_ready free checks fits entered rfl walks
  rw [exec_of_scatterRule rule, stored]
  exact ⟨fun zero => by rw [if_pos zero], fun ne => by rw [if_neg ne]⟩

namespace Sys2Proof.Machine

/-! ### VST to a line of tile memory (R286, R291) -/

/-- A byte of a number's bytes. -/
theorem leBytes_getD {n v k : Nat} (h : k < n) : (leBytes n v).getD k 0 = .ofNat 8 (v / 2 ^ (8 * k)) := by
  induction n generalizing v k with
  | zero => omega
  | succ n ih =>
    cases k with
    | zero => simp [leBytes]
    | succ k =>
      rw [leBytes, List.getD_cons_succ, ih (by omega), Nat.div_div_eq_div_mul, Nat.mul_succ, Nat.add_comm, Nat.pow_add]

theorem leBytes_length (n v : Nat) : (leBytes n v).length = n := by
  induction n generalizing v with
  | zero => rfl
  | succ n ih => rw [leBytes, List.length_cons, ih]

/-- R291: the bytes of a register that a run of elements of n bytes stores. -/
def runBytes (v : Vec) (n : Nat) (r : Nat × Nat) : List Byte := ((leBytes 64 v.toNat).drop (n * r.1)).take (n * r.2)

theorem runBytes_length {v : Vec} {n : Nat} {r : Nat × Nat} (h : n * (r.1 + r.2) ≤ 64) : (runBytes v n r).length = n * r.2 := by
  rw [runBytes, List.length_take, List.length_drop, leBytes_length]
  rw [Nat.mul_add] at h
  omega

/-- R286: byte j of the line, in the store of a run of elements. -/
theorem bufStep_run {ea : Nat → Word} (h : LocalLine ea) {v : Vec} {n j : Nat} {r : Nat × Nat} (hr : n * (r.1 + r.2) ≤ 64) (hj : j < 64)
    (hn : n * r.1 < 64) (acc : Option Byte) :
    bufStep 0xE ((ea 0).toNat % 2 ^ 18 + j) acc (.store (ea (n * r.1)) (runBytes v n r) 0) =
      if n * r.1 ≤ j ∧ j < n * (r.1 + r.2) then some (.ofNat 8 (v.toNat / 2 ^ (8 * j))) else acc := by
  obtain ⟨space, loc⟩ := h.isLocal hn
  have offset := h.offset hn
  unfold bufStep
  dsimp only
  rw [if_pos loc, space, offset, runBytes_length hr]
  have bytes (lo : n * r.1 ≤ j) (hi : j < n * (r.1 + r.2)) :
      (runBytes v n r).getD ((ea 0).toNat % 2 ^ 18 + j - ((ea 0).toNat % 2 ^ 18 + n * r.1)) 0 = .ofNat 8 (v.toNat / 2 ^ (8 * j)) := by
    rw [Nat.mul_add] at hi
    rw [← leBytes_getD hj, runBytes, List.getD_eq_getElem?_getD, List.getElem?_take, if_pos (by omega), List.getElem?_drop,
      List.getD_eq_getElem?_getD]
    congr 2
    omega
  rw [Nat.mul_add] at *
  split
  · next inside => rw [if_pos (by omega), bytes (by omega) (by omega)]
  · next outside => rw [if_neg (by omega)]

/-- Table 9-1: the element widths of a line access. -/
theorem elementWidth (w : BitVec 2) : 2 ^ w.toNat = 1 ∨ 2 ^ w.toNat = 2 ∨ 2 ^ w.toNat = 4 ∨ 2 ^ w.toNat = 8 := by decide +revert

/-- R251: an active element is within the register. -/
theorem mem_activeOnes {s : State} {g : BitVec 3} {w k : Nat} : k ∈ activeOnes s g w ↔ k < 64 / w ∧ (s.me.rp g).getLsbD (w * k) = true := by
  rw [activeOnes, List.mem_filter, List.mem_range]

/-- R291: a run of active elements lies within the register. -/
theorem runs_inside {s : State} {g : BitVec 3} {w : Nat} {r : Nat × Nat} (h : r ∈ runs (activeOnes s g w)) : r.1 + r.2 ≤ 64 / w := by
  have positive := (runs_first h).2
  have last := (mem_activeOnes.1 (runs_cover.1 ⟨r, h, show r.1 ≤ r.1 + r.2 - 1 by omega, show r.1 + r.2 - 1 < r.1 + r.2 by omega⟩)).1
  omega

/-- R286: the stores of VST, one for each run of active elements. -/
def lineStores (s : State) (d : BitVec 5) (g : BitVec 3) (n : Nat) (ea : Nat → Word) : List BufOp :=
  (runs (activeOnes s g n)).map (fun r => .store (ea (n * r.1)) (runBytes (s.me.rv d) n r) 0)

/-- R286, R291: byte j of the line in the stores of VST. -/
theorem bufByte_lineStores {s : State} {d : BitVec 5} {g : BitVec 3} {n : Nat} {ea : Nat → Word} (h : LocalLine ea) (hn : 0 < n) (hd : n * (64 / n) = 64)
    {j : Nat} (hj : j < 64) : bufByte (lineStores s d g n ea) 0xE ((ea 0).toNat % 2 ^ 18 + j) =
      if (s.me.rp g).getLsbD (j / n * n) then some (.ofNat 8 ((s.me.rv d).toNat / 2 ^ (8 * j))) else none := by
  have inside (r : Nat × Nat) (m : r ∈ runs (activeOnes s g n)) : n * (r.1 + r.2) ≤ 64 := by
    calc n * (r.1 + r.2) ≤ n * (64 / n) := Nat.mul_le_mul_left _ (runs_inside m)
      _ = 64 := hd
  have starts (r : Nat × Nat) (m : r ∈ runs (activeOnes s g n)) : n * r.1 < 64 := by
    calc n * r.1 < n * (r.1 + r.2) := Nat.mul_lt_mul_of_pos_left (Nat.lt_add_of_pos_right (runs_first m).2) hn
      _ ≤ 64 := inside r m
  have covered : (∃ r ∈ runs (activeOnes s g n), n * r.1 ≤ j ∧ j < n * (r.1 + r.2)) ↔ (s.me.rp g).getLsbD (j / n * n) = true := by
    have element : j / n < 64 / n := by rw [Nat.div_lt_iff_lt_mul hn, Nat.mul_comm, hd]; exact hj
    have active_ : (s.me.rp g).getLsbD (j / n * n) = true ↔ j / n ∈ activeOnes s g n := by
      rw [mem_activeOnes, Nat.mul_comm n, and_iff_right element]
    rw [active_, ← runs_cover]
    refine exists_congr fun r => and_congr_right fun _ => ?_
    rw [Nat.le_div_iff_mul_le hn, Nat.div_lt_iff_lt_mul hn, Nat.mul_comm r.1, Nat.mul_comm (r.1 + r.2)]
  rw [lineStores, bufByte_agree (fun r => n * r.1 ≤ j ∧ j < n * (r.1 + r.2)) (fun r m acc => bufStep_run h (inside r m) hj (starts r m) acc)]
  exact ite_congr_iff covered rfl rfl

/-- Table 2-2: the stores of VST to a line take one entry. -/
theorem buffersFit_lineStores {s : State} {d : BitVec 5} {g : BitVec 3} {n : Nat} {ea : Nat → Word} (h : LocalLine ea) (hn : 0 < n)
    (hd : n * (64 / n) = 64) : buffersFit (lineStores s d g n ea) = true := by
  refine buffersFit_one (l := (0xE, (ea 0).toNat % 2 ^ 18 / 64)) fun o m => ?_
  obtain ⟨r, mr, rfl⟩ := List.mem_map.1 m
  have inside : n * (r.1 + r.2) ≤ 64 := Nat.le_trans (Nat.mul_le_mul_left _ (runs_inside mr)) (Nat.le_of_eq hd)
  have length := runBytes_length (v := s.me.rv d) inside
  have positive : 0 < n * r.2 := Nat.mul_pos hn (runs_first mr).2
  rw [Nat.mul_add] at inside
  exact ⟨_, _, _, rfl, h.lines (by omega) (by omega) 0⟩

/-- R291: a ready VST to a line open to the slot, with an empty store buffer, puts its stores into it. -/
theorem execVst_line {s : State} {d a : BitVec 5} {g : BitVec 3} {w : BitVec 2} {o : BitVec 10}
    (hf : s.me.notReady (((RegSet.s1 a).or (RegSet.v1 d)).or (RegSet.p1 g)) = false) (h : LocalLine (fun k => lineBase s.me a o + wd k))
    (hi : s.me.lvl = true ∨ inWindow (s.graph s.me.graph).hwin ((lineBase s.me a o + wd 0).toNat % 2 ^ 18) 64 = false)
    (he : s.me.bight.stores = []) :
    exec (.vst d a g w o) s = .next (s.mapMe (fun th => buffered th (((RegSet.s1 a).or (RegSet.v1 d)).or (RegSet.p1 g))
      (lineStores s d g (2 ^ w.toNat) (fun k => lineBase s.me a o + wd k)))) := by
  have hw := elementWidth w
  generalize hn : 2 ^ w.toNat = n at hw
  have positive : 0 < n := by omega
  have divides : n * (64 / n) = 64 := by rcases hw with rfl | rfl | rfl | rfl <;> rfl
  have within (k : Nat) (m : k ∈ activeOnes s g n) : n * k + n ≤ 64 := by
    calc n * k + n = n * (k + 1) := (Nat.mul_succ n k).symm
      _ ≤ n * (64 / n) := Nat.mul_le_mul_left _ (mem_activeOnes.1 m).1
      _ = 64 := divides
  have checks : addrChecks n ((activeOnes s g n).map (fun k => (lineBase s.me a o + wd (n * k), n))) = none := by
    refine addrChecks_all (fun e m => ?_) (fun e m => ?_)
    · obtain ⟨k, -, rfl⟩ := List.mem_map.1 m
      rfl
    · obtain ⟨k, mk, rfl⟩ := List.mem_map.1 m
      exact h.placed (within k mk) positive (Nat.mul_mod_right n k) ⟨_, divides.symm⟩
  have walks : walkBusy s ((activeOnes s g n).map (fun k => (lineBase s.me a o + wd (n * k), n))) = false := by
    rw [walkBusy, List.any_eq_false]
    intro e m
    obtain ⟨k, mk, rfl⟩ := List.mem_map.1 m
    have room := within k mk
    have loc := (h.isLocal (k := n * k) (by omega)).2
    dsimp only at loc ⊢
    rw [loc]
    exact Bool.false_ne_true
  have enters (ops : List BufOp) : enterElements ops s .store ((activeOnes s g n).map (fun k => (lineBase s.me a o + wd (n * k), n))) = (s, (0, 0)) := by
    refine enterElements_pass fun e m => ?_
    obtain ⟨k, mk, rfl⟩ := List.mem_map.1 m
    exact h.enters (within k mk) positive hi
  have fits : buffersFit (s.me.bight.stores ++ lineStores s d g n (fun k => lineBase s.me a o + wd k)) = true := by
    rw [he, List.nil_append]; exact buffersFit_lineStores h positive divides
  have stored := bufferOp_ready hf checks fits (enters _) rfl walks
  rw [if_pos rfl] at stored
  subst hn
  exact congrArg _ stored

end Sys2Proof.Machine

/-- Settles O40: the stores are those of the runs of active elements, one line's. -/
theorem vectorStore : Obligations.VectorStore := by
  intro s d a g w o n reads ea free aligned space window empty
  have same : ea = fun k => lineBase s.me a o + wd (n * k) := funext fun k => (lineBase_eq s.me a o (n * k)).symm
  have base : lineBase s.me a o + wd 0 = ea 0 := by rw [same]; rfl
  have line : LocalLine (fun k => lineBase s.me a o + wd k) := localLine_vst aligned (by rw [base]; exact space)
  refine ⟨_, execVst_line free line (by rw [base]; exact window) empty, fun j hj => ?_⟩
  rw [← base]
  exact bufByte_lineStores line (Nat.two_pow_pos _) (by rcases elementWidth w with e | e | e | e <;> rw [e]) hj
end

section
/-! PROOF. O41, of spec/11_isa_fabric.md: strand access from a thread. -/

namespace Sys2Proof.Machine
open Sys2Proof.Safety Sys2Proof.Claims

/-! ### Predicates as numbers (R66, R351) -/

/-- The number whose bits below n are those of `f`. -/
theorem testBit_sum (f : Nat → Bool) (n j : Nat) :
    ((List.range n).foldl (fun m k => m + if f k then 2 ^ k else 0) 0).testBit j = (decide (j < n) && f j) ∧
      (List.range n).foldl (fun m k => m + if f k then 2 ^ k else 0) 0 < 2 ^ n := by
  induction n generalizing j with
  | zero => simp
  | succ n ih =>
    rw [List.range_succ, List.foldl_append, List.foldl_cons, List.foldl_nil]
    obtain ⟨bit, lt⟩ := ih j
    generalize (List.range n).foldl (fun m k => m + if f k then 2 ^ k else 0) 0 = m at bit lt
    by_cases hf : f n
    · rw [if_pos hf, Nat.add_comm m]
      refine ⟨?_, by rw [Nat.pow_succ]; omega⟩
      rcases Nat.lt_trichotomy j n with low | rfl | high
      · rw [Nat.testBit_two_pow_add_gt low, bit]
        simp [low, Nat.lt_succ_of_lt low]
      · rw [Nat.testBit_two_pow_add_eq, bit]
        simp [hf]
      · have wide : 2 ^ (n + 1) ≤ 2 ^ j := Nat.pow_le_pow_right (by decide) high
        rw [Nat.pow_succ] at wide
        rw [Nat.testBit_lt_two_pow (by omega), decide_eq_false (by omega), Bool.false_and]
    · rw [if_neg hf, Nat.add_zero]
      refine ⟨?_, by rw [Nat.pow_succ]; omega⟩
      rw [bit]
      by_cases e : j = n
      · subst e; simp [hf]
      · congr 1
        exact decide_eq_decide.2 (by omega)

/-- R66, R350: bit j of the predicate of a half. -/
theorem halfPred_getLsbD (p : Word) (h j : Nat) : (halfPred p h).getLsbD j = (decide (j < 8) && p.getLsbD (32 * h + 4 * j)) := by
  rw [halfPred, BitVec.getLsbD_ofNat, (testBit_sum (fun k => p.getLsbD (32 * h + 4 * k)) 8 j).1]
  cases decide (j < 8) <;> rfl

/-- R351: the predicate bits of a beat, four for each word. -/
theorem beatPred_bits (p : BitVec 8) : (List.range 8).foldl (fun n j => n + if p.getLsbD j then 15 * 2 ^ (4 * j) else 0) 0 =
    ((List.range 32).filter (fun j => p.getLsbD (j / 4))).foldl (fun n j => n + 2 ^ j) 0 := by
  decide +revert

/-! ### Pushes and pops (R40, R43, R349 to R351) -/

/-- R349: an endpoint of the slot passes the check. -/
theorem strandCheck_mine {s : State} {e : Nat} {out : Bool} (h : Mine s e out) : strandCheck s e out = none := if_pos h
/-- R349: any other is refused. -/
theorem strandCheck_other {s : State} {e : Nat} {out : Bool} (h : ¬Mine s e out) : strandCheck s e out = some (6, u (e % 32)) := if_neg h

/-- R40, R350: a ready push to an endpoint of the slot, within the limits. -/
theorem pushForm_ready {s : State} {e : Nat} {rd : RegSet} {b : Beat} (hr : s.me.notReady rd = false) (hm : Mine s e true)
    (h64 : s.me.bight.pushes.length < 64) (h16 : (pushesTo s.me.bight e).length < 16) :
    pushForm e rd b s = s.mapMe (fun t =>
      { t with pc := t.pc + 4, wait := .none, bight := { t.bight.read rd with pushes := t.bight.pushes ++ [{ ep := e, beat := b }] } }) := by
  have room : pushFull s.me.bight e = false := by
    rw [pushFull, decide_eq_false (by omega), decide_eq_false (by omega)]; rfl
  unfold pushForm
  rw [hr, strandCheck_mine hm]
  dsimp only
  rw [room]
  rfl

/-- R349: a ready push to another endpoint raises PROT. -/
theorem pushForm_other {s : State} {e : Nat} {rd : RegSet} {b : Beat} (hr : s.me.notReady rd = false) (hm : ¬Mine s e true) :
    pushForm e rd b s = raise s 6 (u (e % 32)) := by
  unfold pushForm
  rw [hr, strandCheck_other hm]
  rfl

/-- R350: a push of the rule is one `pushForm` with a beat of its data and predicate. -/
theorem exec_of_pushRule {s : State} {i : Instr} {e : Nat} {rd : RegSet} {data : Nat} {pred : Nat → Bool} (h : pushRule s i = some (e, rd, data, pred)) :
    ∃ b : Beat, exec i s = .next (pushForm e rd b s) ∧ b.data.toNat = data ∧ (∀ j, b.pred.getLsbD j = pred j) ∧ b.kind = 0 ∧ b.tag = 0 := by
  unfold pushRule at h
  split at h
  case h_3 => cases h
  case h_1 e b h n =>
    cases h
    refine ⟨_, rfl, ?_, fun j => ?_, rfl, rfl⟩
    · rw [BitVec.toNat_ofNat]; cases h <;> rfl
    · dsimp only
      rw [halfPred_getLsbD]; cases h <;> rfl
  case h_2 e b =>
    cases h
    refine ⟨_, rfl, ?_, fun j => ?_, rfl, rfl⟩
    · have := (s.me.rs b).isLt
      simp; omega
    · simp

/-- R351: a pop of the rule is one `popForm`. -/
theorem exec_of_popRule {i : Instr} {e : Nat} {wr : RegSet} {put : Beat → Thread → Thread} {none_ : Option (Thread → Thread)}
    (h : popRule i = some (e, wr, put, none_)) (s : State) : exec i s = .next (popForm e wr put none_ s) := by
  have data (v : BitVec 5) (n : BitVec 3) : (fun (b : Beat) (t : Thread) => (t.wv v (.ofNat 512 b.data.toNat)).wp n
      (u (((List.range 32).filter (fun j => b.pred.getLsbD (j / 4))).foldl (fun n j => n + 2 ^ j) 0 + b.kind.toNat * 2 ^ 32 + b.tag.toNat * 2 ^ 34))) =
      putBeat v n := by
    funext b t
    rw [← beatPred_bits, BitVec.ofNat_toNat]
    rfl
  have token (d : BitVec 5) (n : BitVec 3) : (fun (b : Beat) (t : Thread) => (t.ws d (u b.data.toNat)).wp n (u b.kind.toNat)) = putToken d n := by
    funext b t
    rw [u, u, BitVec.ofNat_toNat, BitVec.ofNat_toNat]
    rfl
  unfold popRule at h
  dsimp only at h
  split at h
  case h_5 => cases h
  case h_1 | h_2 => cases h; rw [data]; rfl
  case h_3 | h_4 => cases h; rw [token]; rfl

/-- R43, R57, R351: a ready pop of an endpoint of the slot, by what stands at its own head. -/
theorem popForm_ready {s : State} {e : Nat} {wr : RegSet} {put : Beat → Thread → Thread} {none_ : Option (Thread → Thread)}
    (hr : s.me.notReady wr = false) (hm : Mine s e false) (hc : (s.me.bight.live.inter wr).first = none) :
    popForm e wr put none_ s = match privateHead s e with
      | some b =>
        if b.isMarker then meetMarker s (.ofNat 16 b.data.toNat) .spop
        else if 16 ≤ Assoc.getD s.me.bight.pops e 0 then raiseFree s 0x0A
        else s.mapMe (fun t => (put b { t with bight := (t.bight.wrote wr).pop e }).next)
      | none => match none_ with
        | some f => s.mapMe (fun t => (f { t with bight := t.bight.wrote wr }).next)
        | none => if 16 ≤ Assoc.getD s.me.bight.pops e 0 then raiseFree s 0x0A else waitAs .spop s := by
  unfold popForm
  rw [hr, strandCheck_mine hm]
  dsimp only
  rw [hc]
  rfl

end Sys2Proof.Machine

open Sys2Proof Sys2Proof.Machine Sys2Proof.Safety Sys2Proof.Claims

/-- Settles O41: every push is one `pushForm`, every pop one `popForm`, by what stands at the own head. -/
theorem strandResult : Obligations.StrandResult := by
  refine ⟨fun s i e rd data pred rule ready => ?_, fun s i e wr put none_ rule ready mine clear => ?_⟩
  · obtain ⟨b, exec_, beat⟩ := exec_of_pushRule rule
    rw [exec_]
    exact ⟨fun mine few few' => ⟨b, congrArg _ (pushForm_ready ready mine few few'), beat⟩, fun other => congrArg _ (pushForm_other ready other)⟩
  · rw [exec_of_popRule rule, popForm_ready ready mine clear]
    refine ⟨fun b head beat few => ?_, fun empty => ⟨fun f some_ => ?_, fun waits few => ?_⟩⟩
    · rw [show privateHead s e = some b from head]
      dsimp only
      rw [beat, if_neg Bool.false_ne_true, if_neg (by omega)]
      rfl
    · rw [show privateHead s e = none from empty, some_]
    · rw [show privateHead s e = none from empty, waits]
      dsimp only
      rw [if_neg (by omega)]
      rfl
end

section
/-! PROOF. O42, of spec/11_isa_fabric.md: the issue of engine commands. -/

namespace Sys2Proof.Machine
open Sys2Proof.Safety Sys2Proof.Claims Sys2Proof.Tests

/-- The commands that wait in queue q of the running slot after an instruction. -/
def waitingAfter (q : Nat) : Out → Nat
  | .next t => (t.me.queue q).waiting.length
  | _ => 0

/-- R316: a command that stands last in its queue is one more that waits. -/
theorem waitingAfter_issued (s : State) (q : Nat) (c : Cmd) :
    waitingAfter q (.next (s.mapMe (fun t => doneAt ((knotted t t.pc).mapQueue q (fun x => { x with waiting := x.waiting ++ [c] })) 0 0))) =
      (s.me.queue q).waiting.length + 1 := by
  have entered (t : Thread) : ((doneAt (t.mapQueue q (fun x => { x with waiting := x.waiting ++ [c] })) 0 0).queue q).waiting =
      (t.queue q).waiting ++ [c] := congrArg Queue.waiting (Vector.getElem_set_self _)
  show (((s.mapMe _).me).queue q).waiting.length = _
  rw [State.me_mapMe, entered, List.length_append]
  rfl

end Sys2Proof.Machine

open Sys2Proof Sys2Proof.Machine Sys2Proof.Safety Sys2Proof.Claims Sys2Proof.Tests

/-- Refutes O42: the statement's window of PLANELD, which may stand in any address space, takes address 0, a global one, and R326 refuses it
with ADDRESS, so that no command enters the queue. -/
theorem not_engineIssue : ¬ Obligations.EngineIssue := by
  intro ⟨issues, _⟩
  have ready : (slot id).me.notReady ((RegSet.s1 0).or (RegSet.s1 0)) = false := by decide +kernel
  have room : ((slot id).me.queue 2).waiting.length = 0 := by decide +kernel
  have quiet : Quiet (slot id) := by unfold Quiet; decide +kernel
  obtain ⟨issued, -, -⟩ := issues (slot id) (.planeld 0 false 0 0) 2 (RegSet.s1 0) [0] _ rfl ready
  obtain ⟨c, e, -⟩ := issued (by rw [room]; decide) (by decide +kernel) quiet
  have waits : waitingAfter 2 (exec (.planeld 0 false 0 0) (slot id)) = 0 := by decide +kernel
  rw [e, waitingAfter_issued, room] at waits
  cases waits
end

section
/-! PROOF. O44, of spec/04_storage.md: the bank controller. -/

namespace Sys2Proof.Machine
open Sys2Proof.Safety Sys2Proof.Claims

/-! ### Changes of a tile by what stands in it -/

/-- A change of a tile is its value there. -/
theorem mapTile_congr {s : State} {i : Nat} {f g : Tile → Tile} (h : f (s.tile i) = g (s.tile i)) : s.mapTile i f = s.mapTile i g :=
  congrArg (s.setTile i) h

/-- A change of a bank is its value there. -/
theorem mapBank_congr {s : State} {i b : Nat} {f g : Bank → Bank} (h : f ((s.tile i).bank b) = g ((s.tile i).bank b)) :
    s.mapTile i (fun t => t.mapBank b f) = s.mapTile i (fun t => t.mapBank b g) :=
  mapTile_congr (congrArg (fun x => { s.tile i with banks := Assoc.set (s.tile i).banks b x }) h)

/-- The bank that was changed. -/
theorem bank_mapBank_same (t : Tile) (b : Nat) (f : Bank → Bank) : (t.mapBank b f).bank b = f (t.bank b) := Assoc.getD_set_same _ _ _ _

/-! ### Refresh and activates (R110 to R114) -/

/-- R114: a refresh falls due at the multiples of T_REFI. -/
theorem refreshNow_due {s : State} (h0 : s.cycle ≠ 0) (h : s.cycle.toNat % Config.tRefi = 0) : refreshNow s = true := by
  rw [refreshNow, h, bne_iff_ne.2 h0]; rfl

/-- R114: a due refresh changes its bank alone. -/
theorem execRefreshDue_due {s : State} {tile bank : Nat} (h : refreshNow s = true) :
    exec (.refreshDue tile bank) s = .next (s.mapTile tile (fun t => t.mapBank bank (fun b =>
      if b.row.isSome then if b.owed < 8 then { b with owed := b.owed + 1 } else takeBank s.cycle.toNat b
      else { b with busyTill := max b.busyTill s.cycle.toNat + Config.tRfc }))) := by
  show Host.Outcome.next (if !refreshNow s then s else _) = _
  rw [h]
  rfl

/-! ### Region-form transfers (R101, R322) -/

/-- R111: of hazards that are all clear none is worse. -/
theorem worstHazard_clear {l : List (Nat × Hazard)} (h : ∀ x ∈ l, x.2 = .clear) : worstHazard l = (0, .clear) := by
  unfold worstHazard
  induction l with
  | nil => rfl
  | cons x l ih =>
    rw [List.foldl_cons, h x (List.mem_cons_self ..)]
    exact ih (fun y m => h y (List.mem_cons_of_mem x m))

/-- R101, R111: a grant and a transfer on a bus leave what of tile memory is poisoned. -/
theorem tmemPoison_foldl {α : Type} {f : State → α → State} (hf : ∀ s a, (f s a).tpoison = s.tpoison ∧ (f s a).tbad = s.tbad) (l : List α) (s : State)
    (key n : Nat) : tmemPoison (l.foldl f s) key n = tmemPoison s key n := by
  induction l generalizing s with
  | nil => rfl
  | cons a l ih =>
    obtain ⟨poison, bad⟩ := hf s a
    rw [List.foldl_cons, ih, tmemPoison, poison, bad]
    rfl

theorem portRow_poison (s : State) (tile off : Nat) : (portRow s tile off).tpoison = s.tpoison ∧ (portRow s tile off).tbad = s.tbad := by
  unfold portRow State.mapPorts
  split
  · exact ⟨rfl, rfl⟩
  · exact ⟨rfl, rfl⟩

/-- R322: a ROWPUT of a region performed, its windows free of poison. -/
theorem rowPerform_put {s : State} {th : Nat} {a : Active} {tiles : List Nat}
    (h : ∀ i ∈ tiles, tmemPoison s (2 ^ 18 * i + a.cmd.vb.toNat % 2 ^ 18) 3072 = false) :
    rowPerform s th a .put tiles = finish (tiles.foldl (putRow (agCmd s th a.cmd) a.cmd.va a.cmd.vb)
      (moved (tiles.foldl busTaken (tiles.foldl (fun s i => portRow s i (a.cmd.vb.toNat % 2 ^ 18)) s)) (s.thread th).graph)) th 2 0 a
      (s.cycle.toNat + Config.tTake - 1) := by
  have clean : tiles.any (fun i => tmemPoison (moved (tiles.foldl busTaken (tiles.foldl (fun s i => portRow s i (a.cmd.vb.toNat % 2 ^ 18)) s))
      (s.thread th).graph) (tmemKey i (a.cmd.vb.toNat % 2 ^ 18)) 3072) = false := by
    rw [List.any_eq_false]
    intro i m
    have same := (tmemPoison_foldl (fun s a => ⟨rfl, rfl⟩) tiles (tiles.foldl (fun s i => portRow s i (a.cmd.vb.toNat % 2 ^ 18)) s)
      (tmemKey i (a.cmd.vb.toNat % 2 ^ 18)) 3072 (f := busTaken)).trans
      (tmemPoison_foldl (fun s i => portRow_poison s i _) tiles s (tmemKey i (a.cmd.vb.toNat % 2 ^ 18)) 3072)
    rw [show tmemPoison (moved _ _) _ _ = _ from same, show tmemPoison s (tmemKey i _) 3072 = false from h i m]
    exact Bool.false_ne_true
  unfold rowPerform
  simp only [RowAct.windowed, RowAct.transfers, if_true]
  rw [clean, if_neg Bool.false_ne_true, Bool.or_false]

/-- R110: the row of an operand. -/
theorem rowRow_eq (v : Word) : rowRow v = v.toNat % 2 ^ 11 := congrArg (· % 2 ^ 11) (Nat.div_one v.toNat)

/-- R322: a ROWPUT of a region whose rows and windows are clear is performed. -/
theorem rowTry_put {s : State} {th : Nat} {a : Active} {tiles : List Nat} (form : formTiles s th true = some tiles)
    (clear : ∀ i ∈ tiles, rowHazard s.cycle.toNat (rowRow a.cmd.va) true (s.tile i) ((s.tile i).bank (rowBank a.cmd.va)) = .clear)
    (free : ∀ i ∈ tiles, portHeld s i 11 (a.cmd.vb.toNat % 2 ^ 18) 3072 = false) : rowTry s th a .put true = rowPerform s th a .put tiles := by
  unfold rowTry
  rw [form]
  dsimp only
  rw [worstHazard_clear]
  · have none_ : tiles.any (fun i => portHeld s i 11 (a.cmd.vb.toNat % 2 ^ 18) 3072) = false :=
      List.any_eq_false.2 (fun i m => by rw [free i m]; exact Bool.false_ne_true)
    dsimp only
    rw [none_, Bool.and_false]
    rfl
  · intro x m
    obtain ⟨i, mem, rfl⟩ := List.mem_map.1 m
    exact clear i mem

/-! ### Retired rows (R456) -/

/-- R456: a retired row takes the next spare of its bank. -/
theorem remapRow_spare {s : State} {tile bank row : Nat} (h : ((s.tile tile).bank bank).used < 32) (first : Nat) :
    remapRow s tile bank row first =
      (record s (Rec.plain 0x0B tile none 1 (wd (2048 * bank + row)) (wd first))).mapTile tile (fun t =>
        { t.mapBank bank (fun x => takeBank s.cycle.toNat
            { x with remap := Assoc.set x.remap row x.used, used := x.used + 1 }) with
          spares := if ((s.tile tile).bank bank).used = 31 then t.spares ||| (1#32 <<< bank) else t.spares }) := by
  dsimp only [remapRow]
  rw [decide_eq_false (Nat.not_le.2 h), if_neg Bool.false_ne_true, if_neg Bool.false_ne_true]

/-- R456: with no spare left the retired row is recorded and nothing else. -/
theorem remapRow_full {s : State} {tile bank row : Nat} (h : 32 ≤ ((s.tile tile).bank bank).used) (first : Nat) :
    remapRow s tile bank row first = record s (Rec.plain 0x0B tile none (2 ^ 31 + 1) (wd (2048 * bank + row)) (wd first)) := by
  dsimp only [remapRow]
  rw [decide_eq_true h, if_pos rfl]
  rfl

end Sys2Proof.Machine

open Sys2Proof Sys2Proof.Machine Sys2Proof.Safety Sys2Proof.Claims

/-- Settles O44, step by step of the bank controller. -/
theorem bankSteps : Obligations.BankSteps := by
  intro s tile bank row b now put
  refine ⟨fun r since open_ late => ?_, fun nonzero due => ⟨fun closed => ?_, fun open_ few => ?_, fun open_ many => ?_⟩,
    fun r since forced done => ?_, fun free closed owed idle none_ => ?_, fun since waits first idle room => ?_, fun spare => ?_, fun full => ?_,
    fun th a x y k v tiles active_ begun notDone stands cmd form clear => ?_⟩
  · show Host.Outcome.next (match b.row with | some (_, since) => _ | none => _) = _
    rw [open_]
    exact congrArg _ (if_pos late)
  · rw [execRefreshDue_due (refreshNow_due nonzero due)]
    exact congrArg _ (mapBank_congr (if_neg (by rw [show ((s.tile tile).bank bank).row = none from closed]; decide)))
  · rw [execRefreshDue_due (refreshNow_due nonzero due)]
    exact congrArg _ (mapBank_congr ((if_pos open_).trans (if_pos few)))
  · rw [execRefreshDue_due (refreshNow_due nonzero due)]
    refine congrArg _ (mapBank_congr ((if_pos open_).trans ((if_neg (Nat.not_lt.2 many)).trans ?_)))
    obtain ⟨r, e⟩ := Option.isSome_iff_exists.1 open_
    rw [takeBank, show ((s.tile tile).bank bank).row = some r from e]
    rfl
  · show Host.Outcome.next (if b.forced.isSome then if now < b.busyTill then s else put (reactivate now) else _) = _
    rw [forced, Option.isSome_some, if_pos rfl, if_neg (Nat.not_lt.2 done)]
    refine congrArg _ (mapBank_congr ?_)
    rw [reactivate, show ((s.tile tile).bank bank).forced = some (r, since) from forced]
    simp only [Option.filter, decide_eq_true_eq]
  · show Host.Outcome.next (if b.forced.isSome then _ else if b.row.isNone && decide (0 < b.owed) && decide (b.busyTill ≤ now) && !actWaits s tile bank then _ else s) = _
    rw [free, closed, none_, decide_eq_true owed, decide_eq_true idle]
    rfl
  · have take : exec (.backgroundActivate tile bank) s = .next (s.mapTile tile (fun t =>
        { t.mapBank bank (fun b => { b with bgSince := none }) with bgActs := inWindowActs now t.bgActs ++ [now] })) := by
      show Host.Outcome.next (match b.bgSince with | none => s | some since => _) = _
      rw [waits]
      refine congrArg _ (if_pos ?_)
      rw [decide_eq_true room, decide_eq_true (p := ((s.tile tile).bank bank).busyTill ≤ now) idle, Bool.true_and, Bool.and_true]
      rcases first with asked | none_
      · rw [decide_eq_true (p := since + Config.backgroundWait ≤ now) asked, Bool.true_or]
      · rw [List.any_eq_false.2 (fun k m => by rw [none_ k (List.mem_range.1 m)]; exact Bool.false_ne_true), Bool.not_false, Bool.or_true]
    refine ⟨_, take, ?_, ?_⟩
    · rw [State.tile_mapTile_same]
      show ((s.tile tile).mapBank bank (fun b => { b with bgSince := none })).bank bank = _
      exact bank_mapBank_same (s.tile tile) bank _
    · rw [State.tile_mapTile_same]
  · exact ⟨Rec.plain 0x0B tile none 1 (wd (2048 * bank + row)) (wd s.cycle.toNat), ⟨rfl, rfl, rfl⟩, congrArg Host.Outcome.next (remapRow_spare (row := row) spare s.cycle.toNat)⟩
  · exact ⟨Rec.plain 0x0B tile none (2 ^ 31 + 1) (wd (2048 * bank + row)) (wd s.cycle.toNat), ⟨rfl, rfl, rfl⟩, congrArg Host.Outcome.next (remapRow_full (row := row) full s.cycle.toNat)⟩
  · show Host.Outcome.next (match activeAt s th 2 0 with | some a => _ | none => _) = _
    rw [active_]
    refine congrArg _ ?_
    dsimp only
    rw [begun, notDone, stands, Bool.not_false, Bool.true_and, Bool.true_and, if_pos rfl, cmd]
    show rowTry s th a .put true = _
    rw [rowTry_put (a := a) form (fun i m => by rw [rowRow_eq]; exact (clear i m).1) (fun i m => (clear i m).2.1)]
    exact rowPerform_put (fun i m => (clear i m).2.2)
end

section
/-! PROOF. O45, of spec/05_strands_streams_image.md and spec/21_errors_containment.md: endpoints and links. -/

namespace Sys2Proof.Machine
open Sys2Proof.Safety Sys2Proof.Claims

/-! ### What a change of tiles keeps -/

/-- A part of the tiles that is the same in two states. -/
def SameTiles {α : Type} (p : Tile → α) (s t : State) : Prop := ∀ i, p (t.tile i) = p (s.tile i)

theorem SameTiles.refl {α : Type} (p : Tile → α) (s : State) : SameTiles p s s := fun _ => rfl

theorem SameTiles.trans {α : Type} {p : Tile → α} {s t r : State} (h : SameTiles p s t) (k : SameTiles p t r) : SameTiles p s r :=
  fun i => (k i).trans (h i)

theorem SameTiles.of_tiles {α : Type} (p : Tile → α) {s t : State} (h : t.tiles = s.tiles) : SameTiles p s t :=
  fun i => by rw [State.tile, h]; rfl

theorem SameTiles.mapTile {α : Type} {p : Tile → α} (s : State) (i : Nat) {f : Tile → Tile} (hf : ∀ t, p (f t) = p t) :
    SameTiles p s (s.mapTile i f) := by
  intro k
  rw [State.tile_mapTile]
  split
  · next e => rw [hf, e]
  · rfl

theorem SameTiles.foldl {α β : Type} {p : Tile → α} (l : List β) {f : State → β → State} (hf : ∀ s b, SameTiles p s (f s b)) (s : State) :
    SameTiles p s (l.foldl f s) := by
  induction l generalizing s with
  | nil => exact SameTiles.refl p s
  | cons b l ih => exact (hf s b).trans (ih (f s b))

/-! ### Sectors read by the device (R143, R446) -/

/-- A part of a tile that its banks, its spares and its counts of events are no part of. -/
def OffBanks {α : Type} (p : Tile → α) : Prop := ∀ (t : Tile) b sp ta, p { t with banks := b, spares := sp, tallies := ta } = p t

section
variable {α : Type} {p : Tile → α} (off : OffBanks p)
include off

theorem remapRow_tiles (s : State) (tile bank row first : Nat) : SameTiles p s (remapRow s tile bank row first) := by
  have logged (r : Rec) : SameTiles p s (record s r) := SameTiles.of_tiles _ (record_logged s r).tiles
  dsimp only [remapRow]
  split
  · exact logged _
  · exact (logged _).trans (SameTiles.mapTile _ tile (fun t => off t _ _ t.tallies))

theorem tallyNote_tiles (s : State) (tile kind unit : Nat) : SameTiles p s (tallyNote s tile kind unit) :=
  SameTiles.mapTile s tile (fun t => off t t.banks t.spares _)

theorem tallyDrop_tiles (s : State) (tile kind unit : Nat) : SameTiles p s (tallyDrop s tile kind unit) :=
  SameTiles.mapTile s tile (fun t => off t t.banks t.spares _)

theorem rowEvent_tiles (s : State) (key : Nat) (now : Bool) : SameTiles p s (rowEvent s key now) := by
  dsimp only [rowEvent]
  split
  · exact (tallyDrop_tiles off s _ _ _).trans (remapRow_tiles off _ _ _ _ _)
  · split
    · exact (tallyDrop_tiles off s _ _ _).trans (remapRow_tiles off _ _ _ _ _)
    · exact tallyNote_tiles off s _ _ _

omit off in
theorem setSector_tiles (s : State) (k : Nat) (x : Sector) : (s.setSector k x).tiles = s.tiles := (setSector_written s k x).logged.tiles

omit off in
theorem poisonSector_tiles (s : State) (k tag cls : Nat) : SameTiles p s (poisonSector s k tag cls) :=
  SameTiles.of_tiles _ ((record_logged _ _).tiles.trans (setSector_tiles s.draw _ _))

theorem loseSector_tiles (s : State) (k tag : Nat) : SameTiles p s (loseSector s k tag) :=
  (poisonSector_tiles s k tag 1).trans (rowEvent_tiles off _ _ _)

theorem readSector_tiles (s : State) (k tag : Nat) (counts : Bool) : SameTiles p s (readSector s k tag counts).1 := by
  dsimp only [readSector]
  split
  · exact SameTiles.refl _ s
  · exact poisonSector_tiles s k tag 2
  · exact loseSector_tiles off s k tag
  · split
    · have put := SameTiles.of_tiles p (setSector_tiles s k { s.sector k with cond := .clean })
      split
      · exact put.trans (rowEvent_tiles off _ _ _)
      · exact put
    · exact loseSector_tiles off s k tag
  · exact SameTiles.refl _ s

theorem readEach_tiles (s : State) (ks : List Nat) (tag : Nat → Nat) : SameTiles p s (readEach s ks tag).1 := by
  have key (l : List (Nat × Nat)) (f : Nat × Nat → Bool) (acc : State × List Nat) :
      SameTiles p acc.1 (l.foldl (fun (acc : State × List Nat) x =>
        ((readSector acc.1 x.1 (tag x.1) (f x)).1, acc.2 ++ [(readSector acc.1 x.1 (tag x.1) (f x)).2])) acc).1 := by
    induction l generalizing acc with
    | nil => exact SameTiles.refl _ _
    | cons x l ih => exact (readSector_tiles off acc.1 x.1 _ _).trans (ih _)
  exact key _ _ _

theorem coilActivate_tiles (s : State) (tile g j : Nat) (first : Bool) : SameTiles p s (coilActivate s tile g j first) := by
  unfold coilActivate
  split
  · exact SameTiles.refl _ s
  · exact SameTiles.mapTile s tile (fun t => off t _ t.spares t.tallies)

theorem coilRead_tiles (s : State) (tile g j : Nat) (b : Beat) : SameTiles p s (coilRead s tile g j b).1 := by
  have read := readEach_tiles off s [coilKey s tile g j / 32, coilKey s tile g j / 32 + 1] (fun _ => 0)
  dsimp only [coilRead]
  split
  · exact read
  · split
    · exact read
    · exact read.trans (SameTiles.of_tiles _ rfl)

end

/-! ### Retired routers stay retired (R453) -/

theorem mapPending_tiles (s : State) (g : Nat) (f : Snap → Snap) : (mapPending s g f).tiles = s.tiles := rfl

theorem recordLate_frame (s : State) (g tile e : Nat) (b : Beat) :
    (recordLate s g tile e b).tiles = s.tiles ∧ (recordLate s g tile e b).flights = s.flights := by
  unfold recordLate
  split
  · split
    · exact ⟨rfl, rfl⟩
    · exact ⟨rfl, rfl⟩
  · exact ⟨rfl, rfl⟩

theorem coilWrite_tiles (s : State) (tile g j : Nat) (b : Beat) : (coilWrite s tile g j b).tiles = s.tiles := by
  unfold coilWrite
  exact ((setSector_written _ _ _).trans (setSector_written _ _ _)).logged.tiles

theorem coilPut_router (s : State) (tile g e : Nat) (b : Beat) : SameTiles Tile.routerRetired s (coilPut s tile g e b) := by
  unfold coilPut
  dsimp only
  exact ((SameTiles.of_tiles _ (coilWrite_tiles s tile g _ b)).trans (coilActivate_tiles (fun _ _ _ _ => rfl) _ tile g _ _)).trans (SameTiles.mapTile _ tile (fun t => rfl))

theorem arriveBeat_router {s t : State} {g tile e : Nat} {b : Beat} (h : arriveBeat s g tile e b = some t) : SameTiles Tile.routerRetired s t := by
  dsimp only [arriveBeat] at h
  have late (u : State) : SameTiles Tile.routerRetired u (recordLate u g tile e b) := SameTiles.of_tiles _ (recordLate_frame u g tile e b).1
  split at h
  · split at h
    · exact Option.some.inj h ▸ late s
    · exact nomatch h
  · rw [← Option.some.inj h]
    refine SameTiles.trans ?_ (late _)
    refine SameTiles.trans ?_ (SameTiles.mapTile (p := Tile.routerRetired) _ tile (fun t => rfl))
    split
    · exact SameTiles.mapTile (p := Tile.routerRetired) s tile (fun t => rfl)
    · exact coilPut_router s tile g e b

theorem loseEdge_router (s : State) (x : Nat × Nat) : SameTiles Tile.routerRetired s (loseEdge s x) := by
  unfold loseEdge
  split
  · exact SameTiles.refl _ s
  · dsimp only
    generalize arrived : arriveBeat _ _ _ _ _ = o
    cases o with
    | none =>
      rw [Option.getD_none]
      exact SameTiles.mapTile s.draw x.1 (fun t => rfl)
    | some t => exact arriveBeat_router (s := s.draw) arrived

/-- R453: a retired router is out of service. -/
theorem retireRouter_retired (s : State) (tile : Nat) : ((retireRouter s tile).tile tile).routerRetired = true := by
  have lost (l : List (Nat × Nat)) (u : State) : SameTiles Tile.routerRetired u (l.foldl loseEdge u) := SameTiles.foldl l loseEdge_router u
  have told (l : List Nat) (u : State) : SameTiles Tile.routerRetired u (l.foldl (fun s g => trigger s g 0x0B) u) :=
    SameTiles.foldl l (fun s g => SameTiles.of_tiles (t := trigger s g 0x0B) _ rfl) u
  refine (((lost _ _).trans (told _ _)) tile).trans ?_
  rw [State.tile_mapTile_same]

/-! ### Endpoints of a tile -/

theorem ep_mapEp (t : Tile) (e d : Nat) (f : Endpoint → Endpoint) : (t.mapEp e f).ep d = if e = d then f (t.ep e) else t.ep d := Assoc.getD_set _ _ _ _ _

theorem ep_mapEp_same (t : Tile) (e : Nat) (f : Endpoint → Endpoint) : (t.mapEp e f).ep e = f (t.ep e) := Assoc.getD_set_same _ _ _ _

theorem ep_congr {t u : Tile} (h : t.eps = u.eps) {e : Nat} : t.ep e = u.ep e := by
  unfold Tile.ep
  rw [h]

/-- A change of an endpoint that leaves a part of it leaves that part of all. -/
theorem mapEp_keeps {α : Type} (p : Endpoint → α) (t : Tile) (e d : Nat) {f : Endpoint → Endpoint} (hf : ∀ x, p (f x) = p x) :
    p ((t.mapEp e f).ep d) = p (t.ep d) := by
  rw [ep_mapEp]
  split
  · next h => rw [hf, h]
  · rfl

/-- An endpoint of a tile that was changed there. -/
theorem ep_mapTile_mapEp (s : State) (tile e : Nat) (f : Endpoint → Endpoint) :
    ((s.mapTile tile (fun t => t.mapEp e f)).tile tile).ep e = f ((s.tile tile).ep e) := by
  rw [State.tile_mapTile_same, ep_mapEp_same]

/-- A part of a tile that an endpoint e is in by its queue alone. -/
def QueuesOf {α : Type} (e : Nat) (p : Tile → α) : Prop := ∀ (t : Tile) (f : Endpoint → Endpoint), (∀ x, (f x).q = x.q) → p (t.mapEp e f) = p t

theorem queuesOf_ep (e d : Nat) : QueuesOf e (fun t => (t.ep d).q) := fun t _ hf => mapEp_keeps Endpoint.q t e d hf

/-! ### Arrivals (R131, R157) -/

theorem QueuesOf.mapTile {α : Type} {e : Nat} {p : Tile → α} (h : QueuesOf e p) {s u : State} {tile : Nat} {f : Endpoint → Endpoint}
    (tiles : u.tiles = (s.mapTile tile (fun t => t.mapEp e f)).tiles) (hf : ∀ x, (f x).q = x.q) : SameTiles p s u :=
  (SameTiles.mapTile s tile (fun t => h t f hf)).trans (SameTiles.of_tiles _ tiles)

theorem returnMine_tiles {α : Type} {e : Nat} {p : Tile → α} (h : QueuesOf e p) (s : State) (tile : Nat) : SameTiles p s (returnMine s tile e) := by
  unfold returnMine
  dsimp only
  split
  · exact SameTiles.refl _ s
  · exact h.mapTile rfl (by intro x; rfl)

/-- R131: the permits that go back leave the queues. -/
theorem returnPermits_tiles {α : Type} {e : Nat} {p : Tile → α} (h : QueuesOf e p) (s : State) (tile : Nat) :
    SameTiles p s (returnPermits s tile e) := by
  have mine := returnMine_tiles h s tile
  unfold returnPermits
  generalize returnMine s tile e = u at mine
  dsimp only
  split
  · split
    · exact mine
    · exact mine.trans (h.mapTile rfl (by intro x; rfl))
  · exact mine

theorem returnMine_flights (s : State) (tile e : Nat) : (returnMine s tile e).flights = s.flights := by
  unfold returnMine
  dsimp only
  split
  · rfl
  · rfl

/-- R131: the permits that go back leave the beats under way. -/
theorem returnPermits_flights (s : State) (tile e : Nat) : (returnPermits s tile e).flights = s.flights := by
  have mine := returnMine_flights s tile e
  unfold returnPermits
  generalize returnMine s tile e = u at mine
  dsimp only
  split
  · split
    · exact mine
    · exact mine
  · exact mine

/-- R131: an ordinary beat at an endpoint that keeps no coil joins its queue. -/
theorem arriveBeat_queue {s : State} {g tile e : Nat} {b : Beat} (h : ((s.tile tile).ep e).spills = false) :
    ∃ t, arriveBeat s g tile e b = some t ∧ t.flights = s.flights ∧ ((t.tile tile).ep e).q = ((s.tile tile).ep e).q ++ [b] := by
  have accepts : coilAccepts ((s.tile tile).ep e) = true := by rw [coilAccepts, h]; rfl
  let put : State := (s.mapTile tile (fun t => t.mapEp e (fun p => { p with q := p.q ++ [b] }))).mapTile tile (fun t =>
    t.mapEp e (fun p => { p with came := p.came + 1 }))
  obtain ⟨tiles, flights⟩ := recordLate_frame put g tile e b
  refine ⟨recordLate put g tile e b, ?_, flights, ?_⟩
  · dsimp only [arriveBeat]
    rw [accepts, h, Bool.not_true, if_neg Bool.false_ne_true, Bool.not_false, Bool.true_or, if_pos rfl]
  · rw [State.tile, tiles]
    show ((State.tile _ tile).ep e).q = _
    rw [ep_mapTile_mapEp, ep_mapTile_mapEp]

/-! ### Coil lines (R143) -/

theorem coilActivate_sector (s : State) (tile g j : Nat) (first : Bool) : (coilActivate s tile g j first).sector = s.sector ∧
    (coilActivate s tile g j first).vault = s.vault ∧ coilKey (coilActivate s tile g j first) = coilKey s := by
  unfold coilActivate
  split
  · exact ⟨rfl, rfl, rfl⟩
  · exact ⟨rfl, rfl, rfl⟩

/-- R143: a marker is not lost. -/
theorem coilRead_marker {s : State} {tile g j : Nat} {b : Beat} (h : b.isMarker = true) : (coilRead s tile g j b).2 = b := by
  dsimp only [coilRead]
  rw [if_pos h]

/-- R143: a beat read from the clean sectors of its coil line, under tag 0. -/
theorem coilRead_clean {s : State} {tile g j : Nat} {b : Beat} (h : b.isMarker = false)
    (clean : ∀ i, i < 2 → (s.sector (coilKey s tile g j / 32 + i)).cond = .clean ∧ (s.sector (coilKey s tile g j / 32 + i)).tag = 0) :
    (coilRead s tile g j b).2 = coilBeat (Memory.readBytes s.vault (coilKey s tile g j) 64) := by
  have mem (k : Nat) (m : k ∈ [coilKey s tile g j / 32, coilKey s tile g j / 32 + 1]) : (s.sector k).cond = .clean ∧ (s.sector k).tag.toNat = 0 := by
    rcases List.mem_cons.1 m with e | m
    · rw [e]
      have first := clean 0 (by decide)
      rw [Nat.add_zero] at first
      exact first.imp id (congrArg BitVec.toNat)
    · rw [List.mem_singleton.1 m]
      exact (clean 1 (by decide)).imp id (congrArg BitVec.toNat)
  have read := readSectors_tagged (tag := 0) (fun k m => (mem k m).1) (fun k m => (mem k m).2)
  rw [readSectors] at read
  dsimp only [coilRead]
  rw [h, if_neg Bool.false_ne_true, if_pos (congrArg Prod.snd read)]

/-- R143: the fields of the beat in a coil line. -/
theorem coilBeat_read (m : Memory) (k : Nat) :
    (coilBeat (Memory.readBytes m k 64)).data.toNat = littleEndian (Memory.readBytes m k 32) ∧
    (coilBeat (Memory.readBytes m k 64)).pred.toNat = (Memory.read m (k + 32)).toNat ∧
    (coilBeat (Memory.readBytes m k 64)).kind.toNat = (Memory.read m (k + 33)).toNat / 64 ∧
    (coilBeat (Memory.readBytes m k 64)).tag.toNat = (Memory.read m (k + 33)).toNat % 64 := by
  have data : (Memory.readBytes m k 64).take 32 = Memory.readBytes m k 32 := rfl
  have pred : ((Memory.readBytes m k 64).drop 32).take 1 = [Memory.read m (k + 32)] := rfl
  have mark : ((Memory.readBytes m k 64).drop 33).take 1 = [Memory.read m (k + 33)] := rfl
  have one (b : Byte) : leNat [b] = b.toNat := Nat.add_zero _
  have bound := leNat_lt (Memory.readBytes m k 32)
  have small := (Memory.read m (k + 33)).isLt
  rw [show (Memory.readBytes m k 32).length = 32 from rfl] at bound
  dsimp only [coilBeat]
  rw [data, pred, mark, one, one, littleEndian_eq]
  refine ⟨Nat.mod_eq_of_lt bound, Nat.mod_eq_of_lt (Memory.read m (k + 32)).isLt, Nat.mod_eq_of_lt ?_, rfl⟩
  omega

/-- R131, R139, R147: an output endpoint after it has sent its head beat for a permit. -/
def sentHead (now f : Nat) (b : Beat) (rest : List Beat) (p : Endpoint) : Endpoint :=
  { p.counted [b] with
    q := rest, permits := p.permits - 1, stamp := if EpF.taggen f then p.stamp + 1 else p.stamp, idle := now, stall := p.stall.fire }

/-- R131: an output endpoint on the mesh sends its head beat for one permit. -/
theorem fireOutput_beat {s : State} {g tile e f : Nat} {b : Beat} {rest : List Beat} (queue : ((s.tile tile).ep e).q = b :: rest)
    (open_ : ((s.tile tile).ep e).gated = false) (awake : ((s.tile tile).ep e).wakeAt ≤ s.cycle.toNat) (ordinary : b.isMarker = false)
    (permit : 0 < ((s.tile tile).ep e).permits) (mesh : EpF.toPort f = false) :
    fireOutput s g tile e f =
      moved (launchBeat (s.mapTile tile (fun t => t.mapEp e (sentHead s.cycle.toNat f b rest))) g tile e f (stamped f ((s.tile tile).ep e) b)) g := by
  unfold fireOutput
  dsimp only
  rw [queue]
  dsimp only
  have able : (decide (0 < ((s.tile tile).ep e).permits) &&
      !(EpF.toPort f && EpF.attach f == 0 && contained (s.graph g) && !egressRoom s (EpF.port f))) = true := by
    rw [decide_eq_true permit, mesh]
    rfl
  rw [open_, if_neg Bool.false_ne_true, if_neg (Nat.not_lt.2 awake), ordinary, if_neg Bool.false_ne_true, if_pos able]
  rfl

/-- R130: the beat of an output endpoint as it starts on the mesh. -/
def launched (s : State) (g tile e f : Nat) (b : Beat) : Flight where
  srcTile := tile
  srcEp := e
  dstTile := (destOf s g e f).1
  dstEp := (destOf s g e f).2
  ctx := (claimEp (s.tile tile) e).getD 0
  at_ := tile
  due := s.cycle.toNat
  beat := b

theorem launchBeat_mesh {s : State} {g tile e f : Nat} {b : Beat} (mesh : EpF.toPort f = false) :
    launchBeat s g tile e f b = { s with flights := s.flights ++ [launched s g tile e f b] } := by
  unfold launchBeat
  rw [mesh, if_neg Bool.false_ne_true]
  rfl

/-- R139: a beat as it is sent differs in its tag alone. -/
theorem stamped_eq (f : Nat) (p : Endpoint) (b : Beat) : stamped f p b = { b with tag := if EpF.taggen f then p.stamp else b.tag } := by
  unfold stamped
  split
  · rfl
  · rfl

/-- R453: a beat absorbed before a retired router. -/
theorem absorb_frame (s : State) (x : Flight) : (absorb s x).flights = s.flights.erase x ∧
    (absorb s x).permits.length = (s.permits.length + if x.beat.isMarker then 0 else 1) ∧
    ((absorb s x).tile x.at_).absorbed = (s.tile x.at_).absorbed + 1 := by
  have tile : ((({ s with flights := s.flights.erase x } : State).mapTile x.at_ (fun t => { t with absorbed := t.absorbed + 1 })).tile x.at_).absorbed =
      (s.tile x.at_).absorbed + 1 := by
    rw [State.tile_mapTile_same]
    rfl
  dsimp only [absorb]
  split
  · exact ⟨rfl, rfl, tile⟩
  · exact ⟨rfl, List.length_append, tile⟩

end Sys2Proof.Machine

open Sys2Proof Sys2Proof.Machine Sys2Proof.Safety Sys2Proof.Claims

/-- Settles O45, step by step. -/
theorem endpointSteps : Obligations.EndpointSteps := by
  intro s n tile e now p f
  refine ⟨fun x found away due => ?_, fun hit => ?_, fun x g found here due claimed ordinary plain first => ?_, fun x found due held => ?_,
    fun g b rest claimed out direct runs healthy free queue open_ awake ordinary permit mesh => ?_,
    fun g b rest claimed coil healthy low below => ?_, fun data claimed out empty idle => ?_, fun kind unit code k g held owner => ?_⟩
  · have step : exec (.meshHop n) s = .next (
        if (s.tile (nextHop x.at_ x.dstTile).1).routerRetired || (s.tile x.at_).routerRetired then absorb s x
        else if linkNext s x.at_ (nextHop x.at_ x.dstTile).1 ≠ some n then s
        else if x.flips then routerEvent { linkServed s x.at_ (nextHop x.at_ x.dstTile).1 x with
            flights := s.flights.set n { x with at_ := (nextHop x.at_ x.dstTile).1, due := now + (nextHop x.at_ x.dstTile).2, flips := false } }
            (nextHop x.at_ x.dstTile).1
          else { linkServed s x.at_ (nextHop x.at_ x.dstTile).1 x with
            flights := s.flights.set n { x with at_ := (nextHop x.at_ x.dstTile).1, due := now + (nextHop x.at_ x.dstTile).2, flips := false } }) := by
      show Host.Outcome.next (match s.flights[n]? with | none => s | some f => _) = _
      rw [found]
      exact congrArg _ (if_neg (fun h => h.elim away fun early => Nat.not_le.2 early due))
    refine ⟨fun there here turn => ?_, fun there here turn => ?_, fun full => ?_, fun lost => ?_⟩
    · rw [step, there, here, Bool.or_false, if_neg Bool.false_ne_true, if_neg (Decidable.not_not.2 turn)]
    · rw [step, there, here, Bool.or_false, if_neg Bool.false_ne_true, if_pos turn]
    · exact if_pos full
    · refine ⟨absorb s x, ?_, absorb_frame s x⟩
      rw [step, if_pos (Bool.or_eq_true_iff.2 lost)]
  · obtain ⟨first, e⟩ := Option.isSome_iff_exists.1 hit
    refine ⟨Rec.plain 0x0B tile none 2 0 (wd first), ⟨rfl, rfl, rfl⟩, ?_, retireRouter_retired s tile⟩
    rw [routerEvent, e]
  · obtain ⟨u, arrived, flights, queue⟩ := arriveBeat_queue (s := { s with flights := s.flights.eraseIdx n }) (g := g) (b := x.beat) plain
    refine ⟨returnPermits u x.dstTile x.dstEp, ?_, (returnPermits_flights u _ _).trans flights,
      (returnPermits_tiles (queuesOf_ep x.dstEp x.dstEp) u x.dstTile x.dstTile).trans queue⟩
    show Host.Outcome.next (match s.flights[n]? with | none => s | some f => _) = _
    rw [found]
    refine congrArg _ ((if_neg ?_).trans ?_)
    · rw [first]
      rintro (h | h | h)
      · exact h here
      · exact absurd due (Nat.not_le.2 h)
      · exact Bool.false_ne_true h
    · rw [claimed]
      dsimp only
      rw [ordinary, if_neg Bool.false_ne_true, arrived]
  · show Host.Outcome.next (match s.permits[n]? with | none => s | some x => _) = _
    rw [found]
    exact congrArg _ ((if_neg (Nat.not_lt.2 due)).trans (mapTile_congr (if_pos held)))
  · have run : exec (.outputEndpointFire tile e) s = .next (moved (launchBeat (s.mapTile tile (fun t => t.mapEp e (sentHead s.cycle.toNat f b rest)))
        g tile e f (stamped f p b)) g) := by
      show Host.Outcome.next (match epGraph (s.tile tile) e with | none => s | some g => _) = _
      rw [claimed]
      refine congrArg _ ((if_neg ?_).trans (fireOutput_beat queue open_ awake ordinary permit mesh))
      rw [show EpF.out (epFrame (s.tile tile) e) = true from out, direct, runs, show ((s.tile tile).ep e).fault = false from healthy,
        show cutStops s g ((s.tile tile).ep e).marker = false from free]
      decide
    rw [launchBeat_mesh mesh] at run
    have sent := ep_mapTile_mapEp s tile e (sentHead s.cycle.toNat f b rest)
    exact ⟨_, launched _ g tile e f (stamped f p b), run, rfl, rfl, stamped_eq f p b, congrArg Endpoint.q sent, congrArg Endpoint.permits sent⟩
  · have on : ((p.refill || decide (waitingBeats p ≤ p.lo)) && decide (waitingBeats p < p.hi)) = true := by
      rw [decide_eq_true low, decide_eq_true below, Bool.or_true]
      rfl
    let act := coilActivate s tile g (p.lines.headD 0) (!p.refill || p.lines.headD 0 == EpF.cbase f)
    obtain ⟨sector, vault, key⟩ := coilActivate_sector s tile g (p.lines.headD 0) (!p.refill || p.lines.headD 0 == EpF.cbase f)
    have off : OffBanks Tile.eps := fun _ _ _ _ => rfl
    have same := (coilActivate_tiles off s tile g (p.lines.headD 0) (!p.refill || p.lines.headD 0 == EpF.cbase f)).trans
      (coilRead_tiles off act tile g (p.lines.headD 0) b) tile
    have run : exec (.coilRefill tile e) s = .next ((coilRead act tile g (p.lines.headD 0) b).1.mapTile tile (fun t => t.mapEp e (fun p =>
        { p with q := p.q ++ [(coilRead act tile g ((s.tile tile).ep e |>.lines.headD 0) b).2], coil := rest, lines := p.lines.drop 1,
                 refill := !rest.isEmpty, spent := if (snapEntry s g tile e).isSome then p.spent + 1 else p.spent }))) := by
      show Host.Outcome.next (match epGraph (s.tile tile) e with | none => s | some g => _) = _
      rw [claimed]
      dsimp only
      rw [show ((s.tile tile).ep e).coil = b :: rest from coil, show ((s.tile tile).ep e).fault = false from healthy, Bool.false_or]
      refine congrArg _ (if_neg ?_)
      rw [show ((((s.tile tile).ep e).refill || decide (waitingBeats ((s.tile tile).ep e) ≤ ((s.tile tile).ep e).lo)) &&
        decide (waitingBeats ((s.tile tile).ep e) < ((s.tile tile).ep e).hi)) = true from on]
      decide
    refine ⟨_, (coilRead act tile g (p.lines.headD 0) b).2, run, ?_, ?_, coilRead_marker, fun ordinary clean => ?_⟩
    · rw [ep_mapTile_mapEp]
      exact congrArg (fun x : Endpoint => x.q ++ [(coilRead act tile g (p.lines.headD 0) b).2]) (ep_congr same)
    · rw [ep_mapTile_mapEp]
    · rw [coilRead_clean ordinary (by rw [sector, key]; exact clean), vault, key]
      exact coilBeat_read s.vault (coilKey s tile g (p.lines.headD 0))
  · show Host.Outcome.next (if 40 ≤ e then _ else if _ then s else if p.q.isEmpty && decide (p.idle + 256 ≤ now) then _ else _) = _
    rw [if_neg (Nat.not_le.2 data)]
    refine congrArg _ ((if_neg ?_).trans (if_pos ?_))
    · rw [show EpF.out (epFrame (s.tile tile) e) = true from out, Option.isNone_eq_false_iff.2 claimed]
      decide
    · rw [empty, decide_eq_true idle]
      rfl
  · have run : exec (.elementFault tile kind unit code) s = .next (match elementCtx (s.tile tile) kind unit with | none => s | some k => _) := rfl
    rw [held] at run
    dsimp only at run
    rw [owner] at run
    exact ⟨_, ⟨rfl, rfl, rfl⟩, run⟩
end

section
/-! PROOF. O46, of spec/05_strands_streams_image.md: the switch nodes. -/

namespace Sys2Proof.Machine
open Sys2Proof.Safety Sys2Proof.Claims

/-! ### Nodes and places of a tile -/

theorem node_mapNode (t : Tile) (n m : Nat) (f : Node → Node) : (t.mapNode n f).node m = if n = m then f (t.node n) else t.node m :=
  Assoc.getD_set _ _ _ _ _

theorem node_mapNode_same (t : Tile) (n : Nat) (f : Node → Node) : (t.mapNode n f).node n = f (t.node n) := Assoc.getD_set_same _ _ _ _

/-- A change of a node that leaves its inputs leaves the beats of all places. -/
theorem beatsAt_mapNode {t : Tile} {n : Nat} {f : Node → Node} (h : (f (t.node n)).inq = (t.node n).inq) (p : Spot) :
    beatsAt (t.mapNode n f) p = beatsAt t p := by
  cases p with
  | endpoint e => rfl
  | input m j =>
    show Assoc.getD ((t.mapNode n f).node m).inq j [] = Assoc.getD (t.node m).inq j []
    rw [node_mapNode]
    split
    · next e => rw [h, e]
    · rfl

/-- A change of an endpoint that leaves its queue leaves the beats of all places. -/
theorem beatsAt_mapEp {t : Tile} {e : Nat} {f : Endpoint → Endpoint} (h : (f (t.ep e)).q = (t.ep e).q) (p : Spot) :
    beatsAt (t.mapEp e f) p = beatsAt t p := by
  cases p with
  | input m j => rfl
  | endpoint d =>
    show ((t.mapEp e f).ep d).q = (t.ep d).q
    rw [ep_mapEp]
    split
    · next x => rw [h, x]
    · rfl

/-- Beats that stand in the same nodes and queues. -/
theorem beatsAt_congr {t u : Tile} (nodes : u.nodes = t.nodes) (queues : ∀ d, (u.ep d).q = (t.ep d).q) (p : Spot) : beatsAt u p = beatsAt t p := by
  cases p with
  | input m j =>
    show Assoc.getD (u.node m).inq j [] = Assoc.getD (t.node m).inq j []
    unfold Tile.node
    rw [nodes]
  | endpoint d => exact queues d

theorem ndFrame_congr {t u : Tile} (h : u.ctxs = t.ctxs) (n : Nat) : ndFrame u n = ndFrame t n := by
  simp only [ndFrame, claimNd, Tile.ctx, h]

theorem outSpot_congr {t u : Tile} (h : u.ctxs = t.ctxs) (n f j : Nat) : outSpot u n f j = outSpot t n f j := by
  simp only [outSpot, inputFrom, ndFrame_congr h]

/-- Table 5-13: an input of a node that names another node. -/
theorem inSpot_node {n f j : Nat} (h : namesNode (NdF.inp f j) = true) : inSpot n f j = .input n j := if_pos (of_decide_eq_true h)

theorem inSpot_endpoint {n f j : Nat} (h : namesNode (NdF.inp f j) = false) : inSpot n f j = .endpoint (nodeEp (NdF.kind f) true (NdF.inp f j)) := by
  rw [inSpot, if_neg (of_decide_eq_false h), nodeEp]
  simp only [true_and]

/-- Table 5-13: an output of a node that names another node. -/
theorem outSpot_node {t : Tile} {n f j : Nat} (h : namesNode (NdF.outp f j) = true) :
    outSpot t n f j = .input (NdF.outp f j % 8) (inputFrom t (NdF.outp f j % 8) n) := if_pos (of_decide_eq_true h)

theorem outSpot_endpoint {t : Tile} {n f j : Nat} (h : namesNode (NdF.outp f j) = false) : outSpot t n f j = .endpoint (NdF.outp f j % 32) :=
  if_neg (of_decide_eq_false h)

/-! ### A node takes a beat (R135) -/

/-- What a tile t becomes as a beat is taken at a place p: of its nodes inputs, gates and counts of errors alone change, and of the other
places nothing. -/
structure Took (t u : Tile) (p : Spot) : Prop where
  ctxs : u.ctxs = t.ctxs
  beats : ∀ q, beatsAt u q = if q = p then (beatsAt t q).drop 1 else beatsAt t q
  node : ∀ m, ∃ q e g, u.node m = { t.node m with inq := q, errors := e, gates := g }
  permits : ∀ d, Spot.endpoint d ≠ p → (u.ep d).permits = (t.ep d).permits

theorem takesIn_eq (x : Node) (b : Option Beat) : ∃ e, x.takesIn b = { x with errors := e } := by
  unfold Node.takesIn
  split
  · exact ⟨_, rfl⟩
  · exact ⟨x.errors, rfl⟩

/-- The parts of a tile that the freeing of a slot of endpoint e leaves. -/
def afterTake (e : Nat) (t : Tile) : Vector Ctx 4 × Assoc Node × (Nat → List Beat) × (Nat → Nat) :=
  (t.ctxs, t.nodes, fun d => (t.ep d).q, fun d => if d = e then 0 else (t.ep d).permits)

theorem queuesOf_afterTake (e : Nat) : QueuesOf e (afterTake e) := by
  intro t f hf
  refine Prod.ext rfl (Prod.ext rfl (Prod.ext (funext fun d => mapEp_keeps Endpoint.q t e d hf) (funext fun d => ?_)))
  show (if d = e then 0 else ((t.mapEp e f).ep d).permits) = if d = e then 0 else (t.ep d).permits
  rw [ep_mapEp]
  split
  · rfl
  · next h => rw [if_neg (Ne.symm h)]

theorem recordLate_tiles (s : State) (g tile e : Nat) (b : Beat) : (recordLate s g tile e b).tiles = s.tiles := (recordLate_frame s g tile e b).1

theorem recordTaken_tiles (s : State) (g tile e : Nat) : (recordTaken s g tile e).tiles = s.tiles := by
  unfold recordTaken
  dsimp only
  split
  · split
    · exact recordLate_tiles _ _ _ _ _
    · rfl
  · rfl

theorem took_endpoint {t u : Tile} {n e : Nat} {b : Option Beat} {h : Endpoint → Endpoint} (hq : (h (t.ep e)).q = (t.ep e).q.drop 1)
    (same : afterTake e u = afterTake e ((t.mapNode n (fun x => x.takesIn b)).mapEp e h)) : Took t u (.endpoint e) := by
  obtain ⟨ctxs, rest⟩ := Prod.ext_iff.1 same
  obtain ⟨nodes, rest⟩ := Prod.ext_iff.1 rest
  obtain ⟨queues, permits⟩ := Prod.ext_iff.1 rest
  have stands (q : Spot) : beatsAt u q = beatsAt ((t.mapNode n (fun x => x.takesIn b)).mapEp e h) q :=
    beatsAt_congr nodes (fun d => congrFun queues d) q
  have inputs : ((t.node n).takesIn b).inq = (t.node n).inq := by
    obtain ⟨c, eq⟩ := takesIn_eq (t.node n) b
    rw [eq]
  refine ⟨ctxs, fun q => ?_, fun m => ?_, fun d hd => ?_⟩
  · rw [stands]
    split
    · next here =>
      rw [here]
      show (((t.mapNode n (fun x => x.takesIn b)).mapEp e h).ep e).q = (t.ep e).q.drop 1
      rw [ep_mapEp_same]
      exact hq
    · next other =>
      rw [← beatsAt_mapNode (t := t) (n := n) (f := fun x => x.takesIn b) inputs q]
      cases q with
      | input m j => rfl
      | endpoint d =>
        show (((t.mapNode n (fun x => x.takesIn b)).mapEp e h).ep d).q = ((t.mapNode n (fun x => x.takesIn b)).ep d).q
        rw [ep_mapEp, if_neg (fun x => other (by rw [x]))]
  · have eq : u.node m = (t.mapNode n (fun x => x.takesIn b)).node m := congrArg (fun l => Assoc.getD l m Node.empty) nodes
    rw [eq, node_mapNode]
    split
    · next here =>
      obtain ⟨c, eq⟩ := takesIn_eq (t.node n) b
      exact ⟨(t.node m).inq, c, (t.node m).gates, by rw [eq, here]⟩
    · exact ⟨_, _, _, rfl⟩
  · have ne : d ≠ e := fun x => hd (by rw [x])
    have at_ : (if d = e then 0 else (u.ep d).permits) = if d = e then 0 else (((t.mapNode n (fun x => x.takesIn b)).mapEp e h).ep d).permits :=
      congrFun permits d
    rw [if_neg ne, if_neg ne] at at_
    rw [at_, ep_mapEp, if_neg (Ne.symm ne)]
    rfl

/-- An input of a node without its head beat. -/
def popInput (j : Nat) (gate : Gate) (x : Node) : Node :=
  { x with inq := Assoc.set x.inq j ((Assoc.getD x.inq j []).drop 1), gates := Assoc.set x.gates j gate }

theorem took_input (t : Tile) (n j : Nat) (b : Option Beat) (gate : Gate) :
    Took t ((t.mapNode n (fun x => x.takesIn b)).mapNode n (popInput j gate)) (.input n j) := by
  obtain ⟨c, counted⟩ := takesIn_eq (t.node n) b
  have node (m : Nat) : ((t.mapNode n (fun x => x.takesIn b)).mapNode n (popInput j gate)).node m =
      if n = m then popInput j gate { t.node n with errors := c } else t.node m := by
    rw [node_mapNode, node_mapNode, node_mapNode, if_pos rfl, counted]
    split
    · rfl
    · rfl
  refine ⟨rfl, fun q => ?_, fun m => ?_, fun d _ => rfl⟩
  · cases q with
    | endpoint e => rfl
    | input m i =>
      show Assoc.getD (Tile.node _ m).inq i [] = if Spot.input m i = .input n j then (Assoc.getD (t.node m).inq i []).drop 1 else Assoc.getD (t.node m).inq i []
      rw [node]
      by_cases here : n = m
      · subst here
        rw [if_pos rfl]
        show Assoc.getD (Assoc.set (t.node n).inq j _) i [] = _
        rw [Assoc.getD_set]
        by_cases at_ : j = i
        · rw [if_pos at_, if_pos (by rw [at_]), at_]
        · rw [if_neg at_, if_neg (fun e => at_ (Spot.input.inj e).2.symm)]
      · rw [if_neg here, if_neg (fun e => here (Spot.input.inj e).1.symm)]
  · rw [node]
    split
    · next here => exact ⟨_, c, _, by rw [← here]; rfl⟩
    · exact ⟨_, _, _, rfl⟩

/-- R135: what a node takes leaves its place, and nothing else moves. -/
theorem nodeTake_took (s : State) (tile n f j : Nat) : Took (s.tile tile) ((nodeTake s tile n f j).tile tile) (inSpot n f j) := by
  unfold nodeTake
  dsimp only
  split
  · next h =>
    rw [inSpot_node h, State.tile_mapTile_same, State.tile_mapTile_same]
    exact took_input (s.tile tile) n j (nodeHead (s.tile tile) n f j) { idle := s.cycle.toNat, wakeAt := 0, gated := false }
  · next h =>
    rw [inSpot_endpoint (Bool.eq_false_iff.2 h)]
    refine took_endpoint (n := n) (b := nodeHead (s.tile tile) n f j)
      (h := fun p => { p.counted (p.q.take 1) with q := p.q.drop 1 }) rfl ?_
    generalize nodeEp (NdF.kind f) true (NdF.inp f j) = e
    have frees (u : State) : SameTiles (afterTake e)
        (u.mapTile tile (fun t => t.mapEp e (fun p => { p.counted (p.q.take 1) with q := p.q.drop 1 }))) (takeHead u tile e) :=
      returnPermits_tiles (queuesOf_afterTake e) _ tile
    have stamps (u : State) (h : Endpoint → Endpoint) (hq : ∀ x, (h x).q = x.q) : SameTiles (afterTake e) u (u.mapTile tile (fun t => t.mapEp e h)) :=
      (queuesOf_afterTake e).mapTile rfl hq
    refine (stamps _ _ ?_ tile).trans ((frees _ tile).trans ?_)
    · intro x
      split
      · rfl
      · rfl
    · rw [State.tile_mapTile_same]
      refine congrArg (fun u : Tile => afterTake e (u.mapEp e (fun p => { p.counted (p.q.take 1) with q := p.q.drop 1 }))) ?_
      refine Eq.trans ?_ (State.tile_mapTile_same s tile (fun t => t.mapNode n (fun x => x.takesIn (nodeHead (s.tile tile) n f j))))
      split
      · split
        · rw [State.tile, recordTaken_tiles]
          rfl
        · rw [State.tile_mapTile_same, State.tile_mapTile_same]
      · rw [State.tile_mapTile_same, State.tile_mapTile_same]

/-! ### A node sends a beat (R135) -/

/-- What a tile t becomes as beat b is put at a place p: of its nodes inputs alone change, and of the other places nothing. -/
structure Sent (t u : Tile) (p : Spot) (b : Beat) : Prop where
  ctxs : u.ctxs = t.ctxs
  beats : ∀ q, beatsAt u q = if q = p then beatsAt t q ++ [b] else beatsAt t q
  node : ∀ m, ∃ q, u.node m = { t.node m with inq := q }
  permits : ∀ d, (u.ep d).permits = (t.ep d).permits

/-- An input of a node with a beat more. -/
def pushInput (i : Nat) (b : Beat) (x : Node) : Node := { x with inq := Assoc.set x.inq i (Assoc.getD x.inq i [] ++ [b]) }

theorem sent_input (t : Tile) (m i : Nat) (b : Beat) : Sent t (t.mapNode m (pushInput i b)) (.input m i) b := by
  refine ⟨rfl, fun q => ?_, fun k => ?_, fun d => rfl⟩
  · cases q with
    | endpoint e => rfl
    | input k j =>
      show Assoc.getD (Tile.node _ k).inq j [] =
        if Spot.input k j = .input m i then Assoc.getD (t.node k).inq j [] ++ [b] else Assoc.getD (t.node k).inq j []
      rw [node_mapNode]
      by_cases here : m = k
      · subst here
        rw [if_pos rfl]
        show Assoc.getD (Assoc.set (t.node m).inq i _) j [] = _
        rw [Assoc.getD_set]
        by_cases at_ : i = j
        · rw [if_pos at_, if_pos (by rw [at_]), at_]
        · rw [if_neg at_, if_neg (fun e => at_ (Spot.input.inj e).2.symm)]
      · rw [if_neg here, if_neg (fun e => here (Spot.input.inj e).1.symm)]
  · rw [node_mapNode]
    split
    · next here => exact ⟨_, by rw [here]; rfl⟩
    · exact ⟨_, rfl⟩

theorem sent_endpoint (t : Tile) (e : Nat) (b : Beat) : Sent t (t.mapEp e (fun p => { p with q := p.q ++ [b] })) (.endpoint e) b := by
  refine ⟨rfl, fun q => ?_, fun k => ⟨_, rfl⟩, fun d => mapEp_keeps Endpoint.permits t e d (fun _ => rfl)⟩
  cases q with
  | input k j => rfl
  | endpoint d =>
    show (Tile.ep _ d).q = if Spot.endpoint d = .endpoint e then (t.ep d).q ++ [b] else (t.ep d).q
    rw [ep_mapEp]
    by_cases here : e = d
    · rw [if_pos here, if_pos (by rw [here]), here]
    · rw [if_neg here, if_neg (fun x => here (Spot.endpoint.inj x).symm)]

/-- R135: what a node sends stands last at its output, and nothing else moves. -/
theorem nodeSend_sent (s : State) (g tile n f j : Nat) (b : Beat) :
    Sent (s.tile tile) ((nodeSend s g tile n f j b).tile tile) (outSpot (s.tile tile) n f j) b := by
  unfold nodeSend
  dsimp only
  split
  · next h =>
    rw [outSpot_node h]
    have put := sent_input (s.tile tile) (NdF.outp f j % 8) (inputFrom (s.tile tile) (NdF.outp f j % 8) n) b
    rw [← State.tile_mapTile_same s tile (fun t => t.mapNode (NdF.outp f j % 8) (pushInput (inputFrom (s.tile tile) (NdF.outp f j % 8) n) b))] at put
    split
    · split
      · exact put
      · exact put
    · exact put
  · next h =>
    rw [outSpot_endpoint (Bool.eq_false_iff.2 h), State.tile_mapTile_same]
    exact sent_endpoint _ _ b

/-! ### Steps that move no beat -/

/-- A tile in which no beat has moved, and node n has accepted and taken none. -/
structure Still (n : Nat) (t u : Tile) : Prop where
  ctxs : u.ctxs = t.ctxs
  beats : ∀ q, beatsAt u q = beatsAt t q
  accepted : (u.node n).accepted = (t.node n).accepted
  taken : (u.node n).taken = (t.node n).taken
  permits : ∀ d, (u.ep d).permits = (t.ep d).permits

theorem Still.refl (n : Nat) (t : Tile) : Still n t t := ⟨rfl, fun _ => rfl, rfl, rfl, fun _ => rfl⟩

theorem Still.trans {n : Nat} {t u v : Tile} (h : Still n t u) (k : Still n u v) : Still n t v :=
  ⟨k.ctxs.trans h.ctxs, fun q => (k.beats q).trans (h.beats q), k.accepted.trans h.accepted, k.taken.trans h.taken,
    fun d => (k.permits d).trans (h.permits d)⟩

theorem still_mapNode {n : Nat} (t : Tile) {h : Node → Node} (inq : (h (t.node n)).inq = (t.node n).inq)
    (accepted : (h (t.node n)).accepted = (t.node n).accepted) (taken : (h (t.node n)).taken = (t.node n).taken) : Still n t (t.mapNode n h) :=
  ⟨rfl, beatsAt_mapNode inq, by rw [node_mapNode_same, accepted], by rw [node_mapNode_same, taken], fun _ => rfl⟩

theorem still_mapEp {n e : Nat} (t : Tile) {h : Endpoint → Endpoint} (hq : ∀ x, (h x).q = x.q) (hp : ∀ x, (h x).permits = x.permits) :
    Still n t (t.mapEp e h) :=
  ⟨rfl, beatsAt_mapEp (hq _), rfl, rfl, fun d => mapEp_keeps Endpoint.permits t e d hp⟩

theorem mapNd_tile (s : State) (tile n : Nat) (h : Node → Node) : (mapNd s tile n h).tile tile = (s.tile tile).mapNode n h :=
  State.tile_mapTile_same s tile _

theorem nodeIdle_still (s : State) (tile n : Nat) : Still n (s.tile tile) ((nodeIdle s tile n).tile tile) := by
  unfold nodeIdle
  split
  · exact Still.refl n _
  · rw [mapNd_tile]
    exact still_mapNode _ rfl rfl rfl

theorem nodeBlocked_still (s : State) (tile n f j : Nat) (w : Bool) : Still n (s.tile tile) ((nodeBlocked s tile n f j w).tile tile) := by
  have said : Still n (s.tile tile) ((mapNd s tile n (fun x => { x with stall := (x.stall.counted w).noOutput j })).tile tile) := by
    rw [mapNd_tile]
    exact still_mapNode _ rfl rfl rfl
  unfold nodeBlocked
  dsimp only
  split
  · exact said
  · rw [State.tile_mapTile_same]
    refine said.trans (still_mapEp _ (fun x => ?_) (fun x => ?_))
    · split
      · rfl
      · rfl
    · split
      · rfl
      · rfl

/-! ### Nodes that fire -/

/-- R135: a node that fires passes the beat of its input to its output. -/
theorem passes_fired (s : State) (g tile n f i j : Nat) {h : Node → Node} (hh : ∀ x, (h x).inq = x.inq) (b : Beat) :
    Passes s (moved (nodeSend (mapNd (nodeTake s tile n f i) tile n h) g tile n f j b) g) tile n f i j b := by
  intro apart
  have took := nodeTake_took s tile n f i
  have sent := nodeSend_sent (mapNd (nodeTake s tile n f i) tile n h) g tile n f j b
  rw [mapNd_tile, outSpot_congr (t := s.tile tile) (u := Tile.mapNode _ _ _) took.ctxs] at sent
  have beats (q : Spot) := (sent.beats q).trans (by rw [beatsAt_mapNode (hh _), took.beats q])
  refine ⟨?_, ?_, fun q hi ho => ?_⟩
  · refine (beats _).trans ?_
    rw [if_neg apart, if_pos rfl]
  · refine (beats _).trans ?_
    rw [if_pos rfl, if_neg (Ne.symm apart)]
  · refine (beats _).trans ?_
    rw [if_neg ho, if_neg hi]

/-- The node that has fired, but for its inputs. -/
theorem fired_node (s : State) (g tile n f j : Nat) (h : Node → Node) (b : Beat) :
    ∃ q, ((moved (nodeSend (mapNd s tile n h) g tile n f j b) g).tile tile).node n = { h ((s.tile tile).node n) with inq := q } := by
  obtain ⟨q, e⟩ := (nodeSend_sent (mapNd s tile n h) g tile n f j b).node n
  rw [mapNd_tile, node_mapNode_same] at e
  exact ⟨q, e⟩

/-! ### Multicast nodes (R140, R143, R357) -/

theorem tile_coilRead (s : State) (tile g j : Nat) (first : Bool) (b : Beat) {α : Type} {p : Tile → α} (off : OffBanks p) (i : Nat) :
    p ((coilRead (coilActivate s tile g j first) tile g j b).1.tile i) = p (s.tile i) :=
  ((coilActivate_tiles off s tile g j first).trans (coilRead_tiles off _ tile g j b)) i

/-- R143: a coil line read moves no beat. -/
theorem coilRead_still (s : State) (tile g j n : Nat) (first : Bool) (b : Beat) :
    Still n (s.tile tile) ((coilRead (coilActivate s tile g j first) tile g j b).1.tile tile) := by
  have nodes : Tile.nodes _ = _ := tile_coilRead s tile g j first b (fun _ _ _ _ => rfl) tile
  have eps (d : Nat) : Tile.ep _ d = _ := ep_congr (e := d) (tile_coilRead s tile g j first b (fun _ _ _ _ => rfl) tile)
  have node : Tile.node _ n = _ := congrArg (fun l => Assoc.getD l n Node.empty) nodes
  exact ⟨tile_coilRead s tile g j first b (p := Tile.ctxs) (fun _ _ _ _ => rfl) tile, beatsAt_congr nodes (fun d => congrArg Endpoint.q (eps d)),
    congrArg Node.accepted node, congrArg Node.taken node, fun d => congrArg Endpoint.permits (eps d)⟩

/-- R143: the reading of a held beat from its coil moves no beat. -/
theorem nodeRefill_still (g tile n f : Nat) (s : State) (i : Nat) : Still n (s.tile tile) ((nodeRefill g tile n f s i).tile tile) := by
  dsimp only [nodeRefill]
  split
  · exact Still.refl n _
  · next b _ =>
    split
    · exact Still.refl n _
    · refine (coilRead_still s tile g (nodeLine f (((s.tile tile).node n).taken - ((s.tile tile).node n).held.length + i)) n true b).trans ?_
      rw [mapNd_tile]
      exact still_mapNode _ rfl rfl rfl

/-- R143: a held beat within the buffers is not read again. -/
theorem nodeRefill_near {g tile n f i : Nat} {s : State} (h : ((s.tile tile).node n).held.length ≤ nodeBuffers f) :
    nodeRefill g tile n f s i = s := by
  dsimp only [nodeRefill]
  split
  · rfl
  · next b e =>
    have near : i < nodeBuffers f := Nat.lt_of_lt_of_le (List.getElem?_eq_some_iff.1 e).1 h
    rw [decide_eq_true near, Bool.true_or, if_pos rfl]

/-- R130: room at an output is a matter of the beats and the permits there. -/
theorem nodeRoom_congr {t u : Tile} {n f j : Nat} (ctxs : u.ctxs = t.ctxs)
    (beats : beatsAt u (outSpot t n f j) = beatsAt t (outSpot t n f j)) (permits : ∀ d, outSpot t n f j = .endpoint d → (u.ep d).permits = (t.ep d).permits) :
    nodeRoom u n f j = nodeRoom t n f j := by
  unfold nodeRoom
  dsimp only
  split
  · next h =>
    rw [outSpot_node h] at beats
    have same : inputFrom u (NdF.outp f j % 8) n = inputFrom t (NdF.outp f j % 8) n := by simp only [inputFrom, ndFrame_congr ctxs]
    rw [same]
    exact congrArg (fun l : List Beat => (l.filter (fun b : Beat => !b.isMarker)).isEmpty) beats
  · next h =>
    have out := outSpot_endpoint (t := t) (n := n) (f := f) (j := j) (Bool.eq_false_iff.2 h)
    rw [out] at beats
    have waits : waitingBeats (u.ep (NdF.outp f j % 32)) = waitingBeats (t.ep (NdF.outp f j % 32)) :=
      congrArg (fun l : List Beat => (l.filter (fun b : Beat => !b.isMarker)).length) beats
    rw [waits, permits _ out]

/-- R140: the place among the held beats of the oldest one that branch j has not accepted. -/
def branchNext (x : Node) (j : Nat) : Nat := Assoc.getD x.accepted j 0 - (x.taken - x.held.length)

/-- What branch j of a multicast node n leaves as it fires: the beats elsewhere, and all of the node but its inputs, its count of accepted
beats, and its stalls. -/
structure Branched (n f j : Nat) (room : Bool) (t u : Tile) : Prop where
  ctxs : u.ctxs = t.ctxs
  held : (u.node n).held = (t.node n).held
  taken : (u.node n).taken = (t.node n).taken
  permits : ∀ d, (u.ep d).permits = (t.ep d).permits
  beats : ∀ q, q ≠ outSpot t n f j → beatsAt u q = beatsAt t q
  accepted : ∀ i, i ≠ j → Assoc.getD (u.node n).accepted i 0 = Assoc.getD (t.node n).accepted i 0
  sends : ∀ h, (t.node n).held[branchNext (t.node n) j]? = some h →
    beatsAt u (outSpot t n f j) = beatsAt t (outSpot t n f j) ++ (if room then [h] else []) ∧
    Assoc.getD (u.node n).accepted j 0 = Assoc.getD (t.node n).accepted j 0 + (if room then 1 else 0)

theorem Branched.none (n f j : Nat) (t : Tile) : Branched n f j false t t :=
  ⟨rfl, rfl, rfl, fun _ => rfl, fun _ _ => rfl, fun _ _ => rfl, fun _ _ => ⟨(List.append_nil _).symm, rfl⟩⟩

/-- R140: branch j of a multicast node, as it accepts a held beat. -/
def acceptBranch (j a : Nat) (x : Node) : Node := { x with accepted := Assoc.set x.accepted j (a + 1), stall := x.stall.fire }

/-- R140: a multicast node whose beats are all held on the die, at one branch. -/
theorem branchFire_branched (g tile n f : Nat) (s : State) (j : Nat) (near : ((s.tile tile).node n).held.length ≤ nodeBuffers f) :
    Branched n f j (nodeRoom (s.tile tile) n f j) (s.tile tile) ((branchFire g tile n f s j).tile tile) := by
  dsimp only [branchFire]
  rw [nodeRefill_near near]
  cases room : nodeRoom (s.tile tile) n f j with
  | false => exact Branched.none n f j _
  | true =>
    rw [Bool.not_true, if_neg Bool.false_ne_true]
    split
    · next none_ =>
      refine ⟨rfl, rfl, rfl, fun _ => rfl, fun _ _ => rfl, fun _ _ => rfl, fun h some_ => ?_⟩
      exact nomatch none_.symm.trans some_
    · next h some_ =>
      have sent := nodeSend_sent (mapNd s tile n (acceptBranch j (Assoc.getD ((s.tile tile).node n).accepted j 0))) g tile n f j h
      obtain ⟨q, node⟩ := sent.node n
      rw [mapNd_tile, node_mapNode_same] at node
      rw [mapNd_tile] at sent
      have out : outSpot ((s.tile tile).mapNode n (acceptBranch j (Assoc.getD ((s.tile tile).node n).accepted j 0))) n f j =
        outSpot (s.tile tile) n f j := outSpot_congr rfl n f j
      have beats (q : Spot) := (sent.beats q).trans (by rw [out, beatsAt_mapNode rfl])
      refine ⟨sent.ctxs, (congrArg Node.held node :), (congrArg Node.taken node :), sent.permits, fun q other => (beats q).trans (if_neg other),
        fun i other => ?_, fun h2 found => ⟨?_, ?_⟩⟩
      · refine (congrArg (fun x : Node => Assoc.getD x.accepted i 0) node).trans ?_
        show Assoc.getD (Assoc.set _ j _) i 0 = _
        rw [Assoc.getD_set, if_neg (Ne.symm other)]
      · refine (beats _).trans ?_
        rw [if_pos rfl, if_pos rfl, Option.some.inj (some_.symm.trans found)]
      · refine (congrArg (fun x : Node => Assoc.getD x.accepted j 0) node).trans ?_
        exact Assoc.getD_set_same _ _ _ _

/-- R357: the branches l of a multicast node n have fired, each for the oldest beat that it has not accepted, where its edge has room. -/
structure Fans (n f : Nat) (l : List Nat) (t u : Tile) : Prop where
  ctxs : u.ctxs = t.ctxs
  taken : (u.node n).taken = (t.node n).taken
  beats : ∀ q, (∀ j ∈ l, q ≠ outSpot t n f j) → beatsAt u q = beatsAt t q
  accepted : ∀ i, i ∉ l → Assoc.getD (u.node n).accepted i 0 = Assoc.getD (t.node n).accepted i 0
  sends : ∀ j ∈ l, ∀ h, (t.node n).held[branchNext (t.node n) j]? = some h →
    beatsAt u (outSpot t n f j) = beatsAt t (outSpot t n f j) ++ (if nodeRoom t n f j then [h] else []) ∧
    Assoc.getD (u.node n).accepted j 0 = Assoc.getD (t.node n).accepted j 0 + (if nodeRoom t n f j then 1 else 0)

theorem Fans.still {n f : Nat} {l : List Nat} {t u v : Tile} (h : Fans n f l t u) (k : Still n u v) : Fans n f l t v :=
  ⟨k.ctxs.trans h.ctxs, k.taken.trans h.taken, fun q a => (k.beats q).trans (h.beats q a), fun i a => by rw [k.accepted, h.accepted i a],
    fun j m b e => by rw [k.beats, k.accepted]; exact h.sends j m b e⟩

theorem Still.fans {n f : Nat} {l : List Nat} {t u v : Tile} (k : Still n t u) (held : (u.node n).held = (t.node n).held) (h : Fans n f l u v) :
    Fans n f l t v := by
  have out (j : Nat) : outSpot u n f j = outSpot t n f j := outSpot_congr k.ctxs n f j
  have room (j : Nat) : nodeRoom u n f j = nodeRoom t n f j := nodeRoom_congr k.ctxs (k.beats _) (fun d _ => k.permits d)
  have next (j : Nat) : branchNext (u.node n) j = branchNext (t.node n) j := by rw [branchNext, branchNext, k.accepted, k.taken, held]
  refine ⟨h.ctxs.trans k.ctxs, h.taken.trans k.taken, fun q a => (h.beats q (fun j m => by rw [out]; exact a j m)).trans (k.beats q),
    fun i a => by rw [h.accepted i a, k.accepted], fun j m b e => ?_⟩
  have sent := h.sends j m b (by rw [next, held]; exact e)
  rw [out, room, k.beats, k.accepted] at sent
  exact sent

theorem branches_fire (g tile n f : Nat) (l : List Nat) (once : l.Nodup) (s : State) (near : ((s.tile tile).node n).held.length ≤ nodeBuffers f)
    (apart : ∀ i ∈ l, ∀ j ∈ l, outSpot (s.tile tile) n f i = outSpot (s.tile tile) n f j → i = j) :
    Fans n f l (s.tile tile) ((l.foldl (branchFire g tile n f) s).tile tile) := by
  induction l generalizing s with
  | nil => exact ⟨rfl, rfl, fun _ _ => rfl, fun _ _ => rfl, fun j m => nomatch m⟩
  | cons k l ih =>
    obtain ⟨fresh, once⟩ := List.nodup_cons.1 once
    have b := branchFire_branched g tile n f s k near
    have out (j : Nat) : outSpot ((branchFire g tile n f s k).tile tile) n f j = outSpot (s.tile tile) n f j := outSpot_congr b.ctxs n f j
    have ne {j : Nat} (m : j ∈ l) : outSpot (s.tile tile) n f j ≠ outSpot (s.tile tile) n f k := fun e =>
      fresh (apart j (List.mem_cons_of_mem k m) k (List.mem_cons_self ..) e ▸ m)
    obtain ⟨ctxs, taken, elsewhere, others, sends⟩ := ih once (branchFire g tile n f s k) (by rw [b.held]; exact near)
      (fun i mi j mj e => apart i (List.mem_cons_of_mem k mi) j (List.mem_cons_of_mem k mj) (by rw [← out, ← out]; exact e))
    rw [List.foldl_cons]
    refine ⟨ctxs.trans b.ctxs, taken.trans b.taken, fun q away => ?_, fun i away => ?_, fun j m h found => ?_⟩
    · rw [elsewhere q (fun j m => by rw [out]; exact away j (List.mem_cons_of_mem k m)), b.beats q (away k (List.mem_cons_self ..))]
    · rw [others i (fun m => away (List.mem_cons_of_mem k m)), b.accepted i (fun e => away (e ▸ List.mem_cons_self ..))]
    · rcases List.mem_cons.1 m with e | m
      · subst e
        obtain ⟨beats, accepted⟩ := b.sends h found
        rw [others j fresh, elsewhere _ (fun i m => by rw [out]; exact (ne m).symm)]
        exact ⟨beats, accepted⟩
      · have other : j ≠ k := fun e => fresh (e ▸ m)
        have next : branchNext (((branchFire g tile n f s k).tile tile).node n) j = branchNext ((s.tile tile).node n) j := by
          rw [branchNext, branchNext, b.accepted j other, b.taken, b.held]
        obtain ⟨beats, accepted⟩ := sends j m h (by rw [next, b.held]; exact found)
        rw [out, b.beats _ (ne m)] at beats
        rw [b.accepted j other] at accepted
        rw [nodeRoom_congr b.ctxs (b.beats _ (ne m)) (fun d _ => b.permits d)] at beats accepted
        exact ⟨beats, accepted⟩

theorem branchFire_taken (g tile n f : Nat) (s : State) (j : Nat) :
    (((branchFire g tile n f s j).tile tile).node n).taken = ((s.tile tile).node n).taken := by
  dsimp only [branchFire]
  split
  · rfl
  · split
    · exact (nodeRefill_still g tile n f s _).taken
    · obtain ⟨q, e⟩ := fired_node (nodeRefill g tile n f s _) g tile n f j (acceptBranch j (Assoc.getD ((s.tile tile).node n).accepted j 0)) _
      exact (congrArg Node.taken e :).trans (nodeRefill_still g tile n f s _).taken

theorem branches_taken (g tile n f : Nat) (l : List Nat) (s : State) :
    (((l.foldl (branchFire g tile n f) s).tile tile).node n).taken = ((s.tile tile).node n).taken := by
  induction l generalizing s with
  | nil => rfl
  | cons k l ih => exact (ih _).trans (branchFire_taken g tile n f s k)

theorem nodeIdle_held (s : State) (tile n : Nat) : (((nodeIdle s tile n).tile tile).node n).held = ((s.tile tile).node n).held := by
  unfold nodeIdle
  split
  · rfl
  · rw [mapNd_tile, node_mapNode_same]

/-- R357: the branches of a multicast node in one cycle, after it has taken its beat in s1; `hold`: the branch that holds it. -/
def fanOut (g tile n f : Nat) (hold : Option Nat) (s1 : State) : State :=
  match hold with
  | some b => nodeBlocked ((List.range (NdF.nout f)).foldl (branchFire g tile n f) s1) tile n f b false
  | none => (List.range (NdF.nout f)).foldl (branchFire g tile n f) (nodeIdle s1 tile n)

theorem fanOut_taken (g tile n f : Nat) (hold : Option Nat) (s : State) :
    (((fanOut g tile n f hold s).tile tile).node n).taken = ((s.tile tile).node n).taken := by
  cases hold with
  | some b => exact (nodeBlocked_still _ tile n f b false).taken.trans (branches_taken g tile n f _ s)
  | none => exact (branches_taken g tile n f _ _).trans (nodeIdle_still s tile n).taken

theorem fanOut_fans (g tile n f : Nat) (hold : Option Nat) (s : State) (near : ((s.tile tile).node n).held.length ≤ nodeBuffers f)
    (apart : ∀ i j, i < NdF.nout f → j < NdF.nout f → outSpot (s.tile tile) n f i = outSpot (s.tile tile) n f j → i = j) :
    Fans n f (List.range (NdF.nout f)) (s.tile tile) ((fanOut g tile n f hold s).tile tile) := by
  cases hold with
  | some b =>
    exact (branches_fire g tile n f _ List.nodup_range s near (fun i mi j mj => apart i j (List.mem_range.1 mi) (List.mem_range.1 mj))).still
      (nodeBlocked_still _ tile n f b false)
  | none =>
    have idle := nodeIdle_still s tile n
    have held := nodeIdle_held s tile n
    refine idle.fans held (branches_fire g tile n f _ List.nodup_range _ (by rw [held]; exact near) (fun i mi j mj e => ?_))
    rw [outSpot_congr idle.ctxs, outSpot_congr idle.ctxs] at e
    exact apart i j (List.mem_range.1 mi) (List.mem_range.1 mj) e

/-- R140: the release of what every branch has accepted, which comes last in the cycle. -/
def fanRelease (g tile n f : Nat) (s2 : State) : State :=
  if releasable f ((s2.tile tile).node n) = 0 then s2 else
    mapNd (((List.range ((s2.tile tile).node n).held.length).filter
      (fun i => decide (i < nodeBuffers f + releasable f ((s2.tile tile).node n)))).foldl (nodeRefill g tile n f) s2) tile n
      (releaseHeld f ((s2.graph g).pending.any (fun p => (Assoc.get? p.nodes (8 * tile + n)).isSome)))

theorem refills_still (g tile n f : Nat) (l : List Nat) (s : State) :
    Still n (s.tile tile) ((l.foldl (nodeRefill g tile n f) s).tile tile) := by
  induction l generalizing s with
  | nil => exact Still.refl n _
  | cons i l ih => exact (nodeRefill_still g tile n f s i).trans (ih _)

theorem fanRelease_still (g tile n f : Nat) (s : State) : Still n (s.tile tile) ((fanRelease g tile n f s).tile tile) := by
  unfold fanRelease
  split
  · exact Still.refl n _
  · have release (t : Tile) (saved : Bool) : Still n t (t.mapNode n (releaseHeld f saved)) := still_mapNode t rfl rfl rfl
    rw [mapNd_tile]
    exact (refills_still g tile n f _ s).trans (release _ _)

/-- R140: a multicast node takes the beat at its head, where its windows allow one. -/
def fanTake (g tile n f : Nat) (s : State) : State :=
  match nodeHead (s.tile tile) n f 0 with
  | some b =>
    if b.isMarker || !(List.range (NdF.nout f)).all (fun j => decide (((s.tile tile).node n).taken - Assoc.getD ((s.tile tile).node n).accepted j 0 <
      branchWindow f ((s.tile tile).node n) j)) then s
    else moved (holdTaken (nodeTake s tile n f 0) g tile n f b) g
  | none => s

theorem execMulticastFire_runs {s : State} {tile n g f : Nat} (runs : nodeRuns s tile n 4 = some (g, f)) :
    exec (.multicastFire tile n) s = .next (fanRelease g tile n f (fanOut g tile n f
      (branchHolds (s.tile tile) ((fanTake g tile n f s).tile tile) n f) (fanTake g tile n f s))) := by
  show Host.Outcome.next (match nodeRuns s tile n 4 with | none => s | some (g, f) => _) = _
  rw [runs]
  rfl

theorem fanTake_admits {s : State} {tile n g f : Nat} {b : Beat}
    (head : nodeHead (s.tile tile) n f 0 = some b) (ordinary : b.isMarker = false)
    (admits : ∀ j, j < NdF.nout f → ((s.tile tile).node n).taken - Assoc.getD ((s.tile tile).node n).accepted j 0 < branchWindow f ((s.tile tile).node n) j) :
    fanTake g tile n f s = moved (holdTaken (nodeTake s tile n f 0) g tile n f b) g := by
  have all : (List.range (NdF.nout f)).all (fun j => decide (((s.tile tile).node n).taken - Assoc.getD ((s.tile tile).node n).accepted j 0 <
      branchWindow f ((s.tile tile).node n) j)) = true :=
    List.all_eq_true.2 (fun j m => decide_eq_true (admits j (List.mem_range.1 m)))
  rw [fanTake, head]
  dsimp only
  rw [all, ordinary]
  rfl

theorem coilLine_nodes (s : State) (tile g j : Nat) (first : Bool) (b : Beat) :
    ((coilActivate (coilWrite s tile g j b) tile g j first).tile tile).nodes = (s.tile tile).nodes := by
  rw [coilActivate_tiles (p := Tile.nodes) (fun _ _ _ _ => rfl) (coilWrite s tile g j b) tile g j first tile, State.tile, coilWrite_tiles]
  rfl

theorem holdTaken_node (s : State) (g tile n f : Nat) (b : Beat) :
    (((holdTaken s g tile n f b).tile tile).node n).taken = ((s.tile tile).node n).taken + 1 := by
  unfold holdTaken
  dsimp only
  rw [mapNd_tile, node_mapNode_same]
  show (Tile.node _ n).taken + 1 = _
  split
  · rfl
  · exact congrArg (fun l : Assoc Node => (Assoc.getD l n Node.empty).taken + 1) (coilLine_nodes s tile g (nodeLine f ((s.tile tile).node n).taken)
      (((s.tile tile).node n).held.length == nodeBuffers f || nodeLine f ((s.tile tile).node n).taken == NdF.ncbase f) b)

/-- R140: a beat taken while the buffers have room. -/
theorem holdTaken_near {s : State} {g tile n f : Nat} {b : Beat} (near : ((s.tile tile).node n).held.length < nodeBuffers f) :
    holdTaken s g tile n f b = mapNd s tile n (fun x => { x with held := x.held ++ [b], taken := x.taken + 1, stall := x.stall.fire }) := by
  unfold holdTaken
  dsimp only
  rw [if_pos near]

/-- R357: in a cycle in which a multicast node takes the beat at its head into its buffers, each branch whose edge has room accepts the oldest
beat that it has not accepted. -/
theorem multicast_fans {s : State} {tile n f : Nat} (g : Nat) (b : Beat) (hold : Option Nat) (near : ((s.tile tile).node n).held.length < nodeBuffers f)
    (apart : ∀ i j, i < NdF.nout f → j < NdF.nout f → outSpot (s.tile tile) n f i ≠ inSpot n f 0 ∧
      (outSpot (s.tile tile) n f i = outSpot (s.tile tile) n f j → i = j)) :
    let u := (fanRelease g tile n f (fanOut g tile n f hold (moved (holdTaken (nodeTake s tile n f 0) g tile n f b) g))).tile tile
    beatsAt u (inSpot n f 0) = (beatsAt (s.tile tile) (inSpot n f 0)).drop 1 ∧
    ∀ j h, j < NdF.nout f → (((s.tile tile).node n).held ++ [b])[branchNext ((s.tile tile).node n) j]? = some h →
      beatsAt u (outSpot (s.tile tile) n f j) = beatsAt (s.tile tile) (outSpot (s.tile tile) n f j) ++
        (if nodeRoom (s.tile tile) n f j then [h] else []) ∧
      Assoc.getD (u.node n).accepted j 0 = Assoc.getD ((s.tile tile).node n).accepted j 0 + (if nodeRoom (s.tile tile) n f j then 1 else 0) := by
  have took := nodeTake_took s tile n f 0
  obtain ⟨q, e, w, node⟩ := took.node n
  have held : holdTaken (nodeTake s tile n f 0) g tile n f b =
      mapNd (nodeTake s tile n f 0) tile n (fun x => { x with held := x.held ++ [b], taken := x.taken + 1, stall := x.stall.fire }) :=
    holdTaken_near (by rw [node]; exact near)
  rw [held]
  generalize here : moved (mapNd (nodeTake s tile n f 0) tile n (fun x => { x with held := x.held ++ [b], taken := x.taken + 1, stall := x.stall.fire })) g = s1
  have tile1 : s1.tile tile = ((nodeTake s tile n f 0).tile tile).mapNode n
      (fun x => { x with held := x.held ++ [b], taken := x.taken + 1, stall := x.stall.fire }) := by
    rw [← here]
    exact mapNd_tile _ tile n _
  have node1 : (s1.tile tile).node n =
      { ((s.tile tile).node n) with held := ((s.tile tile).node n).held ++ [b], taken := ((s.tile tile).node n).taken + 1,
                                    stall := ((s.tile tile).node n).stall.fire, inq := q, errors := e, gates := w } := by
    rw [tile1, node_mapNode_same, node]
  have ctxs : (s1.tile tile).ctxs = (s.tile tile).ctxs := by rw [tile1]; exact took.ctxs
  have beats (p : Spot) : beatsAt (s1.tile tile) p = if p = inSpot n f 0 then (beatsAt (s.tile tile) p).drop 1 else beatsAt (s.tile tile) p := by
    rw [tile1, beatsAt_mapNode rfl, took.beats]
  have out (j : Nat) : outSpot (s1.tile tile) n f j = outSpot (s.tile tile) n f j := outSpot_congr ctxs n f j
  have room {j : Nat} (hj : j < NdF.nout f) : nodeRoom (s1.tile tile) n f j = nodeRoom (s.tile tile) n f j := by
    refine nodeRoom_congr ctxs ((beats _).trans (if_neg (apart j j hj hj).1)) (fun d hd => ?_)
    rw [tile1]
    exact took.permits d (fun x => (apart j j hj hj).1 (hd.trans x))
  have next (j : Nat) : branchNext ((s1.tile tile).node n) j = branchNext ((s.tile tile).node n) j := by
    rw [node1, branchNext, branchNext, List.length_append, List.length_singleton, Nat.add_sub_add_right]
  have fans := (fanOut_fans g tile n f hold s1 (by rw [node1, List.length_append]; exact near)
    (fun i j hi hj x => (apart i j hi hj).2 (by rw [← out, ← out]; exact x))).still (fanRelease_still g tile n f _)
  refine ⟨?_, fun j h hj found => ?_⟩
  · rw [fans.beats _ (fun j m => by rw [out]; exact ((apart j j (List.mem_range.1 m) (List.mem_range.1 m)).1).symm), beats, if_pos rfl]
  · have sends := fans.sends j (List.mem_range.2 hj) h (by rw [next, node1]; exact found)
    rw [out, room hj, beats, if_neg (apart j j hj hj).1, node1] at sends
    exact sends

/-- R143: branch j of a multicast node, as it accepts a beat that the node holds in its coil. -/
theorem branchFire_coil {s s1 : State} {tile n g f j : Nat} {h h1 : Beat}
    (stands : ((s.tile tile).node n).held[branchNext ((s.tile tile).node n) j]? = some h)
    (past : nodeBuffers f ≤ branchNext ((s.tile tile).node n) j)
    (last : ∀ b, b < NdF.nout f → Assoc.getD ((s.tile tile).node n).accepted b 0 ≤
      ((s.tile tile).node n).taken - ((s.tile tile).node n).held.length + branchNext ((s.tile tile).node n) j)
    (room : nodeRoom (s.tile tile) n f j = true)
    (read : coilRead (coilActivate s tile g (nodeLine f (((s.tile tile).node n).taken - ((s.tile tile).node n).held.length +
        branchNext ((s.tile tile).node n) j)) true) tile g (nodeLine f (((s.tile tile).node n).taken - ((s.tile tile).node n).held.length +
        branchNext ((s.tile tile).node n) j)) h = (s1, h1)) :
    beatsAt ((branchFire g tile n f s j).tile tile) (outSpot (s.tile tile) n f j) = beatsAt (s.tile tile) (outSpot (s.tile tile) n f j) ++ [h1] ∧
    Assoc.getD (((branchFire g tile n f s j).tile tile).node n).accepted j 0 = Assoc.getD ((s.tile tile).node n).accepted j 0 + 1 := by
  have far : (decide (branchNext ((s.tile tile).node n) j < nodeBuffers f) || (List.range (NdF.nout f)).any (fun b =>
      decide (((s.tile tile).node n).taken - ((s.tile tile).node n).held.length + branchNext ((s.tile tile).node n) j <
        Assoc.getD ((s.tile tile).node n).accepted b 0))) = false := by
    rw [decide_eq_false (Nat.not_lt.2 past), Bool.false_or, List.any_eq_false]
    intro b m
    rw [decide_eq_true_eq]
    exact Nat.not_lt.2 (last b (List.mem_range.1 m))
  have refill : nodeRefill g tile n f s (branchNext ((s.tile tile).node n) j) =
      mapNd s1 tile n (fun x => { x with held := x.held.set (branchNext ((s.tile tile).node n) j) h1 }) := by
    dsimp only [nodeRefill]
    rw [stands]
    dsimp only
    rw [far, if_neg Bool.false_ne_true, read]
  have same := coilRead_still s tile g (nodeLine f (((s.tile tile).node n).taken - ((s.tile tile).node n).held.length +
    branchNext ((s.tile tile).node n) j)) n true h
  rw [read] at same
  have ctxs : (s1.tile tile).ctxs = (s.tile tile).ctxs := same.ctxs
  have held : (s1.tile tile).nodes = (s.tile tile).nodes := by
    have nodes := tile_coilRead s tile g (nodeLine f (((s.tile tile).node n).taken - ((s.tile tile).node n).held.length +
      branchNext ((s.tile tile).node n) j)) true h (p := Tile.nodes) (fun _ _ _ _ => rfl) tile
    rw [read] at nodes
    exact nodes
  have node : (s1.tile tile).node n = (s.tile tile).node n := congrArg (fun l => Assoc.getD l n Node.empty) held
  have found : (((mapNd s1 tile n (fun x => { x with held := x.held.set (branchNext ((s.tile tile).node n) j) h1 })).tile tile).node n).held[
      branchNext ((s.tile tile).node n) j]? = some h1 := by
    rw [mapNd_tile, node_mapNode_same, node]
    exact List.getElem?_set_self (List.getElem?_eq_some_iff.1 stands).1
  have fire : branchFire g tile n f s j = moved (nodeSend (mapNd (mapNd s1 tile n (fun x =>
      { x with held := x.held.set (branchNext ((s.tile tile).node n) j) h1 })) tile n
      (acceptBranch j (Assoc.getD ((s.tile tile).node n).accepted j 0))) g tile n f j h1) g := by
    dsimp only [branchFire]
    rw [room, Bool.not_true, if_neg Bool.false_ne_true]
    rw [show nodeRefill g tile n f s (Assoc.getD ((s.tile tile).node n).accepted j 0 - (((s.tile tile).node n).taken -
      ((s.tile tile).node n).held.length)) = _ from refill]
    rw [show (Tile.node _ n).held[Assoc.getD ((s.tile tile).node n).accepted j 0 - (((s.tile tile).node n).taken -
      ((s.tile tile).node n).held.length)]? = _ from found]
    rfl
  have sent := nodeSend_sent (mapNd (mapNd s1 tile n (fun x => { x with held := x.held.set (branchNext ((s.tile tile).node n) j) h1 })) tile n
    (acceptBranch j (Assoc.getD ((s.tile tile).node n).accepted j 0))) g tile n f j h1
  obtain ⟨q, at_⟩ := sent.node n
  rw [mapNd_tile, node_mapNode_same] at at_
  rw [fire]
  refine ⟨(sent.beats _).trans ?_, (congrArg (fun x : Node => Assoc.getD x.accepted j 0) at_ :).trans (Assoc.getD_set_same _ _ _ _)⟩
  rw [mapNd_tile, mapNd_tile, beatsAt_mapNode rfl, beatsAt_mapNode rfl, same.beats]
  exact if_pos (outSpot_congr ctxs n f j).symm

/-! ### The other nodes (R136 to R138, R141) -/

section
variable {s : State} {tile n g f : Nat} {b : Beat}

theorem steerCount_inq (f : Nat) (x : Node) : (steerCount f x).inq = x.inq := by
  unfold steerCount
  split
  · rfl
  · split
    · rfl
    · rfl

/-- R136: a steer node with a beat, which its rule puts on a path that it has. -/
theorem execSteer (runs : nodeRuns s tile n 1 = some (g, f)) (head : nodeHead (s.tile tile) n f 0 = some b) (ordinary : b.isMarker = false)
    (path : steerPath f ((s.tile tile).node n) b < NdF.nout f) :
    exec (.steerNodeFire tile n) s = .next (
      if !nodeRoom (s.tile tile) n f (steerPath f ((s.tile tile).node n) b) then
        nodeBlocked s tile n f (steerPath f ((s.tile tile).node n) b) false
      else moved (nodeSend (mapNd (nodeTake s tile n f 0) tile n (fun x => { steerCount f x with stall := x.stall.fire })) g tile n f
        (steerPath f ((s.tile tile).node n) b) b) g) := by
  show Host.Outcome.next (match nodeRuns s tile n 1 with | none => s | some (g, f) => _) = _
  rw [runs]
  dsimp only
  rw [head]
  dsimp only
  rw [ordinary, decide_eq_false (Nat.not_le.2 path), if_neg Bool.false_ne_true]
  rfl

theorem steerCount_stall (f : Nat) (x : Node) : (steerCount f x).stall = x.stall := by
  unfold steerCount
  split
  · rfl
  · split
    · rfl
    · rfl

theorem execSteer_room (runs : nodeRuns s tile n 1 = some (g, f)) (head : nodeHead (s.tile tile) n f 0 = some b) (ordinary : b.isMarker = false)
    (path : steerPath f ((s.tile tile).node n) b < NdF.nout f)
    (room : nodeRoom (s.tile tile) n f (steerPath f ((s.tile tile).node n) b) = true) :
    exec (.steerNodeFire tile n) s = .next (moved (nodeSend (mapNd (nodeTake s tile n f 0) tile n
      (fun x => { steerCount f x with stall := (steerCount f x).stall.fire })) g tile n f (steerPath f ((s.tile tile).node n) b) b) g) := by
  rw [execSteer runs head ordinary path, room, Bool.not_true, if_neg Bool.false_ne_true]
  simp only [steerCount_stall]

theorem execSteer_full (runs : nodeRuns s tile n 1 = some (g, f)) (head : nodeHead (s.tile tile) n f 0 = some b) (ordinary : b.isMarker = false)
    (path : steerPath f ((s.tile tile).node n) b < NdF.nout f)
    (room : nodeRoom (s.tile tile) n f (steerPath f ((s.tile tile).node n) b) = false) :
    exec (.steerNodeFire tile n) s = .next (nodeBlocked s tile n f (steerPath f ((s.tile tile).node n) b) false) := by
  rw [execSteer runs head ordinary path, room, Bool.not_false, if_pos rfl]

/-- R137: a merge by arrival with a beat at an input. -/
theorem execMerge {j : Nat} (runs : nodeRuns s tile n 2 = some (g, f))
    (first : (robin (NdF.nin f) ((s.tile tile).node n).last).findSome?
      (fun j => (nodeHead (s.tile tile) n f j).bind (fun b => if b.isMarker then none else some (j, b))) = some (j, b)) :
    exec (.mergeByArrivalFire tile n) s = .next (
      if !nodeRoom (s.tile tile) n f 0 then nodeBlocked s tile n f 0 (nodeWaits (s.tile tile) n f)
      else moved (nodeSend (mapNd (nodeTake s tile n f j) tile n
        (fun x => { x with last := j, stall := (x.stall.counted (nodeWaits (s.tile tile) n f)).fire })) g tile n f 0 b) g) := by
  have found (real : Nat → Option (Nat × Beat))
      (same : ∀ j, real j = (nodeHead (s.tile tile) n f j).bind (fun b => if b.isMarker then none else some (j, b))) :
      (robin (NdF.nin f) ((s.tile tile).node n).last).findSome? real = some (j, b) := (congrArg (List.findSome? · _) (funext same)).trans first
  show Host.Outcome.next (match nodeRuns s tile n 2 with | none => s | some (g, f) => _) = _
  rw [runs]
  dsimp only
  rw [found _ (fun j => by cases nodeHead (s.tile tile) n f j with | none => rfl | some b => rfl)]

theorem execMerge_room {j : Nat} (runs : nodeRuns s tile n 2 = some (g, f))
    (first : (robin (NdF.nin f) ((s.tile tile).node n).last).findSome?
      (fun j => (nodeHead (s.tile tile) n f j).bind (fun b => if b.isMarker then none else some (j, b))) = some (j, b))
    (room : nodeRoom (s.tile tile) n f 0 = true) :
    exec (.mergeByArrivalFire tile n) s = .next (moved (nodeSend (mapNd (nodeTake s tile n f j) tile n
      (fun x => { x with last := j, stall := (x.stall.counted (nodeWaits (s.tile tile) n f)).fire })) g tile n f 0 b) g) := by
  rw [execMerge runs first, room, Bool.not_true, if_neg Bool.false_ne_true]

theorem execMerge_full {j : Nat} (runs : nodeRuns s tile n 2 = some (g, f))
    (first : (robin (NdF.nin f) ((s.tile tile).node n).last).findSome?
      (fun j => (nodeHead (s.tile tile) n f j).bind (fun b => if b.isMarker then none else some (j, b))) = some (j, b))
    (room : nodeRoom (s.tile tile) n f 0 = false) :
    exec (.mergeByArrivalFire tile n) s = .next (nodeBlocked s tile n f 0 (nodeWaits (s.tile tile) n f)) := by
  rw [execMerge runs first, room, Bool.not_false, if_pos rfl]

/-- R138: a merge by tag that holds the beat of the next tag. -/
theorem execMergeTag (runs : nodeRuns s tile n 3 = some (g, f))
    (healthy : (((((List.range (NdF.nin f)).foldl (mergeAccept tile n f) s)).tile tile).node n).fault = false)
    (found : (((((List.range (NdF.nin f)).foldl (mergeAccept tile n f) s)).tile tile).node n).held.find?
      (fun b => b.tag == (((((List.range (NdF.nin f)).foldl (mergeAccept tile n f) s)).tile tile).node n).next) = some b)
    (room : nodeRoom (((List.range (NdF.nin f)).foldl (mergeAccept tile n f) s).tile tile) n f 0 = true) :
    exec (.mergeByTagFire tile n) s = .next (moved (nodeSend (mapNd ((List.range (NdF.nin f)).foldl (mergeAccept tile n f) s) tile n
      (fun x => { x with held := x.held.erase b, next := x.next + 1, stall := (x.stall.counted (nodeWaits (s.tile tile) n f)).fire }))
      g tile n f 0 b) g) := by
  show Host.Outcome.next (match nodeRuns s tile n 3 with | none => s | some (g, f) => _) = _
  rw [runs]
  dsimp only
  rw [healthy, if_neg Bool.false_ne_true, found]
  dsimp only
  rw [room]
  rfl

/-- R138: a beat whose tag is in the window, and is the tag of none held. -/
theorem mergeAccept_window {j : Nat} (head : nodeHead (s.tile tile) n f j = some b) (ordinary : b.isMarker = false)
    (healthy : ((s.tile tile).node n).fault = false) (window : (b.tag - ((s.tile tile).node n).next).toNat < NdF.rwin f)
    (fresh : ∀ h ∈ ((s.tile tile).node n).held, h.tag ≠ b.tag) :
    mergeAccept tile n f s j = mapNd (nodeTake s tile n f j) tile n (fun x => { x with held := x.held ++ [b] }) := by
  have none_ : ((s.tile tile).node n).held.any (fun h => h.tag == b.tag) = false :=
    List.any_eq_false.2 (fun h m => by rw [beq_iff_eq]; exact fresh h m)
  dsimp only [mergeAccept]
  rw [head]
  dsimp only
  rw [ordinary, healthy, decide_eq_false (Nat.not_le.2 window), none_]
  rfl

/-! ### The beat of a token (R141) -/

theorem replicated_tag (f : Nat) (b : Beat) : (replicated f b).tag = b.tag := by
  dsimp only [replicated]
  split
  · rfl
  · split
    · rfl
    · rfl

theorem replicated_error (f : Nat) (b : Beat) (h : b.kind = 2) :
    (replicated f b).kind = 2 ∧ (replicated f b).data.toNat = b.data.toNat % 2 ^ 64 := by
  dsimp only [replicated]
  rw [if_pos h]
  exact ⟨rfl, Nat.mod_eq_of_lt (Nat.lt_trans (Nat.mod_lt _ (by decide)) (by decide))⟩

/-- The lane that stands above a and below c. -/
theorem lane_digit {a m v : Nat} (ha : a < m) (hv : v < 2 ^ 64) (c : Nat) : (a + m * (v + 2 ^ 64 * c)) / m % 2 ^ 64 = v := by
  rw [Nat.add_mul_div_left _ _ (Nat.zero_lt_of_lt ha), Nat.div_eq_of_lt ha, Nat.zero_add, Nat.add_mul_mod_self_left, Nat.mod_eq_of_lt hv]

/-- A number put in lane r of four, as read in lane l. -/
theorem lane_shifted {v r : Nat} (small : v < 2 ^ 64) (lane : r < 4) (l : Nat) :
    v * 2 ^ (64 * r) % 2 ^ 256 / 2 ^ (64 * l) % 2 ^ 64 = if r = l then v else 0 := by
  have top : v * 2 ^ (64 * r) < 2 ^ (64 * (r + 1)) := by
    rw [Nat.mul_succ, Nat.add_comm, Nat.pow_add]
    exact Nat.mul_lt_mul_of_pos_right small (Nat.two_pow_pos _)
  rw [Nat.mod_eq_of_lt (Nat.lt_of_lt_of_le top (Nat.pow_le_pow_right (by decide) (by omega)))]
  rcases Nat.lt_trichotomy r l with h | h | h
  · rw [if_neg (Nat.ne_of_lt h), Nat.div_eq_of_lt (Nat.lt_of_lt_of_le top (Nat.pow_le_pow_right (by decide) (by omega))), Nat.zero_mod]
  · rw [if_pos h, h, Nat.mul_div_cancel _ (Nat.two_pow_pos _), Nat.mod_eq_of_lt small]
  · rw [if_neg (Nat.ne_of_gt h), show 64 * r = 64 * (r - l - 1) + 64 + 64 * l by omega, Nat.pow_add, ← Nat.mul_assoc, Nat.mul_div_cancel _ (Nat.two_pow_pos _),
      Nat.pow_add, ← Nat.mul_assoc, Nat.mul_mod_left]

theorem replicated_lanes (f : Nat) (b : Beat) (h : b.kind ≠ 2) :
    (replicated f b).kind = 0 ∧ ∀ l, l < 4 → (replicated f b).data.toNat / 2 ^ (64 * l) % 2 ^ 64 =
      if NdF.repmode f = 0 ∨ NdF.replane f = l then b.data.toNat % 2 ^ 64 else 0 := by
  have small : b.data.toNat % 2 ^ 64 < 2 ^ 64 := Nat.mod_lt _ (by decide)
  have lane : NdF.replane f < 4 := Nat.mod_lt _ (by decide)
  dsimp only [replicated]
  rw [if_neg h]
  generalize b.data.toNat % 2 ^ 64 = v at small
  by_cases all : NdF.repmode f = 0
  · rw [if_pos all]
    refine ⟨rfl, fun l hl => ?_⟩
    rw [if_pos (Or.inl all)]
    have whole : v * (1 + 2 ^ 64 + 2 ^ 128 + 2 ^ 192) < 2 ^ 256 := by omega
    rw [BitVec.toNat_ofNat, Nat.mod_eq_of_lt whole]
    have cases : l = 0 ∨ l = 1 ∨ l = 2 ∨ l = 3 := by omega
    rcases cases with e | e | e | e
    · rw [e, show v * (1 + 2 ^ 64 + 2 ^ 128 + 2 ^ 192) = 0 + 2 ^ (64 * 0) * (v + 2 ^ 64 * (v * (1 + 2 ^ 64 + 2 ^ 128))) by omega]
      exact lane_digit (Nat.two_pow_pos _) small _
    · rw [e, show v * (1 + 2 ^ 64 + 2 ^ 128 + 2 ^ 192) = v + 2 ^ (64 * 1) * (v + 2 ^ 64 * (v * (1 + 2 ^ 64))) by omega]
      exact lane_digit small small _
    · rw [e, show v * (1 + 2 ^ 64 + 2 ^ 128 + 2 ^ 192) = v * (1 + 2 ^ 64) + 2 ^ (64 * 2) * (v + 2 ^ 64 * v) by omega]
      have low : v * (1 + 2 ^ 64) < 2 ^ (64 * 2) := by
        rw [show 64 * 2 = 128 from rfl]
        clear whole
        omega
      exact lane_digit low small _
    · rw [e, show v * (1 + 2 ^ 64 + 2 ^ 128 + 2 ^ 192) = v * (1 + 2 ^ 64 + 2 ^ 128) + 2 ^ (64 * 3) * (v + 2 ^ 64 * 0) by omega]
      have low : v * (1 + 2 ^ 64 + 2 ^ 128) < 2 ^ (64 * 3) := by
        rw [show 64 * 3 = 192 from rfl]
        clear whole
        omega
      exact lane_digit low small _
  · rw [if_neg all]
    refine ⟨rfl, fun l hl => ?_⟩
    generalize NdF.replane f = r at lane
    simp only [all, false_or, BitVec.toNat_ofNat]
    exact lane_shifted small lane l

/-- R141: a replicate node with the token of a beat. -/
theorem execReplicate (runs : nodeRuns s tile n 5 = some (g, f)) (head : nodeHead (s.tile tile) n f 0 = some b) (ordinary : b.isMarker = false)
    (data : b.kind ≠ 3) :
    exec (.replicateFire tile n) s = .next (
      if !nodeRoom (s.tile tile) n f 0 then nodeBlocked s tile n f 0 false
      else moved (nodeSend (mapNd (nodeTake s tile n f 0) tile n (fun x => { x with stall := x.stall.fire })) g tile n f 0 (replicated f b)) g) := by
  show Host.Outcome.next (match nodeRuns s tile n 5 with | none => s | some (g, f) => _) = _
  rw [runs]
  dsimp only
  rw [head]
  dsimp only
  rw [ordinary, if_neg Bool.false_ne_true, if_neg data]

theorem execReplicate_room (runs : nodeRuns s tile n 5 = some (g, f)) (head : nodeHead (s.tile tile) n f 0 = some b) (ordinary : b.isMarker = false)
    (data : b.kind ≠ 3) (room : nodeRoom (s.tile tile) n f 0 = true) :
    exec (.replicateFire tile n) s = .next (
      moved (nodeSend (mapNd (nodeTake s tile n f 0) tile n (fun x => { x with stall := x.stall.fire })) g tile n f 0 (replicated f b)) g) := by
  rw [execReplicate runs head ordinary data, room, Bool.not_true, if_neg Bool.false_ne_true]

theorem execReplicate_full (runs : nodeRuns s tile n 5 = some (g, f)) (head : nodeHead (s.tile tile) n f 0 = some b) (ordinary : b.isMarker = false)
    (data : b.kind ≠ 3) (room : nodeRoom (s.tile tile) n f 0 = false) :
    exec (.replicateFire tile n) s = .next (nodeBlocked s tile n f 0 false) := by
  rw [execReplicate runs head ordinary data, room, Bool.not_false, if_pos rfl]

end

end Sys2Proof.Machine

open Sys2Proof Sys2Proof.Machine Sys2Proof.Safety Sys2Proof.Claims

/-- Settles O46, node by node. -/
theorem nodeSteps : Obligations.NodeSteps := by
  intro s tile n g f x fired still
  refine ⟨fun b runs head ordinary path => ⟨fun room => ?_, fun room => ?_⟩, fun j b runs first => ⟨fun room => ?_, fun room => ?_⟩,
    fun s1 b runs accepts healthy found room => ?_, fun j b head ordinary healthy window fresh => ?_, fun b runs head ordinary admits => ?_,
    fun j h s1 h1 stands past last room read => ?_, fun b runs head ordinary data => ⟨fun room => ?_, fun room => ?_⟩⟩
  · refine ⟨_, execSteer_room runs head ordinary path room, rfl, passes_fired s g tile n f 0 (steerPath f x b)
      (h := fun x => { steerCount f x with stall := (steerCount f x).stall.fire }) (fun x => steerCount_inq f x) b⟩
  · exact ⟨_, execSteer_full runs head ordinary path room, (nodeBlocked_still s tile n f _ false).beats⟩
  · obtain ⟨q, node⟩ := fired_node (nodeTake s tile n f j) g tile n f 0
      (fun x => { x with last := j, stall := (x.stall.counted (nodeWaits (s.tile tile) n f)).fire }) b
    exact ⟨_, execMerge_room runs first room, rfl, passes_fired s g tile n f j 0 (by intro; rfl) b, (congrArg Node.last node :)⟩
  · exact ⟨_, execMerge_full runs first room, (nodeBlocked_still s tile n f 0 _).beats⟩
  · subst accepts
    have sent := nodeSend_sent (mapNd ((List.range (NdF.nin f)).foldl (mergeAccept tile n f) s) tile n
      (fun x => { x with held := x.held.erase b, next := x.next + 1, stall := (x.stall.counted (nodeWaits (s.tile tile) n f)).fire })) g tile n f 0 b
    obtain ⟨q, node⟩ := sent.node n
    rw [mapNd_tile, node_mapNode_same] at node
    refine ⟨_, execMergeTag runs healthy found room, rfl, ?_, (congrArg Node.held node :), (congrArg Node.next node :)⟩
    refine (sent.beats _).trans ?_
    rw [mapNd_tile, outSpot_congr (t := State.tile _ _) (u := Tile.mapNode _ _ _) rfl, if_pos rfl, beatsAt_mapNode rfl]
  · have took := nodeTake_took s tile n f j
    obtain ⟨q, e, w, node⟩ := took.node n
    have eq : mergeAccept tile n f s j = mapNd (nodeTake s tile n f j) tile n (fun x => { x with held := x.held ++ [b] }) :=
      mergeAccept_window head ordinary healthy window fresh
    dsimp only
    rw [eq, mapNd_tile, node_mapNode_same, beatsAt_mapNode rfl, took.beats, if_pos rfl, node]
    exact ⟨rfl, rfl⟩
  · have took := nodeTake_took s tile n f 0
    obtain ⟨q, e, w, node⟩ := took.node n
    refine ⟨_, execMulticastFire_runs runs, ?_, fun near apart => ?_⟩
    · rw [(fanRelease_still g tile n f _).taken, fanOut_taken, fanTake_admits head ordinary admits]
      refine (holdTaken_node (nodeTake s tile n f 0) g tile n f b).trans ?_
      rw [node]
    · rw [fanTake_admits head ordinary admits]
      exact multicast_fans g b _ near apart
  · exact branchFire_coil (g := g) stands past last room read
  · refine ⟨_, replicated f b, execReplicate_room runs head ordinary data room, rfl, passes_fired s g tile n f 0 0 (by intro; rfl) (replicated f b),
      replicated_tag f b, replicated_error f b, replicated_lanes f b⟩
  · exact ⟨_, execReplicate_full runs head ordinary data room, (nodeBlocked_still s tile n f 0 false).beats⟩
end

section
/-! PROOF. O47, of spec/02_graphs_threads_bights.md, spec/17_dispatch.md and spec/18_cuts_and_rollback.md: waves, loads and the end of a graph. -/

namespace Sys2Proof.Machine
open Sys2Proof.Safety Sys2Proof.Claims

/-! ### A machine of one graph -/

theorem graphs_single {s : State} {g : Nat} (h : s.graphs.map Prod.fst = [g]) : s.graphs = [(g, s.graph g)] := by
  match e : s.graphs, h with
  | [(k, y)], h =>
    have key : k = g := List.singleton_inj.1 h
    rw [State.graph, e, key]
    simp [Assoc.getD, Assoc.get?]
  | [], h => exact nomatch h
  | _ :: _ :: _, h => exact nomatch h

theorem mapGraph_single {s : State} {g : Nat} (h : s.graphs.map Prod.fst = [g]) (f : Graph → Graph) : (s.mapGraph g f).graphs = [(g, f (s.graph g))] := by
  show Assoc.set s.graphs g _ = _
  rw [graphs_single h]
  simp [Assoc.set]

theorem graph_of_graphs {s : State} {g : Nat} {y : Graph} (h : s.graphs = [(g, y)]) : s.graph g = y := by
  rw [State.graph, h]
  simp [Assoc.getD, Assoc.get?]

/-- A change of a graph is its value there. -/
theorem mapGraph_congr {s : State} {g : Nat} {f h : Graph → Graph} (e : f (s.graph g) = h (s.graph g)) : s.mapGraph g f = s.mapGraph g h := by
  unfold State.mapGraph
  rw [e]

/-! ### Frames (R167) -/

/-- R167: a frame that passes its checks is captured. -/
theorem execFrameCapture_ok {s : State} {tile gk : Nat} {addr : BitVec 32} {fr : BitVec 256}
    (held : ((s.tile tile).ctx (addr.toNat / 2 ^ 17 % 4)).graph = some gk) (loading : ((s.tile tile).ctx (addr.toNat / 2 ^ 17 % 4)).loading = true)
    (here : tileAt (addr.toNat / 2 ^ 26) (addr.toNat / 2 ^ 19 % 2 ^ 7) = tile) (whole : addr.toNat % 256 = 0) (within : addr.toNat / 2 ^ 8 % 2 ^ 7 ≤ 95)
    (kind : frameKind (addr.toNat / 2 ^ 8 % 2 ^ 7) = addr.toNat / 2 ^ 15 % 4)
    (ok : frameOk (s.graph gk) (s.part (gk / 65536)).portmask (addr.toNat / 2 ^ 8 % 2 ^ 7) fr.toNat = true)
    (free : claimedElsewhere (s.tile tile) (addr.toNat / 2 ^ 17 % 4) (addr.toNat / 2 ^ 8 % 2 ^ 7) fr.toNat = false) :
    exec (.frameCapture tile addr fr) s = .next (s.mapTile tile (fun t => t.mapCtx (addr.toNat / 2 ^ 17 % 4) (fun c =>
      { c with frames := Assoc.set c.frames (addr.toNat / 2 ^ 8 % 2 ^ 7) (.ofNat 256 (frameWritable (addr.toNat / 2 ^ 8 % 2 ^ 7) fr.toNat)) }))) := by
  have top : tileAt (fld addr.toNat 31 26) (fld addr.toNat 25 19) = tile := by
    rw [← here, fld, fld, Nat.mod_eq_of_lt]
    have := addr.isLt
    omega
  have low : fld addr.toNat 7 0 = 0 := by
    rw [fld, Nat.pow_zero, Nat.div_one]
    exact whole
  have pass : (fld addr.toNat 7 0 == 0 && decide (fld addr.toNat 14 8 ≤ 95) && frameKind (fld addr.toNat 14 8) == fld addr.toNat 16 15 &&
      frameOk (s.graph gk) (s.part (graphPart gk)).portmask (fld addr.toNat 14 8) fr.toNat &&
      !claimedElsewhere (s.tile tile) (fld addr.toNat 18 17) (fld addr.toNat 14 8) fr.toNat) = true := by
    rw [low, show frameOk (s.graph gk) (s.part (graphPart gk)).portmask (fld addr.toNat 14 8) fr.toNat = true from ok,
      show claimedElsewhere (s.tile tile) (fld addr.toNat 18 17) (fld addr.toNat 14 8) fr.toNat = false from free,
      decide_eq_true (p := fld addr.toNat 14 8 ≤ 95) within, show frameKind (fld addr.toNat 14 8) = fld addr.toNat 16 15 from kind, beq_self_eq_true]
    rw [beq_self_eq_true]
    rfl
  have mine : (!((s.tile tile).ctx (fld addr.toNat 18 17)).loading || tileAt (fld addr.toNat 31 26) (fld addr.toNat 25 19) != tile) = false := by
    rw [show ((s.tile tile).ctx (fld addr.toNat 18 17)).loading = true from loading, top, bne_self_eq_false]
    rfl
  show Host.Outcome.next (match ((s.tile tile).ctx (fld addr.toNat 18 17)).graph with | none => s | some gk => _) = _
  rw [show ((s.tile tile).ctx (fld addr.toNat 18 17)).graph = some gk from held]
  dsimp only
  rw [mine, if_neg Bool.false_ne_true, pass]
  rfl

/-! ### The end of a load (R30) -/

/-- R30: a first load that fails in no tile. -/
theorem execLoadingComplete_fresh {s : State} {g : Nat} (loading : (s.graph g).st = .loading) (fresh : (s.graph g).snap = none)
    (clean : ∀ ti ∈ (graphTiles (s.graph g)).map (fun x => x.2.2), ∀ k ∈ (List.range (s.graph g).nctx).map (physCtx (s.graph g)),
      (((((List.range (s.graph g).nctx).map (physCtx (s.graph g))).foldl (fun s' k =>
        endLoad s' (s.graph g).part k ((graphTiles (s.graph g)).map (fun x => x.2.2)) false) s).tile ti).ctx k).failed = false) :
    exec (.loadingComplete g) s = .next (
      let s2 := enterRunning (((List.range (s.graph g).nctx).map (physCtx (s.graph g))).foldl (fun s' k =>
        endLoad s' (s.graph g).part k ((graphTiles (s.graph g)).map (fun x => x.2.2)) false) s) g
      if ((graphTiles (s.graph g)).map (fun x => x.2.2)).any (fun ti => (s2.tile ti).retired || (s2.tile ti).routerRetired) then trigger s2 g 0x0B
      else s2) := by
  have none_ : ((graphTiles (s.graph g)).map (fun x => x.2.2)).any (fun ti => ((List.range (s.graph g).nctx).map (physCtx (s.graph g))).any (fun k =>
      (((((List.range (s.graph g).nctx).map (physCtx (s.graph g))).foldl (fun s' k =>
        endLoad s' (s.graph g).part k ((graphTiles (s.graph g)).map (fun x => x.2.2)) false) s).tile ti).ctx k).failed)) = false :=
    List.any_eq_false.2 (fun ti m => by
      rw [Bool.not_eq_true, List.any_eq_false]
      intro k mk
      rw [clean ti m k mk]
      exact Bool.false_ne_true)
  show Host.Outcome.next (if (s.graph g).st != .loading then s else _) = _
  rw [loading]
  refine congrArg _ ((if_neg (by decide)).trans ((if_neg (Bool.eq_false_iff.1 none_)).trans ?_))
  rw [fresh]

/-! ### Markers at elements (R56) -/

section
variable {s : State} {g tile k : Nat} {n : BitVec 16} (one : s.graphs.map Prod.fst = [g]) (ctx : graphCtxs s g tile = [k])
  (wave : (s.graph g).openWave = some n) (runs : (s.graph g).frozen = false)
include one ctx

theorem execMarkerArrival_slot (wave : (s.graph g).openWave = some n) (unit : Nat) :
    exec (.markerArrival tile 6 unit) s = .next (markSlot s g tile unit n) := by
  show Host.Outcome.next ((s.graphs.map Prod.fst).foldl _ s) = _
  rw [one, List.foldl_cons, List.foldl_nil]
  dsimp only
  rw [if_pos rfl, wave, ctx]
  rfl

theorem execMarkerArrival_element {kind : Nat} (other : kind ≠ 6) (unit : Nat) :
    exec (.markerArrival tile kind unit) s = .next (markStep s g tile k kind unit) := by
  show Host.Outcome.next ((s.graphs.map Prod.fst).foldl _ s) = _
  rw [one, List.foldl_cons, List.foldl_nil]
  dsimp only
  rw [if_neg other, ctx]
  rfl

include wave runs
omit one ctx in
theorem markStep_open (kind unit : Nat) : markStep s g tile k kind unit =
    match kind with
    | 2 => if claimNd (s.tile tile) unit = some k then markNode s g tile k unit n else s
    | 3 => if claimEn (s.tile tile) unit = some k then markEngine s g tile k unit n else s
    | 4 => if unit = k then latchTry (markFeed s g tile k n) g tile k n else s
    | 5 => if unit = k then markDrain s g tile k n else s
    | _ => s := by
  unfold markStep
  rw [wave]
  dsimp only
  rw [runs, if_neg Bool.false_ne_true] <;> rfl

end

/-! ### The image of a tile (R59, R60) -/

/-- R60: a tile whose image the snapshot holds is not latched again. -/
theorem saveTile_held {s : State} {g tile : Nat} {n : BitVec 16} {p : Snap} (wave : (s.graph g).openWave = some n)
    (pending : (s.graph g).pending = some p) (has : p.tiles.any (fun t => t.tile == tile) = true) : saveTile s g tile = s := by
  unfold saveTile
  rw [wave, pending]
  dsimp only
  rw [has, Bool.or_true, Bool.true_or, Bool.true_or, if_pos rfl]

/-- R60: what a latched tile adds to the snapshot of its graph. -/
def latchedSnap (s : State) (g tile : Nat) (p : Snap) : Snap :=
  { p with
    tiles := p.tiles ++ [tileImage s g tile p.late p.lateRegs]
    rects := p.rects ++ s.rects.filter (fun q => tileAt q.x q.y == tile && s.regions.any (fun r => r.graph == g && r.onRect q))
    saving := Assoc.set p.saving tile { rows := contentRows s g p (tileImage s g tile p.late p.lateRegs), done := 0, posted := false, due := s.cycle.toNat } }

/-- R60: a tile all of whose elements have latched. -/
theorem saveTile_latched {s : State} {g tile : Nat} {n : BitVec 16} {p : Snap} (wave : (s.graph g).openWave = some n)
    (pending : (s.graph g).pending = some p) (runs : (s.graph g).frozen = false) (fresh : ∀ y ∈ p.tiles, y.tile ≠ tile)
    (latched : tileLatched s g tile n = true) (ctxs : graphCtxs s g tile ≠ []) :
    saveTile s g tile = s.mapGraph g (fun x => { x with pending := some (latchedSnap s g tile p) }) := by
  have none_ : p.tiles.any (fun t => t.tile == tile) = false := List.any_eq_false.2 (fun y m => by rw [beq_iff_eq]; exact fresh y m)
  have some_ : (graphCtxs s g tile).isEmpty = false := by
    cases h : graphCtxs s g tile with
    | nil => exact absurd h ctxs
    | cons k l => rfl
  unfold saveTile
  rw [wave, pending]
  dsimp only
  rw [runs, none_, latched, some_, Bool.or_false, Bool.or_false, Bool.not_true, Bool.or_false, if_neg Bool.false_ne_true]
  refine mapGraph_congr ?_
  rw [pending]
  rfl

/-- R60: the save under way at a tile. -/
theorem execSnapshotRowSave_one {s : State} {g tile : Nat} {v : Saving} {p : Snap} (one : s.graphs.map Prod.fst = [g])
    (single : (saveTile s g tile).graphs = [(g, (saveTile s g tile).graph g)])
    (pending : ((saveTile s g tile).graph g).pending = some p) (saving : Assoc.get? p.saving tile = some v) :
    exec (.snapshotRowSave tile) s = .next (saveStep (saveTile s g tile) g tile v) := by
  show Host.Outcome.next (match (((s.graphs.map Prod.fst).foldl (fun s g => saveTile s g tile) s).graphs.findSome? _ : Option (Nat × Saving)) with
    | some (g, v) => _
    | none => _) = _
  rw [one, List.foldl_cons, List.foldl_nil, single, List.findSome?_cons]
  dsimp only
  rw [pending, Option.bind_some, saving]
  rfl

/-- R60: what is left of a save that has no row to write, or none whose activate is posted, has the images as they were. -/
theorem saveStep_tiles {s : State} {g tile : Nat} {v : Saving} (new : v.posted = false) :
    ((saveStep s g tile v).graph g).pending.map (fun p => p.tiles) = (s.graph g).pending.map (fun p => p.tiles) := by
  have put (u : State) (f : Snap → Snap) (hf : ∀ p, (f p).tiles = p.tiles) :
      ((mapPending u g f).graph g).pending.map (fun p => p.tiles) = (u.graph g).pending.map (fun p => p.tiles) := by
    show ((State.mapGraph u g _).graph g).pending.map _ = _
    rw [State.graph_mapGraph, if_pos rfl, Option.map_map]
    exact congrArg (Option.map · _) (funext hf)
  unfold saveStep
  dsimp only
  split
  · split
    · rfl
    · exact put s _ (fun _ => rfl)
  · rw [new, Bool.not_false, if_pos rfl]
    split
    · exact put s _ (fun _ => rfl)
    · exact put (postSave s g tile _) _ (fun _ => rfl)

theorem Written.shadow {s t : State} (h : Written s t) : t.shadow = s.shadow := by obtain ⟨a, b, c, d, e, f, rfl⟩ := h; rfl

theorem resets_pending (l : List Nat) (u : State) (g key : Nat) (f : Snap → Snap) :
    (mapPending (l.foldl (fun s i => s.setSector (key / 32 + i) .reset) u) g f).shadow = u.shadow ∧
    ((mapPending (l.foldl (fun s i => s.setSector (key / 32 + i) .reset) u) g f).graph g).pending = (u.graph g).pending.map f := by
  have resets : Written u (l.foldl (fun s i => s.setSector (key / 32 + i) .reset) u) :=
    Written.foldl _ _ (fun s i => setSector_written s _ _) u
  refine ⟨resets.shadow, ?_⟩
  show ((State.mapGraph (l.foldl (fun s i => s.setSector (key / 32 + i) .reset) u) g _).graph g).pending = _
  rw [State.graph_mapGraph, if_pos rfl, resets.logged.graph]

/-- R60: a row of an image as it is written to the slot of its wave. -/
theorem writeRow_eq {s : State} {g tile r : Nat} {p : Snap} {y : TileSnap} (pending : (s.graph g).pending = some p)
    (image : p.tiles.find? (fun y => y.tile == tile) = some y) :
    (writeRow s g tile r).shadow = Memory.writeBytes s.shadow (shadowKey s tile (128 * shadowOf (s.graph g) tile p.wave + r)) (rowBytes p y r s.drawn) ∧
    ((writeRow s g tile r).graph g).pending.isSome = true := by
  unfold writeRow
  dsimp only
  rw [pending]
  dsimp only
  rw [image]
  dsimp only
  obtain ⟨shadow, graph⟩ := resets_pending (List.range 96)
    { s with
      shadow := Memory.writeBytes s.shadow (shadowKey s tile (128 * shadowOf (s.graph g) tile p.wave + r)) (rowBytes p y r s.drawn)
      drawn := if r < 114 then s.drawn else s.drawn + 1 }
    g (shadowKey s tile (128 * shadowOf (s.graph g) tile p.wave + r)) (fun p =>
      { p with tiles := p.tiles.map (fun t => if t.tile = tile then { t with rows := t.rows ++ [r] } else t) })
  refine ⟨shadow, ?_⟩
  rw [graph]
  show (Option.map _ (s.graph g).pending).isSome = true
  rw [pending]
  rfl

/-- R60: the next row of a save, whose activate has been performed, is written. -/
theorem saveStep_row {s : State} {g tile r : Nat} {rest : List Nat} {p : Snap} {y : TileSnap} {v : Saving} (pending : (s.graph g).pending = some p)
    (image : p.tiles.find? (fun y => y.tile == tile) = some y) (rows : v.rows = r :: rest) (posted : v.posted = true)
    (idle : ((s.tile tile).bank (firstShadow s tile + (128 * shadowOf (s.graph g) tile p.wave + r) / 2048)).bgSince = none) :
    (saveStep s g tile v).shadow = Memory.writeBytes s.shadow (shadowKey s tile (128 * shadowOf (s.graph g) tile p.wave + r)) (rowBytes p y r s.drawn) ∧
    (((saveStep s g tile v).graph g).pending.bind (fun p => Assoc.get? p.saving tile)).map (fun v => v.rows) = some rest := by
  obtain ⟨bytes, some_⟩ := writeRow_eq (r := r) pending image
  have put (u : State) (w : Saving) (h : (u.graph g).pending.isSome = true) :
      (((mapPending u g (fun p => { p with saving := Assoc.set p.saving tile w })).graph g).pending.bind (fun p => Assoc.get? p.saving tile)).map
        (fun v => v.rows) = some w.rows := by
    obtain ⟨q, e⟩ := Option.isSome_iff_exists.1 h
    show (Option.bind (((State.mapGraph u g _).graph g).pending) _).map _ = _
    rw [State.graph_mapGraph, if_pos rfl, e]
    show (Option.map _ (Assoc.get? (Assoc.set _ _ _) _)) = _
    rw [Assoc.get?_set_same]
    rfl
  unfold saveStep
  dsimp only
  rw [rows]
  dsimp only
  rw [posted, pending]
  dsimp only
  rw [idle, Bool.not_true, if_neg Bool.false_ne_true, Option.isSome_none, if_neg Bool.false_ne_true]
  cases rest with
  | nil => exact ⟨bytes, put _ _ some_⟩
  | cons q l => exact ⟨bytes, put (postSave (writeRow s g tile r) g tile q) _ some_⟩

theorem sendHeld_graphs (s : State) (p : Nat × BitVec 16 × Nat × Byte → Bool) : (sendHeld s p).graphs = s.graphs := by
  unfold sendHeld sentSignals
  exact foldl_graphs _ _ (fun s l => signalLine_graphs s _) _

theorem releaseEgress_graphs (s : State) (g : Nat) (n : BitVec 16) : (releaseEgress s g n).graphs = s.graphs := sendHeld_graphs s _

theorem freeSpent_graphs (s : State) (g : Nat) : (freeSpent s g).graphs = s.graphs := by
  unfold freeSpent
  exact foldl_graphs _ _ (by intros; rfl) s

/-- R58: a wave recorded as complete, under no cut. -/
theorem recordWave_graph {s : State} {g : Nat} (n : BitVec 16) (cutting : (s.graph g).cutting = false) (next : (s.graph g).cutNext = false) :
    ((recordWave s g n).graph g).lastWave = n ∧ ((recordWave s g n).graph g).openWave = none ∧ ((recordWave s g n).graph g).deadline = none ∧
    ((recordWave s g n).graph g).rollbacks = 0 := by
  have same (u : State) : (freeSpent (releaseEgress (dropUndo u g n) g n) g).graph g = u.graph g := by
    rw [State.graph, freeSpent_graphs, releaseEgress_graphs]
    rfl
  dsimp only [recordWave]
  rw [cutting, next, if_neg Bool.false_ne_true, if_neg Bool.false_ne_true, same, State.graph_mapGraph, if_pos rfl]
  exact ⟨rfl, rfl, rfl, rfl⟩

/-- R58: a wave that is done, with its rate groups in balance. -/
theorem execWaveComplete_done {s : State} {g : Nat} {n : BitVec 16} {p : Snap} (wave : (s.graph g).openWave = some n)
    (pending : (s.graph g).pending = some p) (running : (s.graph g).st = .running) (runs : (s.graph g).frozen = false)
    (free : (s.graph g).waiting = none) (done : waveDone s g n = true) (balance : imbalance (rateMembers s g p) = none) :
    exec (.waveComplete g) s = .next (if encodesHeld (drainCodec (drainGraph s g n)) g then drainCodec (drainGraph s g n)
      else recordWave (drainCodec (drainGraph s g n)) g n) := by
  show Host.Outcome.next (match (s.graph g).openWave, (s.graph g).pending with | some n, some p => _ | _, _ => s) = _
  rw [wave, pending]
  dsimp only
  rw [running, runs, free, done, balance]
  rfl

/-! ### Commits and knots that wait (R44, R180) -/

/-- R44: a commit that is no longer held. -/
theorem execCommit_free {s s1 : State} {th : Nat} (running : (s.thread th).run = .running) (waits : (s.thread th).wait = .commit)
    (fires : elementRuns s (th / 4) (s.thread th).graph = true) (plain : contained (s.graph (s.thread th).graph) = false)
    (epoch : epochMetBy s th (deferredReads (s.thread th).bight.stores) = none) (commits : commitBlock s th = (s1, none)) :
    exec (.commit th) s = .next (release s1 th none (s.thread th).pc) := by
  show Host.Outcome.next (if (s.thread th).run != .running || (s.thread th).wait != .commit || !elementRuns s (tileOf th) (s.thread th).graph ||
    (contained (s.graph (s.thread th).graph) && _) then s else match epochMetBy s th (deferredReads (s.thread th).bight.stores) with
      | some n => _ | none => match commitBlock s th with | (s', none) => _ | _ => _) = _
  rw [running, waits, show elementRuns s (tileOf th) _ = true from fires, plain, epoch, commits]
  rfl

theorem acceptHeld_none {s : State} {th : Nat} (h : s.held.any (fun o => o.th == th) = false) : acceptHeld s th = s := by
  have others (o : HomeOp) (m : o ∈ s.held) : (o.th == th) = false := Bool.eq_false_iff.2 (List.any_eq_false.1 h o m)
  have mine : s.held.filter (fun o => o.th == th) = [] := List.filter_eq_nil_iff.2 (fun o m => by rw [others o m]; exact Bool.false_ne_true)
  have rest : s.held.filter (fun o => o.th != th) = s.held := List.filter_eq_self.2 (fun o m => by rw [bne, others o m]; rfl)
  rw [acceptHeld, mine, rest]
  rfl

/-! ### Rollbacks (R418 to R420) -/

/-- R418: a rollback of a graph that cannot go back. -/
theorem execRollback_ends {s : State} {g cause : Nat} (running : (s.graph g).st = .running) (runs : (s.graph g).frozen = false)
    (ends : (s.graph g).snap = none ∨ contained (s.graph g) = false ∨ (s.graph g).lapsed = true ∨ 2 ≤ (s.graph g).rollbacks) :
    exec (.rollback g cause) s = .next (endGraph s g .terminated (triggerCause cause)) := by
  show Host.Outcome.next (if (s.graph g).st != .running then s else if (s.graph g).frozen then _ else match (s.graph g).snap with
    | some sn => if !contained (s.graph g) || (s.graph g).lapsed || decide (3 ≤ (s.graph g).rollbacks + 1) then _ else _
    | none => _) = _
  rw [running, runs]
  refine congrArg _ ((if_neg (by decide)).trans ((if_neg Bool.false_ne_true).trans ?_))
  cases h : (s.graph g).snap with
  | none => rfl
  | some sn =>
    rw [h] at ends
    refine if_pos ?_
    rcases ends with x | x | x | x
    · exact nomatch x
    · rw [x]
      rfl
    · rw [x, Bool.or_true]
      rfl
    · rw [decide_eq_true (Nat.succ_le_succ x), Bool.or_true]

/-- R419: a rollback of a contained graph to its last complete wave. -/
theorem execRollback_back {s : State} {g cause : Nat} {sn : Snap} (running : (s.graph g).st = .running) (runs : (s.graph g).frozen = false)
    (snap : (s.graph g).snap = some sn) (held : contained (s.graph g) = true) (kept : (s.graph g).lapsed = false) (few : (s.graph g).rollbacks < 2) :
    exec (.rollback g cause) s = .next (rollBack ((record s (Rec.plain 0x12 (tileAt (s.graph g).x (s.graph g).y) (some g) cause 0 0)).mapGraph g
      (fun y => { y with rollbacks := (s.graph g).rollbacks + 1, waiting := none })) g sn) := by
  show Host.Outcome.next (if (s.graph g).st != .running then s else if (s.graph g).frozen then _ else match (s.graph g).snap with
    | some sn => if !contained (s.graph g) || (s.graph g).lapsed || decide (3 ≤ (s.graph g).rollbacks + 1) then _ else _
    | none => _) = _
  rw [running, runs, snap]
  refine congrArg _ ((if_neg (by decide)).trans ((if_neg Bool.false_ne_true).trans (if_neg ?_)))
  rw [held, kept, decide_eq_false (Nat.not_le.2 (Nat.succ_lt_succ few))]
  decide

/-- R180: the knot of a slot whose commit holds nothing back. -/
theorem execKnotRetire_free {s : State} {th : Nat} (waits : (s.thread th).wait = .commit) (none_ : s.held.any (fun o => o.th == th) = false)
    (stores : (s.thread th).bight.stores = []) (pushes : (s.thread th).bight.pushes = []) (pops : (s.thread th).bight.pops = [])
    (quiet : commitPending s th = false) (free : startedHolds (s.thread th) = false) :
    exec (.knotRetire th) s = .next (s.mapThread th (fun t => { t with wait := .none })) := by
  have run : exec (.knotRetire th) s = .next (
      let u := acceptHeld s th
      if (u.thread th).wait == .commit && (u.thread th).bight.stores.isEmpty && (u.thread th).bight.pushes.isEmpty && (u.thread th).bight.pops.isEmpty &&
          !commitPending u th && !startedHolds (u.thread th) then u.mapThread th (fun t => { t with wait := .none }) else u) := rfl
  rw [run, acceptHeld_none none_]
  dsimp only
  rw [waits, stores, pushes, pops, quiet, free]
  rfl

/-! ### The end of a graph (R30, R401) -/

/-- R30: a graph that has halted retires. -/
theorem execGraphRetire_halted {s : State} {g : Nat} (running : (s.graph g).st = .running) (runs : (s.graph g).frozen = false)
    (active : isActive s g = true) (halted : hasHalted s g = true) : exec (.graphRetire g) s = .next (endGraph s g .retired 0) := by
  show Host.Outcome.next (if (s.graph g).st == .running && !(s.graph g).frozen && isActive s g && hasHalted s g then endGraph s g .retired 0 else s) = _
  rw [running, runs, active, halted]
  rfl

/-- R401: a hung graph, stopped, and the map of it written where its record says. -/
def mappedHang (s : State) (g : Nat) : State :=
  if recDword (s.graph g) 5 = 0 then (freezeGraph s g none).mapGraph g (fun g => { g with hung := true })
  else (linePieces (wd (recDword (s.graph g) 5)) (hangMap s g).length).foldl (fun u p =>
    sysWriteOrDrop u (s.graph g).part (tileAt (s.graph g).x (s.graph g).y) 3 p.1 (((hangMap s g).drop p.2.1).take p.2.2))
    ((freezeGraph s g none).mapGraph g (fun g => { g with hung := true }))

theorem mappedHang_graph {s : State} {g : Nat} (runs : (s.graph g).frozen = false) : ((mappedHang s g).graph g).hung = true ∧
    ((mappedHang s g).graph g).frozen = true ∧ (mappedHang s g).threads = s.threads := by
  have frozen : freezeGraph s g none = s.mapGraph g (fun g => { g with frozen := true, freezer := none, frozenAt := s.mod.ref }) :=
    if_neg (Bool.eq_false_iff.1 runs)
  have stopped : let u := (freezeGraph s g none).mapGraph g (fun g => { g with hung := true })
      (u.graph g).hung = true ∧ (u.graph g).frozen = true ∧ u.threads = s.threads := by
    dsimp only
    rw [frozen, State.graph_mapGraph, if_pos rfl, State.graph_mapGraph, if_pos rfl]
    exact ⟨rfl, rfl, rfl⟩
  unfold mappedHang
  split
  · exact stopped
  · have mapped := Logged.foldl (linePieces (wd (recDword (s.graph g) 5)) (hangMap s g).length)
      (fun u p => sysWriteOrDrop u (s.graph g).part (tileAt (s.graph g).x (s.graph g).y) 3 p.1 (((hangMap s g).drop p.2.1).take p.2.2))
      (fun u p => sysWriteOrDrop_logged u _ _ _ _ _) ((freezeGraph s g none).mapGraph g (fun g => { g with hung := true }))
    rw [mapped.graph, mapped.threads]
    exact stopped

/-- R401: a graph in which nothing has fired for its limit. -/
theorem execHangDetect_late {s : State} {g : Nat} (running : (s.graph g).st = .running) (runs : (s.graph g).frozen = false)
    (late : hangLimit (s.graph g) ≤ (s.graph g).hang) :
    exec (.hangDetect g) s = .next (graphTrap (record (mappedHang s g) (Rec.plain 0x0C (tileAt (s.graph g).x (s.graph g).y) (some g) 0
      (wd (recDword (s.graph g) 5)) 0)) g 0x15 (wd (recDword (s.graph g) 5))) := by
  have run : exec (.hangDetect g) s = .next (if (s.graph g).st != .running || (s.graph g).frozen || decide ((s.graph g).hang < hangLimit (s.graph g)) then s
      else graphTrap (record (mappedHang s g) (Rec.plain 0x0C (tileAt (s.graph g).x (s.graph g).y) (some g) 0
        (wd (recDword (s.graph g) 5)) 0)) g 0x15 (wd (recDword (s.graph g) 5))) := rfl
  rw [run, running, runs, decide_eq_false (Nat.not_lt.2 late)]
  rfl

end Sys2Proof.Machine

open Sys2Proof Sys2Proof.Machine Sys2Proof.Safety Sys2Proof.Claims

/-- Settles O47, step by step. -/
theorem waveSteps : Obligations.WaveSteps := by
  intro s g tile th x t0
  refine ⟨fun addr fr gk held loading here whole within kind ok free => execFrameCapture_ok held loading here whole within kind ok free,
    fun loading fresh clean => ⟨fun up => ?_, fun ti m down => ?_⟩,
    fun k n unit one ctx wave runs => ?_, fun n p one ctxs wave pending runs fresh latched => ?_,
    fun n p y v r rest one wave pending image saving rows posted idle => ?_, fun n p wave pending running runs free done balance => ?_,
    fun n d wave deadline runs late => ?_, fun s1 running waits fires plain epoch commits => ?_, fun waits none_ stores pushes pops quiet free => ?_,
    fun cause running stands => ?_, fun cause running runs ends => ?_, fun cause sn running runs snap held kept few => ?_,
    fun running runs active halted => ?_, fun running runs late => ?_⟩
  · rw [execLoadingComplete_fresh loading fresh clean]
    refine congrArg _ (if_neg ?_)
    rw [List.any_eq_true]
    rintro ⟨ti, m, down⟩
    obtain ⟨tile, router⟩ := up ti m
    rw [tile, router] at down
    exact Bool.false_ne_true down
  · rw [execLoadingComplete_fresh loading fresh clean]
    exact congrArg _ (if_pos (List.any_eq_true.2 ⟨ti, m, Bool.or_eq_true_iff.2 down⟩))
  · refine ⟨fun claimed => ?_, fun claimed => ?_, ?_, ?_, execMarkerArrival_slot one ctx wave unit⟩
    · rw [execMarkerArrival_element one ctx (by decide), markStep_open wave runs]
      exact congrArg _ (if_pos claimed)
    · rw [execMarkerArrival_element one ctx (by decide), markStep_open wave runs]
      exact congrArg _ (if_pos claimed)
    · rw [execMarkerArrival_element one ctx (by decide), markStep_open wave runs]
      exact congrArg _ (if_pos rfl)
    · rw [execMarkerArrival_element one ctx (by decide), markStep_open wave runs]
      exact congrArg _ (if_pos rfl)
  · have save := saveTile_latched wave pending runs fresh latched ctxs
    have same : ((saveTile s g tile).graph g) = { s.graph g with pending := some (latchedSnap s g tile p) } := by
      rw [save, State.graph_mapGraph, if_pos rfl]
    have single : (saveTile s g tile).graphs = [(g, (saveTile s g tile).graph g)] := by
      rw [same, save]
      exact mapGraph_single one _
    have found : ((saveTile s g tile).graph g).pending = some (latchedSnap s g tile p) := by rw [same]
    refine ⟨_, execSnapshotRowSave_one one single found (Assoc.get?_set_same _ _ _), (saveStep_tiles rfl).trans ?_⟩
    rw [found]
    rfl
  · have kept : saveTile s g tile = s := saveTile_held wave pending
      (List.any_eq_true.2 ⟨y, List.mem_of_find?_eq_some image, List.find?_some (p := fun y : TileSnap => y.tile == tile) image⟩)
    refine ⟨_, execSnapshotRowSave_one one ?_ ?_ saving, ?_⟩
    · rw [kept]
      exact graphs_single one
    · rw [kept]
      exact pending
    · rw [kept]
      exact saveStep_row pending image rows posted idle
  · refine ⟨fun held => ?_, fun held cutting next => ?_⟩
    · rw [execWaveComplete_done wave pending running runs free done balance]
      exact congrArg _ (if_pos held)
    · refine ⟨_, (execWaveComplete_done wave pending running runs free done balance).trans (congrArg _ (if_neg (Bool.eq_false_iff.1 held))), ?_⟩
      exact recordWave_graph n cutting next
  · show Host.Outcome.next (match x.openWave, x.deadline with | some n, some d => _ | _, _ => s) = _
    rw [wave, deadline]
    dsimp only
    rw [runs, decide_eq_false (Nat.not_lt.2 late)]
    rfl
  · exact execCommit_free running waits fires plain epoch commits
  · exact execKnotRetire_free waits none_ stores pushes pops quiet free
  · show Host.Outcome.next (if x.st != .running then s else if x.frozen then _ else _) = _
    rw [running, stands]
    rfl
  · exact ⟨_, execRollback_ends running runs ends, (endGraph_graph s g _ _).1⟩
  · exact ⟨Rec.plain 0x12 (tileAt x.x x.y) (some g) cause 0 0, ⟨rfl, rfl, rfl⟩, execRollback_back running runs snap held kept few⟩
  · obtain ⟨st, code, _, _⟩ := endGraph_graph s g .retired 0
    exact ⟨_, execGraphRetire_halted running runs active halted, st, code⟩
  · exact ⟨mappedHang s g, Rec.plain 0x0C (tileAt x.x x.y) (some g) 0 (wd (recDword x 5)) 0, ⟨rfl, rfl, rfl⟩,
      execHangDetect_late running runs late, mappedHang_graph runs⟩
end

section
/-! PROOF. O48, of spec/11_isa_fabric.md and spec/16_privileged_state.md: engines and the array. -/

namespace Sys2Proof.Machine
open Sys2Proof.Safety Sys2Proof.Claims

/-! ### Queues of a thread (R182, R316) -/

theorem queue_mapQueue_same (t : Thread) (q : Nat) (f : Queue → Queue) : (t.mapQueue q f).queue q = f (t.queue q) :=
  Vector.getElem_set_self ..

/-- R316: the head of a free queue leaves it as its start check says. -/
theorem startHead_free {s : State} {th q : Nat} {c : Cmd} {rest : List Cmd} (waiting : ((s.thread th).queue q).waiting = c :: rest)
    (free : queueFree s.cycle.toNat (s.thread th) q c.i = true) (token : takeFifo q c.i = none) (step : outOfStep s th q c.i = false) :
    startHead s th q =
      let s1 := s.mapThread th (fun t => t.mapQueue q (fun u => { waiting := rest, active := u.active ++ [Active.start c] }))
      match startCheck s1 th c with
      | some f => startFails s1 th q ((s.thread th).queue q).active.length f
      | none => beginActive s1 th q ((s.thread th).queue q).active.length (Active.start c) := by
  dsimp only [startHead]
  rw [waiting]
  dsimp only
  rw [token, free, step]
  rfl

theorem giveToken_frame (t : Thread) (q : Nat) (i : Instr) : (giveToken t q i).queues = t.queues ∧ (giveToken t q i).s = t.s := by
  unfold giveToken Thread.setFifo
  split
  · exact ⟨rfl, rfl⟩
  · split
    · split
      · exact ⟨rfl, rfl⟩
      · exact ⟨rfl, rfl⟩
    · exact ⟨rfl, rfl⟩

theorem keepWrite_frame (t : Thread) (d : BitVec 5) (w : Word) : (t.keepWrite d w).queues = t.queues ∧ (t.keepWrite d w).s = t.s := by
  unfold Thread.keepWrite
  split
  · exact ⟨rfl, rfl⟩
  · exact ⟨rfl, rfl⟩

/-- R182: a command alone in its queue that has done its work retires. -/
theorem retireOne_single {s : State} {th q : Nat} {a : Active} (only : ((s.thread th).queue q).active = [a]) (due : retires s th q a = true) :
    retireOne th q s = retireAt s th q 0 a := by
  have paid : (a.done && a.owed != 0 && a.held.isNone) = false := by
    unfold retires at due
    simp only [Bool.and_eq_true, beq_iff_eq] at due
    rw [due.1.1.2]
    simp
  dsimp only [retireOne]
  rw [only, List.findIdx?_cons, paid]
  dsimp only [List.findIdx?_nil, Option.map]
  rw [if_neg Bool.false_ne_true]
  dsimp only
  rw [only, List.findIdx?_cons, due]
  rfl

theorem queue_congr {t u : Thread} (h : t.queues = u.queues) (q : Nat) : t.queue q = u.queue q := by
  unfold Thread.queue
  rw [h]

theorem rs_congr {t u : Thread} (h : t.s = u.s) (d : BitVec 5) : t.rs d = u.rs d := by
  unfold Thread.rs
  rw [h]

/-- R182: what a command that retires leaves in its thread. -/
theorem retireAt_thread {s : State} {th q : Nat} {a : Active} (only : ((s.thread th).queue q).active = [a]) :
    (((retireAt s th q 0 a).thread th).queue q).active = [] ∧
    ((retireAt s th q 0 a).thread th).rs (cmdDest a.cmd.i) = if cmdDest a.cmd.i = 0 then 0 else a.value := by
  let t1 := giveToken ((s.thread th).mapQueue q (fun u => { u with active := u.active.eraseIdx 0 })) q a.cmd.i
  have taken : (t1.queue q).active = [] := by
    rw [queue_congr (giveToken_frame _ q a.cmd.i).1, queue_mapQueue_same, only]
    rfl
  have written : (t1.ws (cmdDest a.cmd.i) a.value).rs (cmdDest a.cmd.i) = if cmdDest a.cmd.i = 0 then 0 else a.value := by
    rw [Thread.rs_ws]
    split
    · next h => rw [h]; rfl
    · rw [if_pos rfl]
  have kept := keepWrite_frame (t1.ws (cmdDest a.cmd.i) a.value) (cmdDest a.cmd.i) a.value
  have after : (retireAt s th q 0 a).thread th =
      if a.cmd.lvl then t1.ws (cmdDest a.cmd.i) a.value else (t1.ws (cmdDest a.cmd.i) a.value).keepWrite (cmdDest a.cmd.i) a.value := by
    rw [retireAt, State.thread_mapThread, if_pos rfl]
  rw [after]
  split
  · exact ⟨(congrArg Queue.active (queue_congr (Thread.ws_queues ..) q)).trans taken, written⟩
  · exact ⟨(congrArg Queue.active (queue_congr (kept.1.trans (Thread.ws_queues ..)) q)).trans taken, (rs_congr kept.2 _).trans written⟩

/-! ### Fills, feeds and vectors (R338, R341, R356) -/

/-- R338: a plane fill that no vector holds back is applied in every tile it covers. -/
theorem execPlaneFillApply_free {s : State} {th : Nat} {a : Active} {x : PlaneAct} (active_ : activeAt s th 2 0 = some a)
    (act : planeAct a.cmd.i = some x) (some_ : a.fill ≠ []) (notDone : a.done = false) (due : a.due ≤ s.cycle.toNat)
    (stands : slotStands s th = false) (clear : ∀ f ∈ a.fill, vectorsIn s f.1 (s.thread th).pctx.toNat = false) :
    exec (.planeFillApply th) s = .next (finish (moved (a.fill.foldl (applyPlane x a.cmd.va (s.thread th).pctx.toNat) s) (s.thread th).graph) th 2 0
      { a with fill := [] } s.cycle.toNat) := by
  have full : a.fill.isEmpty = false := by
    cases h : a.fill with
    | nil => exact absurd h some_
    | cons f l => rfl
  have all : a.fill.partition (fun f => !vectorsIn s f.1 (s.thread th).pctx.toNat) = (a.fill, []) := by
    rw [List.partition_eq_filter_filter]
    refine Prod.ext (List.filter_eq_self.2 (fun f m => by rw [clear f m]; rfl)) (List.filter_eq_nil_iff.2 (fun f m => ?_))
    rw [Function.comp_apply, clear f m]
    decide
  have run : exec (.planeFillApply th) s = .next (match activeAt s th 2 0 with
    | some a => match planeAct a.cmd.i with
      | some x =>
        if a.fill.isEmpty || a.done || decide (s.cycle.toNat < a.due) || slotStands s th then s else
        let parts := a.fill.partition (fun f => !vectorsIn s f.1 (s.thread th).pctx.toNat)
        let s1 := if parts.1.isEmpty then s else moved (parts.1.foldl (applyPlane x a.cmd.va (s.thread th).pctx.toNat) s) (s.thread th).graph
        if parts.2.isEmpty then finish s1 th 2 0 { a with fill := [] } s.cycle.toNat
        else setActive s1 th 2 0 { a with fill := parts.2 }
      | none => s
    | none => s) := rfl
  rw [run, active_]
  dsimp only
  rw [act]
  dsimp only
  rw [full, notDone, decide_eq_false (Nat.not_lt.2 due), stands, all]
  dsimp only
  rw [full]
  rfl

/-- R356: a tile whose feed port of context k has moved a beat from its input e, which keeps `rest`. -/
def fedTile (k e : Nat) (b : Beat) (rest : List Beat) (t : Tile) : Tile :=
  (t.mapEp e (fun p => { p.counted [b] with q := rest })).mapCtx k (fun c => { c with recBuf := c.recBuf ++ [b], feed := c.feed.fire })

theorem ctx_mapCtx_same (t : Tile) (k : Nat) (f : Ctx → Ctx) : (t.mapCtx k f).ctx k = f (t.ctx k) := Vector.getElem_set_self ..

theorem fedTile_recBuf (k e : Nat) (b : Beat) (rest : List Beat) (t : Tile) : ((fedTile k e b rest t).ctx k).recBuf = (t.ctx k).recBuf ++ [b] :=
  congrArg Ctx.recBuf (ctx_mapCtx_same (t.mapEp e (fun p => { p.counted [b] with q := rest })) k _)

theorem fedTile_queue (k e : Nat) (b : Beat) (rest : List Beat) (t : Tile) : ((fedTile k e b rest t).ep e).q = rest :=
  congrArg Endpoint.q (ep_mapEp_same t e (fun p => { p.counted [b] with q := rest }))

/-- R356: a feeder moves the beat at the head of its input. -/
theorem execFeedBeatMove_beat {s : State} {tile k g : Nat} {b : Beat} {rest : List Beat} (owner : ((s.tile tile).ctx k).graph = some g)
    (loaded : ((s.tile tile).ctx k).loaded = true) (on : MpF.feeden ((s.tile tile).ctx k).mpF = true) (runs : elementRuns s tile g = true)
    (free : feedHolds s g tile k = false) (healthy : ((s.tile tile).ctx k).feedFault = false)
    (queue : ((s.tile tile).ep (MpF.feedep ((s.tile tile).ctx k).mpF)).q = b :: rest)
    (room : ((s.tile tile).ctx k).recBuf.length < recordBeats (s.tile tile) k) (ordinary : b.isMarker = false) :
    exec (.feedBeatMove tile k) s = .next (moved (returnPermits
      (s.mapTile tile (fedTile k (MpF.feedep ((s.tile tile).ctx k).mpF) b rest)) tile (MpF.feedep ((s.tile tile).ctx k).mpF)) g) := by
  show Host.Outcome.next (match ((s.tile tile).ctx k).graph with | none => s | some g => _) = _
  rw [owner]
  dsimp only
  rw [loaded, on, runs, free, healthy, queue]
  dsimp only
  rw [decide_eq_false (Nat.not_le.2 room), ordinary]
  rfl

theorem ctx_congr {t u : Tile} (h : t.ctxs = u.ctxs) {k : Nat} : t.ctx k = u.ctx k := by
  unfold Tile.ctx
  rw [h]

/-- A search whose test is the same everywhere. -/
theorem findSome?_congr {α β : Type} {f g : α → Option β} (h : ∀ a, f a = g a) {l : List α} {b : β} (found : l.findSome? g = some b) :
    l.findSome? f = some b := by
  rw [funext h]
  exact found

/-- R99: the only vector under way, whose time has come. -/
theorem writeVectors_single {s : State} {q : Rect} {v : VecFly} (only : s.vecs = [v]) (ready : vectorReady s q v = true) :
    writeVectors q s.vecs.length s = moved (vectorDone (writeColumns { s with vecs := [] } v) v) (s.thread v.th).graph := by
  rw [only]
  show writeVectors q 1 s = _
  unfold writeVectors
  rw [only]
  rw [List.findIdx?_cons, ready]
  rfl

theorem vectorReady_due {s : State} {q : Rect} {v : VecFly} {r : Region} (only : s.vecs = [v]) (free : ∀ d ∈ v.cols, accWaits s d.1 v.row 1 = false)
    (x : v.x = q.x) (y : v.y = q.y) (due : v.due ≤ s.cycle.toNat) (mem : r ∈ s.regions) (on : r.onRect q = true) (ctx : r.pctx = v.pctx)
    (runs : fabricRuns s r.graph = true) : vectorReady s q v = true := by
  have region : s.regions.any (fun r => r.onRect q && r.pctx == v.pctx && fabricRuns s r.graph) = true :=
    List.any_eq_true.2 ⟨r, mem, by rw [on, ctx, runs, beq_self_eq_true]; rfl⟩
  have none_ : v.cols.any (fun d => accWaits s d.1 v.row 1) = false := List.any_eq_false.2 (fun d m => by rw [free d m]; exact Bool.false_ne_true)
  unfold vectorReady
  dsimp only
  rw [x, y, decide_eq_true due, only, region, List.any_cons, List.any_nil, none_, Bool.and_false]
  simp

/-! ### Traps and faults of engines (R318, R365, R433) -/

theorem bit_eq (n i : Nat) (h : n / 2 ^ i % 2 = 1) : bit n i = true := beq_iff_eq.2 h

/-- Table 16-3: the low byte of TCAUSE is the cause. -/
theorem trapCause_low {x : Trap} (small : x.code < 256) : x.cause.toNat % 256 = x.code := by
  have whole : x.cause.toNat % 256 = (x.code + (if x.e then 256 + x.queue * 512 else 0) + (if x.disc then 4096 else 0) + (if x.graph then 8192 else 0) +
      if x.e then x.epc.toNat * 2 ^ 32 else 0) % 256 := by
    rw [Trap.cause, wd, BitVec.toNat_ofNat, Nat.mod_mod_of_dvd _ (by decide)]
  rw [whole]
  split
  · split
    · split
      · omega
      · omega
    · split
      · omega
      · omega
  · split
    · split
      · omega
      · omega
    · split
      · omega
      · omega

/-- R366: the delivery of a trap to a thread at U, in which f has taken the trap from where it waited. -/
theorem deliver_trapped {s : State} {th : Nat} {f : Thread → Thread} {x : Trap} (user : (s.thread th).lvl = false)
    (window : bit (s.graph (s.thread th).graph).hwin.toNat 63 = true) (lvl : (f (s.thread th)).lvl = (s.thread th).lvl)
    (graph : (f (s.thread th)).graph = (s.thread th).graph) (regs : (f (s.thread th)).s = (s.thread th).s) (pc : x.pc = (s.thread th).pc)
    (small : x.code < 256) :
    let t := deliver (s.mapThread th f) th x
    Trapped s t th x.code x.val ∧ (t.thread th).late = (f (s.thread th)).late ∧ (t.thread th).pend = (f (s.thread th)).pend ∧
    (t.thread th).held = (f (s.thread th)).held ∧ (t.thread th).gtraps = (f (s.thread th)).gtraps := by
  have here : (s.mapThread th f).thread th = f (s.thread th) := by rw [State.thread_mapThread, if_pos rfl]
  obtain ⟨tbs, eq, _⟩ := deliver_user (s := s.mapThread th f) (i := th) (x := x) (by rw [here, lvl, user]) (by rw [here, graph]; exact window)
  dsimp only
  rw [eq, Trapped, State.thread_setThread, if_pos rfl, here]
  refine ⟨⟨rfl, trapCause_low small, rfl, pc, ?_, regs⟩, rfl, rfl, rfl, rfl⟩
  rw [graph]
  rfl

theorem withdraw_none {s : State} {i : Nat} (h : (s.thread i).gbar = none) : withdraw s i = s := by
  rw [withdraw, h]

/-- R318: the trap point of a running thread that awaits no barrier. -/
theorem execEngineTrapPoint_running {s : State} {th : Nat} (running : (s.thread th).run = .running) (gbar : (s.thread th).gbar = none) :
    exec (.engineTrapPoint th) s = .next (
      let t := s.thread th
      let at_ (code : Nat) (val : Word) (e graph : Bool) (q : Nat) (epc : PC) : Trap :=
        { code := code, val := val, pc := t.pc, disc := false, e := e, queue := q, epc := epc, graph := graph, open_ := !t.wait.outside }
      match t.late, t.pend with
      | some (c, v), _ => deliver (s.mapThread th (fun t => { t with late := none })) th (at_ c v false false 0 0)
      | none, some p => deliver (s.mapThread th (fun t => { t with pend := none })) th (at_ p.code p.tval true false p.q p.epc)
      | none, none =>
        if t.lvl then s else
        match t.held, t.gtraps with
        | some p, _ => deliver (s.mapThread th (fun t => { t with held := none })) th (at_ p.code p.tval true false p.q p.epc)
        | none, (c, v) :: rest => deliver (s.mapThread th (fun t => { t with gtraps := rest })) th (at_ c v false true 0 0)
        | none, [] => s) := by
  have quiet : (if trapWaits s th then withdraw s th else s) = s := by
    rw [withdraw_none gbar]
    exact ite_self s
  have awaits : ((s.thread th).run != .running || (trapWaits s th && arrivalHeld s th)) = false := by
    rw [running, arrivalHeld, gbar]
    simp
  have run : exec (.engineTrapPoint th) s = .next (
      let s := if trapWaits s th then withdraw s th else s
      if (s.thread th).run != .running || (trapWaits s th && arrivalHeld s th) then s else _) := rfl
  rw [run, quiet]
  dsimp only
  rw [awaits]
  rfl

/-- R433: a thread none of whose commands holds a fault. -/
def NoFault (t : Thread) : Prop := ∀ q, q < 4 → ∀ b ∈ (t.queue q).active, b.held = none

/-- R433: a thread whose commands are tried again. -/
def Thread.retried (t : Thread) : Thread :=
  { t with queues := t.queues.map (fun u => { u with active := u.active.map (fun a => { a with held := none }) }) }

theorem retried_noFault (t : Thread) : NoFault t.retried := by
  intro q _ b m
  have queue : t.retried.queue q = { t.queue q with active := (t.queue q).active.map (fun a => { a with held := none }) } :=
    Vector.getElem_map ..
  rw [queue] at m
  obtain ⟨a, _, rfl⟩ := List.mem_map.1 m
  rfl

/-- R433: one slot tried again, its commands and its stream engines. -/
def retrySlot (s : State) (i : Nat) : State :=
  (List.range 8).foldl (fun s e =>
    let x := (s.tile (tileOf i)).engine e
    if x.running && x.opener == slotOf i && x.held.isSome && (agEngine s (tileOf i) e).graph == (s.thread i).graph then
      post s (.spillQueueRetry (tileOf i) e) else s) (s.mapThread i Thread.retried)

theorem retrySlot_thread (s : State) (i k : Nat) : (retrySlot s i).thread k = if i = k then (s.thread i).retried else s.thread k := by
  have posts (l : List Nat) (u : State) : (l.foldl (fun s e =>
      let x := (s.tile (tileOf i)).engine e
      if x.running && x.opener == slotOf i && x.held.isSome && (agEngine s (tileOf i) e).graph == (s.thread i).graph then
        post s (.spillQueueRetry (tileOf i) e) else s) u).threads = u.threads := by
    induction l generalizing u with
    | nil => rfl
    | cons e l ih =>
      refine (ih _).trans ?_
      dsimp only
      split
      · rfl
      · rfl
  rw [retrySlot, State.thread, posts]
  exact State.thread_mapThread s i k Thread.retried

theorem retrySlot_noFault {s : State} {th : Nat} (i : Nat) (h : NoFault (s.thread th)) : NoFault ((retrySlot s i).thread th) := by
  rw [retrySlot_thread]
  split
  · exact retried_noFault _
  · exact h

theorem retrySlots_noFault (l : List Nat) {s : State} {th : Nat} (h : NoFault (s.thread th)) : NoFault ((l.foldl retrySlot s).thread th) := by
  induction l generalizing s with
  | nil => exact h
  | cons i l ih =>
    rw [List.foldl_cons]
    exact ih (s := retrySlot s i) (retrySlot_noFault i h)

/-- R433: a retry frees every command of its slot. -/
theorem execHeldFaultRetry_noFault (s : State) (th : Nat) : ∃ t, exec (.heldFaultRetry th) s = .next t ∧ NoFault (t.thread th) := by
  have run : execHeldFaultRetry th s = .next ((retrySlots s th).foldl retrySlot s) := by
    unfold execHeldFaultRetry retrySlot Thread.retried
    rfl
  refine ⟨(retrySlots s th).foldl retrySlot s, run, ?_⟩
  rw [retrySlots, List.foldl_cons]
  refine retrySlots_noFault _ ?_
  rw [retrySlot_thread, if_pos rfl]
  exact retried_noFault _

/-- R316: a queue's turn in a graph that runs. -/
theorem execEngineCommandStart_runs {s : State} {th : Nat} (q : Nat) (some_ : (s.thread th).run ≠ .free)
    (running : (s.graph (s.thread th).graph).st = .running) (runs : (s.graph (s.thread th).graph).frozen = false)
    (active : isActive s (s.thread th).graph = true) :
    exec (.engineCommandStart th q) s = .next (performQueue (if (s.thread th).run == .cut then s else startHead s th q) th q) := by
  show Host.Outcome.next (if (s.thread th).run == .free || (s.graph (s.thread th).graph).st != .running || (s.graph (s.thread th).graph).frozen ||
    !isActive s (s.thread th).graph then s else _) = _
  rw [beq_eq_false_iff_ne.2 some_, running, runs, active]
  rfl

/-- R182: an MDRAIN alone in its queue. -/
theorem execDrainDeliver_single {s : State} {th : Nat} {a : Active} {x y z u v} (only : ((s.thread th).queue 3).active = [a])
    (cmd : a.cmd.i = .mdrain x y z u v) (begun : a.begun = true) (notDone : a.done = false) (held : a.held = none)
    (stopped : drainStopped s th a.cmd = false) : exec (.drainDeliver th) s = .next (drainStep s th 0 a) := by
  have run : exec (.drainDeliver th) s = .next (
      let q := ((s.thread th).queue 3).active
      match q.findIdx? (fun a => match a.cmd.i with | .mdrain _ _ _ _ _ => a.begun && !a.done | _ => false) with
      | some k => match q[k]? with
        | some a => if storeBefore q k || drainStopped s th a.cmd then s else if a.held.isSome then drainBlocked s th else drainStep s th k a
        | none => s
      | none => s) := rfl
  rw [run, only]
  dsimp only
  rw [List.findIdx?_cons, cmd, begun, notDone]
  show Host.Outcome.next (if storeBefore [a] 0 || drainStopped s th a.cmd then s else if a.held.isSome then drainBlocked s th else drainStep s th 0 a) = _
  rw [stopped, held]
  rfl

theorem moved_tile (s : State) (g tile : Nat) : (moved s g).tile tile = s.tile tile := rfl

/-- R356: what the move leaves, once its permits have returned: the record buffer has the beat, its input the rest. -/
theorem fed_frame (s : State) (tile k e g : Nat) (b : Beat) (rest : List Beat) :
    (((moved (returnPermits (s.mapTile tile (fedTile k e b rest)) tile e) g).tile tile).ctx k).recBuf = ((s.tile tile).ctx k).recBuf ++ [b] ∧
      (((moved (returnPermits (s.mapTile tile (fedTile k e b rest)) tile e) g).tile tile).ep e).q = rest := by
  constructor
  · have kept : ((returnPermits (s.mapTile tile (fedTile k e b rest)) tile e).tile tile).ctxs = ((s.mapTile tile (fedTile k e b rest)).tile tile).ctxs :=
      returnPermits_tiles (e := e) (p := Tile.ctxs) (fun _ _ _ => rfl) (s.mapTile tile (fedTile k e b rest)) tile tile
    rw [moved_tile, ctx_congr kept, State.tile_mapTile_same, fedTile_recBuf]
  · have kept : (((returnPermits (s.mapTile tile (fedTile k e b rest)) tile e).tile tile).ep e).q = (((s.mapTile tile (fedTile k e b rest)).tile tile).ep e).q :=
      returnPermits_tiles (queuesOf_ep e e) (s.mapTile tile (fedTile k e b rest)) tile tile
    rw [moved_tile, kept, State.tile_mapTile_same, fedTile_queue]

end Sys2Proof.Machine

open Sys2Proof Sys2Proof.Machine Sys2Proof.Safety Sys2Proof.Claims

/-- Settles O48, engine by engine. -/
theorem engineSteps : Obligations.EngineSteps := by
  intro s th q tile k a t0
  refine ⟨fun some_ running runs active => ⟨fun on => ?_, fun cut => ?_⟩, fun c rest small waiting free token step => ⟨fun ok => ?_, fun x bad => ?_⟩,
    fun small only due => ?_, fun active_ begun notDone held stands => ?_, fun x y z u v only cmd begun notDone held stopped => ?_,
    fun x active_ act some_ notDone due stands clear => execPlaneFillApply_free active_ act some_ notDone due stands clear,
    fun g b rest owner loaded on runs free healthy queue room ordinary small => ?_, fun n rect r r0 j l found first cand latch => ?_,
    fun n rect v r found only free x y due mem on ctx runs => ?_,
    fun running gbar user window => ⟨fun c v late small => ?_, fun p late pend small => ?_, fun p late pend held small => ?_,
      fun c v rest late pend held traps small => ?_⟩,
    fun p r some_ running first thread user => ?_, ?_⟩
  · rw [execEngineCommandStart_runs q some_ running runs active, beq_eq_false_iff_ne.2 on]
    rfl
  · rw [execEngineCommandStart_runs q some_ running runs active, show (s.thread th).run = .cut from cut]
    rfl
  · rw [startHead_free waiting free token step]
    dsimp only
    rw [ok]
  · rw [startHead_free waiting free token step]
    dsimp only
    rw [bad]
  · refine ⟨retireAt s th q 0 a, ?_, retireAt_thread only⟩
    show Host.Outcome.next ((List.range ((s.thread th).queue q).active.length).foldl (fun s _ => retireOne th q s) s) = _
    rw [only]
    exact congrArg _ (retireOne_single only due)
  · show Host.Outcome.next (match activeAt s th 1 0 with | some a => _ | none => s) = _
    rw [active_]
    dsimp only
    rw [begun, notDone, held, stands]
    rfl
  · exact execDrainDeliver_single only cmd begun notDone held stopped
  · have done := fed_frame s tile k (MpF.feedep ((s.tile tile).ctx k).mpF) g b rest
    exact ⟨moved (returnPermits (s.mapTile tile (fedTile k (MpF.feedep ((s.tile tile).ctx k).mpF) b rest)) tile
      (MpF.feedep ((s.tile tile).ctx k).mpF)) g, execFeedBeatMove_beat owner loaded on runs free healthy queue room ordinary, done.1, done.2⟩
  · show Host.Outcome.next (match s.rects[n]? with | none => s | some q => _) = _
    rw [found]
    dsimp only
    rw [first]
    dsimp only
    rw [findSome?_congr (l := counterOrder s rect (graphPart r0.graph)) (fun k => ?_) cand]
    · dsimp only
      rw [latch]
    · cases (s.regions.filter (fun r => r.onRect rect)).find? (fun r => r.pctx == k) with
      | none => rfl
      | some r => rfl
  · show Host.Outcome.next (match s.rects[n]? with | none => s | some q => writeVectors q s.vecs.length s) = _
    rw [found]
    exact congrArg _ (writeVectors_single only (vectorReady_due only free x y due mem on ctx runs))
  · have step := execEngineTrapPoint_running running gbar
    have trapped := deliver_trapped (f := fun t => { t with late := none })
      (x := { code := c, val := v, pc := t0.pc, disc := false, e := false, queue := 0, epc := 0, graph := false, open_ := !t0.wait.outside })
      user (bit_eq _ _ window) rfl rfl rfl rfl small
    dsimp only at step
    rw [show (s.thread th).late = some (c, v) from late] at step
    exact ⟨_, step, trapped.1, trapped.2.1⟩
  · have step := execEngineTrapPoint_running running gbar
    have trapped := deliver_trapped (f := fun t => { t with pend := none })
      (x := { code := p.code, val := p.tval, pc := t0.pc, disc := false, e := true, queue := p.q, epc := p.epc, graph := false, open_ := !t0.wait.outside })
      user (bit_eq _ _ window) rfl rfl rfl rfl small
    dsimp only at step
    rw [show (s.thread th).late = none from late, show (s.thread th).pend = some p from pend] at step
    exact ⟨_, step, trapped.1, trapped.2.2.1⟩
  · have step := execEngineTrapPoint_running running gbar
    have trapped := deliver_trapped (f := fun t => { t with held := none })
      (x := { code := p.code, val := p.tval, pc := t0.pc, disc := false, e := true, queue := p.q, epc := p.epc, graph := false, open_ := !t0.wait.outside })
      user (bit_eq _ _ window) rfl rfl rfl rfl small
    dsimp only at step
    rw [show (s.thread th).late = none from late, show (s.thread th).pend = none from pend, show (s.thread th).held = some p from held] at step
    dsimp only at step
    rw [show (s.thread th).lvl = false from user, if_neg Bool.false_ne_true] at step
    exact ⟨_, step, trapped.1, trapped.2.2.2.1⟩
  · have step := execEngineTrapPoint_running running gbar
    have trapped := deliver_trapped (f := fun t => { t with gtraps := rest })
      (x := { code := c, val := v, pc := t0.pc, disc := false, e := false, queue := 0, epc := 0, graph := true, open_ := !t0.wait.outside })
      user (bit_eq _ _ window) rfl rfl rfl rfl small
    dsimp only at step
    rw [show (s.thread th).late = none from late, show (s.thread th).pend = none from pend, show (s.thread th).held = none from held,
      show (s.thread th).gtraps = (c, v) :: rest from traps] at step
    dsimp only at step
    rw [show (s.thread th).lvl = false from user, if_neg Bool.false_ne_true] at step
    exact ⟨_, step, trapped.1, trapped.2.2.2.2⟩
  · have run : exec (.heldFault th) s = .next (if (s.thread th).run == .free || (s.graph (s.thread th).graph).st != .running then s else
        match firstHeld s th with | none => s | some p => _) := rfl
    rw [run, beq_eq_false_iff_ne.2 some_, running, first]
    dsimp only
    rw [thread]
    dsimp only
    rw [user]
    rfl
  · exact execHeldFaultRetry_noFault s th
end

section
/-! PROOF. O49, of spec/05_strands_streams_image.md: the steps of the stream engines. -/

namespace Sys2Proof.Machine
open Sys2Proof.Safety Sys2Proof.Claims Sys2Proof.Tests

/-- The byte of tile memory at a key after a step. -/
def byteAfter (k : Nat) : Out → Byte
  | .next t => Memory.read t.tmem k
  | _ => 0

/-- A line at 0x80 whose two bytes stand out of the order of their places: that of place 5 before that of place 4. -/
def disorderedLine : CoalLine := ⟨.ofNat 64 (loc 0x80), [(5, 9), (4, 7)], 0, 2, 0⟩

/-- An element of four bytes at 0x84 that waits for its page. -/
def waitingElem : Spilled := ⟨.ofNat 64 (loc 0x84), [1, 2, 3, 4], true, 0, 0⟩

/-- A write stream that holds the line and the element. -/
def disordered : State := streaming writer (fun x => { x with spills := [waitingElem], held := some 0x84, coal := [disorderedLine] })

end Sys2Proof.Machine

open Sys2Proof Sys2Proof.Machine Sys2Proof.Safety Sys2Proof.Claims Sys2Proof.Tests

/-- Refutes O49: the clause of a spilled element asks of the bytes of its line that their places differ and not that they rise. Where those of
places 5 and 4 stand in that order, the element's byte 4 is put before them, the old byte 4 stays behind it, and is written last. -/
theorem not_streamSteps : ¬ Obligations.StreamSteps := by
  intro steps
  obtain ⟨-, -, -, -, spilled⟩ := steps disordered 0 1
  have site : LocalSite disordered 0 2 (agEngine disordered 0 1).graph (agEngine disordered 0 1).lvl (u (waitingElem.ea.toNat / 64 * 64)) 64 := by
    unfold LocalSite; decide +kernel
  obtain ⟨t, step, -, -, -, written⟩ := spilled waitingElem (by decide +kernel) (by decide +kernel) (by decide +kernel) (by decide +kernel)
    (by decide +kernel) (by decide +kernel) (by decide +kernel) site (by decide +kernel)
  have new : byteAfter (2 ^ 18 * 0 + waitingElem.ea.toNat % 2 ^ 18 + 0) (exec (.spillQueueRetry 0 1) disordered) = 1 := by
    rw [step]
    exact written 0 1 rfl
  have old : byteAfter (2 ^ 18 * 0 + waitingElem.ea.toNat % 2 ^ 18 + 0) (exec (.spillQueueRetry 0 1) disordered) = 7 := by decide +kernel
  rw [new] at old
  exact absurd old (by decide)
end

section
/-! PROOF. O50, of spec/17_dispatch.md, spec/06_consistency.md and spec/23_module_and_world.md: the dispatcher, the homes and the host. -/

namespace Sys2Proof.Machine
open Sys2Proof.Safety Sys2Proof.Claims

/-! ### The turn of a partition (R395, R396) -/

/-- R395: which context of a partition is active and which comes in, since when, and whether an evaluation is due. -/
def Part.turn (p : Part) : Nat × Option Nat × Nat × Bool := (p.active, p.incoming, p.sliceAt, p.evalDue)

/-- Two states agree on the turn of every partition. -/
def SameTurns (s t : State) : Prop := ∀ i, (t.part i).turn = (s.part i).turn

theorem SameTurns.refl (s : State) : SameTurns s s := fun _ => rfl

theorem SameTurns.trans {s t r : State} (h : SameTurns s t) (k : SameTurns t r) : SameTurns s r := fun i => (k i).trans (h i)

theorem SameTurns.of_parts {s t : State} (h : t.parts = s.parts) : SameTurns s t := by
  intro i
  unfold State.part
  rw [h]

theorem SameTurns.mapPart (s : State) (k : Nat) {f : Part → Part} (hf : ∀ p, (f p).turn = p.turn) : SameTurns s (s.mapPart k f) := by
  intro i
  rw [State.part_mapPart]
  split
  · rename_i same; subst same; exact hf _
  · rfl

theorem SameTurns.foldl {α : Type} (l : List α) {f : State → α → State} (hf : ∀ s a, SameTurns s (f s a)) (s : State) : SameTurns s (l.foldl f s) := by
  induction l generalizing s with
  | nil => exact .refl s
  | cons a l ih => exact (hf s a).trans (ih (f s a))

theorem logRecord_turns (s : State) (part : Nat) (r : Rec) : SameTurns s (logRecord s part r) := by
  intro i
  obtain ⟨h, l, e⟩ := logRecord_part s part i r
  rw [e]
  rfl

theorem deviceFault_turns (s : State) (part tile kind : Nat) (ea : Word) : SameTurns s (deviceFault s part tile kind ea) := by
  unfold deviceFault
  dsimp only
  split
  · exact .refl s
  · split
    · exact logRecord_turns _ _ _
    · split
      · exact .refl s
      · exact logRecord_turns _ _ _
    · exact .refl s
    · split
      · exact logRecord_turns _ _ _
      · exact .refl s

theorem sysFetch_turns (s : State) (part tile : Nat) (ea : Word) (n : Nat) : SameTurns s (sysFetch s part tile ea n).1 := by
  unfold sysFetch
  split
  · exact .refl s
  · exact (SameTurns.of_parts (noteRead_written s part ea n).parts).trans (deviceFault_turns _ _ _ _ _)

theorem fetchLines_turns (s : State) (part : Nat) (ea : Word) (n : Nat) : SameTurns s (fetchLines s part ea n).1 := by
  have each (l : List (Word × Nat × Nat)) (acc : State × Option (List Byte)) : SameTurns acc.1 (l.foldl (fun (acc : State × Option (List Byte)) p =>
      let (s1, b) := sysFetch acc.1 part 0 p.1 p.2.2
      (s1, match acc.2, b with | some x, some y => some (x ++ y) | _, _ => none)) acc).1 := by
    induction l generalizing acc with
    | nil => exact .refl _
    | cons p l ih => exact (sysFetch_turns acc.1 part 0 p.1 p.2.2).trans (ih _)
  exact each _ (s, some [])

theorem readEntry_turns (s : State) (part i : Nat) : SameTurns s (readEntry s part i) :=
  (fetchLines_turns _ _ _ _).trans (SameTurns.mapPart _ part fun _ => rfl)

theorem readQueue_turns (s : State) (part q : Nat) : SameTurns s (readQueue s part q) := by
  unfold readQueue
  dsimp only
  refine SameTurns.trans ?_ (readEntry_turns _ _ _)
  exact SameTurns.trans (fetchLines_turns s part (queueAt s part q) 64) (SameTurns.mapPart _ part (by intro p; rfl))

/-- R396: reading the context list and the queues again leaves the turn of a partition. -/
theorem readEntries_turns (s : State) (part : Nat) : SameTurns s (readEntries s part) :=
  (SameTurns.foldl _ (fun s i => readEntry_turns s part i) s).trans (.foldl _ (fun s q => readQueue_turns s part q) _)

/-- R50, R396: the threads of a context's running graphs with the re-entry limit of its entry. -/
def withLimits (s : State) (part j : Nat) : State :=
  ((s.graphs.filter (fun (_, g) => g.part == part && g.ctxi == j && g.st == .running)).map Prod.fst).foldl
    (fun s' k => (graphThreads s' k).foldl (fun s' i => s'.mapThread i (fun t => { t with rlim := reentryLimit s part j })) s') s

theorem withLimits_turns (s : State) (part j : Nat) : SameTurns s (withLimits s part j) :=
  SameTurns.foldl _ (by intro s' k; exact SameTurns.foldl (graphThreads s' k) (by intro s' i; exact .of_parts rfl) s') s

/-- R396: the turn of the partition once the outgoing context runs no more. -/
theorem execContextSwitch_turn {s : State} {part j : Nat} (next : (s.part part).incoming = some j) (ended : stillRuns s part (s.part part).active = []) :
    ∃ t, exec (.contextSwitch part) s = .next t ∧ (t.part part).turn = (j, none, s.mod.ref, true) := by
  have turns := readEntries_turns (s.mapPart part (fun p => { p with active := j, incoming := none, sliceAt := s.mod.ref, evalDue := true })) part part
  rw [State.part_mapPart_same] at turns
  refine ⟨withLimits (readEntries (s.mapPart part (fun p => { p with active := j, incoming := none, sliceAt := s.mod.ref, evalDue := true })) part)
    part j, ?_, (withLimits_turns _ part j part).trans turns⟩
  show Host.Outcome.next (match (s.part part).incoming with | none => s | some j => _) = _
  rw [next]
  dsimp only
  rw [ended]
  rfl

/-- R386: a queue read again after a write to its tail, its entries' ages on record. -/
def tailRead (s : State) (part q : Nat) : State :=
  (List.range (min (queueDesc (readQueue s part q) part q).count (2 ^ (queueDesc (readQueue s part q) part q).log2n))).foldl
    (fun s' i => noteAge q s'.cycle.toNat s' part ((queueDesc (readQueue s part q) part q).head + i)) (readQueue s part q)

/-! ### Accesses of the host (R466) -/

theorem hostArrives_host {s : State} {port : Nat} (bridge : s.mod.bridge = true) (there : port < 128) (up : (s.port port).up = true)
    (faces : s.mod.hostPorts.getLsbD port = true) : hostArrives s port none = true := by
  unfold hostArrives
  rw [bridge, decide_eq_true there, up]
  exact faces

/-- R466: an access that does not come by a port of its kind does not arrive. -/
theorem hostArrives_refused {s : State} {port : Nat} {dev : Option Nat}
    (h : s.mod.bridge = false ∨ 128 ≤ port ∨ (s.port port).up = false ∨ dev.isNone = !s.mod.hostPorts.getLsbD port) : hostArrives s port dev = false := by
  unfold hostArrives
  rcases h with off | far | down | facing
  · rw [off]; rfl
  · rw [decide_eq_false (Nat.not_lt.2 far), Bool.and_false]; rfl
  · rw [down, Bool.and_false]; rfl
  · cases dev with
    | none =>
      have other : s.mod.hostPorts.getLsbD port = false := by simpa using facing
      simp only [other, Bool.and_false]
    | some d =>
      have other : s.mod.hostPorts.getLsbD port = true := by simpa using facing
      simp only [other, Bool.not_true, Bool.and_false]

/-- R466, R24: an access of the host within a line of a partition's address space. -/
theorem hostFits_host {s : State} {part : Nat} {va : Word} {req : HostReq} (exists_ : (s.part part).exists_ = true) (global : va.toNat < 2 ^ 60)
    (pos : 0 < hostSize req) (one : va.toNat % 64 + hostSize req ≤ 64)
    (aligned : ∀ k cmp val, req = .amo k cmp val → va.toNat % hostSize req = 0) : hostFits s none part va req = true := by
  have space : spaceOf va = 0 := by
    unfold spaceOf fld
    omega
  have legal : addressOk va (hostSize req) = true := by
    unfold addressOk
    rw [if_pos space, decide_eq_true_eq, vaOf]
    omega
  unfold hostFits
  dsimp only
  rw [decide_eq_true pos, decide_eq_true one, space, legal, exists_]
  cases req with
  | read n => rfl
  | write bs => rfl
  | amo k cmp val => exact congrArg (fun b => true && true && b && _) (beq_iff_eq.2 (aligned k cmp val rfl))

/-- R466: an access of the host that arrives and fits, with none before it and its bank free, is served. -/
theorem execHostAccess_served {s : State} {port part : Nat} {dev : Option Nat} {va : Word} {req : HostReq} (arrives : hostArrives s port dev = true)
    (fits : hostFits s dev part va req = true) (first : s.mod.hostQ = []) (free : hostHeld s dev part va req = false) :
    exec (.hostAccess port dev part va req) s = .next (serveHost s dev part va req) := by
  show Host.Outcome.next (if !hostArrives s port dev || !hostFits s dev part va req then s
    else if s.mod.hostQ.isEmpty && !hostHeld s dev part va req then serveHost s dev part va req else _) = _
  rw [arrives, fits, first, free]
  rfl

/-- R466: an access that has to wait stands last in the host's queue. -/
theorem execHostAccess_waits {s : State} {port part : Nat} {dev : Option Nat} {va : Word} {req : HostReq} (arrives : hostArrives s port dev = true)
    (fits : hostFits s dev part va req = true) (waits : s.mod.hostQ ≠ [] ∨ hostHeld s dev part va req = true) :
    exec (.hostAccess port dev part va req) s = .next { s with mod := { s.mod with hostQ := s.mod.hostQ ++ [(dev, part, va, req)] } } := by
  have blocked : (s.mod.hostQ.isEmpty && !hostHeld s dev part va req) = false := by
    rcases waits with behind | held
    · rw [List.isEmpty_eq_false_iff.2 behind, Bool.false_and]
    · rw [held, Bool.not_true, Bool.and_false]
  show Host.Outcome.next (if !hostArrives s port dev || !hostFits s dev part va req then s
    else if s.mod.hostQ.isEmpty && !hostHeld s dev part va req then _ else _) = _
  rw [arrives, fits, blocked]
  rfl

theorem amoWidth_pos (k : Nat) : 0 < amoWidth k ∧ amoWidth k ∣ 64 := by
  unfold amoWidth
  repeat' split
  all_goals decide

end Sys2Proof.Machine

open Sys2Proof Sys2Proof.Machine Sys2Proof.Safety Sys2Proof.Claims

/-- Settles O50, step by step. -/
theorem dispatcherSteps : Obligations.DispatcherSteps := by
  intro s part n
  refine ⟨fun exists_ due at_ none_ => ?_, fun j next ended => ?_, fun exists_ none_ over_ => ⟨fun none' => ?_, fun j some_ => ?_⟩, fun owner => ?_,
    fun o queued => ⟨?_, fun home dead ready => ?_⟩, fun port => ⟨fun low => ?_, fun g high one wave runs thawed => ?_⟩,
    fun port dev va req => ⟨fun refused => ?_, fun arrives fits first free => execHostAccess_served arrives fits first free,
      fun arrives fits waits => execHostAccess_waits arrives fits waits⟩,
    fun port va bridge there up faces first global exists_ => ⟨fun n pos one free => ?_, fun bs pos one free => ?_, fun k cmp val aligned free => ?_⟩⟩
  · show Host.Outcome.next (if !(s.part part).exists_ || !(s.part part).evalDue || decide (s.cycle.toNat < (s.part part).evalAt) ||
      (s.part part).incoming.isSome then s else _) = _
    rw [exists_, due, decide_eq_false (Nat.not_lt.2 at_), none_]
    rfl
  · obtain ⟨t, run, turn⟩ := execContextSwitch_turn next ended
    exact ⟨t, run, congrArg Prod.fst turn, congrArg (fun x => x.2.1) turn, congrArg (fun x => x.2.2.1) turn, congrArg (fun x => x.2.2.2) turn⟩
  · show Host.Outcome.next (if !(s.part part).exists_ || (s.part part).incoming.isSome || !sliceOver s part then s else
      match nextEntry (if entryValid s part (s.part part).active then readHeader s part else s) part with | none => _ | some j => _) = _
    rw [exists_, none_, over_, none']
    rfl
  · show Host.Outcome.next (if !(s.part part).exists_ || (s.part part).incoming.isSome || !sliceOver s part then s else
      match nextEntry (if entryValid s part (s.part part).active then readHeader s part else s) part with | none => _ | some j => _) = _
    rw [exists_, none_, over_, some_]
    rfl
  · refine ⟨(tailRead s part n).mapPart part (fun p => { p with evalDue := true }), ?_, ?_⟩
    · show Host.Outcome.next (match queueOwner s n with | none => s | some part => _) = _
      rw [owner]
      rfl
    · rw [State.part_mapPart_same]
  · show Host.Outcome.next (match s.homeQ[n]? with | some o => _ | none => s) = _
    rw [queued]
  · show Host.Outcome.next (match s.homeQ[n]? with
      | some o => if !Pte.host o.leaf.toNat && homeDead s (o.th / 4) (Pte.tile o.leaf.toNat) && opReady s o then _ else s
      | none => s) = _
    rw [queued]
    dsimp only
    rw [home, dead, ready]
    rfl
  · show Host.Outcome.next (if _ then s else _) = _
    rw [if_pos low]
  · show Host.Outcome.next (if egressHeld s port < Config.egressBytes / 4 * 3 then s else (egressGraphs s port).foldl (fun s g =>
      if (s.graph g).openWave.isNone && (s.graph g).st == .running && !(s.graph g).frozen then openForced s g else s) s) = _
    rw [if_neg (Nat.not_lt.2 high), one, List.foldl_cons, List.foldl_nil, wave, runs, thawed]
    rfl
  · show Host.Outcome.next (if !hostArrives s port dev || !hostFits s dev part va req then s else _) = _
    rw [hostArrives_refused refused]
    rfl
  · exact execHostAccess_served (hostArrives_host bridge there up faces) (hostFits_host exists_ global pos one fun _ _ _ e => nomatch e) first free
  · exact execHostAccess_served (hostArrives_host bridge there up faces) (hostFits_host exists_ global pos one fun _ _ _ e => nomatch e) first free
  · obtain ⟨pos, divides⟩ := amoWidth_pos k
    have one : va.toNat % 64 + amoWidth k ≤ 64 := by
      have cases_ : amoWidth k = 2 ∨ amoWidth k = 4 ∨ amoWidth k = 8 := by
        unfold amoWidth
        repeat' split
        all_goals decide
      rcases cases_ with w | w | w <;> rw [w] at aligned ⊢ <;> omega
    exact execHostAccess_served (req := .amo k cmp val) (hostArrives_host bridge there up faces)
      (hostFits_host exists_ global pos one fun _ _ _ _ => aligned) first free
end

section
/-! PROOF. What an access to memory leaves as it is, and that it keeps every memory in its canonical form (spec/04_storage.md, spec/06_consistency.md):
one lemma for each operation, in the order in which they use one another. -/

namespace Sys2Proof.Machine
open Sys2Proof.Safety

/-! ### The frame of an access -/

/-- Where a thread stands: its graph, whether it runs, its PC and its scalar registers. -/
def Thread.seat (t : Thread) : Nat × Run × PC × Vector Word 32 := (t.graph, t.run, t.pc, t.s)
/-- The rectangle of a graph. -/
def Graph.land (g : Graph) : Nat × Nat × Nat × Nat := (g.x, g.y, g.w, g.h)
/-- What a partition is given of the device's ports, and when its dispatcher may evaluate next. -/
def Part.ports (p : Part) : Bool × BitVec 128 × Nat := (p.exists_, p.portmask, p.evalAt)

/-- From `s` to `t` every memory stays in its canonical form, every thread stays where it stands, every graph keeps its rectangle and every
partition its ports and the time of its next evaluation; the module, its zones and the running slot are as they were. -/
structure Steady (s t : State) : Prop where
  memory : MemoryOk s → MemoryOk t
  seats : ∀ i, (t.thread i).seat = (s.thread i).seat
  lands : ∀ k, (t.graph k).land = (s.graph k).land
  ports : ∀ k, (t.part k).ports = (s.part k).ports
  module : (t.cur, t.zones, t.mod) = (s.cur, s.zones, s.mod)

namespace Steady

theorem refl (s : State) : Steady s s := ⟨id, fun _ => rfl, fun _ => rfl, fun _ => rfl, rfl⟩

theorem trans {s t r : State} (h : Steady s t) (k : Steady t r) : Steady s r :=
  ⟨fun m => k.memory (h.memory m), fun i => (k.seats i).trans (h.seats i), fun i => (k.lands i).trans (h.lands i),
    fun i => (k.ports i).trans (h.ports i), k.module.trans h.module⟩

/-- A step that leaves the threads, the graphs and the partitions, and whose memories are in canonical form where they were. -/
theorem of_memory {s t : State} (memory : MemoryOk s → MemoryOk t) (threads : t.threads = s.threads) (graphs : t.graphs = s.graphs)
    (parts : t.parts = s.parts) (module : (t.cur, t.zones, t.mod) = (s.cur, s.zones, s.mod)) : Steady s t :=
  ⟨memory, fun i => by unfold State.thread; rw [threads], fun k => by unfold State.graph; rw [graphs], fun k => by unfold State.part; rw [parts], module⟩

/-- A step beside memories, threads, graphs and partitions. -/
theorem beside {s t : State} (memories : (t.tmem, t.vault, t.host, t.shadow) = (s.tmem, s.vault, s.host, s.shadow)) (threads : t.threads = s.threads)
    (graphs : t.graphs = s.graphs) (parts : t.parts = s.parts) (module : (t.cur, t.zones, t.mod) = (s.cur, s.zones, s.mod)) : Steady s t := by
  simp only [Prod.mk.injEq] at memories
  obtain ⟨tmem, vault, host, shadow⟩ := memories
  exact of_memory (fun m => by unfold MemoryOk; rw [tmem, vault, host, shadow]; exact m) threads graphs parts module

theorem mapThread (s : State) (i : Nat) {f : Thread → Thread} (hf : ∀ t, (f t).seat = t.seat) : Steady s (s.mapThread i f) := by
  refine ⟨id, fun k => ?_, fun _ => rfl, fun _ => rfl, rfl⟩
  rw [State.thread_mapThread]
  split
  · rename_i h; subst h; exact hf _
  · rfl

theorem mapGraph (s : State) (i : Nat) {f : Graph → Graph} (hf : ∀ g, (f g).land = g.land) : Steady s (s.mapGraph i f) := by
  refine ⟨id, fun _ => rfl, fun k => ?_, fun _ => rfl, rfl⟩
  rw [State.graph_mapGraph]
  split
  · rename_i h; subst h; exact hf _
  · rfl

theorem mapPart (s : State) (i : Nat) {f : Part → Part} (hf : ∀ p, (f p).ports = p.ports) : Steady s (s.mapPart i f) := by
  refine ⟨id, fun _ => rfl, fun _ => rfl, fun k => ?_, rfl⟩
  rw [State.part_mapPart]
  split
  · rename_i h; subst h; exact hf _
  · rfl

theorem mapTile (s : State) (i : Nat) (f : Tile → Tile) : Steady s (s.mapTile i f) := beside rfl rfl rfl rfl rfl
theorem mapPort (s : State) (i : Nat) (f : Port → Port) : Steady s (s.mapPort i f) := beside rfl rfl rfl rfl rfl
theorem mapHome (s : State) (i : Nat) (f : Home → Home) : Steady s (s.mapHome i f) := beside rfl rfl rfl rfl rfl
theorem setSector (s : State) (k : Nat) (x : Sector) : Steady s (s.setSector k x) := by
  unfold State.setSector
  exact beside rfl rfl rfl rfl rfl

theorem foldl {α : Type} (l : List α) {f : State → α → State} (hf : ∀ s a, Steady s (f s a)) (s : State) : Steady s (l.foldl f s) := by
  induction l generalizing s with
  | nil => exact refl s
  | cons a l ih => exact (hf s a).trans (ih (f s a))

/-- A fold that carries a result beside the state. -/
theorem foldl_fst {α β : Type} (l : List α) {f : State × β → α → State × β} (hf : ∀ x a, Steady x.1 (f x a).1) (x : State × β) :
    Steady x.1 (l.foldl f x).1 := by
  induction l generalizing x with
  | nil => exact refl x.1
  | cons a l ih => exact (hf x a).trans (ih (f x a))

/-- A step after which the device's agenda is longer. -/
theorem withAgenda {s t : State} (h : Steady s t) {l : List Instr} : Steady s { t with agenda := l } :=
  ⟨h.memory, h.seats, h.lands, h.ports, h.module⟩

/-- A step after which the vaults are replaced. -/
theorem withVault {s t : State} (h : Steady s t) {m : Memory} (hm : MemoryOk s → Memory.wf m = true) : Steady s { t with vault := m } :=
  ⟨fun ok => let ⟨a, _, c, d⟩ := h.memory ok; ⟨a, hm ok, c, d⟩, h.seats, h.lands, h.ports, h.module⟩

end Steady

/-! ### Device accesses and records (R442, R476) -/

theorem noteSectors_steady (s : State) (tag : Nat) (ks : List Nat) : Steady s (noteSectors s tag ks) := by
  unfold noteSectors
  dsimp only
  split
  · exact .refl s
  · exact .beside rfl rfl rfl rfl rfl

theorem noteWalk_steady (s : State) (part : Nat) (ea : Word) : Steady s (noteWalk s part ea) :=
  .foldl _ (fun s k => noteSectors_steady s 0 [k]) s

theorem hostPut_steady (s : State) (addr : Nat) (bytes : List Byte) : Steady s (hostPut s addr bytes) :=
  .of_memory (fun ⟨a, b, c, d⟩ => ⟨a, b, Memory.wf_writeBytes _ _ _ c, d⟩) rfl rfl rfl rfl

theorem touchSector_steady (s : State) (sec tag : Nat) (whole setTag : Bool) : Steady s (touchSector s sec tag whole setTag) := by
  unfold touchSector
  dsimp only
  split
  · exact .setSector ..
  · split
    · exact .setSector ..
    · split <;> exact .setSector ..

theorem putLine_steady (s : State) (key tag : Nat) (bytes : List Byte) : Steady s (putLine s key tag bytes) := by
  refine Steady.trans (t := { s with vault := Memory.writeBytes s.vault key bytes, noted := s.noted ++ [{ tag := tag, bad := [], rows := [key] }] }) ?_
    (.foldl _ (fun s k => touchSector_steady s k _ _ _) _)
  exact .of_memory (fun ⟨a, b, c, d⟩ => ⟨a, Memory.wf_writeBytes _ _ _ b, c, d⟩) rfl rfl rfl rfl

/-- R476: a device write. -/
theorem sysWrite_steady (s0 : State) (part : Nat) (ea : Word) (bytes : List Byte) : Steady s0 (sysWrite s0 part ea bytes).2 := by
  unfold sysWrite
  split
  · exact .refl s0
  · refine (noteWalk_steady s0 part ea).trans ?_
    dsimp only
    generalize noteWalk s0 part ea = s
    split
    · exact .refl s
    · exact .refl s
    · exact .refl s
    · split
      · exact .refl s
      · split
        · exact .refl s
        · exact hostPut_steady ..
        · split
          · exact .refl s
          · split
            · exact noteSectors_steady ..
            · split
              · exact noteSectors_steady ..
              · split
                · exact (noteSectors_steady s _ _).trans (.beside rfl rfl rfl rfl rfl)
                · exact (noteSectors_steady s _ _).trans (putLine_steady ..)

/-- R442: a record: written at the head of its ring, or counted as lost. -/
theorem logRecord_steady (s : State) (part : Nat) (r : Rec) : Steady s (logRecord s part r) := by
  unfold logRecord
  dsimp only
  split
  · exact .mapPart s part fun _ => rfl
  · have wrote := sysWrite_steady s part ((s.part part).errbase + wd (64 * ((s.part part).errhead.toNat % 2 ^ ((s.part part).errsize.toNat % 32))))
      ((recordDwords s part r).flatMap (leBytes 8))
    split <;> rename_i e <;> rw [e] at wrote
    · exact wrote.trans (.mapPart _ part fun _ => rfl)
    · exact wrote.trans (.mapPart _ part fun _ => rfl)

theorem record_steady (s : State) (r : Rec) : Steady s (record s r) := by
  unfold record
  split
  · exact logRecord_steady ..
  · exact .refl s

theorem deviceFault_steady (s : State) (part tile kind : Nat) (ea : Word) : Steady s (deviceFault s part tile kind ea) := by
  unfold deviceFault
  dsimp only
  split
  · exact .refl s
  · split
    · exact logRecord_steady ..
    · split
      · exact .refl s
      · exact logRecord_steady ..
    · exact .refl s
    · split
      · exact logRecord_steady ..
      · exact .refl s

theorem noteRead_steady (s : State) (part : Nat) (ea : Word) (n : Nat) : Steady s (noteRead s part ea n) := by
  have walked := noteWalk_steady s part ea
  unfold noteRead
  dsimp only
  split
  · exact .refl s
  · split
    · split
      · split
        · exact walked
        · exact walked.trans (noteSectors_steady ..)
      · exact walked
    · exact walked

theorem sysFetch_steady (s : State) (part tile : Nat) (ea : Word) (n : Nat) : Steady s (sysFetch s part tile ea n).1 := by
  unfold sysFetch
  split
  · exact .refl s
  · exact (noteRead_steady s part ea n).trans (deviceFault_steady ..)

theorem sysWriteOrDrop_steady (s : State) (part tile kind : Nat) (ea : Word) (bytes : List Byte) :
    Steady s (sysWriteOrDrop s part tile kind ea bytes) := by
  have wrote := sysWrite_steady s part ea bytes
  unfold sysWriteOrDrop
  split <;> rename_i e <;> rw [e] at wrote
  · exact wrote
  · exact (wrote.trans (deviceFault_steady ..)).trans (logRecord_steady ..)

/-! ### Tile memory (R60, R108, R446, R448) -/

theorem tmemSense_steady (s : State) (key n : Nat) : Steady s (tmemSense s key n) := by
  unfold tmemSense
  split
  · exact .refl s
  · refine Steady.trans ?_ (Steady.foldl _ (by intro s w; exact record_steady _ _) _)
    exact .beside rfl rfl rfl rfl rfl

theorem tmemWrite_steady (s : State) (key : Nat) (bytes : List Byte) : Steady s (tmemWrite s key bytes) :=
  .of_memory (fun ⟨a, b, c, d⟩ => ⟨Memory.wf_writeBytes _ _ _ a, b, c, d⟩) rfl rfl rfl rfl

theorem narrowRecords_steady (s : State) (a : Ag) (key n : Nat) : Steady s (narrowRecords s a key n) :=
  .foldl _ (by intro s w; exact record_steady _ _) s

theorem tmemKeep_steady (s : State) (a : Ag) (key n : Nat) : Steady s (tmemKeep s a key n) := by
  unfold tmemKeep
  dsimp only
  split
  · split
    · exact .mapGraph s _ (by intro g; rfl)
    · exact .refl s
  · exact .refl s

theorem patchLate_steady (s : State) (a : Ag) (key n : Nat) (upd : List Byte → List Byte) : Steady s (patchLate s a key n upd) := by
  unfold patchLate
  dsimp only
  split
  · split
    · exact .refl s
    · exact .mapGraph s _ (by intro g; rfl)
  · exact .refl s

theorem tmemWriteBy_steady (s : State) (a : Ag) (key : Nat) (bytes : List Byte) (upd : List Byte → List Byte) :
    Steady s (tmemWriteBy s a key bytes upd) := by
  have edge (s : State) (k : Nat) : Steady s (if k % 8 = 0 then s else tmemSense s (k / 8 * 8) 8) := by
    split
    · exact .refl s
    · exact tmemSense_steady ..
  unfold tmemWriteBy
  dsimp only
  refine Steady.trans ?_ (tmemWrite_steady _ _ _)
  refine Steady.trans ?_ (patchLate_steady _ _ _ _ _)
  refine Steady.trans ?_ (tmemKeep_steady _ _ _ _)
  exact ((edge s key).trans (edge _ _)).trans (narrowRecords_steady ..)

theorem tmemMark_steady (s : State) (key n : Nat) : Steady s (tmemMark s key n) := .beside rfl rfl rfl rfl rfl

theorem portUse_steady (s : State) (tile who off n : Nat) : Steady s (portUse s tile who off n) := by
  obtain ⟨ts, e⟩ := portUse_eq s tile who off n
  rw [e]
  exact .beside rfl rfl rfl rfl rfl

/-! ### Sectors and rows (R446, R455, R456) -/

theorem draw_steady (s : State) : Steady s s.draw := .beside rfl rfl rfl rfl rfl

theorem poisonSector_steady (s : State) (k tag cls : Nat) : Steady s (poisonSector s k tag cls) :=
  ((draw_steady s).trans (.setSector ..)).trans (record_steady ..)

theorem remapRow_steady (s : State) (tile bank row first : Nat) : Steady s (remapRow s tile bank row first) := by
  unfold remapRow
  dsimp only
  split
  · exact record_steady ..
  · exact (record_steady ..).trans (.mapTile ..)

theorem tallyNote_steady (s : State) (tile kind unit : Nat) : Steady s (tallyNote s tile kind unit) := .mapTile ..
theorem tallyDrop_steady (s : State) (tile kind unit : Nat) : Steady s (tallyDrop s tile kind unit) := .mapTile ..

theorem rowEvent_steady (s : State) (key : Nat) (now : Bool) : Steady s (rowEvent s key now) := by
  unfold rowEvent
  dsimp only
  split
  · exact (tallyDrop_steady ..).trans (remapRow_steady ..)
  · split
    · exact (tallyDrop_steady ..).trans (remapRow_steady ..)
    · exact tallyNote_steady ..

theorem loseSector_steady (s : State) (k tag : Nat) : Steady s (loseSector s k tag) := (poisonSector_steady ..).trans (rowEvent_steady ..)

theorem readSector_steady (s : State) (k tag : Nat) (counts : Bool) : Steady s (readSector s k tag counts).1 := by
  unfold readSector
  dsimp only
  split
  · exact .refl s
  · exact poisonSector_steady ..
  · exact loseSector_steady ..
  · split
    · dsimp only
      split
      · exact (Steady.setSector ..).trans (rowEvent_steady ..)
      · exact .setSector ..
    · exact loseSector_steady ..
  · exact .refl s

theorem readEach_steady (s : State) (ks : List Nat) (tag : Nat → Nat) : Steady s (readEach s ks tag).1 :=
  Steady.foldl_fst _ (by intro x a; exact readSector_steady _ _ _ _) (s, [])

theorem readSectors_steady (s : State) (ks : List Nat) (tag : Nat) : Steady s (readSectors s ks tag).1 := readEach_steady ..

theorem readUntagged_steady (s : State) (ks : List Nat) : Steady s (readUntagged s ks).1 := readEach_steady ..

theorem homeRow_steady (s : State) (key : Nat) : Steady s (homeRow s key) := by
  unfold homeRow
  dsimp only
  split
  · exact .refl s
  · exact .mapTile ..

theorem readWalk_steady (s : State) (part va : Nat) : Steady s (readWalk s part va) :=
  .foldl _ (by intro s k; exact (homeRow_steady ..).trans (readSector_steady ..)) s

/-! ### Translation (R425 to R431) -/

theorem setTlb1_steady (s : State) (a : Ag) (l : List TlbEntry) : Steady s (setTlb1 s a l) := .mapTile ..

theorem translate_steady (s : State) (a : Ag) (va : Nat) (write : Bool) : Steady s (translate s a va write).1 := by
  have walked := readWalk_steady s a.part va
  unfold translate
  dsimp only
  split
  · exact setTlb1_steady ..
  · split
    · exact .beside rfl rfl rfl rfl rfl
    · split
      · exact record_steady ..
      · split
        · exact walked.trans (.beside rfl rfl rfl rfl rfl)
        · exact walked
        · exact walked.trans (logRecord_steady ..)
        · dsimp only
          split
          · exact walked
          · exact walked.trans (record_steady ..)

/-! ### Homes, the codec and the undo log (R121, R382, R413) -/

theorem hostWrite_steady (s : State) (a : Ag) (addr : Nat) (bytes : List Byte) : Steady s (hostWrite s a addr bytes) := by
  unfold hostWrite
  split
  · exact hostPut_steady ..
  · split
    · exact (Steady.mapGraph s a.graph (by intro g; rfl)).trans (hostPut_steady ..)
    · exact .beside rfl rfl rfl rfl rfl

theorem deadHome_steady (s : State) (a : Ag) (home kind : Nat) (ea : Word) : Steady s (deadHome s a home kind ea) := record_steady ..

theorem codecDesc_steady (s : State) (tile part cidx graph : Nat) : Steady s (codecDesc s tile part cidx graph).1 := by
  unfold codecDesc
  dsimp only
  split
  · exact .refl s
  · split
    · exact .refl s
    · have fetched := sysFetch_steady s part tile (wd ((s.part part).codectab.toNat / 256 * 256 + 32 * cidx)) 32
      split <;> rename_i e <;> rw [e] at fetched <;> dsimp only at fetched
      · exact fetched.trans (logRecord_steady ..)
      · dsimp only
        exact fetched.trans (.mapHome ..)

theorem bumpCounters_steady (s : State) (tile part : Nat) (d : CodecDesc) (f : Nat → Nat) : Steady s (bumpCounters s tile part d f) := by
  have fetched := sysFetch_steady s part tile d.cnt 64
  unfold bumpCounters
  split <;> rename_i e <;> rw [e] at fetched
  · exact fetched.trans (sysWriteOrDrop_steady ..)
  · exact fetched.trans (logRecord_steady ..)

/-- R382: a dirty block encoded into its frame. -/
theorem encodeBlock_steady (s : State) (b : Block) : Steady s (encodeBlock s b) := by
  unfold encodeBlock
  split
  · exact .refl s
  · dsimp only
    have written := (homeRow_steady s b.off).withVault (m := Memory.writeBytes s.vault b.off
      (leBytes (32 * b.budget) (codecEncode (b.lanes.map BitVec.toNat) (16 * b.budget)).1)) (fun ok => Memory.wf_writeBytes _ _ _ ok.2.1)
    have marked := written.trans (Steady.foldl (sectorsOf b.off (32 * b.budget))
      (f := fun s k => s.setSector k { s.sector k with cond := if b.poison = 0 then .clean else .poisoned }) (fun s k => .setSector ..) _)
    have told (u : State) (h : Steady s u) : Steady s (if b.poison = 0 then u else
        record u (Rec.plain 4 (b.off / 2 ^ 28) none (2 ^ 32 - 1) (wd (b.off % 2 ^ 28)) (wd b.va))) := by
      split
      · exact h
      · exact h.trans (record_steady ..)
    split
    · exact (told _ marked).trans (bumpCounters_steady ..)
    · exact told _ marked

theorem insertBlock_steady (s : State) (tile : Nat) (b : Block) : Steady s (insertBlock s tile b) := by
  unfold insertBlock
  dsimp only
  split
  · split
    · exact (encodeBlock_steady ..).trans (.mapHome ..)
    · exact .refl s
  · exact .mapHome ..

/-- R121: the block of a codec frame, decoded. -/
theorem codecBlock_steady (s : State) (a : Ag) (e frame va : Nat) (tag : Option Nat) : Steady s (codecBlock s a e frame va tag).1 := by
  have described := codecDesc_steady s (Pte.tile e) a.part (Pte.cidx e) a.graph
  unfold codecBlock
  dsimp only
  generalize codecDesc s (Pte.tile e) a.part (Pte.cidx e) a.graph = r at described ⊢
  obtain ⟨s1, d?⟩ := r
  dsimp only at described ⊢
  cases d? with
  | none => exact described
  | some d =>
    dsimp only
    split
    · exact described
    · split
      · split
        · exact described
        · exact described.trans (insertBlock_steady ..)
      · have finish {s2 : State} (h : Steady s s2) (bad : Bool) (r : Rec) (f : Nat → Nat) (b : Block) : Steady s (insertBlock
            (if bad = true then bumpCounters (record s2 r) (Pte.tile e) a.part d f else s2) (Pte.tile e) b) := by
          refine Steady.trans ?_ (insertBlock_steady ..)
          split
          · exact (h.trans (record_steady ..)).trans (bumpCounters_steady ..)
          · exact h
        have row := described.trans (homeRow_steady s1 frame)
        cases tag with
        | some t =>
          have read := row.trans (readSectors_steady (homeRow s1 frame) (sectorsOf frame (32 * Pte.budget e)) t)
          dsimp only
          split
          · exact read
          · exact finish read _ _ _ _
        | none =>
          have read := row.trans (readUntagged_steady (homeRow s1 frame) (sectorsOf frame (32 * Pte.budget e)))
          dsimp only
          split
          · exact read
          · exact finish read _ _ _ _

theorem emitMarkers_steady (s : State) (i : Nat) (n : BitVec 16) : Steady s (emitMarkers s i n) := .mapTile ..

/-- R52: a wave opened: a halted thread takes its checkpoint where it stands. -/
theorem openWave_steady (s : State) (k : Nat) (dl : Option Nat) : Steady s (openWave s k dl) := by
  unfold openWave
  dsimp only
  refine Steady.trans ?_ (Steady.foldl _ (by
    intro s i
    exact (Steady.mapThread s i (by intro t; rfl)).trans (emitMarkers_steady _ _ _)) _)
  exact (Steady.mapGraph s k (by intro g; rfl)).withAgenda

theorem openForced_steady (s : State) (k : Nat) : Steady s (openForced s k) := openWave_steady ..

theorem undoThreshold_steady (s : State) (tile : Nat) : Steady s (undoThreshold s tile) := by
  unfold undoThreshold
  split
  · refine .foldl _ (fun s k => ?_) s
    split
    · exact openForced_steady ..
    · exact .refl s
  · exact .refl s

theorem writeUndo_steady (s : State) (tile : Nat) (u : Undo) : Steady s (writeUndo s tile u) :=
  .of_memory (fun ⟨a, b, c, d⟩ => ⟨a, b, c, Memory.wf_writeBytes _ _ _ d⟩) rfl rfl rfl rfl

/-- R413: the old content of a line, logged before it is written. -/
theorem undoLog_steady (s : State) (a : Ag) (kind key : Nat) : Steady s (undoLog s a kind key) := by
  unfold undoLog
  dsimp only
  split
  · exact .refl s
  · split
    · exact (Steady.mapGraph s a.graph (by intro g; rfl)).trans (record_steady ..)
    · exact ((writeUndo_steady ..).trans (.mapHome ..)).trans (undoThreshold_steady ..)

theorem patchUndo_steady (s : State) (a : Ag) (key n : Nat) (f : List Byte → List Byte) : Steady s (patchUndo s a key n f) := by
  unfold patchUndo
  dsimp only
  split
  · exact .refl s
  · refine Steady.trans (Steady.mapHome s (key / 2 ^ 28) _) (Steady.foldl _ (by intro s u; exact writeUndo_steady _ _ _) _)

theorem patchBlock_steady (s : State) (a : Ag) (b : Block) (o n : Nat) (f : List Byte → List Byte) : Steady s (patchBlock s a b o n f) := by
  unfold patchBlock
  dsimp only
  refine Steady.foldl _ (by
    intro s e
    exact (Steady.mapHome s _ _).trans (Steady.foldl _ (by intro s u; exact writeUndo_steady _ _ _) _)) s

/-- R413: the lines of a block's frame logged, as they would stand with the block encoded; the vault itself is not written. -/
theorem undoBlock_steady (s : State) (a : Ag) (b : Block) : Steady s (undoBlock s a b) := by
  unfold undoBlock
  dsimp only
  refine Steady.withVault ?_ (fun ok => ok.2.1)
  refine Steady.trans ?_ (.foldl _ (by intro s l; exact undoLog_steady _ _ _ _) _)
  split
  · exact (Steady.refl s).withVault fun ok => Memory.wf_writeBytes _ _ _ ok.2.1
  · exact .refl s

theorem writeBlock_steady (s : State) (a : Ag) (b : Block) (o : Nat) (bytes : List Byte) (poison : Bool) (upd : List Byte → List Byte) :
    Steady s (writeBlock s a b o bytes poison upd) := by
  unfold writeBlock
  dsimp only
  exact ((undoBlock_steady ..).trans (patchBlock_steady ..)).trans (insertBlock_steady ..)

/-! ### Accesses at a home and in tile memory (R118, R170, R171) -/

theorem signalLine_steady (s : State) (line : Nat × Nat) : Steady s (signalLine s line) := by
  refine Steady.foldl _ (fun s p => ?_) s
  split
  · exact .beside rfl rfl rfl rfl rfl
  · exact .refl s

theorem signalQueue_steady (s : State) (e : Nat) (large : Bool) (ea : Word) : Steady s (signalQueue s e large ea) := by
  unfold signalQueue
  split
  · exact signalLine_steady ..
  · exact signalLine_steady ..
  · exact .refl s

theorem settleSnap_steady (s : State) (op : HomeOp) : Steady s (settleSnap s op) := by
  unfold settleSnap
  dsimp only
  split
  · exact .refl s
  · exact .mapGraph s _ (by intro g; rfl)

theorem dropLate_steady (s : State) (op : HomeOp) (cause : Nat) : Steady s (dropLate s op cause) := by
  unfold dropLate
  exact (record_steady ..).trans (Steady.mapThread _ op.th (by intro t; split <;> rfl))

theorem homeRead_steady (s : State) (a : Ag) (e : Nat) (large : Bool) (ea : Word) (n dk : Nat) : Steady s (homeRead s a e large ea n dk).1 := by
  unfold homeRead
  split
  · exact .refl s
  · split
    · exact deadHome_steady ..
    · exact (homeRow_steady ..).trans (readSectors_steady ..)
  · split
    · exact deadHome_steady ..
    · rename_i c frame o _ _
      have decoded := codecBlock_steady s a c frame (vaOf ea / 128 * 128) (some (tagOf ea))
      split <;> rename_i e <;> rw [e] at decoded
      · exact decoded
      · exact decoded

/-- R118, R429: a write at a home. -/
theorem homeWrite_steady (s : State) (a : Ag) (e : Nat) (large : Bool) (ea : Word) (bytes : List Byte) (kind : Nat) (poison : Bool)
    (upd : List Byte → List Byte) : Steady s (homeWrite s a e large ea bytes kind poison upd).1 := by
  unfold homeWrite
  dsimp only
  split
  · exact hostWrite_steady ..
  · split
    · exact deadHome_steady ..
    · rename_i c frame o _ _
      have decoded := codecBlock_steady s a c frame (vaOf ea / 128 * 128) (if Pte.ts c = true then none else some (tagOf ea))
      split <;> rename_i e <;> rw [e] at decoded
      · dsimp only at decoded ⊢
        split
        · exact (decoded.trans (writeBlock_steady ..)).trans (.foldl _ (fun s k => .setSector ..) _)
        · exact decoded.trans (writeBlock_steady ..)
      · exact decoded
  · split
    · exact deadHome_steady ..
    · rename_i key _ _
      have read := (homeRow_steady s key).trans (readEach_steady (homeRow s key) ((sectorsOf key bytes.length).filter
        (fun k => !(decide (key ≤ 32 * k) && decide (32 * k + 32 ≤ key + bytes.length) || Pte.ts e))) (fun _ => tagOf ea))
      split
      · exact read
      · have logged := (read.trans (undoLog_steady _ a kind key)).trans (patchUndo_steady _ a key bytes.length upd)
        refine Steady.trans (logged.withVault fun ok => Memory.wf_writeBytes _ _ _ (logged.memory ok).2.1) (.foldl _ (fun s k => ?_) _)
        have touched : Steady s (if poison = true then
            (touchSector s k (tagOf ea) (decide (key ≤ 32 * k) && decide (32 * k + 32 ≤ key + bytes.length)) (Pte.ts e)).setSector k
              { (touchSector s k (tagOf ea) (decide (key ≤ 32 * k) && decide (32 * k + 32 ≤ key + bytes.length)) (Pte.ts e)).sector k with cond := .poisoned }
            else touchSector s k (tagOf ea) (decide (key ≤ 32 * k) && decide (32 * k + 32 ≤ key + bytes.length)) (Pte.ts e)) := by
          split
          · exact (touchSector_steady ..).trans (.setSector ..)
          · exact touchSector_steady ..
        generalize (if poison = true then _ else touchSector s k _ _ _) = u at touched ⊢
        split
        · exact touched.trans (record_steady ..)
        · exact touched

theorem homeRmw_steady (s : State) (a : Ag) (e : Nat) (large : Bool) (ea : Word) (n : Nat) (f : List Byte → List Byte) :
    Steady s (homeRmw s a e large ea n f).1 := by
  have read := homeRead_steady s a e large ea n 2
  unfold homeRmw
  split <;> rename_i e' <;> rw [e'] at read
  · exact read.trans (homeWrite_steady ..)
  · exact read

/-- R170, R171: an access to tile memory performed. -/
theorem performLocal_steady (s0 : State) (op : HomeOp) : Steady s0 (performLocal s0 op) := by
  have granted := portUse_steady s0 op.agent.tile op.agent.port (op.ea.toNat % 2 ^ 18) op.act.size
  unfold performLocal
  dsimp only
  generalize portUse s0 op.agent.tile op.agent.port (op.ea.toNat % 2 ^ 18) op.act.size = s at granted ⊢
  split
  · exact granted.trans (tmemWriteBy_steady ..)
  · exact granted.trans (.mapTile ..)
  · exact granted.trans (.mapTile ..)
  · have sensed := granted.trans (tmemSense_steady s (tmemKey op.agent.tile (op.ea.toNat % 2 ^ 18)) op.act.size)
    split
    · exact sensed.trans (dropLate_steady ..)
    · exact sensed.trans (tmemWriteBy_steady ..)

/-- R171: an accepted access performed. -/
theorem performOp_steady (s0 : State) (op : HomeOp) : Steady s0 (performOp s0 op) := by
  have settled := settleSnap_steady s0 op
  unfold performOp
  dsimp only
  generalize settleSnap s0 op = s at settled ⊢
  split
  · exact settled.trans (performLocal_steady ..)
  · split
    · split
      · split
        · exact settled.trans (logRecord_steady ..)
        · exact settled.trans (putLine_steady ..)
      · exact settled
    · split
      · rename_i bytes _ _
        have wrote := settled.trans (homeWrite_steady s { op.agent with settled := op.settled s } op.leaf.toNat op.large op.ea bytes 0 false
          (fun _ => bytes))
        split <;> rename_i e <;> rw [e] at wrote
        · exact wrote
        · exact wrote.trans (dropLate_steady ..)
      · have updated := settled.trans (homeRmw_steady s { op.agent with settled := op.settled s } op.leaf.toNat op.large op.ea op.act.size op.act.bytes)
        split <;> rename_i e <;> rw [e] at updated
        · exact updated
        · exact updated.trans (dropLate_steady ..)

theorem drainLine_steady (s : State) (l : Nat × Nat) : Steady s (drainLine s l) := by
  unfold drainLine
  dsimp only
  split
  · exact .refl s
  · refine Steady.trans ?_ (Steady.foldl _ (by
      intro s o
      exact (performOp_steady _ _).trans (signalQueue_steady _ _ _ _)) _)
    exact .beside rfl rfl rfl rfl rfl

/-! ### Accesses of an agent (R170, R296) -/

theorem readPiece_steady (s : State) (a : Ag) (ea : Word) (n : Nat) : Steady s (readPiece s a ea n).1 := by
  unfold readPiece
  dsimp only
  split
  · split
    · exact .refl s
    · exact (portUse_steady ..).trans (tmemSense_steady ..)
  · have walked := translate_steady s a (vaOf ea) false
    split <;> rename_i e <;> rw [e] at walked
    · exact (walked.trans (drainLine_steady ..)).trans (homeRead_steady ..)
    · exact walked

theorem readRange_steady (s : State) (a : Ag) (ea : Word) (n : Nat) : Steady s (readRange s a ea n).1 :=
  Steady.foldl_fst _ (by intro x p; exact readPiece_steady _ _ _ _) (s, 0, [])

theorem writePiece_steady (s : State) (a : Ag) (ea : Word) (bytes : List Byte) (poison : Bool) : Steady s (writePiece s a ea bytes poison).1 := by
  unfold writePiece
  dsimp only
  split
  · split
    · exact .refl s
    · split
      · exact ((portUse_steady ..).trans (tmemWriteBy_steady ..)).trans (tmemMark_steady ..)
      · exact (portUse_steady ..).trans (tmemWriteBy_steady ..)
  · have walked := translate_steady s a (vaOf ea) true
    split <;> rename_i e <;> rw [e] at walked
    · split
      · exact walked
      · exact ((walked.trans (drainLine_steady ..)).trans (homeWrite_steady ..)).trans (signalQueue_steady ..)
    · exact walked

theorem writeRange_steady (s : State) (a : Ag) (ea : Word) (bytes : List Byte) (poison : Bool) : Steady s (writeRange s a ea bytes poison).1 :=
  Steady.foldl_fst _ (by
    intro x p
    split
    · exact .refl _
    · exact writePiece_steady _ _ _ _ _) (s, 0)

theorem rmwPiece_steady (s : State) (a : Ag) (ea : Word) (n : Nat) (op : Option Nat) (f : List Byte → List Byte) :
    Steady s (rmwPiece s a ea n op f).1 := by
  have sensed := (portUse_steady s a.tile a.port (ea.toNat % 2 ^ 18) n).trans (tmemSense_steady _ (tmemKey a.tile (ea.toNat % 2 ^ 18)) n)
  unfold rmwPiece
  dsimp only
  split
  · split
    · exact .refl s
    · split
      · exact .refl s
      · split
        · exact sensed
        · exact sensed.trans (tmemWriteBy_steady ..)
  · have walked := translate_steady s a (vaOf ea) true
    split <;> rename_i e <;> rw [e] at walked
    · split
      · exact walked
      · split
        · exact walked
        · exact ((walked.trans (drainLine_steady ..)).trans (homeRmw_steady ..)).trans (signalQueue_steady ..)
    · exact walked

/-! ### Streams (R154 to R156, R434) -/

theorem mapEng_steady (s : State) (tile e : Nat) (f : Engine → Engine) : Steady s (mapEng s tile e f) := .mapTile ..
theorem engHold_steady (s : State) (tile e : Nat) (ea : Word) : Steady s (engHold s tile e ea) := by
  unfold engHold
  exact mapEng_steady ..
theorem moved_steady (s : State) (k : Nat) : Steady s (moved s k) := .mapGraph s k (by intro g; rfl)

theorem streamTrap_steady (s : State) (tile e code : Nat) (tval : Word) : Steady s (streamTrap s tile e code tval) := by
  unfold streamTrap
  exact (mapEng_steady s tile e _).trans (Steady.mapThread _ _ (by intro t; rfl))

theorem poisonRecord_steady (s : State) (i synd : Nat) (addr : Word) (tpc : PC) : Steady s (poisonRecord s i synd addr tpc) := record_steady ..

theorem engPoison_steady (s : State) (tile e : Nat) (ea : Word) : Steady s (engPoison s tile e ea) := by
  unfold engPoison
  dsimp only
  split
  · exact .refl s
  · exact (poisonRecord_steady ..).trans (mapEng_steady ..)

theorem completeOn_steady (s : State) (a : Ag) (cleat : Word) (n : Nat) : Steady s (completeOn s a cleat n).1 := by
  unfold completeOn
  split
  · exact .refl s
  · exact rmwPiece_steady ..

theorem payOwed_steady (s : State) (tile e : Nat) : Steady s (payOwed s tile e) := by
  have paid := completeOn_steady s (agEngine s tile e) (Scb.cleat ((s.tile tile).engine e).scb.toNat) ((s.tile tile).engine e).owed
  unfold payOwed
  dsimp only
  split
  · exact .refl s
  · split <;> rename_i h <;> rw [h] at paid
    · exact paid.trans (mapEng_steady ..)
    · exact paid.trans (engHold_steady ..)
    · refine Steady.trans ?_ (streamTrap_steady _ _ _ _ _)
      split
      · exact paid.trans (engPoison_steady ..)
      · exact paid

/-- R155, R156: one run of a line written, unless an earlier one was refused; what a refused run has met stands. -/
def writeRun (a : Ag) (ea : Word) (s0 : State) (acc : State × Nat) (p : Nat × List Byte) : State × Nat :=
  if acc.2 ≠ 0 then acc else
  match writeRange acc.1 a (ea + wd p.1) p.2 false with
  | (s1, 0) => (s1, 0)
  | (_, c) => ((writeRange s0 a (ea + wd p.1) p.2 false).1, c)

theorem writeRun_steady (a : Ag) (ea : Word) {s0 : State} {acc : State × Nat} (h : Steady s0 acc.1) (p : Nat × List Byte) :
    Steady s0 (writeRun a ea s0 acc p).1 := by
  have wrote := h.trans (writeRange_steady acc.1 a (ea + wd p.1) p.2 false)
  unfold writeRun
  split
  · exact h
  · split <;> rename_i e
    · rw [e] at wrote
      exact wrote
    · exact writeRange_steady ..

theorem writeRuns_steady (a : Ag) (ea : Word) (s0 : State) (l : List (Nat × List Byte)) (acc : State × Nat) (h : Steady s0 acc.1) :
    Steady s0 (l.foldl (writeRun a ea s0) acc).1 := by
  induction l generalizing acc with
  | nil => exact h
  | cons p l ih => exact ih _ (writeRun_steady a ea h p)

theorem sendLine_steady (s : State) (tile e : Nat) (l : CoalLine) : Steady s (sendLine s tile e l) := by
  unfold sendLine
  dsimp only
  split
  · exact .refl s
  · have left := mapEng_steady s tile e (fun x => { x with coal := x.coal.filter (fun c => c.ea != l.ea) })
    have runs := left.trans (writeRuns_steady (agEngine s tile e) l.ea (mapEng s tile e (fun x => { x with coal := x.coal.filter (fun c => c.ea != l.ea) }))
      (lineRuns l.bytes) (mapEng s tile e (fun x => { x with coal := x.coal.filter (fun c => c.ea != l.ea) }), 0) (.refl _))
    generalize written : List.foldl _ _ (lineRuns l.bytes) = r
    have sent : Steady s r.1 := by
      rw [← written]
      exact runs
    clear written runs
    obtain ⟨s1, c⟩ := r
    dsimp only at sent
    split <;> rename_i h <;> obtain ⟨rfl, -⟩ := Prod.mk.inj h
    · exact (sent.trans (mapEng_steady ..)).trans (payOwed_steady ..)
    · have spill (els : List Spilled) : Steady s (if 16 < (((s.tile tile).engine e).spills.filter Spilled.fault).length + els.length then
          mapEng (engHold s1 tile e l.ea) tile e (fun y => { y with coal := ((s.tile tile).engine e).coal, stopped := true })
          else engHold (mapEng s1 tile e (fun x => { x with spills := els ++ x.spills })) tile e l.ea) := by
        split
        · exact (sent.trans (engHold_steady ..)).trans (mapEng_steady ..)
        · exact (sent.trans (mapEng_steady ..)).trans (engHold_steady ..)
      exact spill _
    · exact sent.trans (streamTrap_steady ..)
    · exact (sent.trans (mapEng_steady ..)).trans (payOwed_steady ..)

theorem tryLine_steady (tile e : Nat) (s : State) (l : CoalLine) : Steady s (tryLine tile e s l) := by
  unfold tryLine
  split
  · exact .refl s
  · exact sendLine_steady ..

theorem sendLines_steady (s : State) (tile e : Nat) : Steady s (sendLines s tile e) := .foldl _ (tryLine_steady tile e) s

theorem accElem_steady (s : State) (tile e : Nat) (ea : Word) (data : List Byte) : Steady s (accElem s tile e ea data).1 := by
  unfold accElem
  dsimp only
  have updated := rmwPiece_steady s (agEngine s tile e) ea data.length
    (if Scb.accop ((s.tile tile).engine e).scb.toNat = 6 ∧ Scb.fmt ((s.tile tile).engine e).scb.toNat = 0xA ∧ (!isLocal ea) = true then some 18 else none)
    (accBytes (Scb.accop ((s.tile tile).engine e).scb.toNat) (Scb.fmt ((s.tile tile).engine e).scb.toNat) data)
  split <;> rename_i h <;> rw [h] at updated
  · exact (updated.trans (mapEng_steady ..)).trans (payOwed_steady ..)
  · exact updated
  · exact updated.trans (streamTrap_steady ..)
  · refine Steady.trans (Steady.trans ?_ (mapEng_steady _ _ _ _)) (payOwed_steady _ _ _)
    split
    · exact updated.trans (engPoison_steady ..)
    · exact updated

theorem elemFaults_steady (s : State) (tile e : Nat) (ea : Word) : Steady s (elemFaults s tile e ea).1 := by
  unfold elemFaults
  split
  · exact .refl s
  · exact translate_steady ..

theorem mergeElem_steady (s : State) (tile e : Nat) (ea : Word) (data : List Byte) : Steady s (mergeElem s tile e ea data).1 := by
  have room : Steady s (if (!((s.tile tile).engine e).coal.any (fun l => l.ea == ea - wd (ea.toNat % 64)) &&
      decide (4 ≤ ((s.tile tile).engine e).coal.length)) = true then
      (match ((s.tile tile).engine e).coal.head? with | some l => tryLine tile e s l | none => s) else s) := by
    split
    · split
      · exact tryLine_steady ..
      · exact .refl s
    · exact .refl s
  unfold mergeElem
  dsimp only
  generalize (if (!((s.tile tile).engine e).coal.any _ && _) = true then _ else s) = s1 at room ⊢
  split
  · exact room
  · split
    · exact (room.trans (mapEng_steady ..)).trans (sendLine_steady ..)
    · exact room.trans (mapEng_steady ..)

/-- R155, R434: an element written, put behind the gap, or left waiting. -/
theorem writeElem_steady (s : State) (tile e : Nat) (ea : Word) (data : List Byte) : Steady s (writeElem s tile e ea data).1 := by
  have spilled (u : State) (f : Bool) (x : Spilled) (b : Bool) (h : Steady s u) : Steady s (if b = true then
      (mapEng u tile e (fun x => { x with stopped := true }), false)
      else (if f = true then engHold (mapEng u tile e (fun y => { y with spills := y.spills ++ [x] })) tile e ea
        else mapEng u tile e (fun y => { y with spills := y.spills ++ [x] }), true)).1 := by
    split
    · exact h.trans (mapEng_steady ..)
    · dsimp only
      split
      · exact (h.trans (mapEng_steady ..)).trans (engHold_steady ..)
      · exact h.trans (mapEng_steady ..)
  have accumulated := accElem_steady s tile e ea data
  have faults := elemFaults_steady s tile e ea
  unfold writeElem
  dsimp only
  split
  · exact .refl s
  · split
    · split <;> rename_i h <;> rw [h] at accumulated
      · exact accumulated
      · exact spilled _ _ _ _ accumulated
    · generalize elemFaults s tile e ea = r at faults ⊢
      obtain ⟨s1, f⟩ := r
      dsimp only at faults ⊢
      split
      · exact spilled _ _ _ _ faults
      · split
        · exact faults.trans (mergeElem_steady ..)
        · exact faults.trans (accElem_steady ..)

theorem returnPermits_steady (s : State) (tile e : Nat) : Steady s (returnPermits s tile e) := by
  have mine : Steady s (returnMine s tile e) := by
    unfold returnMine
    dsimp only
    split
    · exact .refl s
    · exact .beside rfl rfl rfl rfl rfl
  unfold returnPermits
  dsimp only
  generalize returnMine s tile e = u at mine ⊢
  split
  · split
    · exact mine
    · exact (mine.trans (.mapTile ..)).trans (.mapPort ..)
  · exact mine.trans (.beside rfl rfl rfl rfl rfl)

theorem takeHead_steady (s : State) (tile e : Nat) : Steady s (takeHead s tile e) := (Steady.mapTile ..).trans (returnPermits_steady ..)

/-- R151, R154: the index of level 3 fetched. -/
theorem fetchIndex_steady (s : State) (tile e : Nat) : Steady s (fetchIndex s tile e) := by
  unfold fetchIndex
  dsimp only
  split
  · split
    · exact mapEng_steady ..
    · split
      · exact .refl s
      · have read := readRange_steady s
          (agReader s tile e (wd (Scb.ibase ((s.tile tile).engine e).scb.toNat + ((s.tile tile).engine e).i3 * Scb.indBytes ((s.tile tile).engine e).scb.toNat)))
          (wd (Scb.ibase ((s.tile tile).engine e).scb.toNat + ((s.tile tile).engine e).i3 * Scb.indBytes ((s.tile tile).engine e).scb.toNat))
          (Scb.indBytes ((s.tile tile).engine e).scb.toNat)
        split <;> rename_i h <;> rw [h] at read
        · exact read.trans (mapEng_steady ..)
        · exact (read.trans (engHold_steady ..)).trans (mapEng_steady ..)
        · exact (read.trans (engPoison_steady ..)).trans (mapEng_steady ..)
        · exact read.trans (mapEng_steady ..)
  · split
    · split
      · exact mapEng_steady ..
      · exact mapEng_steady ..
    · split
      · exact .refl s
      · exact (takeHead_steady ..).trans (mapEng_steady ..)

theorem unpackElem_steady (s : State) (tile e : Nat) (b : Beat) : Steady s (unpackElem s tile e b) := by
  unfold unpackElem
  dsimp only
  split
  · exact fetchIndex_steady ..
  · split
    · exact ((mapEng_steady ..).trans (payOwed_steady ..)).trans (moved_steady ..)
    · split <;> rename_i h <;> have wrote := (congrArg (fun r => Steady s r.1) h).mp (writeElem_steady ..)
      · exact (wrote.trans (mapEng_steady ..)).trans (moved_steady ..)
      · exact wrote

theorem unpackRest_steady (tile e n : Nat) (s : State) : Steady s (unpackRest tile e n s) := by
  induction n generalizing s with
  | zero => exact .refl s
  | succ n ih =>
    unfold unpackRest
    dsimp only
    split
    · exact .refl s
    · split
      · exact .refl s
      · exact (unpackElem_steady ..).trans (ih _)

/-- R458: what a write stream has taken is written as its graph is terminated. -/
theorem settleSink_steady (tile : Nat) (s : State) (e : Nat) : Steady s (settleSink tile s e) := by
  unfold settleSink
  dsimp only
  split
  · exact .refl s
  · exact (unpackRest_steady ..).trans (sendLines_steady ..)

theorem settleSinks_steady (s : State) (g : Nat) : Steady s (settleSinks s g) := by
  unfold settleSinks
  split
  · exact .refl s
  · exact Steady.foldl _ (by intro s x; exact Steady.foldl _ (by intro s e; exact settleSink_steady _ _ _) _) _

/-! ### The end of a graph (R30, R384, R389, R458) -/

/-- A thread whose slot is free. -/
def freeSeat (x : Nat × Run × PC × Vector Word 32) : Nat × Run × PC × Vector Word 32 := (x.1, .free, x.2.2)

/-- From `s` to `t` the threads of graph k, and no other, leave their slots; all else stays as under `Steady`. -/
structure Ended (k : Nat) (s t : State) : Prop where
  memory : MemoryOk s → MemoryOk t
  seats : ∀ i, (t.thread i).seat = if i ∈ graphThreads s k then freeSeat (s.thread i).seat else (s.thread i).seat
  lands : ∀ j, (t.graph j).land = (s.graph j).land
  ports : ∀ j, (t.part j).ports = (s.part j).ports
  module : (t.cur, t.zones, t.mod) = (s.cur, s.zones, s.mod)

theorem graphTiles_land {g h : Graph} (e : h.land = g.land) : graphTiles h = graphTiles g := by
  simp only [Graph.land, Prod.mk.injEq] at e
  obtain ⟨x, y, w, height⟩ := e
  unfold graphTiles
  rw [x, y, w, height]

theorem Steady.graphThreads {s t : State} (h : Steady s t) (k : Nat) : graphThreads t k = graphThreads s k := by
  have held (i : Nat) : ((t.thread i).graph == k && (t.thread i).run != .free) = ((s.thread i).graph == k && (s.thread i).run != .free) :=
    congrArg (fun x : Nat × Run × PC × Vector Word 32 => x.1 == k && x.2.1 != .free) (h.seats i)
  unfold Machine.graphThreads
  simp only [graphTiles_land (h.lands k), held]

theorem Ended.after {s t r : State} {k : Nat} (h : Steady s t) (e : Ended k t r) : Ended k s r := by
  refine ⟨fun ok => e.memory (h.memory ok), fun i => ?_, fun j => (e.lands j).trans (h.lands j), fun j => (e.ports j).trans (h.ports j),
    e.module.trans h.module⟩
  rw [e.seats, h.graphThreads, h.seats]

theorem Ended.before {s t r : State} {k : Nat} (e : Ended k s t) (h : Steady t r) : Ended k s r :=
  ⟨fun ok => h.memory (e.memory ok), fun i => (h.seats i).trans (e.seats i), fun j => (h.lands j).trans (e.lands j),
    fun j => (h.ports j).trans (e.ports j), h.module.trans e.module⟩

/-- Threads freed one after another. -/
theorem foldl_freed (l : List Nat) {f : Thread → Thread} (hf : ∀ t, (f t).seat = freeSeat t.seat) (s : State) (i : Nat) :
    ((l.foldl (fun s i => s.mapThread i f) s).thread i).seat = if i ∈ l then freeSeat (s.thread i).seat else (s.thread i).seat := by
  have again (x : Nat × Run × PC × Vector Word 32) : freeSeat (freeSeat x) = freeSeat x := rfl
  induction l generalizing s with
  | nil => rfl
  | cons j l ih =>
    rw [List.foldl_cons, ih, State.thread_mapThread]
    by_cases here : j = i
    · subst here
      rw [if_pos rfl, if_pos List.mem_cons_self, hf, again, ite_self]
    · rw [if_neg here]
      simp only [List.mem_cons, Ne.symm here, false_or]

/-- R30, R389: a slot that its graph leaves. -/
def vacated (t : Thread) : Thread :=
  { t with run := .free, wait := .none, susp := none, bight := .openAt t.pc t.lc t.fpctl, pend := none, held := none, late := none, gtraps := [],
           gbar := none, queues := t.queues.map (fun q => { q with waiting := [] }) }

theorem releaseGraph_ended (s : State) (k : Nat) : Ended k s (releaseGraph s k) := by
  have threads : Ended k s ((graphThreads s k).foldl (fun s i => s.mapThread i vacated) s) := by
    have rest (l : List Nat) {f : Thread → Thread} (u : State) : (l.foldl (fun s i => s.mapThread i f) u) =
        { u with threads := (l.foldl (fun s i => s.mapThread i f) u).threads } := by
      induction l generalizing u with
      | nil => rfl
      | cons i l ih => exact (ih _).trans rfl
    have seats := foldl_freed (graphThreads s k) (f := vacated) (fun _ => rfl) s
    rw [rest] at seats ⊢
    exact ⟨id, seats, fun _ => rfl, fun _ => rfl, rfl⟩
  have tiles := threads.before (Steady.foldl ((graphTiles (s.graph k)).map (fun (_, _, t) => t)) (f := fun s ti => s.mapTile ti (fun t =>
    (pick 4 (fun c => (t.ctx c).graph == some k)).foldl Tile.release t)) (fun s ti => .mapTile ..) _)
  unfold releaseGraph
  exact tiles.before (.beside rfl rfl rfl rfl rfl)

theorem writeStatus_steady (s : State) (k : Nat) (bytes : List Byte) : Steady s (writeStatus s k bytes) := by
  unfold writeStatus
  dsimp only
  split
  · exact .refl s
  · exact Steady.foldl _ (by intro s p; exact sysWriteOrDrop_steady ..) s

theorem doneCleat_steady (s : State) (k : Nat) : Steady s (doneCleat s k) := by
  unfold doneCleat
  dsimp only
  split
  · exact .refl s
  · have fetched := sysFetch_steady s (s.graph k).part (tileAt (s.graph k).x (s.graph k).y) (wd (recDword (s.graph k) 4)) 16
    split <;> rename_i e <;> rw [e] at fetched
    · exact fetched.trans (sysWriteOrDrop_steady ..)
    · exact fetched.trans (logRecord_steady ..)

theorem sendHeld_steady (s : State) (p : Nat × BitVec 16 × Nat × Byte → Bool) : Steady s (sendHeld s p) := by
  unfold sendHeld sentSignals
  refine Steady.trans ?_ (Steady.foldl _ (by intro s l; exact signalLine_steady ..) _)
  exact .of_memory (fun ⟨a, b, c, d⟩ => ⟨a, b, Memory.wf_foldl_write _ _ _ _ c, d⟩) rfl rfl rfl rfl

theorem flushEgress_steady (s : State) (k : Nat) : Steady s (flushEgress s k) := (sendHeld_steady ..).trans (.beside rfl rfl rfl rfl rfl)
theorem dropEgress_steady (s : State) (k : Nat) : Steady s (dropEgress s k) := .beside rfl rfl rfl rfl rfl
theorem forgetUndo_steady (s : State) (k : Nat) : Steady s (forgetUndo s k) := .beside rfl rfl rfl rfl rfl

/-- R30: a graph that ends: its threads leave their slots, and no other thread moves. -/
theorem endGraph_ended (s : State) (k : Nat) (st : GState) (cause : Nat) : Ended k s (endGraph s k st cause) := by
  have settled : Steady s (if st = .terminated then settleSinks s k else s) := by
    split
    · exact settleSinks_steady ..
    · exact .refl s
  unfold endGraph
  dsimp only
  generalize (if st = .terminated then settleSinks s k else s) = u at settled ⊢
  have told (v : State) : Ended k v (forgetUndo (if st = .retired then flushEgress (releaseGraph v k) k else dropEgress (releaseGraph v k) k) k) := by
    refine Ended.before ?_ (forgetUndo_steady _ k)
    split
    · exact (releaseGraph_ended v k).before (flushEgress_steady ..)
    · exact (releaseGraph_ended v k).before (dropEgress_steady ..)
  refine Ended.before ?_ (Steady.mapPart _ _ (by intro p; rfl))
  refine Ended.before ?_ (Steady.mapGraph _ _ (by intro g; rfl))
  refine Ended.after ?_ (told _)
  refine Steady.trans ?_ (doneCleat_steady _ k)
  refine Steady.trans ?_ (writeStatus_steady _ k _)
  exact settled.trans (Steady.mapGraph _ k (by intro g; rfl))

end Sys2Proof.Machine
end

section
/-! PROOF. O51, of spec/23_module_and_world.md and spec/20_translation.md: the steps of the fabric ports. -/

namespace Sys2Proof.Machine
open Sys2Proof.Safety Sys2Proof.Claims

/-! ### What leaves the ports as they are -/

theorem foldl_ports {α : Type} (l : List α) {f : State → α → State} (hf : ∀ s a, (f s a).ports = s.ports) (s : State) : (l.foldl f s).ports = s.ports := by
  induction l generalizing s with
  | nil => rfl
  | cons a l ih => exact (ih (f s a)).trans (hf s a)

theorem port_congr {s t : State} (h : t.ports = s.ports) (k : Nat) : t.port k = s.port k := by
  unfold State.port
  rw [h]

theorem setSector_ports (s : State) (k : Nat) (x : Sector) : (s.setSector k x).ports = s.ports := by
  obtain ⟨_, _, _, _, _, _, e⟩ := setSector_written s k x
  rw [e]

theorem recordLate_ports (s : State) (g tile e : Nat) (b : Beat) : (recordLate s g tile e b).ports = s.ports := by
  unfold recordLate
  split
  · split <;> rfl
  · rfl

theorem coilPut_ports (s : State) (tile g e : Nat) (b : Beat) : (coilPut s tile g e b).ports = s.ports := by
  have wrote (j : Nat) : (coilWrite s tile g j b).ports = s.ports := by
    unfold coilWrite
    dsimp only
    rw [setSector_ports, setSector_ports]
  have activate (u : State) (j : Nat) (first : Bool) : (coilActivate u tile g j first).ports = u.ports := by
    unfold coilActivate
    dsimp only
    split <;> rfl
  unfold coilPut
  dsimp only
  show (coilActivate _ _ _ _ _).ports = _
  exact (activate (coilWrite s tile g (EpF.cbase (epFrame (s.tile tile) e) + ((s.tile tile).ep e).tail) b) _ _).trans (wrote _)

theorem arriveBeat_ports {s t : State} {g tile e : Nat} {b : Beat} (h : arriveBeat s g tile e b = some t) : t.ports = s.ports := by
  dsimp only [arriveBeat] at h
  split at h
  · split at h
    · exact Option.some.inj h ▸ recordLate_ports s g tile e b
    · exact nomatch h
  · rw [← Option.some.inj h, recordLate_ports]
    split
    · rfl
    · exact coilPut_ports s tile g e b

/-- R453: an edge that is lost ends in an error beat at its input. -/
theorem loseEdge_ports (s : State) (x : Nat × Nat) : (loseEdge s x).ports = s.ports := by
  unfold loseEdge
  split
  · rfl
  · dsimp only
    generalize arrived : arriveBeat _ _ _ _ _ = o
    cases o with
    | none => rfl
    | some t => exact arriveBeat_ports (s := s.draw) arrived

theorem triggers_ports (l : List Nat) (c : Nat) (s : State) : (l.foldl (fun s g => trigger s g c) s).ports = s.ports :=
  foldl_ports l (by intro s g; rfl) s

theorem returnByFlit_ports (s : State) (port field : Nat) : (returnByFlit s port field).ports = s.ports :=
  foldl_ports _ (by intro s x; rfl) s

/-! ### Lanes and ports out of service (R455, R465) -/

/-- R465: a port taken down is down, its replay buffer empty. -/
theorem takeDown_port (s : State) (port : Nat) : ((takeDown s port).port port).up = false ∧ ((takeDown s port).port port).replay = [] := by
  have kept (l : List (Nat × Nat)) (m : List Nat) (u : State) : ((m.foldl (fun s g => trigger s g 0x0B) (l.foldl loseEdge u)).port port) = u.port port :=
    port_congr ((triggers_ports m 0x0B _).trans (foldl_ports l loseEdge_ports u)) port
  unfold takeDown
  dsimp only
  rw [kept]
  simp only [State.port, State.mapPort, Assoc.getD_set_same, and_self]

/-- R455: a lane of a port with both in service is retired. -/
def laneRetired (lane : Nat) (p : Port) : Port :=
  if lane = 0 then { p with lane0 := false, retired := p.retired ||| 1 } else { p with lane1 := false, retired := p.retired ||| 2 }

theorem retireLane_port {s : State} {port lane first : Nat} (zero : (s.port port).lane0 = true) (one : (s.port port).lane1 = true) :
    (retireLane s port lane first).port port = laneRetired lane (s.port port) := by
  have logged := record_logged s (Rec.plain 0x0B (portTile port) none 3 (wd (port + lane * 2 ^ 8)) (wd first))
  have after : ((record s (Rec.plain 0x0B (portTile port) none 3 (wd (port + lane * 2 ^ 8)) (wd first))).mapPort port (laneRetired lane)).port port =
      laneRetired lane (s.port port) := by
    rw [State.port_mapPort_same, logged.port]
  have serves : ((laneRetired lane (s.port port)).lane0 || (laneRetired lane (s.port port)).lane1) = true := by
    unfold laneRetired
    split
    · exact (congrArg (false || ·) one)
    · exact (congrArg (· || false) zero)
  have inService : (!(if lane = 0 then (s.port port).lane0 else (s.port port).lane1)) = false := by
    split
    · rw [zero]; rfl
    · rw [one]; rfl
  unfold retireLane
  dsimp only
  rw [inService, if_neg Bool.false_ne_true]
  show State.port (if (((record s _).mapPort port (laneRetired lane)).port port).lane0 ||
    (((record s _).mapPort port (laneRetired lane)).port port).lane1 then _ else _) port = _
  rw [after, serves, if_pos rfl, port_congr (triggers_ports _ 0x0B _) port]
  exact after

/-- R465: a pair that loses its alignment retires its lane. -/
theorem pairLosesAlignment_eq {s : State} {port lane pair : Nat} (there : port < 128) (two : lane < 2) (four : pair < 4) (up : (s.port port).up = true) :
    exec (.pairLosesAlignment port lane pair) s = .next (retireLane s port lane s.cycle.toNat) := by
  have serves : ¬ (128 ≤ port ∨ 2 ≤ lane ∨ 4 ≤ pair ∨ (!(s.port port).up) = true) := by
    rw [up]
    rintro (far | high | many | off)
    · omega
    · omega
    · omega
    · cases off
  show Host.Outcome.next (if 128 ≤ port ∨ 2 ≤ lane ∨ 4 ≤ pair ∨ (!(s.port port).up) = true then s else _) = _
  rw [if_neg serves]

/-- R464, R465: a port that comes back on its lanes in service. -/
def portBack (a b : Bool) (p : Port) : Port :=
  { p with up := true, lane0 := a, lane1 := b, txSeq := 0, rxSeq := 0, acked := 0, replay := [], unacked := [], stream := [], rx := [], early := [] }

/-- R465: a port comes back on the lanes asked for, of those in service. -/
theorem execPortUp_port {s : State} {port lanes : Nat} {a b : Bool} (there : port < 128) (lo : 1 ≤ lanes) (hi : lanes ≤ 2) (down : (s.port port).up = false)
    (first : (s.port port).retired.getLsbD 0 = !a) (second : (s.port port).retired.getLsbD 1 = !b) (some_ : (a || b) = true) :
    ∃ t, exec (.portUp port lanes) s = .next t ∧
      t.port port = if lanes = 1 ∧ a = true ∧ b = true then laneRetired 1 (portBack a b (s.port port)) else portBack a b (s.port port) := by
  have comes : ¬ (128 ≤ port ∨ lanes = 0 ∨ 2 < lanes ∨ (s.port port).up = true ∨ (!(a || b)) = true) := by
    rw [down, some_]
    rintro (far | none_ | many | up | off)
    · omega
    · omega
    · omega
    · cases up
    · cases off
  have logged (u : State) := moduleEvent_logged u (portOwner s port).toList 0x34 (portTile port) port (if lanes = 2 ∧ a ∧ b then 2 else 1) 0
  refine ⟨moduleEvent (if lanes = 1 ∧ a = true ∧ b = true then retireLane (s.mapPort port (portBack a b)) port 1 s.cycle.toNat
    else s.mapPort port (portBack a b)) (portOwner s port).toList 0x34 (portTile port) port (if lanes = 2 ∧ a ∧ b then 2 else 1) 0, ?_, ?_⟩
  · show Host.Outcome.next (if 128 ≤ port ∨ lanes = 0 ∨ 2 < lanes ∨ (s.port port).up = true ∨
      (!(!(s.port port).retired.getLsbD 0 || !(s.port port).retired.getLsbD 1)) = true then s else _) = _
    rw [first, second, Bool.not_not, Bool.not_not, if_neg comes]
    rfl
  · rw [(logged _).port]
    split
    · rename_i both
      obtain ⟨-, rfl, rfl⟩ := both
      rw [retireLane_port (by rw [State.port_mapPort_same]; rfl) (by rw [State.port_mapPort_same]; rfl), State.port_mapPort_same]
    · rw [State.port_mapPort_same]

/-! ### Flits (R464) -/

/-- R464: the CRC field of a flit. -/
theorem flit_crc (flit : BitVec 2048) : fld flit.toNat 2047 1984 = flit.toNat / 2 ^ 1984 := by
  have lt := flit.isLt
  exact Nat.mod_eq_of_lt (Nat.div_lt_of_lt_mul (by rw [← Nat.pow_add]; exact lt))

theorem mapPort_congr {s : State} {port : Nat} {f g : Port → Port} (h : f (s.port port) = g (s.port port)) : s.mapPort port f = s.mapPort port g := by
  unfold State.mapPort
  rw [h]

/-- R464: flits sent again. -/
def resent (again : List (BitVec 2048)) (p : Port) : Port :=
  { p with sent := p.sent ++ again, replayed := p.replayed + u again.length, errors := p.errors + 1 }

/-- R464: a retry sends the named flit and every later one again, and no lane is retired while the count of its faults is low. -/
theorem execFlitReplay_note {s : State} {port : Nat} {seq : BitVec 16} (up : (s.port port).up = true)
    (low : tallyHit (s.mapPort port (fun p => resent (p.replay.dropWhile (fun f => flitSeq f != seq)) p)) (portTile port) 3
      (2 * port + if (s.port port).lane0 && (s.port port).lane1 then seq.toNat % 2 else if (s.port port).lane0 then 0 else 1) = none) :
    exec (.flitReplay port seq) s = .next (tallyNote (s.mapPort port (resent ((s.port port).replay.dropWhile (fun f => flitSeq f != seq))))
      (portTile port) 3 (2 * port + if (s.port port).lane0 && (s.port port).lane1 then seq.toNat % 2 else if (s.port port).lane0 then 0 else 1)) := by
  have same : s.mapPort port (resent ((s.port port).replay.dropWhile (fun f => flitSeq f != seq))) =
      s.mapPort port (fun p => resent (p.replay.dropWhile (fun f => flitSeq f != seq)) p) := mapPort_congr rfl
  rw [← same] at low
  show Host.Outcome.next (if !(s.port port).up then s else
    match tallyHit (s.mapPort port (resent ((s.port port).replay.dropWhile (fun f => flitSeq f != seq)))) (portTile port) 3
      (2 * port + if (s.port port).lane0 && (s.port port).lane1 then seq.toNat % 2 else if (s.port port).lane0 then 0 else 1) with
    | some _ => _ | none => _) = _
  rw [up, if_neg (by decide), low]
  rfl

/-- R464: a port once the flits that a flit acknowledges have left its replay buffer. -/
def acknowledged (s : State) (port : Nat) (flit : BitVec 2048) : State :=
  s.mapPort port (fun p => { p with
    replay := p.replay.filter (fun f => decide (0 < (flitSeq f - .ofNat 16 (fld flit.toNat 31 16)).toNat) &&
      decide ((flitSeq f - .ofNat 16 (fld flit.toNat 31 16)).toNat < 2 ^ 15)),
    unacked := p.unacked.filter (fun u => decide (0 < (u.1 - .ofNat 16 (fld flit.toNat 31 16)).toNat) &&
      decide ((u.1 - .ofNat 16 (fld flit.toNat 31 16)).toNat < 2 ^ 15)) })

/-- R464: an intact flit that carries data. -/
theorem execFlitReceive_data {s : State} {port : Nat} {flit : BitVec 2048} (up : (s.port port).up = true)
    (good : (Config.crc64 (leBytes 248 flit.toNat)).toNat = flit.toNat / 2 ^ 1984) (data : flit.toNat / 2 ^ 32 % 16 = 0) :
    exec (.flitReceive port flit) s = .next (
      if flitSeq flit = (s.port port).rxSeq + 1 then takeEarly Config.replayFlits port (takeFlit (acknowledged s port flit) port flit)
      else if (flitSeq flit - ((s.port port).rxSeq + 1)).toNat < Config.replayFlits ∧ !(s.port port).early.any (fun f => flitSeq f == flitSeq flit) then
        (acknowledged s port flit).mapPort port (fun p => { p with early := p.early ++ [flit] })
      else acknowledged s port flit) := by
  have type_ : fld flit.toNat 35 32 = 0 := data
  show Host.Outcome.next (if !(s.port port).up then s else if (Config.crc64 (leBytes 248 flit.toNat)).toNat ≠ fld flit.toNat 2047 1984 then _
    else if fld flit.toNat 35 32 = 2 then _ else if fld flit.toNat 35 32 = 1 then _ else _) = _
  rw [up, flit_crc, if_neg (by decide), if_neg (Decidable.not_not.2 good), type_, if_neg (by decide), if_neg (by decide)]
  rfl

theorem acknowledged_port (s : State) (port : Nat) (flit : BitVec 2048) : (acknowledged s port flit).port port = { s.port port with
    replay := ((acknowledged s port flit).port port).replay, unacked := ((acknowledged s port flit).port port).unacked } := by
  rw [acknowledged, State.port_mapPort_same]

/-- R464: a flit taken in its turn. -/
theorem takeFlit_port (s : State) (port : Nat) (flit : BitVec 2048) :
    ((takeFlit s port flit).port port).rxSeq = flitSeq flit ∧ ((takeFlit s port flit).port port).early = (s.port port).early := by
  have returned := port_congr (returnByFlit_ports s port (fld flit.toNat 63 36)) port
  unfold takeFlit
  dsimp only
  split
  · rw [State.port_mapPort_same, returned]
    exact ⟨rfl, rfl⟩
  · rw [State.port_mapPort_same, returned]
    exact ⟨rfl, rfl⟩

/-- R464: with no flit that waits, a flit taken is the last. -/
theorem takeEarly_none (fuel port : Nat) (s : State) (h : (s.port port).early = []) : takeEarly fuel port s = s := by
  cases fuel with
  | zero => rfl
  | succ k =>
    unfold takeEarly
    rw [h]
    rfl

/-- R464: the flit that waits for its turn is taken once its turn has come. -/
theorem takeEarly_one (k port : Nat) (s : State) (g : BitVec 2048) (h : (s.port port).early = [g]) (turn : flitSeq g = (s.port port).rxSeq + 1) :
    ((takeEarly (k + 1) port s).port port).rxSeq = flitSeq g ∧ ((takeEarly (k + 1) port s).port port).early = [] := by
  have found : (s.port port).early.find? (fun f => flitSeq f == (s.port port).rxSeq + 1) = some g := by
    rw [h, List.find?_cons, beq_iff_eq.2 turn]
  have taken := takeFlit_port (s.mapPort port (fun p => { p with early := p.early.erase g })) port g
  rw [State.port_mapPort_same] at taken
  have none_ : ((takeFlit (s.mapPort port (fun p => { p with early := p.early.erase g })) port g).port port).early = [] := by
    rw [taken.2, h]
    exact List.erase_cons_head ..
  unfold takeEarly
  rw [found]
  dsimp only
  rw [takeEarly_none k port _ none_]
  exact ⟨taken.1, none_⟩

/-! ### Windows (R441) -/

/-- R440: the agent of a port hangs on which partition the port is granted to. -/
theorem portAg_steady {s t : State} (h : Steady s t) (port : Nat) : portAg t port = portAg s port := by
  have granted (k : Nat) : ((t.part k).exists_ && (t.part k).portmask.getLsbD port) = ((s.part k).exists_ && (s.part k).portmask.getLsbD port) := by
    have same := h.ports k
    exact congrArg (fun x : Bool × BitVec 128 × Nat => x.1 && x.2.1.getLsbD port) same
  unfold portAg portOwner
  simp only [granted]

/-- R441: the live bytes of a beat written from an address on, by a given agent or by that of the port. -/
def windowWrite (a : Ag) (ea : Word) (s : State) (r : Nat × List Byte) : State := (writePiece s a (ea + u r.1) r.2 false).1
def portWrite (port : Nat) (ea : Word) (s : State) (r : Nat × List Byte) : State := windowWrite (portAg s port) ea s r

theorem windowWrite_steady (a : Ag) (ea : Word) (s : State) (r : Nat × List Byte) : Steady s (windowWrite a ea s r) := writePiece_steady ..

/-- R441: the live bytes of a beat are written by the agent of the port, whatever state the earlier bytes have left. -/
theorem windowWrites_agent {s : State} {port : Nat} {ea : Word} (runs : List (Nat × List Byte)) {s0 : State} (h : Steady s s0) :
    runs.foldl (windowWrite (portAg s port) ea) s0 = runs.foldl (portWrite port ea) s0 := by
  induction runs generalizing s0 with
  | nil => rw [List.foldl_nil, List.foldl_nil]
  | cons r runs ih =>
    have first : portWrite port ea s0 r = windowWrite (portAg s port) ea s0 r := by
      unfold portWrite
      rw [portAg_steady h]
    rw [List.foldl_cons, List.foldl_cons, first]
    exact ih (h.trans (windowWrite_steady _ ea s0 r))

/-- R441: a beat whose live bytes all pass is written at the next 32 bytes of its window. -/
theorem execFarPortBeat_written {s : State} {port sp : Nat} {data : BitVec 256} {pred : BitVec 8} {base len pos : Word} (small : sp < 32)
    (window : Assoc.get? (s.port port).windows sp = some (base, len, pos, true)) (room : pos.toNat + 32 ≤ len.toNat)
    (free : agentHeld s (portAg s port) true ((liveRuns { data := data, pred := pred, kind := 0, tag := 0 }).map
      (fun r => (base + pos + u r.1, 4))) = false)
    (clear : (windowCause s (portAg s port) (base + pos) (liveRuns { data := data, pred := pred, kind := 0, tag := 0 })).1 = 0) :
    exec (.farPortBeat (32 * port + sp) data pred) s = .next (windowStep ((liveRuns { data := data, pred := pred, kind := 0, tag := 0 }).foldl
      (portWrite port (base + pos)) s) port sp true) := by
  rw [← windowWrites_agent _ (.refl s)]
  have run : exec (.farPortBeat (32 * port + sp) data pred) s = execFarPortBeat (32 * port + sp) data pred s := rfl
  rw [run, execFarPortBeat]
  dsimp only
  rw [show (32 * port + sp) / 32 = port by omega, show (32 * port + sp) % 32 = sp by omega, window]
  dsimp only
  rw [if_neg (Nat.not_lt.2 room)]
  rw [show agentHeld s (portAg s port) true ((liveRuns { data := data, pred := pred, kind := 0, tag := 0 }).map
    (fun r => (base + pos + wd r.1, 4))) = false from free, if_neg Bool.false_ne_true]
  generalize windowCause s (portAg s port) (base + pos) (liveRuns { data := data, pred := pred, kind := 0, tag := 0 }) = cause at clear ⊢
  obtain ⟨code, first⟩ := cause
  dsimp only at clear
  subst clear
  rfl

end Sys2Proof.Machine

open Sys2Proof Sys2Proof.Machine Sys2Proof.Safety Sys2Proof.Claims

/-- Settles O51, step by step. -/
theorem portSteps : Obligations.PortSteps := by
  intro s port
  refine ⟨fun up full => ?_, fun lanes there lo hi down => ⟨fun none_ => ?_, fun one => ?_, fun both => ?_⟩,
    fun pair there small up zero one => ⟨⟨_, pairLosesAlignment_eq there (by decide) small up, ?_⟩, ⟨_, pairLosesAlignment_eq there (by decide) small up, ?_⟩⟩,
    fun seq up hit => ?_, fun flit up bad => ?_, fun flit up good data => ⟨fun turn none_ => ?_, fun g turn one next => ?_, fun late near new => ?_⟩,
    fun sp data pred small none_ => ?_, fun sp data pred base len pos small window room free clear => ?_⟩
  · obtain ⟨isDown, empty⟩ := takeDown_port s port
    have logged := moduleEvent_logged (takeDown s port) (portOwner s port).toList 0x33 (portTile port) port (s.port port).replayed.toNat 0
    refine ⟨_, ?_, (congrArg (fun f => (f port).up) logged.port).trans isDown, (congrArg (fun f => (f port).replay) logged.port).trans empty⟩
    show Host.Outcome.next (if !(s.port port).up || decide ((s.port port).replay.length < Config.replayFlits) then s else _) = _
    rw [up, decide_eq_false (Nat.not_lt.2 full)]
    rfl
  · obtain ⟨t, run, back⟩ := execPortUp_port (a := true) (b := true) there lo hi down (by rw [none_]; rfl) (by rw [none_]; rfl) rfl
    rcases (by omega : lanes = 1 ∨ lanes = 2) with rfl | rfl
    · rw [if_pos ⟨rfl, rfl, rfl⟩] at back
      exact ⟨t, run, by rw [back]; exact ⟨rfl, rfl, rfl, rfl, rfl⟩⟩
    · rw [if_neg (by decide)] at back
      exact ⟨t, run, by rw [back]; exact ⟨rfl, rfl, rfl, rfl, rfl⟩⟩
  · rcases one with zero | one
    · obtain ⟨t, run, back⟩ := execPortUp_port (a := false) (b := true) there lo hi down (by rw [zero]; rfl) (by rw [zero]; rfl) rfl
      rw [if_neg (by simp)] at back
      exact ⟨t, run, by rw [back, zero]; exact ⟨rfl, rfl, rfl, zero, rfl, rfl⟩⟩
    · obtain ⟨t, run, back⟩ := execPortUp_port (a := true) (b := false) there lo hi down (by rw [one]; rfl) (by rw [one]; rfl) rfl
      rw [if_neg (by simp)] at back
      exact ⟨t, run, by rw [back, one]; exact ⟨rfl, rfl, rfl, one, rfl, rfl⟩⟩
  · show Host.Outcome.next (if 128 ≤ port ∨ lanes = 0 ∨ 2 < lanes ∨ (s.port port).up = true ∨
      (!(!(s.port port).retired.getLsbD 0 || !(s.port port).retired.getLsbD 1)) = true then s else _) = _
    rw [both, if_pos (.inr (.inr (.inr (.inr rfl))))]
  · rw [retireLane_port zero one]
    exact ⟨rfl, one, rfl⟩
  · rw [retireLane_port zero one]
    exact ⟨rfl, zero, rfl⟩
  · refine ⟨_, execFlitReplay_note up hit, ?_⟩
    show ((State.mapPort s port _).port port).sent = _
    rw [State.port_mapPort_same]
    rfl
  · refine ⟨s.mapPort port (fun p => { p with sent := p.sent ++ [flitOf ((s.port port).rxSeq + 1) p.rxSeq 2 [] []], errors := p.errors + 1 }),
      flitOf ((s.port port).rxSeq + 1) (s.port port).rxSeq 2 [] [], ?_, ?_⟩
    · show Host.Outcome.next (if !(s.port port).up then s else if (Config.crc64 (leBytes 248 flit.toNat)).toNat ≠ fld flit.toNat 2047 1984 then _ else _) = _
      rw [up, flit_crc, if_neg (by decide), if_pos bad]
    · rw [State.port_mapPort_same]
      exact ⟨rfl, rfl, rfl⟩
  · rw [execFlitReceive_data up good data, if_pos turn]
    refine ⟨_, rfl, ?_⟩
    have after := takeFlit_port (acknowledged s port flit) port flit
    rw [acknowledged_port] at after
    rw [takeEarly_none _ _ _ (after.2.trans none_)]
    exact after.1.trans turn
  · rw [execFlitReceive_data up good data, if_pos turn]
    have after := takeFlit_port (acknowledged s port flit) port flit
    rw [acknowledged_port] at after
    have last := takeEarly_one 63 port (takeFlit (acknowledged s port flit) port flit) g (after.2.trans one)
      (by rw [after.1, next, turn, BitVec.add_assoc]; rfl)
    exact ⟨_, rfl, last.1.trans next, last.2⟩
  · have fresh : (!(s.port port).early.any (fun f => flitSeq f == flitSeq flit)) = true := by
      rw [Bool.not_eq_true', List.any_eq_false]
      exact fun g hg same => new g hg (beq_iff_eq.1 same)
    rw [execFlitReceive_data up good data, if_neg late, if_pos ⟨near, fresh⟩]
    refine ⟨_, rfl, ?_⟩
    rw [State.port_mapPort_same, acknowledged_port]
    exact ⟨rfl, rfl, rfl⟩
  · show Host.Outcome.next (match Assoc.get? (s.port ((32 * port + sp) / 32)).windows ((32 * port + sp) % 32) with
      | none => _ | some (_, _, _, true) => _ | some (_, _, _, false) => _) = _
    rw [show (32 * port + sp) / 32 = port by omega, show (32 * port + sp) % 32 = sp by omega, none_]
  · exact execFarPortBeat_written small window room free clear
end

section
/-! PROOF. O52, of spec/23_module_and_world.md, spec/16_privileged_state.md and spec/21_errors_containment.md: the steps of the module. -/

namespace Sys2Proof.Machine
open Sys2Proof.Safety Sys2Proof.Claims

/-! ### Power-up (R461) -/

theorem moduleEvent_mod (s : State) (l : List Nat) (c t y a d : Nat) : (moduleEvent s l c t y a d).mod = s.mod := (moduleEvent_logged s l c t y a d).mod

theorem foldl_mod {α : Type} (l : List α) {f : State → α → State} (hf : ∀ s a, (f s a).mod = s.mod) (s : State) : (l.foldl f s).mod = s.mod := by
  induction l generalizing s with
  | nil => rfl
  | cons a l ih => exact (ih (f s a)).trans (hf s a)

/-- R461: what a power-up leaves of the module. -/
theorem execPowerUp_mod (s : State) : ∃ t, exec .powerUp s = .next t ∧ t.mod.powerUps = s.mod.powerUps + 1 ∧ t.mod.flash = some (flashOf s) ∧
    t.mod.powered = Config.firmwareVerifies (flashOf s) := by
  have run : exec .powerUp s = execPowerUp s := rfl
  rw [run]
  unfold execPowerUp
  dsimp only
  refine ⟨_, rfl, ?_⟩
  by_cases verifies : Config.firmwareVerifies (flashOf s) = true
  · rw [verifies, if_neg (by decide)]
    rw [foldl_mod _ (by intro s x; exact moduleEvent_mod _ _ _ _ _ _ _)]
    exact ⟨rfl, rfl, rfl⟩
  · rw [Bool.not_eq_true] at verifies
    rw [verifies, if_pos (by decide)]
    exact ⟨rfl, rfl, rfl⟩

/-! ### Attestation (R462) -/

/-- R462: the digests of a report, between its nonce and its time. -/
def reportDigests (s : State) : List Byte :=
  leBytes 48 (Config.sha384 (s.mod.flash.getD Config.flashFirmware)).toNat ++
  (leBytes 48 (Config.sha384 ((List.range 6144).flatMap (fun i => defectEntry (s.tile i)))).toNat ++
  (List.range 16).flatMap (fun p => if (s.part p).exists_ then leBytes 48 (Config.sha384 (Assoc.getD s.mod.himgs p [])).toNat else List.replicate 48 0))

theorem flatMap_length {α : Type} (n : Nat) (l : List α) (f : α → List Byte) (h : ∀ a, (f a).length = n) : (l.flatMap f).length = n * l.length := by
  induction l with
  | nil => rfl
  | cons a l ih => rw [List.flatMap_cons, List.length_append, ih, h, List.length_cons, Nat.mul_succ, Nat.add_comm]

theorem reportDigests_length (s : State) : (reportDigests s).length = 864 := by
  have parts := flatMap_length 48 (List.range 16) (fun p => if (s.part p).exists_ then leBytes 48 (Config.sha384 (Assoc.getD s.mod.himgs p [])).toNat
    else List.replicate 48 0) (fun p => by
      split
      · exact leBytes_length ..
      · exact List.length_replicate)
  rw [reportDigests, List.length_append, List.length_append, leBytes_length, leBytes_length, parts, List.length_range]

theorem reportBody_eq (s : State) (nonce : BitVec 384) :
    reportBody s nonce = leBytes 48 nonce.toNat ++ (reportDigests s ++ leBytes 8 s.cycle.toNat) := by
  unfold reportBody reportDigests
  simp only [List.append_assoc]

/-- R462: an attestation report. -/
def report (s : State) (nonce : BitVec 384) : List Byte :=
  reportBody s nonce ++ leBytes 96 (Config.deviceSignature (Config.sha384 (reportBody s nonce))).toNat

theorem report_fields (s : State) (nonce : BitVec 384) : (report s nonce).length = 1016 ∧ littleEndian ((report s nonce).take 48) = nonce.toNat ∧
    littleEndian (((report s nonce).drop 912).take 8) = s.cycle.toNat := by
  have shape : report s nonce = leBytes 48 nonce.toNat ++ (reportDigests s ++ (leBytes 8 s.cycle.toNat ++
      leBytes 96 (Config.deviceSignature (Config.sha384 (reportBody s nonce))).toNat)) := by
    rw [report, reportBody_eq s nonce]
    simp only [List.append_assoc]
  have nonce48 := leBytes_length 48 nonce.toNat
  have digests := reportDigests_length s
  refine ⟨?_, ?_, ?_⟩
  · rw [shape, List.length_append, List.length_append, List.length_append, leBytes_length, leBytes_length, leBytes_length, digests]
  · rw [shape, List.take_left' nonce48, littleEndian_eq, leNat_leBytes, Nat.mod_eq_of_lt nonce.isLt]
  · have front : (leBytes 48 nonce.toNat ++ reportDigests s).length = 912 := by rw [List.length_append, nonce48, digests]
    rw [shape, ← List.append_assoc, List.drop_left' front, List.take_left' (leBytes_length 8 _), littleEndian_eq, leNat_leBytes,
      Nat.mod_eq_of_lt s.cycle.isLt]

/-! ### Heat and power (R468 to R471) -/

theorem zone_congr {s t : State} (h : t.zones = s.zones) (k : Nat) : t.zone k = s.zone k := by
  unfold State.zone
  rw [h]

theorem graphTrap_module (s : State) (k code : Nat) (val : Word) :
    ((graphTrap s k code val).cur, (graphTrap s k code val).zones, (graphTrap s k code val).mod) = (s.cur, s.zones, s.mod) := by
  unfold graphTrap
  split
  · split
    · exact (endGraph_ended ..).module
    · rfl
  · exact (endGraph_ended ..).module

/-- R469: a zone that warns has its deadline. -/
theorem warnZone_zone (s : State) (z temp : Nat) : ((warnZone s z temp).zone z).warned = true ∧
    ((warnZone s z temp).zone z).deadline = some (s.mod.ref + usTicks s.mod.deadlineUs) := by
  have traps (l : List Nat) (v : Word) (u : State) : (l.foldl (fun s g => graphTrap s g 0x1A v) u).zones = u.zones := by
    induction l generalizing u with
    | nil => rfl
    | cons g l ih => exact (ih _).trans (congrArg (fun x => x.2.1) (graphTrap_module u g 0x1A v))
  unfold warnZone
  dsimp only
  rw [zone_congr (traps _ _ _), (moduleEvent_logged _ _ _ _ _ _ _).zone, State.zone_mapZone_same]
  exact ⟨rfl, rfl⟩

theorem four_le_swallowed (s : State) : 4 ≤ swallowed s ↔ ¬ s.mod.stretch + s.mod.limited < 4 := by
  unfold swallowed
  omega

/-- R469: the clock stretched by one step more, up to four. -/
theorem stretchMore_frame (s : State) (zone : Nat) :
    (stretchMore s zone).mod.stretch = (if s.mod.stretch + s.mod.limited < 4 then s.mod.stretch + 1 else s.mod.stretch) ∧
      ∀ k, (stretchMore s zone).zone k = s.zone k := by
  unfold stretchMore
  by_cases room : s.mod.stretch + s.mod.limited < 4
  · rw [if_neg (fun full => (four_le_swallowed s).1 full room), if_pos room]
    dsimp only
    exact ⟨by rw [moduleEvent_mod], fun k => by rw [(moduleEvent_logged _ _ _ _ _ _ _).zone]; rfl⟩
  · rw [if_pos ((four_le_swallowed s).2 room), if_neg room]
    exact ⟨rfl, fun _ => rfl⟩

/-- R469: whether a sample warns its zone. -/
def warms (s : State) (zone temp : Nat) : Bool := decide ((s.zone zone).warn ≤ temp) && !(s.zone zone).warned

/-- R468: a sample recorded. -/
def sampled (s : State) (zone temp : Nat) : State := s.mapZone zone (fun x => { x with temp := temp, valve := Config.valveFor zone temp })

/-- R469: a sample of a zone at TRIP takes power away. -/
theorem execThermalSample_trips {s : State} {zone temp : Nat} (there : zone < 48) (trips : (s.zone zone).trip ≤ temp) :
    ∃ t, exec (.thermalSample zone temp) s = .next t ∧ t.mod.tripped = true ∧ t.mod.powered = false := by
  have run : exec (.thermalSample zone temp) s = execThermalSample zone temp s := rfl
  rw [run]
  unfold execThermalSample
  dsimp only
  rw [if_neg (Nat.not_le.2 there), if_pos trips]
  exact ⟨_, rfl, rfl, rfl⟩

/-- R469: a sample of a zone below TRIP. -/
theorem execThermalSample_safe {s : State} {zone temp : Nat} (there : zone < 48) (safe : temp < (s.zone zone).trip) :
    exec (.thermalSample zone temp) s = .next (if warms s zone temp then warnZone (sampled s zone temp) zone temp
      else if temp ≤ (s.zone zone).clear then (sampled s zone temp).mapZone zone (fun x => { x with warned := false, deadline := none })
      else sampled s zone temp) := by
  show Host.Outcome.next (if 48 ≤ zone then s else if (s.zone zone).trip ≤ temp then _ else _) = _
  rw [if_neg (Nat.not_le.2 there), if_neg (Nat.not_le.2 safe)]
  rfl

/-- R469: a deadline that the zone has. -/
theorem execThermalDeadline_at {s : State} {zone d : Nat} (h : (s.zone zone).deadline = some d) : exec (.thermalDeadline zone) s = .next (
    if !(s.zone zone).warned || decide (s.mod.ref < d) || decide ((s.zone zone).temp ≤ (s.zone zone).clear) then s
    else stretchMore (s.mapZone zone (fun x => { x with deadline := none, stepAt := d + usTicks 50 })) zone) := by
  show Host.Outcome.next (match (s.zone zone).deadline with | some d => _ | none => s) = _
  rw [h]

/-- R470: a release, once the clock is stretched and every zone is below CLEAR. -/
theorem execStretchStep_release {s : State} {zone : Nat} (cold : (s.zone zone).warned = false) (clear : ∀ e ∈ s.zones, e.2.temp < e.2.clear)
    (some_ : 0 < s.mod.stretch + s.mod.limited) : exec (.stretchStep zone) s = .next (match s.mod.releaseAt with
      | none => { s with mod := { s.mod with releaseAt := some (s.mod.ref + usTicks 50) } }
      | some r => if s.mod.ref < r then s else { s with mod := { s.mod.eased with releaseAt := some (r + usTicks 50) } }) := by
  have below : s.zones.all (fun z => decide (z.2.temp < z.2.clear)) = true := List.all_eq_true.2 fun e he => decide_eq_true (clear e he)
  have steps : (swallowed s == 0) = false := by
    rw [beq_eq_false_iff_ne, swallowed]
    omega
  show Host.Outcome.next (if (s.zone zone).warned && (s.zone zone).deadline.isNone && decide ((s.zone zone).clear < (s.zone zone).temp) then _
    else releaseStep s) = _
  rw [cold, Bool.false_and, Bool.false_and, if_neg Bool.false_ne_true]
  unfold releaseStep
  dsimp only
  rw [below, steps, if_neg (by decide)] <;> rfl

/-- R471: a draw within the power limit does nothing. -/
theorem execPowerLimitStep_within {s : State} {watts : Nat} (within : watts ≤ s.mod.powerLimit) : exec (.powerLimitStep watts) s = .next s := by
  show Host.Outcome.next (if watts ≤ s.mod.powerLimit then s else _) = _
  rw [if_pos within]

/-- R471: a draw above the power limit adds a step, up to four. -/
theorem execPowerLimitStep_above {s : State} {watts : Nat} (above : s.mod.powerLimit < watts) :
    ∃ t, exec (.powerLimitStep watts) s = .next t ∧ t.mod.stretch = s.mod.stretch ∧
      t.mod.limited = if s.mod.stretch + s.mod.limited < 4 then s.mod.limited + 1 else s.mod.limited := by
  have run : exec (.powerLimitStep watts) s = execPowerLimitStep watts s := rfl
  have room : swallowed s < 4 ↔ s.mod.stretch + s.mod.limited < 4 := by rw [swallowed]; omega
  rw [run]
  unfold execPowerLimitStep
  dsimp only
  rw [if_neg (Nat.not_le.2 above)]
  refine ⟨_, rfl, ?_⟩
  rw [moduleEvent_mod]
  refine ⟨rfl, ?_⟩
  show s.mod.limited + (if swallowed s < 4 then 1 else 0) = _
  simp only [room]
  split <;> rfl

/-! ### Partitions and tiles (R371, R451) -/

/-- R371: a record leaves what a partition is given. -/
theorem moduleEvent_part (s : State) (l : List Nat) (c t y a d k : Nat) :
    ∃ h n, (moduleEvent s l c t y a d).part k = { s.part k with errhead := h, errlost := n } := by
  unfold moduleEvent
  induction l generalizing s with
  | nil => exact ⟨(s.part k).errhead, (s.part k).errlost, rfl⟩
  | cons p l ih =>
    obtain ⟨h, n, e⟩ := ih (logRecord s p (Rec.plain c t none y (wd a) (wd d)))
    obtain ⟨h', n', e'⟩ := logRecord_part s p k (Rec.plain c t none y (wd a) (wd d))
    rw [e'] at e
    exact ⟨h, n, e⟩

/-- R371: what a partition is given, its records aside. -/
def Given (part x y w ht : Nat) (bankmap : Word) (ports : BitVec 128) (queues : BitVec 256) (t : State) : Prop :=
  (t.part part).exists_ = true ∧ (t.part part).prect = u (x + y * 2 ^ 8 + w * 2 ^ 16 + ht * 2 ^ 24 + part * 2 ^ 32) ∧
    (t.part part).bankmap = bankmap ∧ (t.part part).portmask = ports ∧ (t.part part).qmask = queues

theorem Given.of_part {part x y w ht : Nat} {bankmap : Word} {ports : BitVec 128} {queues : BitVec 256} {s t : State} (h : t.part part = s.part part)
    (given : Given part x y w ht bankmap ports queues s) : Given part x y w ht bankmap ports queues t := by
  unfold Given at given ⊢
  rwa [h]

theorem Given.ite {part x y w ht : Nat} {bankmap : Word} {ports : BitVec 128} {queues : BitVec 256} {c : Prop} [Decidable c] {s t : State}
    (hs : Given part x y w ht bankmap ports queues s) (ht' : Given part x y w ht bankmap ports queues t) :
    Given part x y w ht bankmap ports queues (if c then s else t) := by
  split
  · exact hs
  · exact ht'

theorem Given.event {part x y w ht : Nat} {bankmap : Word} {ports : BitVec 128} {queues : BitVec 256} {s : State}
    (given : Given part x y w ht bankmap ports queues s) (l : List Nat) (c t z a d : Nat) :
    Given part x y w ht bankmap ports queues (moduleEvent s l c t z a d) := by
  obtain ⟨h, n, e⟩ := moduleEvent_part s l c t z a d part
  unfold Given at given ⊢
  rwa [e]

/-- R371: a partition with no graph of its own in the way takes what it is given. -/
theorem execPartitionChange_given {s : State} {part x y w ht : Nat} {bankmap : Word} {ports : BitVec 128} {queues : BitVec 256} (there : part < 16)
    (idle : ∀ e ∈ s.graphs, e.2.part = part → e.2.st ≠ .running ∧ e.2.st ≠ .loading ∧ e.2.st ≠ .cut)
    (free : rectFree s part x y w ht = true) (wide : 0 < w) (high : 0 < ht) :
    ∃ t, exec (.partitionChange part x y w ht bankmap ports queues) s = .next t ∧ Given part x y w ht bankmap ports queues t := by
  have quiet : s.graphs.any (fun (_, g) => g.part == part && (g.st == .running || g.st == .loading || g.st == .cut)) = false := by
    rw [List.any_eq_false]
    rintro ⟨k, g⟩ he busy
    simp only [Bool.and_eq_true, beq_iff_eq, Bool.or_eq_true] at busy
    obtain ⟨own, state⟩ := busy
    obtain ⟨running, loading, cut⟩ := idle (k, g) he own
    rcases state with (a | b) | c
    · exact running a
    · exact loading b
    · exact cut c
  have run : exec (.partitionChange part x y w ht bankmap ports queues) s = execPartitionChange part x y w ht bankmap ports queues s := rfl
  rw [run]
  unfold execPartitionChange
  dsimp only
  rw [quiet, free, if_neg (by simp only [Bool.false_eq_true, Bool.not_true, or_false]; omega)]
  refine ⟨_, rfl, ?_⟩
  have given (f : Part → Part) : Given part x y w ht bankmap ports queues (s.mapPart part (fun q => { partOn (f q) part x y w ht with
      bankmap := bankmap, portmask := ports, qmask := queues, evalDue := true })) := by
    unfold Given
    rw [State.part_mapPart_same]
    exact ⟨by show (decide (0 < w) && decide (0 < ht)) = true; rw [decide_eq_true wide, decide_eq_true high]; rfl, rfl, rfl, rfl, rfl⟩
  have base := given (fun q => if !(s.part part).exists_ then { Part.reset with sliceAt := s.mod.ref } else q)
  refine Given.ite ?_ (Given.ite ?_ base)
  · exact Given.event (Given.ite (Given.of_part (by rfl) base) base) ..
  · exact Given.of_part (by rfl) base

/-- R472: a device that goes on. -/
theorem execDeviceFreezeRelease_thaws {s : State} {cycles : Nat} (frozen : s.mod.frozen = true) :
    ∃ t, exec (.deviceFreezeRelease cycles) s = .next t ∧ t.mod.frozen = false := by
  have run : exec (.deviceFreezeRelease cycles) s = execDeviceFreezeRelease cycles s := rfl
  rw [run]
  unfold execDeviceFreezeRelease
  dsimp only
  rw [frozen, if_neg (by decide)]
  refine ⟨_, rfl, ?_⟩
  rw [moduleEvent_mod]

/-- R451: a tile that firmware retires is retired. -/
theorem execTileRetirement_retires {s : State} {tile : Nat} (there : tile < 6144) (healthy : (s.tile tile).retired = false) :
    ∃ t, exec (.tileRetirementByFirmware tile) s = .next t ∧ (t.tile tile).retired = true := by
  have run : exec (.tileRetirementByFirmware tile) s = execTileRetirementByFirmware tile s := rfl
  have told (l : List Nat) (u : State) : (l.foldl (fun s g => trigger s g 0x0B) u).tile tile = u.tile tile := by
    induction l generalizing u with
    | nil => rfl
    | cons g l ih => exact ih _
  rw [run]
  unfold execTileRetirementByFirmware
  dsimp only
  rw [healthy, if_neg (by simp only [Bool.false_eq_true, or_false]; omega)]
  refine ⟨_, rfl, ?_⟩
  rw [told, (record_logged _ _).tile, State.tile_mapTile_same]

end Sys2Proof.Machine

open Sys2Proof Sys2Proof.Machine Sys2Proof.Safety Sys2Proof.Claims

/-- Settles O52, step by step. -/
theorem moduleSteps : Obligations.ModuleSteps := by
  intro s zone tile
  refine ⟨execPowerUp_mod s, fun image => rfl, fun nonce => ⟨report s nonce, rfl, report_fields s nonce⟩, fun k => rfl,
    fun temp there => ⟨fun trips => ?_, fun safe warms_ cold => ?_, fun safe below cool => ?_, fun safe same hot => ?_⟩,
    fun d deadline warned passed hot => ?_, fun d deadline early => ?_,
    fun warned none_ hot => ⟨fun due => ?_, fun early => ?_⟩, fun cold clear some_ => ⟨fun none_ => ?_, fun r at_ early => ?_, fun r at_ due => ?_⟩,
    fun watts => ⟨fun within => ?_, fun above => ?_⟩, rfl, fun cycles frozen => ?_,
    fun part x y wd ht bankmap ports queues there idle free wide high => ?_, fun there healthy => ?_⟩
  · exact execThermalSample_trips there trips
  · have heats : warms s zone temp = true := by rw [warms, decide_eq_true warms_, cold]; rfl
    refine ⟨_, execThermalSample_safe there safe, ?_⟩
    rw [if_pos heats]
    exact warnZone_zone (sampled s zone temp) zone temp
  · rw [execThermalSample_safe there safe, warms, decide_eq_false (Nat.not_le.2 below), Bool.false_and, if_neg Bool.false_ne_true, if_pos cool]
    rfl
  · have still : warms s zone temp = false := by
      rw [warms]
      rcases same with below | warned
      · rw [decide_eq_false (Nat.not_le.2 below), Bool.false_and]
      · rw [warned, Bool.not_true, Bool.and_false]
    rw [execThermalSample_safe there safe, still, if_neg Bool.false_ne_true, if_neg (Nat.not_le.2 hot)]
    rfl
  · have frame := stretchMore_frame (s.mapZone zone (fun x => { x with deadline := none, stepAt := d + usTicks 50 })) zone
    refine ⟨_, ?_, frame.1, ?_⟩
    · rw [execThermalDeadline_at deadline, warned, decide_eq_false (Nat.not_lt.2 passed), decide_eq_false (Nat.not_le.2 hot)]
      rfl
    · rw [frame.2, State.zone_mapZone_same]
      exact ⟨rfl, rfl⟩
  · rw [execThermalDeadline_at deadline, if_pos]
    rcases early with before | cool
    · rw [decide_eq_true before, Bool.or_true, Bool.true_or]
    · rw [decide_eq_true cool, Bool.or_true]
  · have frame := stretchMore_frame (s.mapZone zone (fun x => { x with stepAt := x.stepAt + usTicks 50 })) zone
    refine ⟨_, ?_, frame.1, ?_⟩
    · show Host.Outcome.next (if (s.zone zone).warned && (s.zone zone).deadline.isNone && decide ((s.zone zone).clear < (s.zone zone).temp) then
        (if s.mod.ref < (s.zone zone).stepAt then s else _) else releaseStep s) = _
      rw [warned, none_, decide_eq_true hot, if_pos (show (true && (none : Option Nat).isNone && true) = true from rfl), if_neg (Nat.not_lt.2 due)]
    · rw [frame.2, State.zone_mapZone_same]
  · show Host.Outcome.next (if (s.zone zone).warned && (s.zone zone).deadline.isNone && decide ((s.zone zone).clear < (s.zone zone).temp) then
      (if s.mod.ref < (s.zone zone).stepAt then s else _) else releaseStep s) = _
    rw [warned, none_, decide_eq_true hot, if_pos (show (true && (none : Option Nat).isNone && true) = true from rfl), if_pos early]
  · rw [execStretchStep_release cold clear some_, none_]
  · rw [execStretchStep_release cold clear some_, at_]
    dsimp only
    rw [if_pos early]
  · rw [execStretchStep_release cold clear some_, at_]
    dsimp only
    rw [if_neg (Nat.not_lt.2 due)]
    unfold Module.eased
    split
    · rfl
    · rename_i none_
      rw [Nat.eq_zero_of_not_pos none_]
  · exact execPowerLimitStep_within within
  · exact execPowerLimitStep_above above
  · exact execDeviceFreezeRelease_thaws frozen
  · exact execPartitionChange_given there idle free wide high
  · exact execTileRetirement_retires there healthy
end

section
/-! PROOF. O16, of spec/16_privileged_state.md and spec/21_errors_containment.md: a trap with no handler to take it. -/

namespace Sys2Proof.Machine
open Sys2Proof.Safety Sys2Proof.Claims

/-- R30: a thread of a graph that ends has left its slot. -/
theorem endGraph_run_free {s : State} {k i : Nat} (st : GState) (c : Nat) (member : i ∈ graphThreads s k) :
    ((endGraph s k st c).thread i).run = .free := by
  have seat := (endGraph_ended s k st c).seats i
  rw [if_pos member] at seat
  exact congrArg (fun x => x.2.1) seat

/-- R368: a slot that stops for good still holds its thread. -/
theorem mem_graphThreads_dead {s : State} {k i : Nat} (member : i ∈ graphThreads s k) :
    i ∈ graphThreads (s.mapThread i (fun t => { t with run := .dead })) k := by
  unfold graphThreads pick at member ⊢
  simp only [List.mem_flatMap, List.mem_map, List.mem_filter] at member ⊢
  obtain ⟨tile, there, j, ⟨slot, own⟩, rfl⟩ := member
  refine ⟨tile, there, j, ⟨slot, ?_⟩, rfl⟩
  rw [State.thread_mapThread_same]
  exact Bool.and_eq_true_iff.2 ⟨(Bool.and_eq_true_iff.1 own).1, rfl⟩

/-- R368: the record of a trap at S. -/
def doubleRec (s : State) (c : Nat) : Rec :=
  { Rec.plain 0x0D (s.cur / 4) (some s.me.graph) (s.me.tcause.toNat % 256 + 256 * c) s.me.tval 0 with
    ukind := 6, slot := s.cur % 4, ctx := s.me.lctx.toNat }

/-- R365: the record of a trap of a graph with no handler window. -/
def homelessRec (s : State) (c : Nat) (v : Word) : Rec :=
  { Rec.plain 0x13 (s.cur / 4) (some s.me.graph) c v (s.me.pc.zeroExtend 64) with ukind := 6, slot := s.cur % 4, ctx := s.me.lctx.toNat }

/-- R368: a trap at S. -/
theorem raise_double {s : State} {c : Nat} {v : Word} (supervisor : s.me.lvl = true) :
    raise s c v = endGraph ((record s (doubleRec s c)).mapThread s.cur (fun x => { x with run := .dead })) s.me.graph .terminated c := by
  have supervisor' : (s.thread s.cur).lvl = true := supervisor
  unfold raise deliver
  dsimp only
  rw [supervisor', if_pos (by rfl)]
  rfl

/-- R365: a trap at U of a graph with no handler window. -/
theorem raise_homeless {s : State} {c : Nat} {v : Word} (user : s.me.lvl = false) (none_ : (s.graph s.me.graph).hwin.toNat / 2 ^ 63 % 2 = 0) :
    raise s c v = endGraph (record s (homelessRec s c v)) s.me.graph .terminated c := by
  have user' : (s.thread s.cur).lvl = false := user
  have closed : (!bit (s.graph s.me.graph).hwin.toNat 63) = true := by
    rw [Bool.not_eq_true', bit, beq_eq_false_iff_ne]
    omega
  unfold raise deliver
  dsimp only
  rw [user', Bool.false_and, if_neg Bool.false_ne_true]
  exact if_pos closed

/-- R370: a record that finds its ring full. -/
theorem logRecord_full {s : State} {part : Nat} (r : Rec)
    (full : ((s.part part).errhead - (s.part part).errtail).toNat = 2 ^ ((s.part part).errsize.toNat % 32)) :
    logRecord s part r = s.mapPart part (fun p => { p with errlost := u (min (p.errlost.toNat + 1) (2 ^ 64 - 1)) }) := by
  have count (x : Word) : (if x = BitVec.allOnes 64 then x else x + 1) = u (min (x.toNat + 1) (2 ^ 64 - 1)) := by
    apply BitVec.eq_of_toNat_eq
    have := x.isLt
    have top : x = BitVec.allOnes 64 ↔ x.toNat = 2 ^ 64 - 1 := by
      rw [← BitVec.toNat_inj, BitVec.toNat_allOnes]
    simp only [top, u, BitVec.toNat_ofNat]
    split
    · omega
    · rw [BitVec.toNat_add]
      show (x.toNat + 1) % 2 ^ 64 = _
      omega
  unfold logRecord
  dsimp only
  rw [if_pos full]
  simp only [count]

/-- R442: a record that its ring takes. -/
theorem logRecord_written {s s' : State} {part : Nat} (r : Rec)
    (room : ((s.part part).errhead - (s.part part).errtail).toNat ≠ 2 ^ ((s.part part).errsize.toNat % 32))
    (written : sysWrite s part ((s.part part).errbase + u (64 * ((s.part part).errhead.toNat % 2 ^ ((s.part part).errsize.toNat % 32))))
      ((recordDwords s part r).flatMap (leBytes 8)) = (0, s')) :
    logRecord s part r = s'.mapPart part (fun p => { p with errhead := p.errhead + 1 }) := by
  have written' : sysWrite s part ((s.part part).errbase + wd (64 * ((s.part part).errhead.toNat % 2 ^ ((s.part part).errsize.toNat % 32))))
      ((recordDwords s part r).flatMap (leBytes 8)) = (0, s') := written
  unfold logRecord
  dsimp only
  rw [if_neg room, written']
  rfl

theorem record_of_part {s : State} {part : Nat} {r : Rec} (h : partOfTile s r.tile = some part) : record s r = logRecord s part r := by
  unfold record
  rw [h]

/-- R203: a word that is no instruction raises ILLEGAL. -/
theorem execIllegalWord_raise (s : State) (w : IWord) : exec (.illegalWord w) s = .next (raise s 1 (u w.toNat)) := by
  have run : exec (.illegalWord w) s = .next (raise s 1 (w.zeroExtend 64)) := rfl
  have word : w.zeroExtend 64 = u w.toNat := by
    apply BitVec.eq_of_toNat_eq
    rw [u, BitVec.toNat_ofNat, BitVec.zeroExtend, BitVec.toNat_setWidth]
  rw [run, word]

end Sys2Proof.Machine

open Sys2Proof Sys2Proof.Machine Sys2Proof.Safety Sys2Proof.Claims

/-- Settles O16, by the level of the slot: at S the trap is a double trap, at U it finds no handler window. -/
theorem trapWithoutHandler : Obligations.TrapWithoutHandler := by
  refine ⟨fun s c v lost => ?_, execIllegalWord_raise, fun s part r own => ⟨fun full => ?_, fun room s' written => ?_⟩⟩
  · rcases Bool.eq_false_or_eq_true s.me.lvl with supervisor | user
    · have ended := endGraph_graph ((record s (doubleRec s c)).mapThread s.cur (fun x => { x with run := .dead })) s.me.graph .terminated c
      refine ⟨doubleRec s c, raise s c v, rfl, rfl, rfl, rfl, rfl, rfl, fun _ => ⟨rfl, rfl, rfl, raise_double supervisor⟩,
        fun user => absurd (supervisor.symm.trans user) (by decide), ?_⟩
      rw [raise_double supervisor]
      exact ⟨ended.1, ended.2.1, fun member => endGraph_run_free .terminated c
        (mem_graphThreads_dead (((record_steady s (doubleRec s c)).graphThreads s.me.graph).symm ▸ member))⟩
    · have none_ := lost.resolve_left (fun supervisor => absurd (supervisor.symm.trans user) (by decide))
      have ended := endGraph_graph (record s (homelessRec s c v)) s.me.graph .terminated c
      refine ⟨homelessRec s c v, raise s c v, rfl, rfl, rfl, rfl, rfl, rfl, fun supervisor => absurd (supervisor.symm.trans user) (by decide),
        fun _ => ⟨rfl, rfl, rfl, raise_homeless user none_⟩, ?_⟩
      rw [raise_homeless user none_]
      exact ⟨ended.1, ended.2.1, fun member => endGraph_run_free .terminated c
        (((record_steady s (homelessRec s c v)).graphThreads s.me.graph).symm ▸ member)⟩
  · rw [record_of_part own]
    exact logRecord_full r full
  · rw [record_of_part own]
    exact logRecord_written r room written
end

section
/-! PROOF. O43, of spec/16_privileged_state.md: the forms of major 0x3D at S. -/

namespace Sys2Proof.Machine
open Sys2Proof.Safety Sys2Proof.Claims

/-! ### A form of major 0x3D at S (R376) -/

/-- R376: a ready form whose checks pass runs in the handler's bight. -/
theorem systemOp_ready {rd wr : RegSet} {body : State → State} {s : State} (supervisor : s.me.lvl = true) (h : Ready s rd wr) :
    systemOp rd wr none body s = body (s.mapMe (fun t => t.tracked rd wr)) :=
  (systemOp_handler supervisor).trans (inBight_ready h)

/-- R376: a ready form whose check fails raises its trap. -/
theorem systemOp_trap {rd wr : RegSet} {body : State → State} {s : State} {c : Nat} {v : Word} (supervisor : s.me.lvl = true)
    (h : Ready s rd wr) : systemOp rd wr (some (c, v)) body s = raise s c v :=
  (systemOp_handler supervisor).trans (inBight_check h.1)

theorem globalCheck_pass {v : Word} (h : v.toNat / 2 ^ 60 = 0) : globalCheck v = none := by
  unfold globalCheck fld
  rw [h]
  rfl

theorem globalCheck_fail {v : Word} (h : ¬v.toNat / 2 ^ 60 = 0) : globalCheck v = some (3, v) := by
  have := v.isLt
  have top : fld v.toNat 63 60 = v.toNat / 2 ^ 60 := Nat.mod_eq_of_lt (by omega)
  unfold globalCheck
  rw [top]
  exact if_pos (bne_iff_ne.2 h)

/-! ### The forms that read (R378, R384) -/

theorem probeValue_eq (w : Walk) : probeValue w = probeWord w := by
  cases w <;> rfl

theorem graphWord_eq (g : Graph) : graphWord g = statusWordOf g := by
  unfold graphWord statusWordOf
  cases g.openWave <;> rfl

theorem slotWord_tracked (s : State) (rd wr : RegSet) (i : Nat) : slotWord (s.mapMe (fun t => t.tracked rd wr)) i = slotWord s i := by
  unfold slotWord
  dsimp only
  rw [show (s.mapMe (fun t => t.tracked rd wr)).thread i = if s.cur = i then s.me.tracked rd wr else s.thread i from State.thread_setThread ..]
  split
  next own => rw [← own]; rfl
  next => rfl

theorem slotWord_eq (s : State) (i : Nat) : slotWord s i = slotWordOf s i := by
  unfold slotWord slotWordOf
  simp only [Bool.and_eq_true, Bool.or_eq_true, beq_iff_eq, bne_iff_ne, Bool.not_eq_true', and_assoc]
  rfl

/-- R384: the word of .stat. -/
theorem statusOf_tracked (s : State) (rd wr : RegSet) (v : Word) : statusOf (s.mapMe (fun t => t.tracked rd wr)) v =
    match Assoc.get? s.graphs (s.me.graph / 65536 * 65536 + v.toNat % 65536) with
    | some g => statusWordOf g
    | none => u (s.me.graph / 65536 * 8 + 7) := by
  have key : graphKey (graphPart s.me.graph) (fld v.toNat 15 0) = s.me.graph / 65536 * 65536 + v.toNat % 65536 := by
    unfold graphKey graphPart fld
    show 65536 * (s.me.graph / 65536) + v.toNat / 1 % 65536 = _
    rw [Nat.mul_comm, Nat.div_one]
  have name : named (s.mapMe (fun t => t.tracked rd wr)) v = (Assoc.get? s.graphs (s.me.graph / 65536 * 65536 + v.toNat % 65536)).map
      (fun g => (s.me.graph / 65536 * 65536 + v.toNat % 65536, g)) := by
    unfold named
    rw [State.me_mapMe]
    dsimp only
    rw [← key]
    rfl
  unfold statusOf
  rw [name, State.me_mapMe]
  cases Assoc.get? s.graphs (s.me.graph / 65536 * 65536 + v.toNat % 65536) with
  | none => rfl
  | some g => exact graphWord_eq g

/-- R378, R384: what a form that only reads does with the value, or the trap, of its table. -/
def readOutcome (s : State) (d : BitVec 5) (rd : RegSet) (r : (Nat × Word) ⊕ Word) : State :=
  r.elim (fun x => raise s x.1 x.2) (fun w => s.mapMe (fun t => ((t.tracked rd (RegSet.s1 d)).ws d w).next))

theorem execProbe_eq {s : State} {d a : BitVec 5} (supervisor : s.me.lvl = true) (h : Ready s (RegSet.s1 a) (RegSet.s1 d)) :
    exec (.probe d a) s = .next (readOutcome s d (RegSet.s1 a)
      (if (s.me.rs a).toNat / 2 ^ 60 = 0 then .inr (probeWord (lookup s ((s.me.rs a).toNat % 2 ^ 56))) else .inl (3, s.me.rs a))) := by
  have run : exec (.probe d a) s = execProbe d a s := rfl
  rw [run]
  unfold execProbe
  dsimp only
  by_cases inside : (s.me.rs a).toNat / 2 ^ 60 = 0
  · rw [globalCheck_pass inside, systemOp_ready supervisor h, State.mapMe_mapMe, if_pos inside, probeValue_eq]
    rfl
  · rw [globalCheck_fail inside, systemOp_trap supervisor h, if_neg inside]
    rfl

theorem execGraphctlStat_eq {s : State} {d a : BitVec 5} (supervisor : s.me.lvl = true) (h : Ready s (RegSet.s1 a) (RegSet.s1 d)) :
    exec (.graphctlStat d a) s = .next (readOutcome s d (RegSet.s1 a)
      (.inr (match Assoc.get? s.graphs (s.me.graph / 65536 * 65536 + (s.me.rs a).toNat % 65536) with
      | some g => statusWordOf g
      | none => u (s.me.graph / 65536 * 8 + 7)))) := by
  have run : exec (.graphctlStat d a) s = execGraphctlStat d a s := rfl
  rw [run]
  unfold execGraphctlStat
  dsimp only
  rw [systemOp_ready supervisor h, statusOf_tracked, State.mapMe_mapMe]
  rfl

theorem execGraphctlStall_eq {s : State} {d a b : BitVec 5} (supervisor : s.me.lvl = true) (h : Ready s (readsSS a b) (RegSet.s1 d)) :
    exec (.graphctlStall d a b) s = .next (readOutcome s d (readsSS a b)
      (match namedStall s (s.me.rs a) (s.me.rs b) with | some w => .inr w | none => .inl (0x18, s.me.rs b))) := by
  have run : exec (.graphctlStall d a b) s = execGraphctlStall d a b s := rfl
  rw [run]
  unfold execGraphctlStall
  dsimp only
  rw [if_pos supervisor]
  cases namedStall s (s.me.rs a) (s.me.rs b) with
  | none => exact congrArg _ (systemOp_trap supervisor h)
  | some w => exact congrArg _ ((systemOp_ready supervisor h).trans (State.mapMe_mapMe ..))

theorem execGraphctlSlot_eq {s : State} {d a b : BitVec 5} (supervisor : s.me.lvl = true) (h : Ready s (readsSS a b) (RegSet.s1 d)) :
    exec (.graphctlSlot d a b) s = .next (readOutcome s d (readsSS a b)
      (match namedSlot s (s.me.rs a) (s.me.rs b) with | some i => .inr (slotWordOf s i) | none => .inl (0x18, s.me.rs b))) := by
  have run : exec (.graphctlSlot d a b) s = execGraphctlSlot d a b s := rfl
  rw [run]
  unfold execGraphctlSlot
  dsimp only
  rw [if_pos supervisor]
  cases namedSlot s (s.me.rs a) (s.me.rs b) with
  | none => exact congrArg _ (systemOp_trap supervisor h)
  | some i =>
    rw [show (RegSet.s1 a).or (RegSet.s1 b) = readsSS a b from rfl, if_neg (show ¬(some i).isNone = true from Bool.false_ne_true),
      systemOp_ready supervisor h]
    dsimp only
    rw [slotWord_tracked, slotWord_eq, State.mapMe_mapMe]
    rfl

/-- R378, R384: every form that only reads. -/
theorem exec_systemRule {s : State} {i : Instr} {d : BitVec 5} {rd : RegSet} {r : (Nat × Word) ⊕ Word} (supervisor : s.me.lvl = true)
    (h : Ready s rd (RegSet.s1 d)) (rule : systemRule s i = some (d, rd, r)) : exec i s = .next (readOutcome s d rd r) := by
  unfold systemRule at rule
  split at rule
  · simp only [Option.some.injEq, Prod.mk.injEq] at rule
    obtain ⟨rfl, rfl, rfl⟩ := rule
    exact execProbe_eq supervisor h
  · simp only [Option.some.injEq, Prod.mk.injEq] at rule
    obtain ⟨rfl, rfl, rfl⟩ := rule
    exact execGraphctlStat_eq supervisor h
  · simp only [Option.some.injEq, Prod.mk.injEq] at rule
    obtain ⟨rfl, rfl, rfl⟩ := rule
    exact execGraphctlStall_eq supervisor h
  · simp only [Option.some.injEq, Prod.mk.injEq] at rule
    obtain ⟨rfl, rfl, rfl⟩ := rule
    exact execGraphctlSlot_eq supervisor h
  · exact absurd rule (by simp)

/-! ### TLBINV (R377) -/

theorem getD_map {α : Type} (l : Assoc α) (f : α → α) (k : Nat) {d : α} (hd : f d = d) :
    Assoc.getD (l.map (fun e => (e.1, f e.2))) k d = f (Assoc.getD l k d) := by
  induction l with
  | nil => exact hd.symm
  | cons e l ih =>
    obtain ⟨j, v⟩ := e
    by_cases here : j = k
    · simp [Assoc.getD, Assoc.get?, here]
    · simpa [Assoc.getD, Assoc.get?, here] using ih

/-- R377: what the caches of a tile keep. -/
def Tile.without (x : Tile) (drop : TlbEntry → Bool) : Tile :=
  { x with tlb := Claims.without x.tlb drop, engines := x.engines.map (fun e => (e.1, { e.2 with tlb := Claims.without e.2.tlb drop })) }

theorem dropTlb_caches (s : State) (drop : TlbEntry → Bool) : CachesDrop s (dropTlb s drop) drop := by
  have tile (i : Nat) : (dropTlb s drop).tile i = (s.tile i).without drop := getD_map s.tiles (fun x => x.without drop) i rfl
  refine ⟨fun i => ⟨congrArg Tile.tlb (tile i), fun e => ?_⟩, fun f => getD_map s.tlb2 (fun l => Claims.without l drop) f rfl, rfl, rfl, rfl⟩
  rw [tile]
  exact congrArg Engine.tlb (getD_map (s.tile i).engines (fun x => { x with tlb := Claims.without x.tlb drop }) e rfl)

theorem tlbHit_page (part : Nat) (v : Word) :
    (fun e : TlbEntry => decide (e.part = part ∧ e.page = v.toNat % 2 ^ 56 / (if e.large then 2 ^ 26 else 2 ^ 16))) = tlbHit part (vaOf v) := by
  funext e
  unfold tlbHit
  rw [Bool.decide_and]
  rfl

theorem tlbHit_part (part : Nat) : (fun e : TlbEntry => decide (e.part = part)) = fun e => e.part == part := rfl

/-- R377: a form that drops cached translations. -/
theorem systemOp_dropTlb {s : State} {rd : RegSet} {drop drop' : TlbEntry → Bool} (supervisor : s.me.lvl = true) (h : Ready s rd .empty)
    (same : drop' = drop) : ∃ t, systemOp rd .empty none (fun s => (dropTlb s drop).mapMe Thread.next) s = t ∧
      t.me = (s.me.tracked rd .empty).next ∧ CachesDrop s t drop' := by
  refine ⟨_, systemOp_ready supervisor h, ?_, ?_⟩
  · rw [State.me_mapMe]
    exact congrArg Thread.next (State.me_mapMe s (fun t => t.tracked rd .empty))
  · rw [same]
    exact dropTlb_caches (s.mapMe (fun t => t.tracked rd .empty)) drop

/-! ### CODECINV (R381, R382) -/

theorem foldl_threads {α : Type} (l : List α) {f : State → α → State} (hf : ∀ s a, (f s a).threads = s.threads) (s : State) :
    (l.foldl f s).threads = s.threads := by
  induction l generalizing s with
  | nil => rfl
  | cons a l ih => exact (ih (f s a)).trans (hf s a)

theorem bumpCounters_threads (s : State) (tile part : Nat) (d : CodecDesc) (f : Nat → Nat) : (bumpCounters s tile part d f).threads = s.threads := by
  have fetched := sysFetch_logged s part tile d.cnt 64
  unfold bumpCounters
  split <;> rename_i e <;> rw [e] at fetched
  · exact ((sysWriteOrDrop_logged ..).threads).trans fetched.threads
  · exact ((logRecord_logged ..).threads).trans fetched.threads

theorem encodeBlock_threads (s : State) (b : Block) : (encodeBlock s b).threads = s.threads := by
  unfold encodeBlock
  split
  · rfl
  · dsimp only
    split
    · rw [bumpCounters_threads]
      split
      · rw [foldl_threads _ (by intro s k; rfl)]
        exact (homeRow_frame s b.off).2.1
      · rw [(record_logged _ _).threads, foldl_threads _ (by intro s k; rfl)]
        exact (homeRow_frame s b.off).2.1
    · split
      · rw [foldl_threads _ (by intro s k; rfl)]
        exact (homeRow_frame s b.off).2.1
      · rw [(record_logged _ _).threads, foldl_threads _ (by intro s k; rfl)]
        exact (homeRow_frame s b.off).2.1

theorem encodeBlock_clean {b : Block} (s : State) (clean : b.dirty = false) : encodeBlock s b = s := by
  unfold encodeBlock
  rw [clean]
  rfl

theorem dropBlock_threads (s : State) (b : Block) : (dropBlock s b).threads = s.threads := encodeBlock_threads s b

theorem dropBlock_steady (s : State) (b : Block) : Steady s (dropBlock s b) := (encodeBlock_steady s b).trans (.mapHome _ _ _)

theorem dropBlocks_me (s : State) (p : Block → Bool) : (dropBlocks s p).me = s.me := by
  have threads : (dropBlocks s p).threads = s.threads := by
    unfold dropBlocks
    exact foldl_threads _ dropBlock_threads s
  have cur : (dropBlocks s p).cur = s.cur := congrArg (fun x => x.1) (Steady.foldl _ dropBlock_steady s).module
  unfold State.me State.thread
  rw [threads, cur]

/-- R381: clean blocks dropped one after another leave every home the blocks of other frames. -/
theorem foldl_dropBlock_clean (l : List Block) (clean : ∀ b ∈ l, b.dirty = false) (s : State) :
    (l.foldl dropBlock s).vault = s.vault ∧
      ∀ h b, b ∈ ((l.foldl dropBlock s).home h).cache ↔ b ∈ (s.home h).cache ∧ ¬(b.off / 2 ^ 28 = h ∧ ∃ c ∈ l, c.off = b.off) := by
  induction l generalizing s with
  | nil => exact ⟨rfl, fun h b => by simp⟩
  | cons c l ih =>
    obtain ⟨vault, caches⟩ := ih (fun b m => clean b (.tail _ m)) (dropBlock s c)
    have first : dropBlock s c = s.mapHome (c.off / 2 ^ 28) (fun h => { h with cache := h.cache.filter (fun b => b.off != c.off) }) := by
      unfold dropBlock
      rw [encodeBlock_clean s (clean c (.head _))]
    refine ⟨vault.trans (by rw [first]; rfl), fun h b => (caches h b).trans ?_⟩
    rw [first, State.home_mapHome]
    by_cases here : c.off / 2 ^ 28 = h
    · subst here
      rw [if_pos rfl]
      simp only [List.mem_filter, bne_iff_ne, List.mem_cons, exists_eq_or_imp]
      constructor
      · rintro ⟨⟨held, other⟩, kept⟩
        refine ⟨held, fun ⟨place, found⟩ => found.elim (fun e => other e.symm) (fun e => kept ⟨place, e⟩)⟩
      · rintro ⟨held, kept⟩
        exact ⟨⟨held, fun e => kept ⟨e ▸ rfl, .inl e.symm⟩⟩, fun ⟨place, e⟩ => kept ⟨place, .inr e⟩⟩
    · rw [if_neg here]
      simp only [List.mem_cons, exists_eq_or_imp]
      constructor
      · rintro ⟨held, kept⟩
        exact ⟨held, fun ⟨place, found⟩ => found.elim (fun e => here (e ▸ place)) (fun e => kept ⟨place, e⟩)⟩
      · rintro ⟨held, kept⟩
        exact ⟨held, fun ⟨place, e⟩ => kept ⟨place, .inr e⟩⟩

/-- R381: the clean blocks that `p` names, and those of their frames, dropped. -/
theorem dropBlocks_clean {s : State} {p : Block → Bool} (clean : ∀ e ∈ s.homes, ∀ c ∈ e.2.cache, p c = true → c.dirty = false) :
    BlocksDrop s (dropBlocks s p) p ∧ (dropBlocks s p).vault = s.vault := by
  have cached (c : Block) : c ∈ (s.homes.flatMap (fun h => h.2.cache)).filter p ↔ ∃ e ∈ s.homes, c ∈ e.2.cache ∧ p c = true := by
    simp only [List.mem_filter, List.mem_flatMap]
    constructor
    · rintro ⟨⟨e, he, hc⟩, named⟩
      exact ⟨e, he, hc, named⟩
    · rintro ⟨e, he, hc, named⟩
      exact ⟨⟨e, he, hc⟩, named⟩
  obtain ⟨vault, caches⟩ := foldl_dropBlock_clean ((s.homes.flatMap (fun h => h.2.cache)).filter p)
    (fun b m => by obtain ⟨e, he, hc, named⟩ := (cached b).1 m; exact clean e he b hc named) s
  refine ⟨fun h b => (caches h b).trans (and_congr_right fun _ => not_congr (and_congr_right fun _ => ?_)), vault⟩
  constructor
  · rintro ⟨c, m, same⟩
    obtain ⟨e, he, hc, named⟩ := (cached c).1 m
    exact ⟨e, he, c, hc, named, same⟩
  · rintro ⟨e, he, c, hc, named, same⟩
    exact ⟨c, (cached c).2 ⟨e, he, hc, named⟩, same⟩

/-- R381, R112: a form that drops decoded blocks, one of which waits for its bank. -/
theorem systemOp_blockHeld {s : State} {rd : RegSet} {p : Block → Bool} {after : State → State} (supervisor : s.me.lvl = true) (h : Ready s rd .empty)
    (held : dropHeld s p = true) : systemOp rd .empty none (fun s' => if dropHeld s p then waitAs .home s else after s') s =
      s.mapMe (fun t => { t with wait := .home }) := by
  rw [systemOp_ready supervisor h, if_pos held]
  rfl

/-- R381: a form that drops decoded blocks. -/
theorem systemOp_blockFree {s : State} {rd : RegSet} {p : Block → Bool} {after : State → State} (supervisor : s.me.lvl = true) (h : Ready s rd .empty)
    (free : dropHeld s p = false) : systemOp rd .empty none (fun s' => if dropHeld s p then waitAs .home s else after s') s =
      after (s.mapMe (fun t => t.tracked rd .empty)) := by
  rw [systemOp_ready supervisor h, if_neg (by rw [free]; decide)]

theorem readied_dropBlocks_me (s : State) (rd : RegSet) (p : Block → Bool) :
    (dropBlocks (s.mapMe (fun t => t.tracked rd .empty)) p).me = s.me.tracked rd .empty :=
  (dropBlocks_me _ p).trans (State.me_mapMe s _)

/-- R382: the copies of a descriptor dropped from every home. -/
def dropDescs (s : State) (k : Nat) : State :=
  { s with homes := s.homes.map (fun (i, h) => (i, { h with descs := Assoc.erase h.descs k })) }

theorem dropDescs_home (s : State) (k i : Nat) : (dropDescs s k).home i = { s.home i with descs := Assoc.erase (s.home i).descs k } :=
  getD_map s.homes (fun h => { h with descs := Assoc.erase h.descs k }) i rfl

theorem get?_erase {α : Type} (m : Assoc α) (k : Nat) : Assoc.get? (Assoc.erase m k) k = none := by
  induction m with
  | nil => rfl
  | cons e m ih =>
    obtain ⟨j, v⟩ := e
    by_cases here : j = k
    · simpa [Assoc.erase, here] using ih
    · simpa [Assoc.erase, Assoc.get?, here] using ih

theorem descCheck_pass {s : State} {v : Word} (small : v.toNat < 2 ^ 8) (there : v.toNat ≤ (s.part (s.me.graph / 65536)).codectab.toNat % 256) :
    descCheck s v = none := by
  have top : fld v.toNat 63 8 = 0 := by
    unfold fld
    rw [Nat.div_eq_of_lt small, Nat.zero_mod]
  have there' : v.toNat ≤ (s.part (graphPart s.me.graph)).codectab.toNat % 256 := there
  unfold descCheck
  rw [top, decide_eq_false (Nat.not_lt.2 there')]
  rfl

theorem named_block (part n : Nat) : (fun c : Block => decide (c.part = part ∧ c.cidx = n)) = fun b => b.part == part && b.cidx == n := by
  funext c
  rw [Bool.decide_and]
  rfl

/-- R381: CODECINV.DESC that waits. -/
theorem execCodecinvDesc_held {s : State} {a : BitVec 5} (supervisor : s.me.lvl = true) (ready : Ready s (RegSet.s1 a) .empty)
    (small : (s.me.rs a).toNat < 2 ^ 8) (there : (s.me.rs a).toNat ≤ (s.part (s.me.graph / 65536)).codectab.toNat % 256)
    (held : dropHeld s (fun c : Block => decide (c.part = s.me.graph / 65536 ∧ c.cidx = (s.me.rs a).toNat)) = true) :
    exec (.codecinvDesc a) s = .next (s.mapMe (fun t => { t with wait := .home })) := by
  have run : exec (.codecinvDesc a) s = execCodecinvDesc a s := rfl
  rw [run]
  unfold execCodecinvDesc
  dsimp only
  rw [descCheck_pass small there]
  rw [named_block] at held
  exact congrArg _ (systemOp_blockHeld supervisor ready held)

/-- R381: CODECINV.DESC. -/
theorem execCodecinvDesc_free {s : State} {a : BitVec 5} (supervisor : s.me.lvl = true) (ready : Ready s (RegSet.s1 a) .empty)
    (small : (s.me.rs a).toNat < 2 ^ 8) (there : (s.me.rs a).toNat ≤ (s.part (s.me.graph / 65536)).codectab.toNat % 256)
    (free : dropHeld s (fun c : Block => decide (c.part = s.me.graph / 65536 ∧ c.cidx = (s.me.rs a).toNat)) = false) :
    ∃ t, exec (.codecinvDesc a) s = .next t ∧ t.me = (s.me.tracked (RegSet.s1 a) .empty).next ∧
      ((∀ e ∈ s.homes, ∀ c ∈ e.2.cache, decide (c.part = s.me.graph / 65536 ∧ c.cidx = (s.me.rs a).toNat) = true → c.dirty = false) →
        BlocksDrop s t (fun c : Block => decide (c.part = s.me.graph / 65536 ∧ c.cidx = (s.me.rs a).toNat)) ∧ t.vault = s.vault) ∧
      ∀ h, Assoc.get? (t.home h).descs (256 * (s.me.graph / 65536) + (s.me.rs a).toNat) = none := by
  rw [named_block] at free ⊢
  refine ⟨(dropDescs (dropBlocks (s.mapMe (fun t => t.tracked (RegSet.s1 a) .empty)) (fun b => b.part == s.me.graph / 65536 && b.cidx == (s.me.rs a).toNat))
    (256 * (s.me.graph / 65536) + (s.me.rs a).toNat)).mapMe Thread.next, ?_, ?_, fun clean => ?_, fun h => ?_⟩
  · have run : exec (.codecinvDesc a) s = execCodecinvDesc a s := rfl
    rw [run]
    unfold execCodecinvDesc
    dsimp only
    rw [descCheck_pass small there]
    exact congrArg _ (systemOp_blockFree supervisor ready free)
  · rw [State.me_mapMe]
    exact congrArg Thread.next (readied_dropBlocks_me s (RegSet.s1 a) _)
  · obtain ⟨caches, vault⟩ := dropBlocks_clean (s := s.mapMe (fun t => t.tracked (RegSet.s1 a) .empty))
      (p := fun b => b.part == s.me.graph / 65536 && b.cidx == (s.me.rs a).toNat) (fun e he c hc named => clean e he c hc (by simpa using named))
    refine ⟨fun h b => ?_, vault⟩
    rw [State.mapMe_home, dropDescs_home]
    exact caches h b
  · rw [State.mapMe_home, dropDescs_home]
    exact get?_erase ..

/-! ### Graphs by handle (R372, R379, R383, R384) -/

theorem written_pc (t : Thread) (d : BitVec 5) (w : Word) : (t.ws d w).next.pc = t.pc + 4 := by rw [Thread.next_pc, Thread.ws_pc]

theorem written_reg (t : Thread) (d : BitVec 5) (w : Word) : (t.ws d w).next.rs d = if d = 0 then 0 else w := by
  show (t.ws d w).rs d = _
  rw [Thread.rs_ws]
  split
  next zero => rw [zero]; rfl
  next => rw [if_pos rfl]

theorem written_reg_zero (t : Thread) (d : BitVec 5) : (t.ws d 0).next.rs d = 0 := by
  rw [written_reg]
  split
  · rfl
  · rfl

theorem Steady.me_pc {s t : State} (h : Steady s t) : t.me.pc = s.me.pc := by
  have cur : t.cur = s.cur := congrArg (fun x => x.1) h.module
  unfold State.me
  rw [cur]
  exact congrArg (fun x => x.2.2.1) (h.seats s.cur)

theorem mapMe_thread_other {s : State} {i : Nat} (f : Thread → Thread) (other : i ≠ s.cur) : (s.mapMe f).thread i = s.thread i :=
  (State.thread_setThread s s.cur i (f s.me)).trans (if_neg (Ne.symm other))

theorem thread_of_threads {s t : State} (threads : t.threads = s.threads) {i : Nat} : t.thread i = s.thread i := by
  unfold State.thread
  rw [threads]

/-- R383: a slot of a frozen graph, not the one that froze it, does not issue. -/
theorem frozen_not_issuable {s : State} {i : Nat} {x : Option Nat} (frozen : (s.graph (s.thread i).graph).frozen = true)
    (hung : (s.graph (s.thread i).graph).hung = false) (freezer : (s.graph (s.thread i).graph).freezer = x) (other : x ≠ some i) :
    issuable s i = false := by
  unfold issuable
  dsimp only
  rw [frozen, hung, freezer, beq_eq_false_iff_ne.2 other]
  simp only [Bool.not_true, Bool.or_self, Bool.and_false, Bool.false_and]

theorem present_graph {s : State} {v : Word} {k : Nat} {g : Graph} (h : present s v = some (k, g)) : s.graph k = g := by
  unfold present named at h
  dsimp only at h
  split at h
  next k' g' e =>
    split at h
    · obtain ⟨rfl, rfl⟩ := Prod.mk.injEq .. ▸ Option.some.inj h
      obtain ⟨x, found, pair⟩ := Option.map_eq_some_iff.1 e
      obtain ⟨rfl, rfl⟩ := Prod.mk.injEq .. ▸ pair
      unfold State.graph Assoc.getD
      rw [found]
      rfl
    · cases h
  next => cases h

theorem present_tracked (s : State) (rd wr : RegSet) (v : Word) : present (s.mapMe (fun t => t.tracked rd wr)) v = present s v := by
  unfold present named
  rw [State.me_mapMe]
  rfl

/-- R383: FREEZE and FREEZE.OFF of an absent graph. -/
theorem freezeOp_absent {s : State} {off : Bool} {d a : BitVec 5} (supervisor : s.me.lvl = true)
    (h : Ready s (RegSet.s1 a) (RegSet.s1 d)) (absent : present s (s.me.rs a) = none) :
    freezeOp off d a s = s.mapMe (fun t => ((t.tracked (RegSet.s1 a) (RegSet.s1 d)).ws d (u 1)).next) := by
  unfold freezeOp
  dsimp only
  rw [systemOp_ready supervisor h, present_tracked, absent]
  exact State.mapMe_mapMe ..

/-- R384: GRAPHCTL.TERM of an absent graph. -/
theorem execGraphctlTerm_absent {s : State} {d a : BitVec 5} (supervisor : s.me.lvl = true)
    (h : Ready s (RegSet.s1 a) (RegSet.s1 d)) (absent : present s (s.me.rs a) = none) :
    exec (.graphctlTerm d a) s = .next (s.mapMe (fun t => ((t.tracked (RegSet.s1 a) (RegSet.s1 d)).ws d (u 1)).next)) := by
  have run : exec (.graphctlTerm d a) s = execGraphctlTerm d a s := rfl
  rw [run]
  unfold execGraphctlTerm
  dsimp only
  rw [systemOp_ready supervisor h, present_tracked, absent]
  exact congrArg _ (State.mapMe_mapMe ..)

/-- R383: FREEZE. -/
theorem execFreeze_present {s : State} {d a : BitVec 5} {k : Nat} {g : Graph} (supervisor : s.me.lvl = true)
    (h : Ready s (RegSet.s1 a) (RegSet.s1 d)) (there : present s (s.me.rs a) = some (k, g)) :
    exec (.freeze d a) s = .next ((freezeGraph (s.mapMe (fun t => t.tracked (RegSet.s1 a) (RegSet.s1 d))) k (some s.cur)).mapMe
      (fun t => (t.ws d 0).next)) := by
  have run : exec (.freeze d a) s = .next (freezeOp false d a s) := rfl
  rw [run]
  unfold freezeOp
  dsimp only
  rw [systemOp_ready supervisor h, present_tracked, there]
  rfl

/-- R383: FREEZE.OFF. -/
theorem execFreezeOff_present {s : State} {d a : BitVec 5} {k : Nat} {g : Graph} (supervisor : s.me.lvl = true)
    (h : Ready s (RegSet.s1 a) (RegSet.s1 d)) (there : present s (s.me.rs a) = some (k, g)) :
    exec (.freezeOff d a) s = .next ((thawGraph (s.mapMe (fun t => t.tracked (RegSet.s1 a) (RegSet.s1 d))) k).mapMe
      (fun t => (t.ws d 0).next)) := by
  have run : exec (.freezeOff d a) s = .next (freezeOp true d a s) := rfl
  rw [run]
  unfold freezeOp
  dsimp only
  rw [systemOp_ready supervisor h, present_tracked, there]
  rfl

/-- R383: a frozen graph, and the threads beside it. -/
theorem freezeGraph_frame (s : State) (k : Nat) (by_ : Option Nat) : ((freezeGraph s k by_).graph k).frozen = true ∧
    ((s.graph k).frozen = true → (freezeGraph s k by_).graph k = s.graph k) ∧ (∀ j, j ≠ k → (freezeGraph s k by_).graph j = s.graph j) ∧
    ((s.graph k).frozen = false → ((freezeGraph s k by_).graph k).hung = (s.graph k).hung ∧ ((freezeGraph s k by_).graph k).freezer = by_) ∧
    (freezeGraph s k by_).threads = s.threads ∧ (freezeGraph s k by_).cur = s.cur := by
  unfold freezeGraph
  by_cases frozen : (s.graph k).frozen = true
  · rw [if_pos frozen]
    exact ⟨frozen, fun _ => rfl, fun _ _ => rfl, fun thawed => absurd (frozen.symm.trans thawed) (by decide), rfl, rfl⟩
  · rw [if_neg frozen, State.graph_mapGraph_same]
    refine ⟨rfl, fun yes => absurd yes frozen, fun j other => ?_, fun _ => ⟨rfl, rfl⟩, rfl, rfl⟩
    rw [State.graph_mapGraph, if_neg (Ne.symm other)]

/-- R383: a graph that goes on. -/
def Graph.thawed (now : Nat) (g : Graph) : Graph :=
  { g with frozen := false, hung := false, freezer := none, hang := 0, deadline := g.deadline.map (fun d => d + (now - g.frozenAt)) }

theorem thawGraph_frozen {s : State} {k : Nat} (frozen : (s.graph k).frozen = true) :
    ∃ l, thawGraph s k = { s.mapGraph k (Graph.thawed s.mod.ref) with agenda := l } := by
  unfold thawGraph
  dsimp only
  rw [frozen, if_neg (by decide)]
  cases (s.graph k).waiting with
  | none => exact ⟨s.agenda, rfl⟩
  | some c => exact ⟨s.agenda ++ [.rollback k c], rfl⟩

/-- R383: a graph that goes on, and the threads beside it. -/
theorem thawGraph_frame (s : State) (k : Nat) : ((thawGraph s k).graph k).frozen = false ∧
    ((s.graph k).frozen = false → (thawGraph s k).graph k = s.graph k) ∧ (∀ j, j ≠ k → (thawGraph s k).graph j = s.graph j) ∧
    ((thawGraph s k).graph k).st = (s.graph k).st ∧ (thawGraph s k).threads = s.threads ∧ (thawGraph s k).cur = s.cur := by
  by_cases frozen : (s.graph k).frozen = true
  · obtain ⟨l, e⟩ := thawGraph_frozen frozen
    have graph (j : Nat) : (thawGraph s k).graph j = (s.mapGraph k (Graph.thawed s.mod.ref)).graph j := by rw [e]; rfl
    refine ⟨?_, fun no => absurd (frozen.symm.trans no) (by decide), fun j other => ?_, ?_, by rw [e]; rfl, by rw [e]; rfl⟩
    · rw [graph, State.graph_mapGraph_same]
      rfl
    · rw [graph, State.graph_mapGraph, if_neg (Ne.symm other)]
    · rw [graph, State.graph_mapGraph_same]
      rfl
  · have still : thawGraph s k = s := by
      unfold thawGraph
      rw [Bool.not_eq_true] at frozen
      dsimp only
      rw [frozen]
      rfl
    rw [still]
    exact ⟨Bool.not_eq_true _ ▸ frozen, fun _ => rfl, fun _ _ => rfl, rfl, rfl, rfl⟩

/-- What the running slot is once it has done a step of a state that keeps its threads. -/
theorem me_of_threads {s t : State} (threads : t.threads = s.threads) (cur : t.cur = s.cur) : t.me = s.me := by
  unfold State.me State.thread
  rw [threads, cur]

/-- R384: GRAPHCTL.TERM. -/
theorem execGraphctlTerm_present {s : State} {d a : BitVec 5} {k : Nat} {g : Graph} (supervisor : s.me.lvl = true)
    (h : Ready s (RegSet.s1 a) (RegSet.s1 d)) (there : present s (s.me.rs a) = some (k, g)) :
    exec (.graphctlTerm d a) s = .next (
      let r := endGraph (s.mapMe (fun t => t.tracked (RegSet.s1 a) (RegSet.s1 d))) k .terminated 0xFE
      if k = s.me.graph then r else r.mapMe (fun t => (t.ws d 0).next)) := by
  have run : exec (.graphctlTerm d a) s = execGraphctlTerm d a s := rfl
  rw [run]
  unfold execGraphctlTerm
  dsimp only
  rw [systemOp_ready supervisor h, present_tracked, there]
  dsimp only
  rw [State.me_mapMe]
  rfl

theorem tracked_steady (s : State) (rd wr : RegSet) : Steady s (s.mapMe (fun t => t.tracked rd wr)) :=
  .mapThread s s.cur (f := fun t => t.tracked rd wr) (fun _ => rfl)

/-- R384: what the end of a graph leaves of the running slot. -/
theorem endGraph_me (s : State) (rd wr : RegSet) (k : Nat) :
    let r := endGraph (s.mapMe (fun t => t.tracked rd wr)) k .terminated 0xFE
    r.me.pc = s.me.pc ∧ r.me.s = s.me.s ∧ (s.cur ∈ graphThreads s k → r.me.run = .free) := by
  have ended := (endGraph_ended (s.mapMe (fun t => t.tracked rd wr)) k .terminated 0xFE).after (tracked_steady s rd wr)
  have cur : (endGraph (s.mapMe (fun t => t.tracked rd wr)) k .terminated 0xFE).cur = s.cur := congrArg (fun x => x.1) ended.module
  have seat := ended.seats s.cur
  dsimp only
  unfold State.me
  rw [cur]
  split at seat
  next member => exact ⟨congrArg (fun x => x.2.2.1) seat, congrArg (fun x => x.2.2.2) seat, fun _ => congrArg (fun x => x.2.1) seat⟩
  next other => exact ⟨congrArg (fun x => x.2.2.1) seat, congrArg (fun x => x.2.2.2) seat, fun member => absurd member other⟩

/-- R379: WAVEREQ. -/
theorem execWavereq_eq {s : State} {d a : BitVec 5} (supervisor : s.me.lvl = true) (h : Ready s (RegSet.s1 a) (RegSet.s1 d)) :
    exec (.wavereq d a) s = .next (
      let r := requestWave (s.mapMe (fun t => t.tracked (RegSet.s1 a) (RegSet.s1 d))) (s.me.rs a)
      r.1.mapMe (fun t => (t.ws d (wd r.2)).next)) := by
  have run : exec (.wavereq d a) s = execWavereq d a s := rfl
  rw [run]
  unfold execWavereq
  dsimp only
  rw [systemOp_ready supervisor h]

theorem exists_gt_all (l : List Nat) : ∃ n, ∀ i ∈ l, i < n := by
  induction l with
  | nil => exact ⟨0, fun _ m => (List.not_mem_nil m).elim⟩
  | cons a l ih =>
    obtain ⟨n, above⟩ := ih
    refine ⟨a + 1 + n, fun i m => ?_⟩
    obtain rfl | m := List.mem_cons.1 m
    · omega
    · exact Nat.lt_of_lt_of_le (above i m) (Nat.le_add_left _ _)

/-- R53, R55: a forced wave of a graph is its next. -/
theorem openForced_openWave (s : State) (k : Nat) : ((openForced s k).graph k).openWave = some ((s.graph k).lastWave + 1) := by
  unfold openForced
  dsimp only
  obtain ⟨snap, quiet, e⟩ := openWave_eq s k (some ((if (s.graph k).frozen then (s.graph k).frozenAt else s.mod.ref) + latencyLimit s k))
  rw [e]
  generalize (graphThreads s k).filter (fun i => (s.thread i).run == .halted) = l
  obtain ⟨i, absent⟩ := exists_gt_all l
  obtain ⟨_, _, _, graphs⟩ := haltedMarkers_kept l ((s.graph k).lastWave + 1) (waveOpened s k ((s.graph k).lastWave + 1)
    (some ((if (s.graph k).frozen then (s.graph k).frozenAt else s.mod.ref) + latencyLimit s k)) snap quiet)
    (fun m => Nat.lt_irrefl i (absent i m))
  rw [graphs, waveOpened_graph]

theorem requestWave_stopped {s : State} {v : Word} {k : Nat} {g : Graph} (there : present s v = some (k, g)) (stopped : g.st ≠ .running) :
    requestWave s v = (s, 2 * 2 ^ 16) := by
  unfold requestWave
  rw [there]
  exact if_pos stopped

theorem requestWave_open {s : State} {v : Word} {k : Nat} {g : Graph} {n : BitVec 16} (there : present s v = some (k, g)) (runs : g.st = .running)
    (opened : g.openWave = some n) : requestWave s v = (s, 2 ^ 16 + n.toNat) := by
  unfold requestWave
  rw [there]
  dsimp only
  rw [if_neg (fun h => h runs), opened]

theorem requestWave_opens {s : State} {v : Word} {k : Nat} {g : Graph} (there : present s v = some (k, g)) (runs : g.st = .running)
    (closed : g.openWave = none) : requestWave s v = (openForced s k, (g.lastWave + 1).toNat) := by
  unfold requestWave
  rw [there]
  dsimp only
  rw [if_neg (fun h => h runs), closed]

theorem requestWave_absent {s : State} {v : Word} (absent : present s v = none) : requestWave s v = (s, 2 * 2 ^ 16) := by
  unfold requestWave
  rw [absent]

end Sys2Proof.Machine

open Sys2Proof Sys2Proof.Machine Sys2Proof.Safety Sys2Proof.Claims

/-- Settles O43, form by form. -/
theorem systemForms : Obligations.SystemForms := by
  refine ⟨fun s i d rd supervisor ready => ⟨fun w rule => ?_, fun c v rule => ?_⟩, fun s d a b supervisor => ⟨fun ready inside => ?_, fun ready => ?_,
    fun ready pass => ⟨fun held => ?_, fun free => ?_⟩, fun ready small there => ⟨fun held => ?_, fun free => ?_⟩,
    fun ready => ⟨fun k g there => ⟨?_, ?_, ?_, fun runs n opened => ?_, fun runs closed quiet => ?_, fun stopped => ?_⟩, fun absent i w form => ?_⟩⟩⟩
  · exact exec_systemRule supervisor ready rule
  · exact exec_systemRule supervisor ready rule
  · obtain ⟨t, e, me, caches⟩ := systemOp_dropTlb supervisor ready (tlbHit_page (s.me.graph / 65536) (s.me.rs a))
    refine ⟨t, ?_, me, caches⟩
    rw [← e, ← globalCheck_pass inside]
    rfl
  · obtain ⟨t, e, me, caches⟩ := systemOp_dropTlb supervisor ready (tlbHit_part (s.me.graph / 65536))
    exact ⟨t, congrArg _ e, me, caches⟩
  · have run : exec (.codecinv a b) s = execCodecinv a b s := rfl
    rw [run]
    unfold execCodecinv
    dsimp only
    rw [pass]
    exact congrArg _ (systemOp_blockHeld supervisor ready held)
  · refine ⟨(dropBlocks (s.mapMe (fun t => t.tracked (readsSS a b) .empty)) (blockInRange s ((s.me.rs a).toNat % 2 ^ 56) (s.me.rs b).toNat)).mapMe
      Thread.next, ?_, ?_, fun clean => ?_⟩
    · have run : exec (.codecinv a b) s = execCodecinv a b s := rfl
      rw [run]
      unfold execCodecinv
      dsimp only
      rw [pass]
      exact congrArg _ (systemOp_blockFree supervisor ready free)
    · rw [State.me_mapMe, readied_dropBlocks_me]
      rfl
    · exact dropBlocks_clean (s := s.mapMe (fun t => t.tracked (readsSS a b) .empty)) clean
  · exact execCodecinvDesc_held supervisor ready small there held
  · exact execCodecinvDesc_free supervisor ready small there free
  · have frame := freezeGraph_frame (s.mapMe (fun t => t.tracked (RegSet.s1 a) (RegSet.s1 d))) k (some s.cur)
    obtain ⟨frozen, kept, others, stops, threads, cur⟩ := frame
    have graph : (s.mapMe (fun t => t.tracked (RegSet.s1 a) (RegSet.s1 d))).graph k = g := present_graph (s := s) there
    rw [graph] at kept stops
    refine ⟨_, execFreeze_present supervisor ready there, ?_, frozen, kept, others, fun thawed fine i other own => ?_⟩
    · rw [State.me_mapMe, me_of_threads threads cur, State.me_mapMe]
    · obtain ⟨hung, freezer⟩ := stops thawed
      have place : ((((freezeGraph (s.mapMe (fun t => t.tracked (RegSet.s1 a) (RegSet.s1 d))) k (some s.cur)).mapMe (fun t => (t.ws d 0).next))).thread i).graph
          = k := by
        rw [mapMe_thread_other _ (by rw [cur]; exact other), thread_of_threads threads, mapMe_thread_other _ other, own]
      refine frozen_not_issuable (x := some s.cur) ?_ ?_ ?_ (fun e => other (Option.some.inj e).symm)
      · rw [place]
        exact frozen
      · rw [place]
        exact hung.trans fine
      · rw [place]
        exact freezer
  · obtain ⟨thawed, kept, others, st, threads, cur⟩ := thawGraph_frame (s.mapMe (fun t => t.tracked (RegSet.s1 a) (RegSet.s1 d))) k
    have graph : (s.mapMe (fun t => t.tracked (RegSet.s1 a) (RegSet.s1 d))).graph k = g := present_graph (s := s) there
    rw [graph] at kept st
    refine ⟨_, execFreezeOff_present supervisor ready there, ?_, thawed, kept, others, st⟩
    rw [State.me_mapMe, me_of_threads threads cur, State.me_mapMe]
  · have ended := endGraph_graph (s.mapMe (fun t => t.tracked (RegSet.s1 a) (RegSet.s1 d))) k .terminated 0xFE
    obtain ⟨pc, regs, free⟩ := endGraph_me s (RegSet.s1 a) (RegSet.s1 d) k
    refine ⟨_, execGraphctlTerm_present supervisor ready there, ?_, fun other => ?_, fun own => ?_⟩
    · dsimp only
      split
      · exact ended.1
      · rw [State.mapMe_graph]
        exact ended.1
    · dsimp only
      rw [if_neg other, State.me_mapMe]
      exact ⟨(written_pc ..).trans (congrArg (· + 4) pc), written_reg_zero ..⟩
    · dsimp only
      rw [if_pos own]
      exact ⟨pc, regs, free⟩
  · refine ⟨_, execWavereq_eq supervisor ready, ?_⟩
    rw [requestWave_open ((present_tracked ..).trans there) runs opened]
    dsimp only
    rw [State.me_mapMe, State.me_mapMe]
    rfl
  · refine ⟨_, execWavereq_eq supervisor ready, ?_⟩
    rw [requestWave_opens ((present_tracked ..).trans there) runs closed]
    have graph : (s.mapMe (fun t => t.tracked (RegSet.s1 a) (RegSet.s1 d))).graph k = g := present_graph (s := s) there
    have steady := (tracked_steady s (RegSet.s1 a) (RegSet.s1 d)).trans (openForced_steady _ k)
    dsimp only
    refine ⟨?_, ?_, ?_⟩
    · rw [State.mapMe_graph, openForced_openWave, graph]
    · rw [State.me_mapMe]
      exact written_reg ..
    · rw [State.me_mapMe]
      exact (written_pc ..).trans (congrArg (· + 4) steady.me_pc)
  · rw [execWavereq_eq supervisor ready, requestWave_stopped ((present_tracked ..).trans there) stopped]
    dsimp only
    rw [State.mapMe_mapMe]
    rfl
  · have gone : present (s.mapMe (fun t => t.tracked (RegSet.s1 a) (RegSet.s1 d))) (s.me.rs a) = none := (present_tracked ..).trans absent
    rcases form with ⟨rfl | rfl | rfl, rfl⟩ | ⟨rfl, rfl⟩
    · have run : exec (.freeze d a) s = .next (freezeOp false d a s) := rfl
      rw [run, freezeOp_absent supervisor ready absent]
    · have run : exec (.freezeOff d a) s = .next (freezeOp true d a s) := rfl
      rw [run, freezeOp_absent supervisor ready absent]
    · exact execGraphctlTerm_absent supervisor ready absent
    · rw [execWavereq_eq supervisor ready, requestWave_absent gone]
      dsimp only
      rw [State.mapMe_mapMe]
      rfl
end

section
/-! PROOF. That every action of the machine keeps every memory in its canonical form (spec/04_storage.md, spec/06_consistency.md), one lemma for
each operation, in the order in which they use one another. -/

namespace Sys2Proof.Machine
open Sys2Proof.Safety

/-- From `s` to `t` every memory stays in its canonical form, and every partition keeps the time of its next evaluation. -/
structure Sound (s t : State) : Prop where
  memory : MemoryOk s → MemoryOk t
  evals : ∀ k, (t.part k).evalAt = (s.part k).evalAt

theorem Steady.sound {s t : State} (h : Steady s t) : Sound s t := ⟨h.memory, fun k => congrArg (fun x => x.2.2) (h.ports k)⟩
theorem Ended.sound {s t : State} {k : Nat} (h : Ended k s t) : Sound s t := ⟨h.memory, fun k => congrArg (fun x => x.2.2) (h.ports k)⟩

namespace Sound

theorem refl (s : State) : Sound s s := ⟨id, fun _ => rfl⟩

theorem trans {s t r : State} (h : Sound s t) (k : Sound t r) : Sound s r :=
  ⟨fun m => k.memory (h.memory m), fun i => (k.evals i).trans (h.evals i)⟩

theorem steady {s t r : State} (h : Sound s t) (k : Steady t r) : Sound s r := h.trans k.sound
theorem ended {s t r : State} {g : Nat} (h : Sound s t) (k : Ended g t r) : Sound s r := h.trans k.sound

/-- The state of a result that is known. -/
theorem eq {α : Type} {s : State} {p x : State × α} (h : Sound s p.1) (e : p = x) : Sound s x.1 := e ▸ h
theorem eq_snd {α : Type} {s : State} {p x : α × State} (h : Sound s p.2) (e : p = x) : Sound s x.2 := e ▸ h

/-- A step that keeps the canonical form of the memories it writes. -/
theorem writes {s t r : State} (h : Sound s t) (memory : MemoryOk t → MemoryOk r) (parts : r.parts = t.parts) : Sound s r := by
  refine h.trans ⟨memory, fun k => ?_⟩
  unfold State.part
  rw [parts]

/-- A step beside the memories and the partitions. -/
theorem beside {s t r : State} (h : Sound s t)
    (same : (r.tmem, r.vault, r.host, r.shadow, r.parts) = (t.tmem, t.vault, t.host, t.shadow, t.parts)) : Sound s r := by
  simp only [Prod.mk.injEq] at same
  obtain ⟨tmem, vault, host, shadow, parts⟩ := same
  refine h.trans ⟨fun m => by unfold MemoryOk; rw [tmem, vault, host, shadow]; exact m, fun k => ?_⟩
  unfold State.part
  rw [parts]

theorem ite {s t r : State} {c : Prop} [Decidable c] (h : Sound s t) (k : Sound s r) : Sound s (if c then t else r) := by
  split
  · exact h
  · exact k

theorem foldl {α : Type} {s t : State} (h : Sound s t) {f : State → α → State} (hf : ∀ r a, Sound s r → Sound s (f r a)) (l : List α) :
    Sound s (l.foldl f t) := by
  induction l generalizing t with
  | nil => exact h
  | cons a l ih => exact ih (hf t a h)

/-- A fold that carries a result beside the state. -/
theorem foldl_fst {α β : Type} {s t : State} {b : β} (h : Sound s t) {f : State × β → α → State × β}
    (hf : ∀ x a, Sound s x.1 → Sound s (f x a).1) (l : List α) : Sound s (l.foldl f (t, b)).1 := by
  induction l generalizing t b with
  | nil => exact h
  | cons a l ih => exact ih (hf (t, b) a h)

section
variable {s t : State} (h : Sound s t)
include h

theorem setThread (i : Nat) (x : Thread) : Sound s (t.setThread i x) := h.beside rfl
theorem mapThread (i : Nat) (f : Thread → Thread) : Sound s (t.mapThread i f) := h.beside rfl
theorem setMe (x : Thread) : Sound s (t.setMe x) := h.beside rfl
theorem mapMe (f : Thread → Thread) : Sound s (t.mapMe f) := h.beside rfl
theorem setTile (i : Nat) (x : Tile) : Sound s (t.setTile i x) := h.beside rfl
theorem mapTile (i : Nat) (f : Tile → Tile) : Sound s (t.mapTile i f) := h.beside rfl
theorem mapHome (i : Nat) (f : Home → Home) : Sound s (t.mapHome i f) := h.beside rfl
theorem mapGraph (i : Nat) (f : Graph → Graph) : Sound s (t.mapGraph i f) := h.beside rfl
theorem mapPort (i : Nat) (f : Port → Port) : Sound s (t.mapPort i f) := h.beside rfl
theorem mapZone (i : Nat) (f : Zone → Zone) : Sound s (t.mapZone i f) := h.beside rfl
theorem mapPorts (i : Nat) (bs : List Nat) (f : BankPort → BankPort) : Sound s (t.mapPorts i bs f) := .ite h (h.mapTile ..)
theorem draw : Sound s t.draw := h.beside rfl
theorem post (i : Instr) : Sound s (Machine.post t i) := h.beside rfl

theorem setSector (k : Nat) (x : Sector) : Sound s (t.setSector k x) := h.steady (.setSector t k x)

theorem mapPart (i : Nat) {f : Part → Part} (hf : ∀ p, (f p).evalAt = p.evalAt) : Sound s (t.mapPart i f) := by
  refine h.trans ⟨id, fun k => ?_⟩
  rw [State.part_mapPart]
  split
  · rename_i here; subst here; exact hf _
  · rfl

theorem writeVault (a : Nat) (bs : List Byte) : Sound s { t with vault := Memory.writeBytes t.vault a bs } :=
  h.writes (fun ⟨tmem, vault, host, shadow⟩ => ⟨tmem, Memory.wf_writeBytes _ _ _ vault, host, shadow⟩) rfl

theorem writeShadow (a : Nat) (bs : List Byte) : Sound s { t with shadow := Memory.writeBytes t.shadow a bs } :=
  h.writes (fun ⟨tmem, vault, host, shadow⟩ => ⟨tmem, vault, host, Memory.wf_writeBytes _ _ _ shadow⟩) rfl

end

end Sound

/-- The state that a knot comes to. -/
@[reducible] def Knotted.state (k : Knotted) : State := match k with | .go r => r | .hold r => r

theorem Sound.knotted {s : State} {k x : Knotted} (h : Sound s k.state) (e : k = x) : Sound s x.state := e ▸ h

theorem Sound.either {s : State} {c : Prop} [Decidable c] {a b : Knotted} (h : Sound s a.state) (k : Sound s b.state) :
    Sound s (if c then a else b).state := by
  split
  · exact h
  · exact k

/-- What an instruction comes to, where it comes to a state, is one that `s` goes to soundly. -/
structure Lands (s : State) (o : Out) : Prop where
  sound : ∀ r, o = .next r → Sound s r

theorem Sound.lands {s t : State} (h : Sound s t) : Lands s (.next t) := by
  refine ⟨fun r e => ?_⟩
  obtain rfl := Host.Outcome.next.inj e
  exact h

theorem Lands.ite {s : State} {c : Prop} [Decidable c] {o p : Out} (h : Lands s o) (k : Lands s p) : Lands s (if c then o else p) := by
  split
  · exact h
  · exact k

theorem Sound.take {s t : State} (h : Sound s t) {f : State → Out} (hf : ∀ r, Sound s r → Lands s (f r)) : Sound s (Machine.take f t) := by
  unfold Machine.take
  split
  · rename_i e
    exact (hf t h).sound _ e
  · exact h

/-- Device steps each of which goes soundly on from where `s` has come to. -/
def Tries (s : State) (fs : List (State → Out)) : Prop := ∀ f ∈ fs, ∀ r, Sound s r → Lands s (f r)

section
variable {s : State} {α : Type}

theorem Tries.nil : Tries s [] := by nofun

theorem Tries.cons {f : State → Out} {fs : List (State → Out)} (h : ∀ r, Sound s r → Lands s (f r)) (k : Tries s fs) : Tries s (f :: fs) :=
  List.forall_mem_cons.mpr ⟨h, k⟩

theorem Tries.append {fs gs : List (State → Out)} (h : Tries s fs) (k : Tries s gs) : Tries s (fs ++ gs) :=
  List.forall_mem_append.mpr ⟨h, k⟩

theorem Tries.map {f : α → State → Out} (h : ∀ a r, Sound s r → Lands s (f a r)) (l : List α) : Tries s (l.map f) :=
  List.forall_mem_map.mpr fun a _ => h a

theorem Tries.flatMap {f : α → List (State → Out)} (h : ∀ a, Tries s (f a)) (l : List α) : Tries s (l.flatMap f) := by
  intro g mem
  obtain ⟨a, -, mem⟩ := List.mem_flatMap.mp mem
  exact h a g mem

theorem Sound.takeAll {t : State} (h : Sound s t) {fs : List (State → Out)} (hf : Tries s fs) : Sound s (Machine.takeAll fs t) := by
  unfold Machine.takeAll
  induction fs generalizing t with
  | nil => exact h
  | cons f fs ih =>
    obtain ⟨here, rest⟩ := List.forall_mem_cons.mp hf
    exact ih (h.take here) rest

end

end Sys2Proof.Machine
end

section
/-! PROOF. That every action keeps every memory: a knot, a commit, a trap, and the forms that only they touch (R44, R240, R365). -/

namespace Sys2Proof.Machine
open Sys2Proof.Safety
variable {s t : State}

theorem Sound.snapStreams (h : Sound s t) (i : Nat) (n : BitVec 16) : Sound s (Machine.snapStreams t i n) :=
  h.foldl (fun _ _ hr => hr.post ..) _

theorem Sound.snapEps (h : Sound s t) (g tile : Nat) (eps : List Nat) (n : BitVec 16) : Sound s (Machine.snapEps t g tile eps n) :=
  h.foldl (fun _ _ hr => (hr.mapGraph ..).mapTile ..) _

theorem Sound.snapInputs (h : Sound s t) (i : Nat) (n : BitVec 16) : Sound s (Machine.snapInputs t i n) :=
  h.snapEps ..

theorem Sound.checkpoint (h : Sound s t) (i : Nat) (n : BitVec 16) (pc : PC) : Sound s (Machine.checkpoint t i n pc) :=
  ((((h.mapGraph ..).mapThread ..).steady (emitMarkers_steady ..)).snapInputs ..).snapStreams ..

theorem Sound.meetMarkerBy (h : Sound s t) (i : Nat) (n : BitVec 16) (w : Wait) : Sound s (Machine.meetMarkerBy t i n w) :=
  .ite (h.mapThread ..) ((h.setThread ..).checkpoint ..)

theorem Sound.recheck (h : Sound s t) (i : Nat) (ops : List BufOp) : Sound s (Machine.recheck t i ops).1 := by
  unfold Machine.recheck
  dsimp only
  refine Sound.foldl_fst ?_ (fun _ _ hr => ?_) _
  · exact h
  · split
    · exact hr
    · exact hr.steady (translate_steady ..)

theorem Sound.commitBlock (h : Sound s t) (i : Nat) : Sound s (Machine.commitBlock t i).1 := by
  unfold Machine.commitBlock
  dsimp only
  split
  · exact h
  · split
    · exact h
    · split
      · exact h
      · split
        · exact h
        · split
          all_goals
            rename_i e
            have h1 := (h.recheck ..).eq e
          · exact h1
          · split
            all_goals exact h1

theorem Sound.asThread (h : Sound s t) (i : Nat) (f : State → State) (hf : ∀ r, Sound s r → Sound s (f r)) : Sound s (State.asThread t i f) :=
  (hf { t with cur := i } (h.beside rfl)).beside rfl

theorem Sound.statusBlock (h : Sound s t) (k : Nat) : Sound s (Machine.statusBlock t k) :=
  h.steady (writeStatus_steady ..)

theorem Sound.doubleTrap (h : Sound s t) (i : Nat) (x : Trap) : Sound s (Machine.doubleTrap t i x) :=
  ((h.steady (record_steady ..)).mapThread ..).ended (endGraph_ended ..)

theorem Sound.deliver (h : Sound s t) (i : Nat) (x : Trap) : Sound s (Machine.deliver t i x) :=
  .ite (h.doubleTrap ..) (.ite ((h.steady (record_steady ..)).ended (endGraph_ended ..)) (h.draw.setThread ..))

theorem Sound.raise (h : Sound s t) (code : Nat) (val : Word) : Sound s (Machine.raise t code val) :=
  h.deliver ..

theorem Sound.raiseFree (h : Sound s t) (code : Nat) : Sound s (Machine.raiseFree t code) :=
  h.draw.raise ..

theorem Sound.discardTrap (h : Sound s t) (code : Nat) (val : Word) : Sound s (Machine.discardTrap t code val) :=
  (h.setMe ..).deliver ..

theorem Sound.accessTrap (h : Sound s t) (code : Nat) (ea : Word) : Sound s (Machine.accessTrap t code ea) :=
  .ite ((h.steady (poisonRecord_steady ..)).discardTrap ..) (.ite (h.discardTrap ..) (h.raise ..))

theorem Sound.homeOps (h : Sound s t) (i : Nat) (hold : Option (BitVec 16)) (o : BufOp) : Sound s (Machine.homeOps i hold t o).1 := by
  unfold Machine.homeOps
  dsimp only
  split
  · split
    · exact h
    · refine Sound.foldl_fst ?_ (fun _ _ hr => ?_) _
      · exact h
      · split
        · exact hr
        · exact hr.steady (translate_steady ..)
  · split
    · exact h
    · exact h.steady (translate_steady ..)
  · split
    · exact h
    · exact h.steady (translate_steady ..)
  · exact h
  · exact h

theorem Sound.drainThread (h : Sound s t) (i : Nat) : Sound s (Machine.drainThread t i) :=
  h.foldl (fun _ _ hr => hr.steady (drainLine_steady ..)) _

theorem Sound.acceptOp (h : Sound s t) (op : HomeOp) : Sound s (Machine.acceptOp t op) :=
  .ite ((h.steady (settleSnap_steady ..)).steady (performLocal_steady ..))
    (.ite ((h.beside (by rfl)).steady (drainLine_steady ..)) (h.beside (by rfl)))

theorem Sound.offerOp (h : Sound s t) (op : HomeOp) : Sound s (Machine.offerOp t op) :=
  .ite (h.beside (by rfl)) (.ite ((Sound.ite (h.drainThread ..) h).beside (by rfl)) ((Sound.ite (h.drainThread ..) h).acceptOp ..))

theorem Sound.releaseOp (h : Sound s t) (i : Nat) (hold : Option (BitVec 16)) (o : BufOp) : Sound s (Machine.releaseOp i hold t o) :=
  (h.homeOps ..).foldl (fun _ _ hr => hr.offerOp ..) _

theorem Sound.trigger (h : Sound s t) (g cause : Nat) : Sound s (Machine.trigger t g cause) :=
  h.post ..

theorem Sound.sinkErrors (h : Sound s t) (g tile ukind unit : Nat) (seen : Bool) (bs : List Beat) :
    Sound s (Machine.sinkErrors t g tile ukind unit seen bs) := by
  unfold Machine.sinkErrors
  dsimp only
  split
  · exact h
  · exact (Sound.ite h (h.steady (record_steady ..))).trigger ..

theorem Sound.commitPops (h : Sound s t) (i e n : Nat) : Sound s (Machine.commitPops t i e n) :=
  .ite ((((h.mapTile ..).steady (returnPermits_steady ..)).sinkErrors ..).mapTile ..) ((h.mapTile ..).steady (returnPermits_steady ..))

theorem Sound.release (h : Sound s t) (i : Nat) (hold : Option (BitVec 16)) (npc : PC) : Sound s (Machine.release t i hold npc) := by
  unfold Machine.release
  dsimp only
  exact (Sound.ite ((Sound.ite (h.foldl (fun _ _ hr => hr.releaseOp ..) _) ((h.foldl (fun _ _ hr => hr.releaseOp ..) _).mapTile ..)).foldl
    (fun _ _ hr => hr.commitPops ..) _) (((Sound.ite (h.foldl (fun _ _ hr => hr.releaseOp ..) _)
    ((h.foldl (fun _ _ hr => hr.releaseOp ..) _).mapTile ..)).foldl (fun _ _ hr => hr.commitPops ..) _).steady (moved_steady ..))).mapThread ..

theorem Sound.performed (h : Sound s t) (i : Nat) : Sound s (Machine.performed t i).1 :=
  h.drainThread ..

theorem Sound.waveCheckpoint (h : Sound s t) (i : Nat) (n : BitVec 16) (npc : PC) : Sound s (Machine.waveCheckpoint t i n npc).state := by
  unfold Machine.waveCheckpoint
  split
  all_goals
    rename_i e
    have h1 := (h.performed ..).eq e
  · split
    · exact h1.mapThread ..
    · exact h1.checkpoint ..
  · exact h1.mapThread ..

theorem Sound.waveStep (h : Sound s t) (i : Nat) (explicit : Bool) (npc : PC) : Sound s (Machine.waveStep t i explicit npc).state := by
  unfold Machine.waveStep
  dsimp only
  split
  · split
    · split
      · exact h.mapThread ..
      · exact h
    · split
      · exact h
      · exact h.waveCheckpoint ..
  · split
    · exact h
    · split
      · exact .ite (h.steady (openWave_steady ..)) h
      · exact (h.steady (openWave_steady ..)).waveCheckpoint ..

theorem Sound.knot (h : Sound s t) (i : Nat) (w : Bool) (npc : PC) : Sound s (Machine.knot t i w npc).state := by
  unfold Machine.knot
  dsimp only
  split
  · exact h.mapThread ..
  · split
    · exact h.meetMarkerBy ..
    · split
      all_goals
        rename_i e
        have h1 := (h.commitBlock ..).eq e
      · exact h1.asThread _ _ (fun _ hr => hr.raiseFree ..)
      · exact h1.mapThread ..
      · exact h1.asThread _ _ (fun _ hr => hr.accessTrap ..)
      · split
        · rename_i s2 e
          have h2 : Sound s (Knotted.hold s2).state := by
            rw [← e]
            exact .either ((h1.release ..).mapThread ..) ((h1.release ..).waveStep ..)
          exact h2.mapThread ..
        · rename_i s2 e
          have h2 : Sound s (Knotted.go s2).state := by
            rw [← e]
            exact .either ((h1.release ..).mapThread ..) ((h1.release ..).waveStep ..)
          exact .either (h2.mapThread ..) (.either (h2.mapThread ..) h2)

theorem Sound.waitAs (h : Sound s t) (w : Wait) : Sound s (Machine.waitAs w t) :=
  h.mapMe ..

theorem Sound.haltHeld (h : Sound s t) : Sound s (Machine.haltHeld t) :=
  .ite (h.waitAs ..) h

theorem Sound.haltNow (h : Sound s t) : Sound s (Machine.haltNow t) := by
  unfold Machine.haltNow
  dsimp only
  split
  · exact .ite (h.mapMe ..) ((h.mapMe ..).checkpoint ..)
  · exact h.mapMe ..

theorem Lands.execHalt (h : Sound s t) : Lands s (Machine.execHalt t) := by
  unfold Machine.execHalt
  refine Sound.lands ?_
  split
  all_goals
    rename_i e
    have h1 := (h.knot ..).knotted e
  · exact h1.haltHeld
  · exact .ite h1.haltNow (h1.waitAs ..)

theorem Sound.knotOp (h : Sound s t) (w : Bool) : Sound s (Machine.knotOp w t) := by
  unfold Machine.knotOp
  split
  all_goals
    rename_i e
    have h1 := (h.knot ..).knotted e
  · exact h1
  · exact h1.mapMe ..

theorem Sound.inBight (h : Sound s t) (rd wr : RegSet) (pre : Option (Nat × Word)) (body : State → State)
    (hbody : ∀ r, Sound s r → Sound s (body r)) :
    Sound s (Machine.inBight rd wr pre body t) := by
  unfold Machine.inBight
  dsimp only
  refine .ite h ?_
  split
  · exact h.raise ..
  · split
    · exact h.raise ..
    · exact hbody _ (h.mapMe ..)

theorem Sound.scalarOp (h : Sound s t) (d : BitVec 5) (rd : RegSet) (v : Word) : Sound s (Machine.scalarOp d rd v t) :=
  h.inBight _ _ _ _ (fun _ hr => hr.mapMe ..)

theorem Sound.predOp (h : Sound s t) (d : BitVec 3) (rd : RegSet) (v : Word) : Sound s (Machine.predOp d rd v t) :=
  h.inBight _ _ _ _ (fun _ hr => hr.mapMe ..)

theorem Sound.irrevocable (h : Sound s t) (rd wr : RegSet) (pre : Option (Nat × Word)) (body : State → State)
    (hbody : ∀ r, Sound s r → Sound s (body r)) :
    Sound s (Machine.irrevocable rd wr pre body t) := by
  unfold Machine.irrevocable
  refine .ite h ?_
  split
  · exact h.raise ..
  · split
    all_goals
      rename_i e
      have h1 := (h.knot ..).knotted e
    · exact h1
    · exact hbody _ h1

end Sys2Proof.Machine
end

section
/-! PROOF. That every action keeps every memory: the system registers, the scalar and vector loads and stores, and the vector forms. -/

namespace Sys2Proof.Machine
open Sys2Proof.Safety
variable {s t : State}

theorem Sound.regKeep (h : Sound s t) (i r : Nat) : Sound s (Machine.regKeep t i r) := by
  unfold Machine.regKeep
  dsimp only
  split
  · exact .ite (h.mapGraph ..) h
  · exact h

theorem Sound.fetchLines (h : Sound s t) (part : Nat) (ea : Word) (n : Nat) : Sound s (Machine.fetchLines t part ea n).1 := by
  unfold Machine.fetchLines
  refine h.foldl_fst (fun _ _ hr => ?_) _
  exact hr.steady (sysFetch_steady ..)

theorem Sound.readEntry (h : Sound s t) (part i : Nat) : Sound s (Machine.readEntry t part i) := by
  unfold Machine.readEntry
  dsimp only
  exact (h.fetchLines ..).mapPart _ (fun _ => by rfl)

theorem Sound.readQueue (h : Sound s t) (part q : Nat) : Sound s (Machine.readQueue t part q) :=
  ((h.fetchLines ..).mapPart _ (fun _ => by rfl)).readEntry ..

theorem Sound.readEntries (h : Sound s t) (part : Nat) : Sound s (Machine.readEntries t part) :=
  (h.foldl (fun _ _ hr => hr.readEntry ..) _).foldl (fun _ _ hr => hr.readQueue ..) _

theorem Sound.readHeader (h : Sound s t) (part : Nat) : Sound s (Machine.readHeader t part) := by
  unfold Machine.readHeader
  dsimp only
  exact (h.fetchLines ..).mapPart _ (fun _ => by rfl)

theorem Sound.readContextList (h : Sound s t) (part : Nat) : Sound s (Machine.readContextList t part) :=
  (h.readHeader ..).readEntries ..

theorem Sound.setSysreg (h : Sound s t) (i r : Nat) (v : Word) : Sound s (Machine.setSysreg t i r v) := by
  unfold Machine.setSysreg
  dsimp only
  refine .ite ((h.regKeep ..).mapTile ..) ?_
  refine .ite ((h.regKeep ..).mapTile ..) ?_
  split
  · exact h.mapThread ..
  · exact h.mapThread ..
  · exact h.mapThread ..
  · exact h.mapThread ..
  · exact h.mapThread ..
  · exact h.mapThread ..
  · exact h.mapThread ..
  · exact h.mapThread ..
  · exact h.mapThread ..
  · exact h.mapThread ..
  · exact h.mapThread ..
  · exact h.mapPart _ (fun _ => by rfl)
  · exact h.mapPart _ (fun _ => by rfl)
  · exact h.mapPart _ (fun _ => by rfl)
  · exact h.mapPart _ (fun _ => by rfl)
  · exact h.mapPart _ (fun _ => by rfl)
  · exact h.mapPart _ (fun _ => by rfl)
  · exact h.mapPart _ (fun _ => by rfl)
  · exact h.mapPart _ (fun _ => by rfl)
  · exact h.mapPart _ (fun _ => by rfl)
  · exact (h.mapPart _ (fun _ => by rfl)).readContextList ..
  · exact h.mapPart _ (fun _ => by rfl)
  · exact h

theorem Sound.branchIf (h : Sound s t) (rd : RegSet) (taken : Bool) (o : BitVec 13) : Sound s (Machine.branchIf rd taken o t) :=
  h.inBight _ _ _ _ (fun _ hr => hr.mapMe ..)

theorem Sound.afterDeferred (h : Sound s t) (els : List (Word × Nat)) : Sound s (Machine.afterDeferred els t).state := by
  unfold Machine.afterDeferred
  split
  · exact h.knot ..
  · exact h

theorem Sound.meetMarker (h : Sound s t) (n : BitVec 16) (w : Wait) : Sound s (Machine.meetMarker t n w) :=
  h.meetMarkerBy ..

theorem Sound.readElement (h : Sound s t) (plain : Bool) (ea : Word) (n : Nat) : Sound s (Machine.readElement t plain ea n).1 := by
  unfold Machine.readElement
  dsimp only
  split
  · rename_i e
    have h1 := (h.steady (translate_steady ..)).eq e
    split
    · exact h
    · exact h.steady (readRange_steady ..)
  · split
    · exact h
    · exact h.steady (readRange_steady ..)

theorem Sound.readElements (h : Sound s t) (plain : Bool) (els : List (Word × Nat)) : Sound s (Machine.readElements t plain els).1 := by
  unfold Machine.readElements
  dsimp only
  exact h.foldl_fst (fun _ _ hr => .ite hr (hr.readElement ..)) _

theorem Sound.loadOp (h : Sound s t) (rd wr : RegSet) (unit : Nat) (plain : Bool) (els : List (Word × Nat))
    (chk : List (List Byte) → Option (Nat × Word)) (body : List (List Byte) → State → State) (hbody : ∀ x r, Sound s r → Sound s (body x r)) :
    Sound s (Machine.loadOp rd wr unit plain els chk body t) := by
  unfold Machine.loadOp
  dsimp only
  refine .ite h ?_
  split
  · exact h.raise ..
  · split
    all_goals
      rename_i e
      have h1 := (h.afterDeferred ..).knotted e
    · exact h1
    · split
      · exact h1.raise ..
      · split
        · exact h1.meetMarker ..
        · refine .ite (h1.waitAs ..) ?_
          split
          all_goals
            rename_i e
            have h2 := (h1.readElements ..).eq e
          · split
            · exact (h2.mapMe ..).raise ..
            · exact hbody _ _ (h2.mapMe ..)
          · exact h2.accessTrap ..

theorem Sound.loadScalar (h : Sound s t) (n : Nat) (signed : Bool) (d : BitVec 5) (rd : RegSet) (ea : Word) :
    Sound s (Machine.loadScalar n signed d rd ea t) :=
  h.loadOp _ _ _ _ _ _ _ (fun _ _ hr => hr.mapMe ..)

theorem Sound.enterElement (h : Sound s t) (ops : List BufOp) (u : Update) (ea : Word) (n : Nat) :
    Sound s (Machine.enterElement ops t u ea n).1 := by
  unfold Machine.enterElement
  dsimp only
  split
  · exact h
  · refine Sound.foldl_fst ?_ (fun _ _ hr => ?_) _
    · exact h
    · split
      all_goals
        rename_i e
        have h1 := (hr.steady (translate_steady ..)).eq e
      · split
        · exact h1
        · split
          all_goals
            split
            · exact h1
            · split
              · exact h1
              · exact h1.steady (codecDesc_steady ..)
              · exact h1
      · exact h1

theorem Sound.enterElements (h : Sound s t) (ops : List BufOp) (u : Update) (els : List (Word × Nat)) :
    Sound s (Machine.enterElements ops t u els).1 := by
  unfold Machine.enterElements
  refine h.foldl_fst (fun _ _ hr => ?_) _
  exact hr.enterElement ..

theorem Sound.bufferOp (h : Sound s t) (rd : RegSet) (unit : Nat) (u : Update) (els : List (Word × Nat)) (ops : List BufOp) :
    Sound s (Machine.bufferOp rd unit u els ops t) := by
  unfold Machine.bufferOp
  dsimp only
  refine .ite h ?_
  split
  · exact h.raise ..
  · split
    · exact h.meetMarker ..
    · refine .ite (h.waitAs ..) ?_
      split
      all_goals
        rename_i e
        have h1 := (h.enterElements ..).eq e
      · exact h1.raise ..
      · exact .ite (h.raiseFree ..) (.ite (h1.mapMe ..) (h1.accessTrap ..))

theorem Sound.storeScalar (h : Sound s t) (n : Nat) (d : BitVec 5) (rd : RegSet) (ea : Word) (scope : Nat) :
    Sound s (Machine.storeScalar n d rd ea scope t) :=
  h.bufferOp ..

theorem Sound.vectorOp (h : Sound s t) (rd wr : RegSet) (nan : Option Word) (body : Thread → Thread) :
    Sound s (Machine.vectorOp rd wr nan body t) := by
  unfold Machine.vectorOp
  dsimp only
  refine .ite h ?_
  split
  · exact h.raise ..
  · split
    · exact (h.mapMe ..).raise ..
    · exact h.mapMe ..

theorem Sound.lanewise (h : Sound s t) (t' : VType) (d : BitVec 5) (g : BitVec 3) (rd : RegSet) (c1 c2 : Nat) (f : Nat → Res) :
    Sound s (Machine.lanewise t' d g rd c1 c2 f t) := by
  unfold Machine.lanewise
  dsimp only
  exact h.vectorOp ..

theorem Sound.arith2 (h : Sound s t) (tc : BitVec 4) (d a b : BitVec 5) (g : BitVec 3) (fl : Bool → Val → Val → Val) (it : Int → Int → Int) :
    Sound s (Machine.arith2 tc d a b g fl it t) :=
  h.lanewise ..

theorem Sound.arith1 (h : Sound s t) (tc : BitVec 4) (d a : BitVec 5) (g : BitVec 3) (sg : Bool → Bool) (it : Int → Int) :
    Sound s (Machine.arith1 tc d a g sg it t) :=
  h.lanewise ..

theorem Sound.fused (h : Sound s t) (tc : BitVec 4) (d a b : BitVec 5) (g : BitVec 3) (f : Bool → Val → Val → Val) :
    Sound s (Machine.fused tc d a b g f t) :=
  h.lanewise ..

theorem Sound.bitwise (h : Sound s t) (tc : BitVec 4) (d a b : BitVec 5) (g : BitVec 3) (f : VType → Nat → Nat → Nat) :
    Sound s (Machine.bitwise tc d a b g f t) :=
  h.lanewise ..

theorem Sound.compare (h : Sound s t) (tc : BitVec 4) (d : BitVec 3) (a b : BitVec 5) (g : BitVec 3) (fl : Val → Val → Bool) (it : Int → Int → Bool) :
    Sound s (Machine.compare tc d a b g fl it t) := by
  unfold Machine.compare
  dsimp only
  exact h.vectorOp ..

theorem Sound.wholeLanes (h : Sound s t) (t' : VType) (d : BitVec 5) (rd : RegSet) (f : Nat → Nat) : Sound s (Machine.wholeLanes t' d rd f t) :=
  h.vectorOp ..

theorem Sound.permute (h : Sound s t) (tc : BitVec 4) (d : BitVec 5) (g : BitVec 3) (rd : RegSet) (f : VType → Nat → Nat) :
    Sound s (Machine.permute tc d g rd f t) :=
  h.lanewise ..

theorem Sound.reduce (h : Sound s t) (t' : VType) (d a : BitVec 5) (g : BitVec 3) (rm : Rnd) (op : Res → Res → Res) (empty : Nat) :
    Sound s (Machine.reduce t' d a g rm op empty t) := by
  unfold Machine.reduce
  dsimp only
  exact h.vectorOp ..

theorem Sound.unary (h : Sound s t) (tc : BitVec 4) (d a : BitVec 5) (g : BitVec 3) (f : VType → Nat → Val → Bool → Res) :
    Sound s (Machine.unary tc d a g f t) :=
  h.lanewise ..

theorem Sound.vectorLoad (h : Sound s t) (w : Nat) (d : BitVec 5) (g : BitVec 3) (rd : RegSet) (ea : Nat → Word) :
    Sound s (Machine.vectorLoad w d g rd ea t) := by
  unfold Machine.vectorLoad
  dsimp only
  exact h.loadOp _ _ _ _ _ _ _ (fun _ _ hr => hr.mapMe ..)

theorem Sound.scatter (h : Sound s t) (w : Nat) (d : BitVec 5) (g : BitVec 3) (rd : RegSet) (ea : Nat → Word) :
    Sound s (Machine.scatter w d g rd ea t) := by
  unfold Machine.scatter
  dsimp only
  exact h.bufferOp ..

end Sys2Proof.Machine
end

section
/-! PROOF. That every action keeps every memory: the atomics, fences and group objects, the issue of engine commands, the system forms. -/

namespace Sys2Proof.Machine
open Sys2Proof.Safety
variable {s t : State}

theorem Sound.performEarlier (h : Sound s t) (k : BitVec 2) (sc : BitVec 4) : Sound s (Machine.performEarlier t k sc) :=
  .ite (h.drainThread ..) h

theorem Sound.irrevocableFenced (h : Sound s t) (rd wr : RegSet) (pre : Option (Nat × Word)) (k : BitVec 2) (sc : BitVec 4) (body : State → State)
    (hbody : ∀ r, Sound s r → Sound s (body r)) :
    Sound s (Machine.irrevocableFenced rd wr pre k sc body t) := by
  unfold Machine.irrevocableFenced
  dsimp only
  refine .ite h ?_
  split
  · exact h.raise ..
  · split
    all_goals
      rename_i e
      have h1 := (h.knot ..).knotted e
    · exact h1
    · exact .ite (hbody _ (h1.performEarlier ..)) ((h1.performEarlier ..).waitAs ..)

theorem Sound.checkpointFirst (h : Sound s t) (n : BitVec 16) : Sound s (Machine.checkpointFirst t n) :=
  .ite (h.waitAs ..) (h.checkpoint ..)

theorem Sound.raiseOutside (h : Sound s t) (code : Nat) (val : Word) : Sound s (Machine.raiseOutside t code val) :=
  h.deliver ..

theorem Sound.accessTrapOutside (h : Sound s t) (code : Nat) (ea : Word) : Sound s (Machine.accessTrapOutside t code ea) :=
  (Sound.ite (h.steady (poisonRecord_steady ..)) h).raiseOutside ..

theorem Sound.rmwOutside (h : Sound s t) (ea : Word) (n : Nat) (op : Option Nat) (f : List Byte → List Byte) (body : List Byte → State → State)
    (hbody : ∀ x r, Sound s r → Sound s (body x r)) :
    Sound s (Machine.rmwOutside ea n op f body t) := by
  unfold Machine.rmwOutside
  split
  · exact h.checkpointFirst ..
  · refine .ite (h.waitAs ..) ?_
    split
    all_goals
      rename_i e
      have h1 := (h.steady (rmwPiece_steady ..)).eq e
    · exact hbody _ _ h1
    · exact h1.accessTrapOutside ..

theorem Sound.returningAtomic (h : Sound s t) (d a b : BitVec 5) (op : Nat) (k : BitVec 2) (sc : BitVec 4) (rd : RegSet) (cmp : Word) :
    Sound s (Machine.returningAtomic d a b op k sc rd cmp t) :=
  h.irrevocableFenced _ _ _ _ _ _ (fun _ hr => hr.rmwOutside _ _ _ _ _ (fun _ _ hr => hr.mapMe ..))

theorem Sound.cleatUpdate (h : Sound s t) (rd : RegSet) (ea : Word) (bad : Option Word) (u : CleatUpd) (scope : Nat) :
    Sound s (Machine.cleatUpdate rd ea bad u scope t) := by
  unfold Machine.cleatUpdate
  split
  · exact .ite h (h.raise ..)
  · exact h.bufferOp ..

theorem Sound.cleatRead (h : Sound s t) (rd wr : RegSet) (ea : Word) (body : Nat → State → State) (hbody : ∀ x r, Sound s r → Sound s (body x r)) :
    Sound s (Machine.cleatRead rd wr ea body t) :=
  h.loadOp _ _ _ _ _ _ _ (fun _ _ hr => hbody _ _ hr)

theorem Sound.withdraw (h : Sound s t) (i : Nat) : Sound s (Machine.withdraw t i) := by
  unfold Machine.withdraw
  dsimp only
  split
  · exact h
  · refine .ite h ?_
    split
    all_goals
      rename_i e
      have h1 := (h.steady (rmwPiece_steady ..)).eq e
      exact h1.mapThread ..

theorem Sound.gbarPoll (h : Sound s t) (ea : Word) (gen : BitVec 32) (k : BitVec 2) (sc : BitVec 4) : Sound s (Machine.gbarPoll ea gen k sc t) := by
  unfold Machine.gbarPoll
  dsimp only
  split
  · exact .ite ((h.withdraw ..).waitAs ..) ((h.withdraw ..).checkpointFirst ..)
  · refine .ite (h.waitAs ..) ?_
    split
    all_goals
      rename_i e
      have h1 := (h.steady (readRange_steady ..)).eq e
    · exact .ite (h1.waitAs ..) (h1.mapMe ..)
    · exact (h1.mapMe ..).accessTrapOutside ..

theorem Lands.execGbar (h : Sound s t) (a b : BitVec 5) (k : BitVec 2) (sc : BitVec 4) : Lands s (Machine.execGbar a b k sc t) := by
  unfold Machine.execGbar
  dsimp only
  refine Sound.lands ?_
  split
  · exact h.gbarPoll ..
  · refine Sound.irrevocableFenced ?_ _ _ _ _ _ _ (fun _ hr => ?_)
    · exact h
    · refine Sound.rmwOutside ?_ _ _ _ _ _ (fun _ _ hr => ?_)
      · exact hr
      · split
        · exact .ite (hr.mapMe ..) (hr.mapMe ..)
        · exact hr.waitAs ..
        · exact hr.raiseOutside ..

theorem Sound.tagWrite (h : Sound s t) (rd : RegSet) (x : Word) (op : BufOp) : Sound s (Machine.tagWrite rd x op t) :=
  h.inBight _ _ _ _ (fun _ hr => .ite (hr.raiseFree ..) (hr.mapMe ..))

theorem Sound.issue (h : Sound s t) (q : Nat) (rd : RegSet) (c : Cmd) (chk : Check) : Sound s (Machine.issue q rd c chk t) := by
  unfold Machine.issue
  dsimp only
  refine .ite h ?_
  refine .ite (h.waitAs ..) ?_
  split
  · exact h.raise ..
  · exact h.raiseFree ..
  · exact h.irrevocable _ _ _ _ (fun _ hr => hr.mapMe ..)

theorem Lands.execCopy2 (h : Sound s t) (a b c : BitVec 5) (x y : BitVec 3) : Lands s (Machine.execCopy2 a b c x y t) := by
  unfold Machine.execCopy2
  dsimp only
  refine Sound.lands ?_
  refine .ite (h.issue ..) ?_
  refine .ite (h.waitAs ..) ?_
  split
  all_goals
    rename_i e
    have h1 := (h.readElement ..).eq e
  · exact h1.issue ..
  · exact .ite (h.issue ..) (h1.accessTrap ..)

theorem Sound.rowForm (h : Sound s t) (i : Instr) (a : BitVec 5) : Sound s (Machine.rowForm i a t) :=
  h.issue ..

theorem Sound.rowWindowForm (h : Sound s t) (i : Instr) (a b : BitVec 5) : Sound s (Machine.rowWindowForm i a b t) :=
  h.issue ..

theorem Sound.pushForm (h : Sound s t) (e : Nat) (rd : RegSet) (beat : Beat) : Sound s (Machine.pushForm e rd beat t) := by
  unfold Machine.pushForm
  dsimp only
  refine .ite h ?_
  split
  · exact h.raise ..
  · exact .ite (h.raiseFree ..) (h.mapMe ..)

theorem Sound.popForm (h : Sound s t) (e : Nat) (wr : RegSet) (put : Beat → Thread → Thread) (empty : Option (Thread → Thread)) :
    Sound s (Machine.popForm e wr put empty t) := by
  unfold Machine.popForm
  refine .ite h ?_
  split
  · exact h.raise ..
  · split
    · exact h.raise ..
    · split
      · exact .ite (h.meetMarker ..) (.ite (h.raiseFree ..) (h.mapMe ..))
      · split
        · exact h.mapMe ..
        · exact .ite (h.raiseFree ..) (h.waitAs ..)

theorem Sound.sysReturn (h : Sound s t) (re : Bool) : Sound s (Machine.sysReturn t re) := by
  unfold Machine.sysReturn
  dsimp only
  split
  · exact .ite (.ite ((h.setMe ..).deliver ..) (h.setMe ..)) (h.setMe ..)
  · exact h.setMe ..

theorem Sound.sysret (h : Sound s t) (re : Bool) : Sound s (Machine.sysret re t) := by
  unfold Machine.sysret
  refine .ite (h.raiseFree ..) ?_
  split
  all_goals
    rename_i e
    have h1 := (h.knot ..).knotted e
  · exact h1
  · exact (h1.sysReturn ..).post ..

theorem Sound.systemOp (h : Sound s t) (rd wr : RegSet) (pre : Option (Nat × Word)) (body : State → State)
    (hbody : ∀ r, Sound s r → Sound s (body r)) :
    Sound s (Machine.systemOp rd wr pre body t) :=
  .ite (h.raiseFree ..) (h.inBight _ _ _ _ (fun _ hr => hbody _ hr))

theorem Sound.dropTlb (h : Sound s t) (drop : TlbEntry → Bool) : Sound s (Machine.dropTlb t drop) :=
  h.beside rfl

theorem Sound.requestWave (h : Sound s t) (v : Word) : Sound s (Machine.requestWave t v).1 := by
  unfold Machine.requestWave
  split
  · split
    · exact h
    · split
      · exact h
      · exact h.steady (openForced_steady ..)
  · exact h

theorem Sound.dropBlocks (h : Sound s t) (p : Block → Bool) : Sound s (Machine.dropBlocks t p) :=
  h.foldl (fun _ _ hr => hr.steady (dropBlock_steady ..)) _

theorem Sound.thawGraph (h : Sound s t) (k : Nat) : Sound s (Machine.thawGraph t k) := by
  unfold Machine.thawGraph
  dsimp only
  refine .ite h ?_
  split
  · exact (h.mapGraph ..).trigger ..
  · exact h.mapGraph ..

theorem Sound.freezeGraph (h : Sound s t) (k : Nat) (by_ : Option Nat) : Sound s (Machine.freezeGraph t k by_) :=
  .ite h (h.mapGraph ..)

theorem Sound.freezeOp (h : Sound s t) (off : Bool) (d a : BitVec 5) : Sound s (Machine.freezeOp off d a t) := by
  unfold Machine.freezeOp
  dsimp only
  refine Sound.systemOp ?_ _ _ _ _ (fun _ hr => ?_)
  · exact h
  · split
    · exact (Sound.ite (hr.thawGraph ..) (hr.freezeGraph ..)).mapMe ..
    · exact hr.mapMe ..

theorem Lands.execGraphctlTerm (h : Sound s t) (d a : BitVec 5) : Lands s (Machine.execGraphctlTerm d a t) := by
  unfold Machine.execGraphctlTerm
  dsimp only
  refine Sound.lands ?_
  refine Sound.systemOp ?_ _ _ _ _ (fun _ hr => ?_)
  · exact h
  · split
    · exact .ite (hr.ended (endGraph_ended ..)) ((hr.ended (endGraph_ended ..)).mapMe ..)
    · exact hr.mapMe ..

theorem Lands.execEngineTrapPoint (h : Sound s t) (th : Nat) : Lands s (Machine.execEngineTrapPoint th t) := by
  unfold Machine.execEngineTrapPoint
  dsimp only
  refine Sound.lands ?_
  refine .ite (.ite (h.withdraw ..) h) ?_
  split
  · exact ((Sound.ite (h.withdraw ..) h).mapThread ..).deliver ..
  · exact ((Sound.ite (h.withdraw ..) h).mapThread ..).deliver ..
  · refine .ite (.ite (h.withdraw ..) h) ?_
    split
    · exact ((Sound.ite (h.withdraw ..) h).mapThread ..).deliver ..
    · exact ((Sound.ite (h.withdraw ..) h).mapThread ..).deliver ..
    · exact .ite (h.withdraw ..) h

theorem Lands.execHeldFault (h : Sound s t) (th : Nat) : Lands s (Machine.execHeldFault th t) := by
  unfold Machine.execHeldFault
  refine Sound.lands ?_
  refine .ite h ?_
  split
  · exact h
  · split
    · exact h.ended (endGraph_ended ..)
    · exact .ite h (h.mapThread ..)

end Sys2Proof.Machine
end

section
/-! PROOF. That every action keeps every memory: what a graph restores, the markers of its wave, and its rollback (R418 to R420). -/

namespace Sys2Proof.Machine
open Sys2Proof.Safety
variable {s t : State}

theorem Sound.retryLater (h : Sound s t) (tile e : Nat) : Sound s (Machine.retryLater t tile e) :=
  h.steady (mapEng_steady ..)

theorem Sound.retryOrdered (h : Sound s t) (tile e n : Nat) : Sound s (Machine.retryOrdered tile e n t) := by
  induction n generalizing t with
  | zero => exact h
  | succ n ih =>
    unfold Machine.retryOrdered
    dsimp only
    split
    · exact h
    · refine .ite ?_ ?_
      · exact (((h.steady (mapEng_steady ..)).steady (elemFaults_steady ..)).steady (engHold_steady ..)).steady (mapEng_steady ..)
      · refine .ite ?_ ?_
        · exact (((h.steady (mapEng_steady ..)).steady (elemFaults_steady ..)).steady (mapEng_steady ..)).retryLater ..
        · refine .ite (ih ?_) ?_
          all_goals
            refine .ite ?_ ?_
            · exact ((h.steady (mapEng_steady ..)).steady (elemFaults_steady ..)).steady (sendLine_steady ..)
            · exact ((h.steady (mapEng_steady ..)).steady (elemFaults_steady ..)).steady (accElem_steady ..)

theorem Sound.retrySpill {s : State} {tile e : Nat} {acc : State × List Spilled} (h : Sound s acc.1) (p : Spilled) :
    Sound s (Machine.retrySpill tile e acc p).1 := by
  unfold Machine.retrySpill
  split
  · exact h.retryLater ..
  · split
    all_goals
      rename_i e
      have h1 := (h.steady (accElem_steady ..)).eq e
    · exact h1
    · exact h1.steady (engHold_steady ..)

theorem Sound.readCell (h : Sound s t) (tile e : Nat) (ea : Word) (w : Nat) : Sound s (Machine.readCell t tile e ea w).1 := by
  unfold Machine.readCell
  split
  all_goals
    rename_i e
    have h1 := (h.steady (readRange_steady ..)).eq e
  · exact h1
  · exact h1
  · exact h1.steady (engPoison_steady ..)
  · exact h1

theorem Sound.retryCell {s : State} {tile e : Nat} {acc : State × List Cell} (h : Sound s acc.1) (c : Cell) :
    Sound s (Machine.retryCell tile e acc c).1 := by
  unfold Machine.retryCell
  split
  · exact h
  · dsimp only
    split
    · exact h.retryLater ..
    · have h1 := h.readCell tile e c.ea (Scb.ew ((acc.1.tile tile).engine e).scb.toNat)
      exact .ite (h1.steady (engHold_steady ..)) h1

theorem Sound.retryRead (h : Sound s t) (tile e : Nat) : Sound s (Machine.retryRead t tile e) := by
  unfold Machine.retryRead
  refine Sound.steady (.foldl_fst (.foldl_fst h (fun _ _ hr => ?_) _) (fun _ c hr => hr.retryCell c) _) (mapEng_steady ..)
  exact hr.foldl_fst (fun _ c hr => hr.retryCell c) _

theorem Sound.retrySpills (h : Sound s t) (tile e : Nat) : Sound s (Machine.retrySpills t tile e) :=
  .ite (h.steady (mapEng_steady ..)) (.ite (.ite ((h.steady (mapEng_steady ..)).retryOrdered ..)
    ((((h.steady (mapEng_steady ..)).steady (mapEng_steady ..)).foldl_fst (fun _ _ hr => hr.retrySpill ..) _).steady (mapEng_steady ..)))
    ((h.steady (mapEng_steady ..)).retryRead ..))

theorem Lands.execFrameCapture (h : Sound s t) (tile : Nat) (addr : BitVec 32) (frame : BitVec 256) :
    Lands s (Machine.execFrameCapture tile addr frame t) := by
  unfold Machine.execFrameCapture
  dsimp only
  refine Sound.lands ?_
  split
  · exact h
  · exact .ite h (h.mapTile ..)

theorem Sound.claimAll (h : Sound s t) (tile k : Nat) : Sound s (Machine.claimAll t tile k) := by
  unfold Machine.claimAll
  dsimp only
  exact ((h.beside (by rfl)).foldl (fun _ _ hr => hr.mapPort ..) _).mapTile ..

theorem Sound.endLoad (h : Sound s t) (part k : Nat) (tiles : List Nat) (bad : Bool) : Sound s (Machine.endLoad t part k tiles bad) :=
  .ite (h.foldl (fun _ _ hr => hr.mapTile ..) _) ((h.foldl (fun _ _ hr => hr.mapTile ..) _).foldl (fun _ _ hr => hr.claimAll ..) _)

theorem Sound.queueWrite (h : Sound s t) (part q off v : Nat) : Sound s (Machine.queueWrite t part q off v) :=
  h.steady (sysWriteOrDrop_steady ..)

theorem Sound.mapCounts (h : Sound s t) (part q : Nat) (f : Nat × Nat × Nat → Nat × Nat × Nat) : Sound s (Machine.mapCounts t part q f) :=
  h.mapPart _ (fun _ => by rfl)

theorem Sound.failLoad (h : Sound s t) (k : Nat) : Sound s (Machine.failLoad t k) :=
  ((h.mapCounts ..).queueWrite ..).ended (endGraph_ended ..)

theorem Sound.readKept (h : Sound s t) (x : Graph) (sn : Snap) : Sound s (Machine.readKept t x sn) :=
  h.foldl (fun _ _ hr => hr.foldl (fun _ _ hr => hr.steady (readSector_steady ..)) _) _

theorem Sound.fuse (h : Sound s t) (g : Region) : Sound s (Machine.fuse t g) :=
  (h.foldl (fun _ _ hr => hr.mapTile ..) _).beside rfl

theorem Sound.refuse (h : Sound s t) (g : Nat) (sn : Snap) : Sound s (Machine.refuse g sn t) :=
  (h.foldl (fun _ _ hr => hr.fuse ..) _).beside rfl

theorem Sound.dropFetched (h : Sound s t) (tile : Nat) (hit : Nat → Bool) : Sound s (Machine.dropFetched t tile hit) :=
  h.mapTile ..

theorem Sound.restoreMemory (h : Sound s t) (g : Nat) (x : TileSnap) : Sound s (Machine.restoreMemory g x t) :=
  h.writes
    (fun m => ⟨Memory.wf_foldl_write _ _ _ _ (Memory.wf_filter _ _ m.1), m.2⟩) rfl

theorem Sound.coilWrite (h : Sound s t) (tile g j : Nat) (b : Beat) : Sound s (Machine.coilWrite t tile g j b) :=
  ((h.writeVault ..).setSector ..).setSector ..

theorem Sound.coilActivate (h : Sound s t) (tile g j : Nat) (first : Bool) : Sound s (Machine.coilActivate t tile g j first) :=
  .ite h (h.mapTile ..)

theorem Sound.coilPut (h : Sound s t) (tile g e : Nat) (b : Beat) : Sound s (Machine.coilPut t tile g e b) := by
  unfold Machine.coilPut
  dsimp only
  exact ((h.coilWrite ..).coilActivate ..).mapTile ..

theorem Sound.restoreCoil (h : Sound s t) (g tile e : Nat) : Sound s (Machine.restoreCoil g tile t e) :=
  .ite (.ite h (h.foldl (fun _ _ hr => hr.coilWrite ..) _)) ((Sound.ite h (h.mapTile ..)).foldl (fun _ _ hr => hr.coilPut ..) _)

theorem Sound.restoreTile (h : Sound s t) (g : Nat) (sn : Snap) (x : TileSnap) : Sound s (Machine.restoreTile g sn t x) :=
  ((h.restoreMemory ..).mapTile ..).foldl (fun _ _ hr => hr.restoreCoil ..) _

theorem Sound.loadedImage (h : Sound s t) (part : Nat) (hwin : Word) (img : List Byte) : Sound s (State.loadedImage t part hwin img) :=
  .ite (h.beside (by rfl)) h

theorem Sound.writeWindow (h : Sound s t) (hwin : Word) (img : List Byte) (tile : Nat) : Sound s (Machine.writeWindow hwin img t tile) :=
  .ite h ((h.dropFetched ..).steady (tmemWrite_steady ..))

theorem Sound.restoreMine (h : Sound s t) (ti k : Nat) : Sound s (Machine.restoreMine ti k t) := by
  unfold Machine.restoreMine
  dsimp only
  split
  all_goals exact .ite h (h.mapTile ..)

theorem Sound.restorePermits (h : Sound s t) (g ti : Nat) : Sound s (Machine.restorePermits g t ti) :=
  h.foldl (fun _ _ hr => (hr.restoreMine ..).foldl (fun _ _ hr => hr.mapTile ..) _) _

theorem Sound.limitTrap (h : Sound s t) (i cause : Nat) (pc : PC) : Sound s (Machine.limitTrap t i cause pc) :=
  h.deliver ..

theorem Sound.limitReached (h : Sound s t) (c : Nat × Ckpt) : Sound s (Machine.limitReached t c) := by
  unfold Machine.limitReached
  split
  · exact h.limitTrap ..
  · exact h

theorem Sound.restore (h : Sound s t) (g : Nat) (sn : Snap) : Sound s (Machine.restore t g sn) :=
  ((((((((h.refuse ..).foldl (fun _ _ hr => hr.restoreTile ..) _).foldl (fun _ _ hr => hr.writeWindow ..) _).loadedImage ..).foldl
    (fun _ _ hr => hr.restorePermits ..) _).foldl (fun _ _ hr => hr.mapThread ..) _).beside (by rfl)).mapGraph ..).foldl
    (fun _ _ hr => hr.limitReached ..) _

theorem Sound.copyKept (h : Sound s t) (x : Graph) (n : BitVec 16) (k : TileSnap) : Sound s (Machine.copyKept x n t k) :=
  .ite h (h.foldl (fun _ _ hr => (hr.writeShadow ..).foldl (fun _ _ hr => hr.setSector ..) _) _)

theorem Sound.tryRestore (h : Sound s t) (g : Nat) (sn : Snap) : Sound s (Machine.tryRestore t g sn) := by
  unfold Machine.tryRestore
  dsimp only
  split
  · exact ((h.readKept ..).steady (record_steady ..)).ended (endGraph_ended ..)
  · exact (((h.readKept ..).foldl (fun _ _ hr => hr.copyKept ..) _).restore ..).mapGraph ..

theorem Sound.mapPending (h : Sound s t) (g : Nat) (f : Snap → Snap) : Sound s (Machine.mapPending t g f) :=
  h.mapGraph ..

theorem Sound.expireAtU (h : Sound s t) (cause : Nat) (n : BitVec 16) (i : Nat) : Sound s (Machine.expireAtU cause n t i) :=
  .ite ((h.mapThread ..).checkpoint ..) (.ite ((h.setThread ..).checkpoint ..)
    (.ite (((h.setThread ..).checkpoint ..).limitTrap ..) (((h.setThread ..).checkpoint ..).mapPending ..)))

theorem Sound.preempt (h : Sound s t) (n : BitVec 16) (i : Nat) : Sound s (Machine.preempt n t i) := by
  unfold Machine.preempt
  dsimp only
  refine .ite h ?_
  split
  all_goals
    rename_i e
    have h1 := ((h.withdraw ..).performed ..).eq e
  · exact h1
  · exact .ite h1 (h1.expireAtU ..)

theorem Sound.cutWave (h : Sound s t) (g : Nat) : Sound s (Machine.cutWave t g) := by
  unfold Machine.cutWave
  dsimp only
  split
  · exact ((h.mapGraph ..).steady (openForced_steady ..)).foldl (fun _ _ hr => hr.preempt ..) _
  · exact (h.mapGraph ..).steady (openForced_steady ..)

theorem Sound.cutAtStart (h : Sound s t) (k : Nat) : Sound s (Machine.cutAtStart t k) :=
  .ite (h.cutWave ..) h

theorem Sound.graphTrap (h : Sound s t) (k code : Nat) (val : Word) : Sound s (Machine.graphTrap t k code val) := by
  unfold Machine.graphTrap
  split
  · exact .ite (h.ended (endGraph_ended ..)) (h.mapThread ..)
  · exact h.ended (endGraph_ended ..)

theorem Sound.finishRestore (h : Sound s t) (k : Nat) (sn : Snap) : Sound s (Machine.finishRestore t k sn) :=
  .ite (h.tryRestore ..) ((((((h.tryRestore ..).foldl (fun _ _ hr => hr.mapThread ..) _).mapGraph ..).statusBlock ..).foldl
    (fun _ _ hr => hr.graphTrap ..) _).cutAtStart ..)

theorem Sound.autoStart (h : Sound s t) (i e : Nat) : Sound s (Machine.autoStart t i e) := by
  unfold Machine.autoStart
  dsimp only
  split
  all_goals
    rename_i e
    have h1 := (h.steady (readRange_steady ..)).eq e
  · split
    · exact h1.mapThread ..
    · exact h1.draw.mapThread ..
    · exact h1.mapTile ..
  · exact (Sound.ite (h1.steady (poisonRecord_steady ..)) h1).mapThread ..

theorem Sound.autoStarts (h : Sound s t) (i : Nat) : Sound s (Machine.autoStarts t i) :=
  .ite h (h.foldl (fun _ _ hr => hr.autoStart ..) _)

theorem Sound.enterRunning (h : Sound s t) (k : Nat) : Sound s (Machine.enterRunning t k) :=
  ((Sound.ite (((h.mapGraph ..).foldl (fun _ _ hr => hr.autoStarts ..) _).mapGraph ..)
    ((h.mapGraph ..).foldl (fun _ _ hr => hr.autoStarts ..) _)).statusBlock ..).cutAtStart ..

theorem Lands.execLoadingComplete (h : Sound s t) (graph : Nat) : Lands s (Machine.execLoadingComplete graph t) := by
  unfold Machine.execLoadingComplete
  dsimp only
  refine Sound.lands ?_
  refine .ite h ?_
  refine .ite ((h.foldl (fun _ _ hr => hr.endLoad ..) _).failLoad ..) ?_
  refine .ite ?_ ?_
  · refine Sound.trigger ?_ ..
    split
    · exact (h.foldl (fun _ _ hr => hr.endLoad ..) _).finishRestore ..
    · exact (h.foldl (fun _ _ hr => hr.endLoad ..) _).enterRunning ..
  · split
    · exact (h.foldl (fun _ _ hr => hr.endLoad ..) _).finishRestore ..
    · exact (h.foldl (fun _ _ hr => hr.endLoad ..) _).enterRunning ..

theorem Sound.markSlot (h : Sound s t) (g tile j : Nat) (n : BitVec 16) : Sound s (Machine.markSlot t g tile j n) :=
  .ite h (h.foldl (fun _ _ hr => hr.snapEps ..) _)

theorem Sound.recordLate (h : Sound s t) (g tile e : Nat) (b : Beat) : Sound s (Machine.recordLate t g tile e b) := by
  unfold Machine.recordLate
  split
  · exact .ite h (h.mapPending ..)
  · exact h

theorem Sound.closeEp (h : Sound s t) (g tile e : Nat) (n : BitVec 16) : Sound s (Machine.closeEp t g tile e n) := by
  unfold Machine.closeEp
  dsimp only
  exact (h.mapPending ..).mapTile ..

theorem Sound.closeDirect (h : Sound s t) (g tile : Nat) (n : BitVec 16) (e : Nat) : Sound s (Machine.closeDirect g tile n t e) := by
  unfold Machine.closeDirect
  dsimp only
  exact ((h.foldl (fun _ _ hr => hr.recordLate ..) _).closeEp ..).mapTile ..

theorem Sound.putMarker (h : Sound s t) (tile e : Nat) (n : BitVec 16) : Sound s (Machine.putMarker t tile e n) :=
  h.mapTile ..

theorem Sound.nodeMarker (h : Sound s t) (n : BitVec 16) (tile nd f j : Nat) : Sound s (Machine.nodeMarker n tile nd f t j) :=
  .ite (h.mapTile ..) (h.putMarker ..)

theorem Sound.markNode (h : Sound s t) (g tile k nd : Nat) (n : BitVec 16) : Sound s (Machine.markNode t g tile k nd n) :=
  .ite (.ite (h.foldl (fun _ _ hr => hr.closeDirect ..) _) ((h.foldl (fun _ _ hr => hr.closeDirect ..) _).mapTile ..))
    (.ite h ((((h.snapEps ..).mapPending ..).mapTile ..).foldl (fun _ _ hr => hr.nodeMarker ..) _))

theorem Sound.markEngine (h : Sound s t) (g tile k e : Nat) (n : BitVec 16) : Sound s (Machine.markEngine t g tile k e n) :=
  .ite h (.ite (h.steady (sendLines_steady ..)) (.ite ((((((h.steady (sendLines_steady ..)).snapEps ..).mapTile ..).mapPending ..).foldl
    (fun _ _ hr => hr.putMarker ..) _).putMarker ..) (((((h.steady (sendLines_steady ..)).snapEps ..).mapTile ..).mapPending ..).foldl
    (fun _ _ hr => hr.putMarker ..) _)))

theorem Sound.latchOver (h : Sound s t) (g k lead : Nat) (tiles feeders : List Nat) (n : BitVec 16) :
    Sound s (Machine.latchOver t g k lead tiles feeders n) :=
  (h.foldl (fun _ _ hr => .ite hr ((hr.snapEps ..).mapTile ..)) _).mapPending ..

theorem Sound.latchTry (h : Sound s t) (g tile k : Nat) (n : BitVec 16) : Sound s (Machine.latchTry t g tile k n) := by
  unfold Machine.latchTry
  dsimp only
  split
  all_goals exact .ite h (h.latchOver ..)

theorem Sound.markFeed (h : Sound s t) (g tile k : Nat) (n : BitVec 16) : Sound s (Machine.markFeed t g tile k n) :=
  .ite h ((h.snapEps ..).mapTile ..)

theorem Sound.markDrain (h : Sound s t) (g tile k : Nat) (n : BitVec 16) : Sound s (Machine.markDrain t g tile k n) := by
  unfold Machine.markDrain
  dsimp only
  refine .ite h ?_
  split
  · exact (h.mapTile ..).putMarker ..
  · exact h.mapTile ..

theorem Sound.markStep (h : Sound s t) (g tile k kind unit : Nat) : Sound s (Machine.markStep t g tile k kind unit) := by
  unfold Machine.markStep
  split
  · exact h
  · refine .ite h ?_
    split
    · exact .ite (h.markNode ..) h
    · exact .ite (h.markEngine ..) h
    · exact .ite ((h.markFeed ..).latchTry ..) h
    · exact .ite (h.markDrain ..) h
    · exact h

theorem Lands.execMarkerArrival (h : Sound s t) (tile kind unit : Nat) : Lands s (Machine.execMarkerArrival tile kind unit t) := by
  unfold Machine.execMarkerArrival
  dsimp only
  refine Sound.lands ?_
  refine Sound.foldl ?_ (fun _ _ hr => ?_) _
  · exact h
  · refine .ite ?_ ?_
    · split
      · exact .ite hr (hr.markSlot ..)
      · exact hr
    · exact hr.foldl (fun _ _ hr => hr.markStep ..) _

theorem Sound.applyUndo (h : Sound s t) (g home : Nat) : Sound s (Machine.applyUndo g t home) := by
  unfold Machine.applyUndo
  exact (h.foldl (fun _ _ hr =>
    ((hr.writeVault ..).foldl (fun _ _ hr => hr.setSector ..) _).steady (signalLine_steady ..)) _).mapHome ..

theorem Sound.unwind (h : Sound s t) (g : Nat) : Sound s (Machine.unwind t g) :=
  ((h.beside (by rfl)).steady (dropEgress_steady ..)).foldl (fun _ _ hr => hr.applyUndo ..) _

theorem Sound.rollFrames (h : Sound s t) (g : Nat) (sn : Snap) (ti : Nat) : Sound s (Machine.rollFrames g sn t ti) :=
  h.foldl (fun _ _ hr => hr.mapTile ..) _

theorem Sound.rollBack (h : Sound s t) (g : Nat) (sn : Snap) : Sound s (Machine.rollBack t g sn) :=
  .ite (.ite ((h.unwind ..).ended (endGraph_ended ..)) (((((h.unwind ..).draw.mapGraph ..).statusBlock ..).ended (releaseGraph_ended ..)).mapPart _
    (fun _ => by rfl))) (.ite ((((h.unwind ..).mapGraph ..).foldl (fun _ _ hr => hr.rollFrames ..) _).tryRestore ..)
    (.ite ((((((h.unwind ..).mapGraph ..).foldl (fun _ _ hr => hr.rollFrames ..) _).tryRestore ..).draw.graphTrap ..).cutWave ..)
    (((((h.unwind ..).mapGraph ..).foldl (fun _ _ hr => hr.rollFrames ..) _).tryRestore ..).draw.graphTrap ..)))

theorem Lands.execRollback (h : Sound s t) (g cause : Nat) : Lands s (Machine.execRollback g cause t) := by
  unfold Machine.execRollback
  dsimp only
  refine Sound.lands ?_
  refine .ite h ?_
  refine .ite (h.mapGraph ..) ?_
  split
  · exact .ite (h.ended (endGraph_ended ..)) (((h.steady (record_steady ..)).mapGraph ..).rollBack ..)
  · exact h.ended (endGraph_ended ..)

theorem Lands.execElementFault (h : Sound s t) (tile kind unit code : Nat) : Lands s (Machine.execElementFault tile kind unit code t) := by
  unfold Machine.execElementFault
  dsimp only
  refine Sound.lands ?_
  split
  · exact h
  · exact ((h.mapTile ..).steady (record_steady ..)).trigger ..

end Sys2Proof.Machine
end

section
/-! PROOF. That every action keeps every memory: the dispatcher, the end of graphs and waves, and the fabric ports (R386 to R410, R464). -/

namespace Sys2Proof.Machine
open Sys2Proof.Safety
variable {s t : State}

theorem Sound.noteBytes (h : Sound s t) (part : Nat) (ea : Word) (n : Nat) : Sound s (Machine.noteBytes t part ea n) :=
  h.foldl (fun _ _ hr => hr.steady (noteRead_steady ..)) _

theorem Sound.noteSegs (h : Sound s t) (part n : Nat) (ea : Word) : Sound s (Machine.noteSegs t part n ea) := by
  induction n generalizing t ea with
  | zero => exact h
  | succ n ih =>
    unfold Machine.noteSegs
    dsimp only
    split
    · exact h.noteBytes ..
    · exact .ite (h.noteBytes ..) (ih ((h.noteBytes ..).noteBytes ..) _)

theorem Sound.noteImage (h : Sound s t) (part : Nat) (ea : Word) : Sound s (Machine.noteImage t part ea) := by
  unfold Machine.noteImage
  dsimp only
  split
  · exact h.noteBytes ..
  · exact .ite (h.noteBytes ..) ((((h.noteBytes ..).noteBytes ..).noteSegs ..).noteBytes ..)

theorem Sound.noteHeads (h : Sound s t) (part : Nat) : Sound s (Machine.noteHeads t part) := by
  unfold Machine.noteHeads
  dsimp only
  refine .ite h ?_
  refine Sound.foldl ?_ (fun _ _ hr => ?_) _
  · exact .ite (h.noteBytes ..) h
  · refine .ite hr ?_
    split
    · exact (hr.noteBytes ..).noteImage ..
    · exact hr.noteBytes ..

theorem Sound.noteAge (h : Sound s t) (q now part i : Nat) : Sound s (Machine.noteAge q now t part i) := by
  unfold Machine.noteAge
  dsimp only
  exact h.mapPart _ (fun _ => by rfl)

theorem Sound.dropReserve (h : Sound s t) (part : Nat) : Sound s (Machine.dropReserve t part) := by
  unfold Machine.dropReserve
  split
  · exact .ite (h.mapPart _ (fun _ => by rfl)) h
  · exact h

theorem Sound.newGraph (h : Sound s t) (part : Nat) (g : Graph) : Sound s (State.newGraph t part g).2 := by
  unfold State.newGraph
  dsimp only
  exact (h.beside (by rfl)).mapPart _ (fun _ => by rfl)

theorem Sound.takeRecord (h : Sound s t) (part q : Nat) (admitted : Bool) : Sound s (Machine.takeRecord t part q admitted) := by
  unfold Machine.takeRecord
  dsimp only
  exact (Sound.ite ((((h.mapCounts ..).queueWrite ..).queueWrite ..).queueWrite ..)
    ((((h.mapCounts ..).queueWrite ..).queueWrite ..).queueWrite ..)).mapPart _ (fun _ => by rfl)

theorem Sound.failRecord (h : Sound s t) (part : Nat) (x : Nat × BitVec 2048) : Sound s (Machine.failRecord part t x) :=
  ((h.draw.takeRecord ..).newGraph ..).ended (endGraph_ended ..)

theorem Sound.dropHopeless (h : Sound s t) (part k : Nat) : Sound s (Machine.dropHopeless part t k) := by
  unfold Machine.dropHopeless
  split
  · exact .ite h (h.ended (endGraph_ended ..))
  · exact h

theorem Sound.takeShadow (h : Sound s t) (k : Nat) (at_ : Nat × Nat) : Sound s (Machine.takeShadow k t at_) := by
  unfold Machine.takeShadow
  dsimp only
  split
  · exact h.mapGraph ..
  · exact h

theorem Sound.startThread (h : Sound s t) (k : Nat) (c : Cand) (ks : List Nat) (t' : Nat × Nat × Nat) (n : Nat) (x : Nat × Nat × Nat × Nat) :
    Sound s (Machine.startThread t k c ks t' n x) :=
  h.setThread ..

theorem Sound.takeTiles (h : Sound s t) (k : Nat) (c : Cand) (o : Nat × Nat) (ks : List Nat) : Sound s (Machine.takeTiles t k c o ks) :=
  h.foldl (fun _ _ hr => (hr.mapTile ..).foldl (fun _ _ hr => hr.startThread ..) _) _

theorem Sound.sendFrames (h : Sound s t) (k : Nat) (i : Image) : Sound s (Machine.sendFrames t k i) :=
  h.beside rfl

theorem Sound.admitCut (h : Sound s t) (part k : Nat) (c : Cand) (o : Nat × Nat) (ks : List Nat) : Sound s (Machine.admitCut t part k c o ks) :=
  (((((h.beside (by rfl)).takeTiles ..).foldl (fun _ _ hr => hr.takeShadow ..) _).mapPart _ (fun _ => by rfl)).statusBlock ..).sendFrames ..

theorem Sound.clearSlots (h : Sound s t) (i : Image) (x : Nat × Nat × Nat) : Sound s (Machine.clearSlots i t x) :=
  h.writes (fun m => ⟨Memory.wf_filter _ _ m.1, m.2⟩) rfl

theorem Sound.writeSegs (h : Sound s t) (i : Image) (t' : Nat × Nat × Nat) : Sound s (Machine.writeSegs i t t') :=
  h.foldl (fun _ _ hr => hr.steady (tmemWrite_steady ..)) _

theorem Sound.admitRecord (h : Sound s t) (part : Nat) (c : Cand) (o : Nat × Nat) (ks : List Nat) : Sound s (Machine.admitRecord t part c o ks) :=
  (((((((((h.takeRecord ..).newGraph ..).takeTiles ..).foldl (fun _ _ hr => hr.takeShadow ..) _).foldl (fun _ _ hr => hr.clearSlots ..) _).foldl
    (fun _ _ hr => hr.writeSegs ..) _).foldl (fun _ _ hr => hr.writeWindow ..) _).loadedImage ..).steady (writeStatus_steady ..)).sendFrames ..

theorem Sound.admitHead (h : Sound s t) (part : Nat) (c : Cand) (o : Nat × Nat) (ks : List Nat) : Sound s (Machine.admitHead t part c o ks) := by
  unfold Machine.admitHead
  refine Sound.mapPart ?_ _ (fun _ => by rfl)
  split
  · exact .ite ((h.admitCut ..).failLoad ..) (h.admitCut ..)
  · exact h.admitRecord ..

theorem Sound.bypassed (h : Sound s t) (part : Nat) (c : Cand) : Sound s (Machine.bypassed part t c) :=
  .ite ((h.mapPart _ (fun _ => by rfl)).queueWrite ..) (h.mapPart _ (fun _ => by rfl))

theorem Sound.reserveNext (h : Sound s t) (part : Nat) (cs : List Cand) : Sound s (Machine.reserveNext t part cs) := by
  unfold Machine.reserveNext
  refine .ite h ?_
  split
  · exact h.mapPart _ (fun _ => by rfl)
  · exact h

theorem Sound.cutGraph (h : Sound s t) (k : Nat) : Sound s (Machine.cutGraph t k) :=
  .ite h (.ite (h.mapGraph ..) (.ite h (.ite (h.mapGraph ..) (h.cutWave ..))))

theorem Sound.pressureRule (h : Sound s t) (part : Nat) (c : Cand) : Sound s (Machine.pressureRule t part c) := by
  unfold Machine.pressureRule
  dsimp only
  refine .ite h ?_
  split
  · exact (h.cutGraph ..).mapPart _ (fun _ => by rfl)
  · exact h

theorem Sound.evaluate (h : Sound s t) (part : Nat) : Sound s (Machine.evaluate t part) := by
  unfold Machine.evaluate
  extract_lets t0 t1 t2 t3 cs
  have h1 : Sound s t1 := ((h.noteHeads ..).dropReserve ..).foldl (fun _ _ hr => .ite hr (hr.noteAge ..)) _
  have h3 : Sound s t3 := (h1.foldl (fun _ _ hr => hr.failRecord ..) _).foldl (fun _ _ hr => hr.dropHopeless ..) _
  split
  · dsimp only
    split
    · exact .ite (((h3.foldl (fun _ _ hr => hr.bypassed ..) _).admitHead ..).reserveNext ..)
        ((((h3.foldl (fun _ _ hr => hr.bypassed ..) _).admitHead ..).reserveNext ..).pressureRule ..)
    · exact ((h3.foldl (fun _ _ hr => hr.bypassed ..) _).admitHead ..).reserveNext ..
  · split
    · exact (h3.reserveNext ..).pressureRule ..
    · exact h3.reserveNext ..

theorem Lands.execGraphRetire (h : Sound s t) (graph : Nat) : Lands s (Machine.execGraphRetire graph t) :=
  (Sound.ite (h.ended (endGraph_ended ..)) h).lands

theorem Lands.execContextSwitch (h : Sound s t) (part : Nat) : Lands s (Machine.execContextSwitch part t) := by
  unfold Machine.execContextSwitch
  dsimp only
  refine Sound.lands ?_
  split
  · exact h
  · exact .ite h (((h.mapPart _ (fun _ => by rfl)).readEntries ..).foldl (fun _ _ hr => hr.foldl (fun _ _ hr => hr.mapThread ..) _) _)

theorem Sound.drainCodec (h : Sound s t) : Sound s (Machine.drainCodec t) :=
  h.foldl (fun _ _ hr => hr.steady (drainLine_steady ..)) _

theorem Sound.drainGraph (h : Sound s t) (g : Nat) (n : BitVec 16) : Sound s (Machine.drainGraph t g n) :=
  h.foldl (fun _ _ hr => hr.steady (drainLine_steady ..)) _

theorem Sound.waveEncode (h : Sound s t) (g : Nat) (b : Block) : Sound s (Machine.waveEncode g t b) :=
  .ite h ((h.steady (encodeBlock_steady ..)).mapHome ..)

theorem Sound.freeSpent (h : Sound s t) (g : Nat) : Sound s (Machine.freeSpent t g) :=
  h.foldl (fun _ _ hr => hr.mapTile ..) _

theorem Sound.releaseEgress (h : Sound s t) (g : Nat) (n : BitVec 16) : Sound s (Machine.releaseEgress t g n) :=
  (h.steady (sendHeld_steady ..)).beside rfl

theorem Sound.dropUndo (h : Sound s t) (g : Nat) (n : BitVec 16) : Sound s (Machine.dropUndo t g n) :=
  h.beside rfl

theorem Sound.settleHeld (h : Sound s t) (g : Nat) : Sound s (Machine.settleHeld t g) :=
  (h.beside (by rfl)).foldl (fun _ _ hr => hr.steady (settleSnap_steady ..)) _

theorem Sound.cutDone (h : Sound s t) (g : Nat) : Sound s (Machine.cutDone t g) := by
  unfold Machine.cutDone
  dsimp only
  exact ((((h.settleHeld ..).mapGraph ..).statusBlock ..).ended (releaseGraph_ended ..)).mapPart _ (fun _ => by rfl)

theorem Sound.recordWave (h : Sound s t) (g : Nat) (n : BitVec 16) : Sound s (Machine.recordWave t g n) :=
  .ite ((((((h.foldl (fun _ _ hr => hr.waveEncode ..) _).mapGraph ..).dropUndo ..).releaseEgress ..).freeSpent ..).cutDone ..)
    (.ite ((((((h.foldl (fun _ _ hr => hr.waveEncode ..) _).mapGraph ..).dropUndo ..).releaseEgress ..).freeSpent ..).cutWave ..)
    (((((h.foldl (fun _ _ hr => hr.waveEncode ..) _).mapGraph ..).dropUndo ..).releaseEgress ..).freeSpent ..))

theorem Lands.execWaveComplete (h : Sound s t) (g : Nat) : Lands s (Machine.execWaveComplete g t) := by
  unfold Machine.execWaveComplete
  dsimp only
  refine Sound.lands ?_
  split
  · refine .ite h ?_
    split
    · exact (h.steady (record_steady ..)).trigger ..
    · exact .ite (h.drainGraph ..).drainCodec ((h.drainGraph ..).drainCodec.recordWave ..)
  · exact h

theorem Lands.execHangDetect (h : Sound s t) (graph : Nat) : Lands s (Machine.execHangDetect graph t) :=
  (Sound.ite h (((Sound.ite ((h.freezeGraph ..).mapGraph ..) (((h.freezeGraph ..).mapGraph ..).foldl
    (fun _ _ hr => hr.steady (sysWriteOrDrop_steady ..)) _)).steady (record_steady ..)).graphTrap ..)).lands

theorem Sound.arriveMarker (h : Sound s t) (g tile e : Nat) (b : Beat) : Sound s (Machine.arriveMarker t g tile e b) :=
  .ite (h.mapTile ..) (.ite (h.closeEp ..) (.ite (h.mapTile ..) (h.coilPut ..)))

theorem Sound.arriveBeat {s t r : State} (h : Sound s t) {g tile k : Nat} {b : Beat} (e : Machine.arriveBeat t g tile k b = some r) : Sound s r := by
  unfold Machine.arriveBeat at e
  dsimp only at e
  split at e
  · split at e
    · obtain rfl := Option.some.inj e
      exact h.recordLate ..
    · cases e
  · obtain rfl := Option.some.inj e
    exact ((Sound.ite (h.mapTile ..) (h.coilPut ..)).mapTile ..).recordLate ..

theorem Lands.execBeatArrival (h : Sound s t) (n : Nat) : Lands s (Machine.execBeatArrival n t) := by
  unfold Machine.execBeatArrival
  dsimp only
  refine Sound.lands ?_
  split
  · exact h
  · refine .ite h ?_
    split
    · exact h.beside rfl
    · refine .ite ((h.beside (by rfl)).arriveMarker ..) ?_
      split
      · rename_i e
        exact ((h.beside (by rfl)).arriveBeat e).steady (returnPermits_steady ..)
      · exact h

theorem Sound.loseEdge (h : Sound s t) (x : Nat × Nat) : Sound s (Machine.loseEdge t x) := by
  unfold Machine.loseEdge
  dsimp only
  split
  · exact h
  · rename_i g e
    rcases e : Machine.arriveBeat t.draw g x.1 x.2 (if x.2 < 32 then errorBeat 3 (fld (Config.freeWord t.drawn).toNat 31 0) else errorToken 3) with
      _ | r
    · rw [Option.getD_none]
      exact h.draw.mapTile ..
    · exact h.draw.arriveBeat e

theorem Sound.takeDown (h : Sound s t) (port : Nat) : Sound s (Machine.takeDown t port) :=
  ((h.beside (by rfl)).foldl (fun _ _ hr => hr.loseEdge ..) _).foldl (fun _ _ hr => hr.trigger ..) _

theorem Sound.retireLane (h : Sound s t) (port lane first : Nat) : Sound s (Machine.retireLane t port lane first) :=
  .ite h (.ite (((h.steady (record_steady ..)).mapPort ..).foldl (fun _ _ hr => hr.trigger ..) _)
    ((((h.steady (record_steady ..)).mapPort ..).steady (record_steady ..)).takeDown ..))

theorem Lands.execFlitReplay (h : Sound s t) (port : Nat) (seq : BitVec 16) : Lands s (Machine.execFlitReplay port seq t) := by
  unfold Machine.execFlitReplay
  dsimp only
  refine Sound.lands ?_
  refine .ite h ?_
  split
  · exact ((h.mapPort ..).steady (tallyDrop_steady ..)).retireLane ..
  · exact (h.mapPort ..).steady (tallyNote_steady ..)

theorem Sound.moduleEvent (h : Sound s t) (parts : List Nat) (cls tile synd addr detail : Nat) :
    Sound s (Machine.moduleEvent t parts cls tile synd addr detail) :=
  h.foldl (fun _ _ hr => hr.steady (logRecord_steady ..)) _

theorem Sound.dropPeer (h : Sound s t) (port sp : Nat) (ea : Word) : Sound s (Machine.dropPeer t port sp ea) := by
  unfold Machine.dropPeer
  dsimp only
  split
  · exact (h.mapPort ..).steady (logRecord_steady ..)
  · exact h.mapPort ..

theorem Sound.holdBeat (h : Sound s t) (port sp : Nat) (data : BitVec 256) (pred : BitVec 8) : Sound s (Machine.holdBeat t port sp data pred) :=
  .ite h (h.mapPort ..)

theorem Sound.windowStep (h : Sound s t) (port sp : Nat) (waiting : Bool) : Sound s (Machine.windowStep t port sp waiting) :=
  h.mapPort ..

theorem Sound.windowWalk (h : Sound s t) (a : Ag) (ea : Word) : Sound s (Machine.windowWalk t a ea) :=
  .ite (h.steady (translate_steady ..)) h

theorem Lands.execFarPortBeat (h : Sound s t) (port : Nat) (data : BitVec 256) (pred : BitVec 8) :
    Lands s (Machine.execFarPortBeat port data pred t) := by
  unfold Machine.execFarPortBeat
  dsimp only
  refine Sound.lands ?_
  split
  · exact h.dropPeer ..
  · refine .ite (h.dropPeer ..) ?_
    refine .ite (h.holdBeat ..) ?_
    split
    · exact (h.foldl (fun _ _ hr => hr.steady (writePiece_steady ..)) _).windowStep ..
    · exact (h.windowWalk ..).holdBeat ..
    · exact ((h.windowWalk ..).dropPeer ..).windowStep ..
  · refine .ite h ?_
    split
    all_goals
      rename_i e
      have h1 := (h.steady (readRange_steady ..)).eq e
    · exact (h1.mapPort ..).windowStep ..
    · exact h1
    · exact (h1.dropPeer ..).windowStep ..

theorem Lands.execQueueTailWrite (h : Sound s t) (q : Nat) : Lands s (Machine.execQueueTailWrite q t) := by
  unfold Machine.execQueueTailWrite
  dsimp only
  refine Sound.lands ?_
  split
  · exact h
  · exact ((h.readQueue ..).foldl (fun _ _ hr => hr.noteAge ..) _).mapPart _ (fun _ => by rfl)

theorem Lands.execCommit (h : Sound s t) (th : Nat) : Lands s (Machine.execCommit th t) := by
  unfold Machine.execCommit
  dsimp only
  refine Sound.lands ?_
  refine .ite h ?_
  split
  · exact h.meetMarkerBy ..
  · split
    · rename_i e
      have h1 := (h.commitBlock ..).eq e
      exact h1.release ..
    · exact h

theorem Sound.acceptHeld (h : Sound s t) (i : Nat) : Sound s (Machine.acceptHeld t i) :=
  (h.beside (by rfl)).foldl (fun _ _ hr => hr.offerOp ..) _

theorem Lands.execKnotRetire (h : Sound s t) (th : Nat) : Lands s (Machine.execKnotRetire th t) :=
  (Sound.ite ((h.acceptHeld ..).mapThread ..) (h.acceptHeld ..)).lands

end Sys2Proof.Machine
end

section
/-! PROOF. That every action keeps every memory: the commands in the queues of a slot (R316 to R318). -/

namespace Sys2Proof.Machine
open Sys2Proof.Safety
variable {s t : State}

theorem Sound.setActive (h : Sound s t) (th q k : Nat) (a : Active) : Sound s (Machine.setActive t th q k a) :=
  h.mapThread ..

theorem Sound.finish (h : Sound s t) (th q k : Nat) (a : Active) (due : Nat) : Sound s (Machine.finish t th q k a due) :=
  h.setActive ..

theorem Sound.strayed (h : Sound s t) (th q k : Nat) : Sound s (Machine.strayed t th q k) :=
  .ite (h.beside (by rfl)) h

theorem Sound.engineTrap (h : Sound s t) (th q k code : Nat) (tval : Word) : Sound s (Machine.engineTrap t th q k code tval) :=
  (h.strayed ..).mapThread ..

theorem Sound.engineTrapFree (h : Sound s t) (th q k code : Nat) : Sound s (Machine.engineTrapFree t th q k code) :=
  h.draw.engineTrap ..

theorem Sound.poisonOnce (h : Sound s t) (th q k : Nat) (a : Active) (addr : Word) : Sound s (Machine.poisonOnce t th q k a addr) :=
  .ite h ((h.steady (poisonRecord_steady ..)).setActive ..)

theorem Sound.planePerform (h : Sound s t) (th : Nat) (a : Active) : Sound s (Machine.planePerform t th a) := by
  unfold Machine.planePerform
  dsimp only
  split
  · refine .ite ?_ ?_
    · refine Sound.engineTrapFree ?_ ..
      refine Sound.poisonOnce ?_ ..
      split
      all_goals exact h.foldl (fun _ _ hr => hr.steady (tmemSense_steady ..)) _
    · refine Sound.setActive ?_ ..
      split
      all_goals exact h.foldl (fun _ _ hr => hr.steady (tmemSense_steady ..)) _
  · refine Sound.setActive ?_ ..
    split
    · exact h.foldl (fun _ _ hr => hr.steady (tmemSense_steady ..)) _
    · exact h

theorem Sound.accSense (h : Sound s t) (graph tile row : Nat) (cols : List Nat) : Sound s (Machine.accSense t graph tile row cols) :=
  .ite h (((h.mapTile ..).foldl (fun _ _ hr => hr.steady (record_steady ..)) _).trigger ..)

theorem Sound.mstatPerform (h : Sound s t) (th k : Nat) (a : Active) : Sound s (Machine.mstatPerform t th k a) := by
  unfold Machine.mstatPerform
  dsimp only
  split
  · exact .ite (h.accSense ..) h
  · exact ((Sound.ite ((Sound.ite (h.accSense ..) h).draw.poisonOnce ..) (Sound.ite (h.accSense ..) h).draw).draw.mapTile ..).finish ..

theorem Sound.mstatTurn (h : Sound s t) (th k : Nat) (a : Active) : Sound s (Machine.mstatTurn t th k a) :=
  .ite h (h.mstatPerform ..)

theorem Sound.portRow (h : Sound s t) (tile off : Nat) : Sound s (Machine.portRow t tile off) :=
  h.mapPorts ..

theorem Sound.busTaken (h : Sound s t) (tile : Nat) : Sound s (Machine.busTaken t tile) :=
  h.mapTile ..

theorem Sound.activateRow (h : Sound s t) (tile : Nat) (v : Word) : Sound s (Machine.activateRow t tile v) := by
  unfold Machine.activateRow
  dsimp only
  exact h.mapTile ..

theorem Sound.closeBank (h : Sound s t) (tile bank : Nat) : Sound s (Machine.closeBank t tile bank) :=
  h.mapTile ..

theorem Sound.drainRow (h : Sound s t) (key : Nat) : Sound s (Machine.drainRow t key) :=
  h.foldl (fun _ _ hr => hr.steady (drainLine_steady ..)) _

theorem Sound.putRow (h : Sound s t) (a : Ag) (v win : Word) (tile : Nat) : Sound s (Machine.putRow a v win t tile) := by
  unfold Machine.putRow
  dsimp only
  have h1 := (h.drainRow (rowKey tile v)).steady (tmemSense_steady _ (tmemKey tile (win.toNat % 2 ^ 18)) 3072)
  exact (((Sound.ite (h1.foldl (fun _ _ hr => hr.steady (undoLog_steady ..)) _) h1).writeVault ..).foldl (fun _ _ hr => hr.setSector ..) _).foldl
    (fun _ _ hr => hr.steady (signalLine_steady ..)) _

theorem Sound.readRows (h : Sound s t) (v : Word) (tiles : List Nat) : Sound s (Machine.readRows t v tiles).1 := by
  unfold Machine.readRows
  dsimp only
  refine h.foldl_fst (fun _ _ hr => ?_) _
  dsimp only
  exact (hr.drainRow ..).steady (readEach_steady ..)

theorem Sound.takeRow (h : Sound s t) (a : Ag) (v win : Word) (bad : List (Nat × Nat)) (tile : Nat) : Sound s (Machine.takeRow a v win bad t tile) :=
  (h.steady (tmemWriteBy_steady ..)).foldl (fun _ _ hr => hr.steady (tmemMark_steady ..)) _

theorem Sound.rowPerform (h : Sound s t) (th : Nat) (a : Active) (x : RowAct) (tiles : List Nat) : Sound s (Machine.rowPerform t th a x tiles) := by
  unfold Machine.rowPerform
  dsimp only
  have h1 := Sound.ite (c := x.windowed = true) (h.foldl (fun r ti hr => hr.portRow ti (a.cmd.vb.toNat % 2 ^ 18)) tiles) h
  have h2 := Sound.ite (c := x.transfers = true)
    ((h1.foldl (fun _ ti hr => hr.busTaken ti) tiles).steady (moved_steady _ (t.thread th).graph)) h1
  split
  · exact (h2.foldl (fun _ _ hr => hr.activateRow ..) _).finish ..
  · exact (h2.foldl (fun _ _ hr => hr.closeBank ..) _).finish ..
  · exact ((Sound.ite (h2.poisonOnce ..) h2).foldl (fun _ _ hr => hr.putRow ..) _).finish ..
  · split
    all_goals
      rename_i e
      have h3 := (h2.readRows ..).eq e
    · exact h3.engineTrap ..
    · exact ((Sound.ite h3 (h3.poisonOnce ..)).foldl (fun _ _ hr => hr.takeRow ..) _).finish ..
  · split
    all_goals
      rename_i e
      have h3 := (h2.readRows ..).eq e
    · exact h3.engineTrap ..
    · exact h3.setActive ..
    · exact (h3.poisonOnce ..).engineTrap ..

theorem Sound.rowTry (h : Sound s t) (th : Nat) (a : Active) (x : RowAct) (rg : Bool) : Sound s (Machine.rowTry t th a x rg) := by
  unfold Machine.rowTry
  dsimp only
  split
  · exact h.engineTrap ..
  · split
    · exact h.engineTrap ..
    · exact .ite (h.foldl (fun _ _ hr => hr.mapTile ..) _) h
    · exact .ite h (h.rowPerform ..)

theorem Sound.startFails (h : Sound s t) (th q k : Nat) (c : Nat × Option Word) : Sound s (Machine.startFails t th q k c) := by
  unfold Machine.startFails
  split
  · exact h.engineTrap ..
  · exact h.engineTrapFree ..

theorem Sound.sopenPerform (h : Sound s t) (th k : Nat) (a : Active) (e : Nat) : Sound s (Machine.sopenPerform t th k a e) := by
  unfold Machine.sopenPerform
  dsimp only
  refine .ite h ?_
  refine .ite h ?_
  refine .ite ((h.mapTile ..).engineTrap ..) ?_
  split
  all_goals
    rename_i e
    have h1 := (h.steady (readRange_steady ..)).eq e
  · split
    · exact (h1.mapTile ..).startFails ..
    · exact (h1.mapTile ..).finish ..
  · exact ((h1.mapTile ..).poisonOnce ..).engineTrap ..

theorem Sound.sstartPerform (h : Sound s t) (th k : Nat) (a : Active) (e : Nat) : Sound s (Machine.sstartPerform t th k a e) :=
  .ite h ((Sound.ite (h.mapTile ..) h).finish ..)

theorem Sound.sstopPerform (h : Sound s t) (th k : Nat) (a : Active) (e : Nat) : Sound s (Machine.sstopPerform t th k a e) :=
  .ite (h.finish ..) (.ite h (h.mapTile ..))

theorem Sound.sknotPerform (h : Sound s t) (th k : Nat) (a : Active) (e : Nat) : Sound s (Machine.sknotPerform t th k a e) :=
  .ite (h.finish ..) (.ite h (.ite (.ite ((h.steady (sendLines_steady ..)).finish ..) (h.steady (sendLines_steady ..)))
    (.ite ((h.steady (mapEng_steady ..)).setActive ..) (.ite (h.finish ..) h))))

theorem Sound.streamPerform (h : Sound s t) (th k : Nat) (a : Active) : Sound s (Machine.streamPerform t th k a) := by
  unfold Machine.streamPerform
  dsimp only
  split
  · exact .ite h (h.sopenPerform ..)
  · exact h.sstartPerform ..
  · exact h.sstopPerform ..
  · exact h.sknotPerform ..
  · exact (h.mapTile ..).finish ..
  · exact (h.mapTile ..).finish ..
  · exact h

theorem Sound.readLines (h : Sound s t) (a : Ag) (ea : Word) (n : Nat) : Sound s (Machine.readLines t a ea n).1 := by
  unfold Machine.readLines
  dsimp only
  refine Sound.foldl_fst ?_ (fun _ _ hr => ?_) _
  · exact h
  · split
    · exact hr
    · exact hr.steady (readPiece_steady ..)

theorem Sound.enqueue (h : Sound s t) (part q : Nat) (bytes : List Byte) : Sound s (Machine.enqueue t part q bytes).2 := by
  unfold Machine.enqueue
  dsimp only
  split
  · exact h.readQueue ..
  · split
    · exact h.readQueue ..
    · exact (((h.readQueue ..).foldl (fun _ _ hr => hr.steady (sysWriteOrDrop_steady ..)) _).queueWrite ..).post ..

theorem Sound.holdOn (h : Sound s t) (th q k : Nat) (a : Active) (addr : Word) : Sound s (Machine.holdOn t th q k a addr) :=
  h.setActive ..

theorem Sound.launchPerform (h : Sound s t) (th k : Nat) (a : Active) : Sound s (Machine.launchPerform t th k a) := by
  unfold Machine.launchPerform
  dsimp only
  split
  · refine .ite h ?_
    split
    all_goals
      rename_i e
      have h1 := ((h.drainThread ..).readLines ..).eq e
    · exact (h1.enqueue ..).finish ..
    · exact h1.holdOn ..
    · exact (Sound.ite (h1.poisonOnce ..) h1).engineTrap ..
  · exact h

theorem Sound.unfuse (h : Sound s t) (g : Region) : Sound s (Machine.unfuse t g) :=
  h.beside rfl

theorem Sound.ctxselPerform (h : Sound s t) (th : Nat) (a : Active) : Sound s (Machine.ctxselPerform t th a) := by
  unfold Machine.ctxselPerform
  dsimp only
  split
  · exact h
  · exact (h.beside (by rfl)).finish ..

theorem Sound.readFrameRecords (h : Sound s t) (a : Ag) (ea : Word) (n : Nat) : Sound s (Machine.readFrameRecords t a ea n).1 := by
  unfold Machine.readFrameRecords
  dsimp only
  refine Sound.foldl_fst ?_ (fun _ _ hr => ?_) _
  · exact h
  · split
    · exact hr
    · split
      all_goals
        rename_i e
        have h1 := (hr.steady (readRange_steady ..)).eq e
        exact h1

theorem Sound.keepOwned (h : Sound s t) (g : Nat) (w : BitVec 16) (tile k : Nat) : Sound s (Machine.keepOwned t g w tile k) := by
  unfold Machine.keepOwned
  dsimp only
  split
  · exact .ite h (h.mapGraph ..)
  · exact h

theorem Sound.ctxloadPerform (h : Sound s t) (th : Nat) (a : Active) : Sound s (Machine.ctxloadPerform t th a) := by
  unfold Machine.ctxloadPerform
  dsimp only
  refine .ite h ?_
  split
  all_goals
    rename_i e
    have h1 := (h.readFrameRecords ..).eq e
  · exact .ite (h1.engineTrapFree ..) (.ite h1 ((((h1.foldl (fun _ _ hr => hr.unfuse ..) _).foldl (fun _ _ hr => (hr.keepOwned ..).mapTile ..)
      _).beside (by rfl)).setActive ..))
  · exact h1.holdOn ..
  · exact ((Sound.ite (h1.poisonOnce ..) h1).foldl (fun _ _ hr => hr.mapTile ..) _).engineTrap ..

theorem Sound.ctxloadEnd (h : Sound s t) (th : Nat) (a : Active) : Sound s (Machine.ctxloadEnd t th a) :=
  (h.endLoad ..).finish ..

theorem Sound.regionPerform (h : Sound s t) (th : Nat) (a : Active) : Sound s (Machine.regionPerform t th a) := by
  unfold Machine.regionPerform
  dsimp only
  split
  · exact (h.fuse ..).finish ..
  · split
    · exact .ite h ((h.unfuse ..).finish ..)
    · exact h
  · exact h.ctxselPerform ..
  · exact .ite (h.ctxloadPerform ..) (h.ctxloadEnd ..)
  · exact h.finish ..
  · exact (h.mapTile ..).finish ..
  · exact h

theorem Sound.performActive (h : Sound s t) (th q k : Nat) (a : Active) : Sound s (Machine.performActive t th q k a) := by
  unfold Machine.performActive
  refine .ite h ?_
  split
  · exact h.finish ..
  · exact .ite (h.planePerform ..) h
  · exact .ite (h.planePerform ..) h
  · exact .ite (h.planePerform ..) h
  · exact .ite (h.planePerform ..) h
  · exact h
  · exact h.mstatTurn ..
  · exact .ite h (h.rowTry ..)
  · exact .ite h (h.rowTry ..)
  · split
    · exact .ite (h.rowTry ..) h
    · exact .ite (h.streamPerform ..) (.ite (h.launchPerform ..) (.ite (h.regionPerform ..) h))

theorem Sound.performQueue (h : Sound s t) (th q : Nat) : Sound s (Machine.performQueue t th q) := by
  unfold Machine.performQueue
  refine Sound.foldl ?_ (fun _ _ hr => ?_) _
  · exact h
  · split
    · exact hr.performActive ..
    · exact hr

theorem Sound.bindRows (h : Sound s t) (th : Nat) : Sound s (Machine.bindRows t th) :=
  h.mapGraph ..

theorem Sound.latchRun (h : Sound s t) (g : Region) : Sound s (Machine.latchRun t g) :=
  h.foldl (fun _ _ hr => hr.mapTile ..) _

theorem Sound.moveStreams (h : Sound s t) (a b : Region) : Sound s (Machine.moveStreams t a b) :=
  h.foldl (fun _ _ hr => .ite (hr.mapTile ..) hr) _

theorem Sound.runBegin (h : Sound s t) (th k : Nat) (a : Active) : Sound s (Machine.runBegin t th k a) := by
  unfold Machine.runBegin
  split
  · exact h
  · split
    · exact ((Sound.ite (h.moveStreams ..) h).latchRun ..).setActive ..
    · exact (h.latchRun ..).setActive ..

theorem Sound.matrixBegin (h : Sound s t) (th k : Nat) (a : Active) : Sound s (Machine.matrixBegin t th k a) := by
  unfold Machine.matrixBegin
  split
  · exact h.runBegin ..
  · exact h.runBegin ..
  · exact h.setActive ..
  · exact h.setActive ..

theorem Sound.beginActive (h : Sound s t) (th q k : Nat) (a : Active) : Sound s (Machine.beginActive t th q k a) := by
  unfold Machine.beginActive
  dsimp only
  split
  · exact (h.bindRows ..).setActive ..
  · exact .ite ((h.bindRows ..).setActive ..) (.ite (h.matrixBegin ..) (h.setActive ..))

theorem Sound.startHead (h : Sound s t) (th q : Nat) : Sound s (Machine.startHead t th q) := by
  unfold Machine.startHead
  dsimp only
  split
  · exact h
  · refine .ite h ?_
    split
    · exact (h.mapThread ..).startFails ..
    · exact (h.mapThread ..).beginActive ..

theorem Lands.execEngineCommandStart (h : Sound s t) (th q : Nat) : Lands s (Machine.execEngineCommandStart th q t) :=
  (Sound.ite h ((Sound.ite h (h.startHead ..)).performQueue ..)).lands

theorem Sound.complete (h : Sound s t) (th q k : Nat) (a : Active) (cleat : Word) (n : Nat) : Sound s (Machine.complete t th q k a cleat n) := by
  unfold Machine.complete
  refine .ite h ?_
  refine .ite (h.setActive ..) ?_
  split
  all_goals
    rename_i e
    have h1 := (h.steady (completeOn_steady ..)).eq e
  · exact h1.setActive ..
  · exact h1.setActive ..
  · exact (Sound.ite (h1.poisonOnce ..) h1).engineTrap ..

theorem Sound.retireAt (h : Sound s t) (th q k : Nat) (a : Active) : Sound s (Machine.retireAt t th q k a) :=
  h.mapThread ..

theorem Sound.retireOne (h : Sound s t) (th q : Nat) : Sound s (Machine.retireOne th q t) := by
  unfold Machine.retireOne
  dsimp only
  split
  · split
    · refine Sound.retireAt ?_ ..
      split
      · split
        · exact h.complete ..
        · exact h
      · exact h
    · split
      · split
        · exact h.complete ..
        · exact h
      · exact h
  · split
    · split
      · exact h.complete ..
      · exact h
    · exact h

theorem Lands.execEngineCommandRetire (h : Sound s t) (th q : Nat) : Lands s (Machine.execEngineCommandRetire th q t) :=
  (h.foldl (fun _ _ hr => hr.retireOne ..) _).lands

theorem Lands.execSliceEnd (h : Sound s t) (part : Nat) : Lands s (Machine.execSliceEnd part t) := by
  unfold Machine.execSliceEnd
  dsimp only
  refine Sound.lands ?_
  refine .ite h ?_
  split
  · exact (Sound.ite (h.readHeader ..) h).mapPart _ (fun _ => by rfl)
  · exact ((Sound.ite (h.readHeader ..) h).mapPart _ (fun _ => by rfl)).foldl (fun _ _ hr => hr.cutGraph ..) _

end Sys2Proof.Machine
end

section
/-! PROOF. That every action keeps every memory: the limit and the images of a wave, the endpoints, the links and the switch nodes. -/

namespace Sys2Proof.Machine
open Sys2Proof.Safety
variable {s t : State}

theorem Sound.expire (h : Sound s t) (n : BitVec 16) (i : Nat) : Sound s (Machine.expire n t i) := by
  unfold Machine.expire
  dsimp only
  refine .ite h ?_
  split
  all_goals
    rename_i e
    have h1 := ((h.withdraw ..).performed ..).eq e
  · exact h1
  · exact .ite h1 (.ite ((h1.setThread ..).checkpoint ..) (h1.expireAtU ..))

theorem Lands.execLatencyLimitExpiry (h : Sound s t) (g : Nat) : Lands s (Machine.execLatencyLimitExpiry g t) := by
  unfold Machine.execLatencyLimitExpiry
  dsimp only
  refine Sound.lands ?_
  split
  · exact .ite h (h.foldl (fun _ _ hr => hr.expire ..) _)
  · exact h

theorem Sound.saveTile (h : Sound s t) (g tile : Nat) : Sound s (Machine.saveTile t g tile) := by
  unfold Machine.saveTile
  dsimp only
  split
  · exact .ite h (h.mapPending ..)
  · exact h

theorem Sound.postSave (h : Sound s t) (g tile r : Nat) : Sound s (Machine.postSave t g tile r) := by
  unfold Machine.postSave
  dsimp only
  exact h.mapTile ..

theorem Sound.writeRow (h : Sound s t) (g tile r : Nat) : Sound s (Machine.writeRow t g tile r) := by
  unfold Machine.writeRow
  dsimp only
  split
  · exact h
  · refine Sound.mapPending (Sound.foldl ?_ (fun _ _ hr => hr.setSector ..) _) ..
    split
    · exact (h.writeShadow ..).beside rfl
    · exact h

theorem Sound.saveStep (h : Sound s t) (g tile : Nat) (v : Saving) : Sound s (Machine.saveStep t g tile v) := by
  unfold Machine.saveStep
  dsimp only
  split
  · exact .ite h (h.mapPending ..)
  · refine .ite ?_ ?_
    · split
      · exact h.mapPending ..
      · exact (h.postSave ..).mapPending ..
    · refine .ite h ?_
      split
      · exact (h.writeRow ..).mapPending ..
      · exact ((h.writeRow ..).postSave ..).mapPending ..

theorem Lands.execSnapshotRowSave (h : Sound s t) (tile : Nat) : Lands s (Machine.execSnapshotRowSave tile t) := by
  unfold Machine.execSnapshotRowSave
  dsimp only
  refine Sound.lands ?_
  split
  · exact (h.foldl (fun _ _ hr => hr.saveTile ..) _).saveStep ..
  · exact h.foldl (fun _ _ hr => hr.saveTile ..) _

theorem Lands.execEgressThreshold (h : Sound s t) (port : Nat) : Lands s (Machine.execEgressThreshold port t) :=
  (Sound.ite h (h.foldl (fun _ _ hr => .ite (hr.steady (openForced_steady ..)) hr) _)).lands

theorem Lands.execHomePerform (h : Sound s t) (n : Nat) : Lands s (Machine.execHomePerform n t) := by
  unfold Machine.execHomePerform
  refine Sound.lands ?_
  split
  · exact h.steady (drainLine_steady ..)
  · exact h

theorem Sound.portSink (h : Sound s t) (g tile e : Nat) (b : Beat) : Sound s (Machine.portSink t g tile e b) :=
  .ite h ((h.sinkErrors ..).mapTile ..)

theorem Sound.portBeat (h : Sound s t) (g tile e f : Nat) (b : Beat) : Sound s (Machine.portBeat t g tile e f b) := by
  unfold Machine.portBeat
  dsimp only
  have h1 := h.portSink g tile e b
  exact .ite (.ite (h1.mapPort ..) (h1.beside (by rfl)))
    (.ite (h1.mapPort ..) (.ite (h1.mapPort ..) (.ite ((h1.mapGraph ..).mapPort ..) (h1.mapPort ..))))

theorem Sound.launchBeat (h : Sound s t) (g tile e f : Nat) (b : Beat) : Sound s (Machine.launchBeat t g tile e f b) :=
  .ite (h.portBeat ..) (h.beside (by rfl))

theorem Sound.sendMarker (h : Sound s t) (g tile e f : Nat) (n : BitVec 16) (b : Beat) : Sound s (Machine.sendMarker t g tile e f n b) :=
  (((h.mapPending ..).mapTile ..).launchBeat ..).steady (moved_steady ..)

theorem Sound.fireOutput (h : Sound s t) (g tile e f : Nat) : Sound s (Machine.fireOutput t g tile e f) := by
  unfold Machine.fireOutput
  dsimp only
  split
  · exact h
  · refine .ite (h.mapTile ..) ?_
    refine .ite h ?_
    refine .ite (h.sendMarker ..) ?_
    refine .ite (((h.mapTile ..).launchBeat ..).steady (moved_steady ..)) ?_
    split
    · exact h.sendMarker ..
    · exact h.mapTile ..

theorem Lands.execOutputEndpointFire (h : Sound s t) (tile e : Nat) : Lands s (Machine.execOutputEndpointFire tile e t) := by
  unfold Machine.execOutputEndpointFire
  dsimp only
  refine Sound.lands ?_
  split
  · exact h
  · exact .ite h (h.fireOutput ..)

theorem Sound.absorb (h : Sound s t) (f : Flight) : Sound s (Machine.absorb t f) :=
  .ite (h.beside (by rfl)) (h.beside (by rfl))

theorem Sound.retireRouter (h : Sound s t) (tile : Nat) : Sound s (Machine.retireRouter t tile) :=
  ((h.mapTile ..).foldl (fun _ _ hr => hr.loseEdge ..) _).foldl (fun _ _ hr => hr.trigger ..) _

theorem Sound.routerEvent (h : Sound s t) (tile : Nat) : Sound s (Machine.routerEvent t tile) := by
  unfold Machine.routerEvent
  split
  · exact ((h.steady (tallyDrop_steady ..)).steady (record_steady ..)).retireRouter ..
  · exact h.steady (tallyNote_steady ..)

theorem Lands.execMeshHop (h : Sound s t) (n : Nat) : Lands s (Machine.execMeshHop n t) := by
  unfold Machine.execMeshHop
  dsimp only
  refine Sound.lands ?_
  split
  · exact h
  · exact .ite h (.ite (h.absorb ..) (.ite h (.ite ((h.beside (by rfl)).routerEvent ..) (h.beside (by rfl)))))

theorem Lands.execPermitReturn (h : Sound s t) (n : Nat) : Lands s (Machine.execPermitReturn n t) := by
  unfold Machine.execPermitReturn
  refine Sound.lands ?_
  split
  · exact h
  · exact .ite h ((h.beside (by rfl)).mapTile ..)

theorem Sound.coilRead (h : Sound s t) (tile g j : Nat) (b : Beat) : Sound s (Machine.coilRead t tile g j b).1 := by
  unfold Machine.coilRead
  dsimp only
  split
  · exact h.steady (readEach_steady ..)
  · split
    · exact h.steady (readEach_steady ..)
    · exact (h.steady (readEach_steady ..)).draw

theorem Lands.execCoilRefill (h : Sound s t) (tile e : Nat) : Lands s (Machine.execCoilRefill tile e t) := by
  unfold Machine.execCoilRefill
  dsimp only
  refine Sound.lands ?_
  split
  · exact h
  · split
    · exact .ite (h.mapTile ..) h
    · exact .ite (.ite (h.mapTile ..) h) (((h.coilActivate ..).coilRead ..).mapTile ..)

theorem Sound.mapNd (h : Sound s t) (tile n : Nat) (h' : Node → Node) : Sound s (Machine.mapNd t tile n h') :=
  h.mapTile ..

theorem Sound.nodeIdle (h : Sound s t) (tile n : Nat) : Sound s (Machine.nodeIdle t tile n) :=
  .ite h (h.mapNd ..)

theorem Sound.nodeBlocked (h : Sound s t) (tile n f j : Nat) (waited : Bool) : Sound s (Machine.nodeBlocked t tile n f j waited) :=
  .ite (h.mapNd ..) ((h.mapNd ..).mapTile ..)

theorem Sound.recordTaken (h : Sound s t) (g tile e : Nat) : Sound s (Machine.recordTaken t g tile e) := by
  unfold Machine.recordTaken
  dsimp only
  split
  · exact .ite (h.recordLate ..) h
  · exact h

theorem Sound.nodeTake (h : Sound s t) (tile n f j : Nat) : Sound s (Machine.nodeTake t tile n f j) := by
  unfold Machine.nodeTake
  dsimp only
  refine .ite ((h.mapTile ..).mapTile ..) ?_
  refine Sound.mapTile ?_ ..
  refine Sound.steady ?_ (takeHead_steady ..)
  split
  · exact .ite ((h.mapTile ..).recordTaken ..) (h.mapTile ..)
  · exact h.mapTile ..

theorem Sound.nodeSend (h : Sound s t) (g tile n f j : Nat) (b : Beat) : Sound s (Machine.nodeSend t g tile n f j b) :=
  .ite (.ite ((h.mapTile ..).mapPending ..) (h.mapTile ..)) (h.mapTile ..)

theorem Lands.execSteerNodeFire (h : Sound s t) (tile n : Nat) : Lands s (Machine.execSteerNodeFire tile n t) := by
  unfold Machine.execSteerNodeFire
  dsimp only
  refine Sound.lands ?_
  split
  · exact h
  · split
    · exact h.nodeIdle ..
    · exact .ite (h.nodeIdle ..) (.ite (h.nodeBlocked ..) (((((Sound.ite h.draw h).nodeTake ..).mapNd ..).nodeSend ..).steady (moved_steady ..)))

theorem Lands.execMergeByArrivalFire (h : Sound s t) (tile n : Nat) : Lands s (Machine.execMergeByArrivalFire tile n t) := by
  unfold Machine.execMergeByArrivalFire
  dsimp only
  refine Sound.lands ?_
  split
  · exact h
  · split
    · exact h.nodeIdle ..
    · exact .ite (h.nodeBlocked ..) ((((h.nodeTake ..).mapNd ..).nodeSend ..).steady (moved_steady ..))

theorem Sound.mergeAccept (h : Sound s t) (tile n f j : Nat) : Sound s (Machine.mergeAccept tile n f t j) := by
  unfold Machine.mergeAccept
  dsimp only
  split
  · exact h
  · exact .ite h (.ite ((h.mapNd ..).post ..) ((h.nodeTake ..).mapNd ..))

theorem Lands.execMergeByTagFire (h : Sound s t) (tile n : Nat) : Lands s (Machine.execMergeByTagFire tile n t) := by
  unfold Machine.execMergeByTagFire
  dsimp only
  refine Sound.lands ?_
  split
  · exact h
  · refine .ite (h.foldl (fun _ _ hr => hr.mergeAccept ..) _) ?_
    split
    · exact .ite ((h.foldl (fun _ _ hr => hr.mergeAccept ..) _).mapNd ..) ((h.foldl (fun _ _ hr => hr.mergeAccept ..) _).nodeIdle ..)
    · exact .ite ((h.foldl (fun _ _ hr => hr.mergeAccept ..) _).nodeBlocked ..)
        ((((h.foldl (fun _ _ hr => hr.mergeAccept ..) _).mapNd ..).nodeSend ..).steady (moved_steady ..))

theorem Sound.holdTaken (h : Sound s t) (g tile n f : Nat) (b : Beat) : Sound s (Machine.holdTaken t g tile n f b) :=
  (Sound.ite h ((h.coilWrite ..).coilActivate ..)).mapNd ..

theorem Sound.nodeRefill (h : Sound s t) (g tile n f i : Nat) : Sound s (Machine.nodeRefill g tile n f t i) := by
  unfold Machine.nodeRefill
  dsimp only
  split
  · exact h
  · exact .ite h (((h.coilActivate ..).coilRead ..).mapNd ..)

theorem Sound.branchFire (h : Sound s t) (g tile n f b : Nat) : Sound s (Machine.branchFire g tile n f t b) := by
  unfold Machine.branchFire
  dsimp only
  refine .ite h ?_
  split
  · exact h.nodeRefill ..
  · exact (((h.nodeRefill ..).mapNd ..).nodeSend ..).steady (moved_steady ..)

theorem Lands.execMulticastFire (h : Sound s t) (tile n : Nat) : Lands s (Machine.execMulticastFire tile n t) := by
  unfold Machine.execMulticastFire
  dsimp only
  refine Sound.lands ?_
  split
  · exact h
  · refine .ite ?_ ?_
    · split
      · refine Sound.nodeBlocked ?_ ..
        refine Sound.foldl ?_ (fun _ _ hr => ?_) _
        · split
          · exact .ite h (((h.nodeTake ..).holdTaken ..).steady (moved_steady ..))
          · exact h
        · exact hr.branchFire ..
      · refine Sound.foldl ?_ (fun _ _ hr => ?_) _
        · refine Sound.nodeIdle ?_ ..
          split
          · exact .ite h (((h.nodeTake ..).holdTaken ..).steady (moved_steady ..))
          · exact h
        · exact hr.branchFire ..
    · refine Sound.mapNd ?_ ..
      refine Sound.foldl ?_ (fun _ _ hr => ?_) _
      · split
        · refine Sound.nodeBlocked ?_ ..
          refine Sound.foldl ?_ (fun _ _ hr => ?_) _
          · split
            · exact .ite h (((h.nodeTake ..).holdTaken ..).steady (moved_steady ..))
            · exact h
          · exact hr.branchFire ..
        · refine Sound.foldl ?_ (fun _ _ hr => ?_) _
          · refine Sound.nodeIdle ?_ ..
            split
            · exact .ite h (((h.nodeTake ..).holdTaken ..).steady (moved_steady ..))
            · exact h
          · exact hr.branchFire ..
      · exact hr.nodeRefill ..

theorem Lands.execReplicateFire (h : Sound s t) (tile n : Nat) : Lands s (Machine.execReplicateFire tile n t) := by
  unfold Machine.execReplicateFire
  refine Sound.lands ?_
  split
  · exact h
  · split
    · exact h.nodeIdle ..
    · exact .ite (h.nodeIdle ..) (.ite ((h.mapNd ..).post ..)
        (.ite (h.nodeBlocked ..) ((((h.nodeTake ..).mapNd ..).nodeSend ..).steady (moved_steady ..))))

theorem Lands.execClockGate (h : Sound s t) (tile e : Nat) : Lands s (Machine.execClockGate tile e t) := by
  unfold Machine.execClockGate
  dsimp only
  refine Sound.lands ?_
  refine .ite ?_ ?_
  · split
    · exact h
    · exact .ite h (h.mapNd ..)
  · exact .ite h (.ite (h.mapTile ..) (.ite (h.mapTile ..) h))

end Sys2Proof.Machine
end

section
/-! PROOF. That every action keeps every memory: the array, the stream engines, copies and drains, the vaults, the host and the module. -/

namespace Sys2Proof.Machine
open Sys2Proof.Safety
variable {s t : State}

theorem Sound.feedStall (h : Sound s t) (tile ctx : Nat) (full : Bool) : Sound s (Machine.feedStall t tile ctx full) :=
  .ite h (h.mapTile ..)

theorem Lands.execFeedBeatMove (h : Sound s t) (tile ctx : Nat) : Lands s (Machine.execFeedBeatMove tile ctx t) := by
  unfold Machine.execFeedBeatMove
  dsimp only
  refine Sound.lands ?_
  split
  · exact h
  · refine .ite h ?_
    split
    · exact h.feedStall ..
    · exact .ite (h.feedStall ..) (.ite (h.feedStall ..) (((h.mapTile ..).steady (returnPermits_steady ..)).steady (moved_steady ..)))

theorem Sound.cellEvent (h : Sound s t) (tile cell : Nat) : Sound s (Machine.cellEvent tile t cell) := by
  unfold Machine.cellEvent
  split
  · exact ((h.steady (tallyDrop_steady ..)).steady (record_steady ..)).mapTile ..
  · exact h.steady (tallyNote_steady ..)

theorem Sound.senseTile (h : Sound s t) (g : Region) (tile : Nat) : Sound s (Machine.senseTile g t tile) :=
  .ite (.ite h ((h.mapTile ..).foldl (fun _ _ hr => hr.cellEvent ..) _))
    ((((Sound.ite h ((h.mapTile ..).foldl (fun _ _ hr => hr.cellEvent ..) _)).mapTile ..).foldl (fun _ _ hr => hr.steady (record_steady ..))
    _).trigger ..)

theorem Sound.takeRecords (h : Sound s t) (g : Region) (l : Latched) (a : Active) : Sound s (Machine.takeRecords t g l a).1 := by
  unfold Machine.takeRecords
  dsimp only
  split
  · exact h.foldl (fun _ _ hr => hr.mapTile ..) _
  · exact (h.foldl (fun _ _ hr => (hr.steady (portUse_steady ..)).steady (tmemSense_steady ..)) _).foldl (fun _ _ hr => hr.mapTile ..) _

theorem Sound.enterVector (h : Sound s t) (g : Region) (th k : Nat) (a : Active) (l : Latched) : Sound s (Machine.enterVector t g th k a l) := by
  unfold Machine.enterVector
  dsimp only
  have h1 := (h.foldl (fun _ ti hr => hr.senseTile g ti) g.tiles).takeRecords (homeOf t g th) l a
  have h2 (c : Bool) (x y : Active) {r : State} (hr : Sound s r) :
      Sound s (if c = true then (Machine.poisonOnce r th 3 k a a.cmd.vb, x) else (r, y)).1 := by
    split
    · exact hr.poisonOnce ..
    · exact hr
  have h3 (r : State) (x : Active) (lead : Nat) (f : Tile → Tile) (vs : List VecFly) (qs : List Rect) (hr : Sound s r) :
      Sound s { (Machine.setActive r th 3 k x).mapTile lead f with vecs := vs, rects := qs } :=
    Sound.beside (t := (Machine.setActive r th 3 k x).mapTile lead f) ((hr.setActive ..).mapTile ..) rfl
  exact (h3 _ _ _ _ _ _ (h2 _ _ _ h1)).steady (moved_steady ..)

theorem Lands.execVectorEntry (h : Sound s t) (rect : Nat) : Lands s (Machine.execVectorEntry rect t) := by
  unfold Machine.execVectorEntry
  dsimp only
  refine Sound.lands ?_
  split
  · exact h
  · split
    · exact h
    · split
      · split
        · exact h.enterVector ..
        · exact h
      · exact h.beside rfl

theorem Sound.vectorDone (h : Sound s t) (v : VecFly) : Sound s (Machine.vectorDone t v) := by
  unfold Machine.vectorDone
  dsimp only
  refine .ite h ?_
  split
  · exact h
  · exact (h.setActive ..).complete ..

theorem Sound.runPoison (h : Sound s t) (v : VecFly) : Sound s (Machine.runPoison t v) := by
  unfold Machine.runPoison
  refine .ite h ?_
  split
  · exact .ite h (h.draw.poisonOnce ..)
  · exact h

theorem Sound.writeColumns (h : Sound s t) (v : VecFly) : Sound s (Machine.writeColumns t v) :=
  .ite (((Sound.ite (h.foldl (fun _ _ hr => hr.accSense ..) _) h).foldl (fun _ _ hr => hr.mapTile ..) _).runPoison ..)
    ((Sound.ite (h.foldl (fun _ _ hr => hr.accSense ..) _) h).foldl (fun _ _ hr => hr.mapTile ..) _)

theorem Sound.writeVectors (h : Sound s t) (q : Rect) (n : Nat) : Sound s (Machine.writeVectors q n t) := by
  induction n generalizing t with
  | zero => exact h
  | succ n ih =>
    unfold Machine.writeVectors
    split
    · exact h
    · split
      · exact h
      · exact ih ((((h.beside (by rfl)).writeColumns ..).vectorDone ..).steady (moved_steady ..))

theorem Lands.execVectorWrite (h : Sound s t) (rect : Nat) : Lands s (Machine.execVectorWrite rect t) := by
  unfold Machine.execVectorWrite
  refine Sound.lands ?_
  split
  · exact h
  · exact h.writeVectors ..

theorem Sound.applyPlane (h : Sound s t) (x : PlaneAct) (v : Word) (k : Nat) (f : Nat × BitVec 24576) : Sound s (Machine.applyPlane x v k t f) :=
  h.beside rfl

theorem Lands.execPlaneFillApply (h : Sound s t) (th : Nat) : Lands s (Machine.execPlaneFillApply th t) := by
  unfold Machine.execPlaneFillApply
  dsimp only
  refine Sound.lands ?_
  split
  · split
    · exact .ite h (.ite ((Sound.ite h ((h.foldl (fun _ _ hr => hr.applyPlane ..) _).steady (moved_steady ..))).finish ..)
        ((Sound.ite h ((h.foldl (fun _ _ hr => hr.applyPlane ..) _).steady (moved_steady ..))).setActive ..))
    · exact h
  · exact h

theorem Lands.execRegionTransfer (h : Sound s t) (th : Nat) : Lands s (Machine.execRegionTransfer th t) := by
  unfold Machine.execRegionTransfer
  refine Sound.lands ?_
  split
  · refine .ite ?_ ?_
    · split
      · exact h.rowTry ..
      · exact h.rowTry ..
      · exact h
    · exact h
  · exact h

theorem Sound.streamOver (h : Sound s t) (tile e : Nat) : Sound s (Machine.streamOver t tile e) :=
  h.steady (mapEng_steady ..)

theorem Sound.awaitOwner (h : Sound s t) (tile e : Nat) : Sound s (Machine.awaitOwner t tile e) :=
  .ite (h.steady (mapEng_steady ..)) (h.steady (mapEng_steady ..))

theorem Sound.takeBeat (h : Sound s t) (tile e : Nat) : Sound s (Machine.takeBeat t tile e).1 := by
  unfold Machine.takeBeat
  dsimp only
  split
  · split
    all_goals exact h.steady (mapEng_steady ..)
  · split
    · exact h
    · split
      · exact ((h.steady (portUse_steady ..)).steady (tmemSense_steady ..)).steady (engPoison_steady ..)
      · exact (h.steady (portUse_steady ..)).steady (tmemSense_steady ..)
  · split
    · split
      · exact h
      · exact h.steady (takeHead_steady ..)
    · exact h

theorem Sound.writeStep (h : Sound s t) (tile e : Nat) : Sound s (Machine.writeStep t tile e) := by
  unfold Machine.writeStep
  dsimp only
  refine .ite h ?_
  split
  · exact .ite (h.steady (mapEng_steady ..)) (h.steady (unpackElem_steady ..))
  · refine .ite (.ite h (.ite ((h.steady (sendLines_steady ..)).streamOver ..) (h.steady (sendLines_steady ..)))) ?_
    refine .ite (h.awaitOwner ..) ?_
    split
    all_goals
      rename_i e
      have h1 := (h.takeBeat ..).eq e
    · exact h1.steady (mapEng_steady ..)
    · exact (h1.sinkErrors ..).steady (mapEng_steady ..)

theorem Sound.portSend (h : Sound s t) (tile e : Nat) (b : Beat) : Sound s (Machine.portSend t tile e b) := by
  unfold Machine.portSend
  dsimp only
  split
  · split
    · split
      · rename_i came
        exact ((h.mapTile ..).arriveBeat came).steady (returnPermits_steady ..)
      · exact h
    · exact h
  · exact h.mapTile ..
  · exact (((h.steady (portUse_steady ..)).steady (tmemWriteBy_steady ..)).sinkErrors ..).steady (mapEng_steady ..)

theorem Sound.sendBeat (h : Sound s t) (tile e first : Nat) (cs : List Cell) : Sound s (Machine.sendBeat t tile e first cs) :=
  .ite h (.ite (h.steady (mapEng_steady ..)) ((((h.portSend ..).steady (mapEng_steady ..)).steady (payOwed_steady ..)).steady (moved_steady ..)))

theorem Sound.readElem (h : Sound s t) (tile e : Nat) : Sound s (Machine.readElem t tile e) :=
  .ite (h.steady (fetchIndex_steady ..)) (.ite (h.steady (mapEng_steady ..))
    (.ite h (.ite ((h.readCell ..).steady (mapEng_steady ..))
    ((Sound.ite ((h.readCell ..).steady (engHold_steady ..)) (h.readCell ..)).steady (mapEng_steady ..)))))

theorem Sound.readStep (h : Sound s t) (tile e : Nat) : Sound s (Machine.readStep t tile e) := by
  unfold Machine.readStep
  dsimp only
  refine .ite ?_ ?_
  · refine .ite ?_ ?_
    · refine Sound.steady ?_ (mapEng_steady ..)
      split
      · exact h.sendBeat ..
      · exact h
    · refine .ite ?_ ?_
      · refine Sound.streamOver ?_ ..
        split
        · exact h.sendBeat ..
        · exact h
      · split
        · exact h.sendBeat ..
        · exact h
  · refine .ite ?_ ?_
    · split
      · exact h.sendBeat ..
      · exact h
    · refine .ite ?_ ?_
      · refine Sound.readElem ?_ ..
        split
        · exact h.sendBeat ..
        · exact h
      · split
        · exact h.sendBeat ..
        · exact h

theorem Lands.execStreamElement (h : Sound s t) (tile e : Nat) : Lands s (Machine.execStreamElement tile e t) :=
  (Sound.ite h (.ite (h.retrySpills ..) (.ite (.ite h (h.steady (payOwed_steady ..))) (.ite (h.writeStep ..) (h.readStep ..))))).lands

theorem Lands.execOwnerTokenArrival (h : Sound s t) (tile e : Nat) : Lands s (Machine.execOwnerTokenArrival tile e t) := by
  unfold Machine.execOwnerTokenArrival
  dsimp only
  refine Sound.lands ?_
  refine .ite h ?_
  split
  · exact h
  · exact .ite h (.ite (((h.steady (takeHead_steady ..)).steady (mapEng_steady ..)).steady (moved_steady ..)) (h.post ..))

theorem Lands.execOwnerTokenSend (h : Sound s t) (tile e : Nat) : Lands s (Machine.execOwnerTokenSend tile e t) :=
  (Sound.ite h (.ite (h.steady (mapEng_steady ..)) (((h.mapTile ..).steady (mapEng_steady ..)).steady (moved_steady ..)))).lands

theorem Lands.execCoalesceTimeout (h : Sound s t) (tile e : Nat) : Lands s (Machine.execCoalesceTimeout tile e t) :=
  (Sound.ite h (h.foldl (fun _ _ hr => hr.steady (tryLine_steady ..)) _)).lands

theorem Sound.copyDone (h : Sound s t) (th k : Nat) (a : Active) : Sound s (Machine.copyDone t th k a) := by
  unfold Machine.copyDone
  split
  · exact .ite h ((h.mapThread ..).finish ..)
  · exact h.finish ..

theorem Sound.readUnit (h : Sound s t) (a : Ag) (ea : Word) (n : Nat) : Sound s (Machine.readUnit t a ea n).1 := by
  unfold Machine.readUnit
  refine h.foldl_fst (fun _ _ hr => ?_) _
  exact hr.steady (readPiece_steady ..)

theorem Sound.notePeer (h : Sound s t) (th e : Nat) : Sound s (Machine.notePeer t th e) :=
  .ite h (h.mapThread ..)

theorem Sound.copyBeat (h : Sound s t) (th k : Nat) (a : Active) (src : Word) (n : Nat) : Sound s (Machine.copyBeat t th k a src n) := by
  unfold Machine.copyBeat
  dsimp only
  refine .ite h ?_
  split
  all_goals
    rename_i e
    have h1 := (h.readUnit ..).eq e
  · exact h1.holdOn ..
  · refine .ite (h1.engineTrap ..) ?_
    refine Sound.steady ?_ (moved_steady ..)
    refine Sound.complete ?_ ..
    refine Sound.setActive ?_ ..
    refine Sound.notePeer ?_ ..
    refine Sound.mapTile ?_ ..
    split
    · exact h1.draw.poisonOnce ..
    · exact h1

theorem Sound.poisonPiece (h : Sound s t) (a : Ag) (ea : Word) (n : Nat) : Sound s (Machine.poisonPiece t a ea n) := by
  unfold Machine.poisonPiece
  dsimp only
  refine .ite (h.steady (tmemMark_steady ..)) ?_
  split
  all_goals
    rename_i e
    have h1 := (h.steady (translate_steady ..)).eq e
  · refine .ite h1 ?_
    split
    · exact h1
    · exact h1.foldl (fun _ _ hr => hr.setSector ..) _
    · exact h1.mapHome ..
  · exact h1

theorem Sound.copyUnit (h : Sound s t) (th k : Nat) (a : Active) (dst src : Word) (n : Nat) : Sound s (Machine.copyUnit t th k a dst src n) := by
  unfold Machine.copyUnit
  dsimp only
  refine .ite h ?_
  split
  all_goals
    rename_i e
    have h1 := (h.readUnit ..).eq e
  · rename_i s1 _ _ _
    have h2 (c : Bool) (x y : Active) : Sound s (if c = true then (Machine.poisonOnce s1 th 1 k a src, x) else (s1, y)).1 := by
      split
      · exact h1.poisonOnce ..
      · exact h1
    split
    all_goals
      rename_i e
      have h3 := ((h2 ..).steady (writePiece_steady ..)).eq e
    · exact (((h3.foldl (fun _ _ hr => hr.poisonPiece ..) _).setActive ..).complete ..).steady (moved_steady ..)
    · exact h3.holdOn ..
    · exact h3.engineTrap ..
  · exact h1.holdOn ..
  · exact h1.engineTrap ..

theorem Sound.copyStep (h : Sound s t) (th k : Nat) (a : Active) : Sound s (Machine.copyStep t th k a) :=
  .ite (h.complete ..) (.ite (.ite (h.setActive ..) (h.copyDone ..)) (.ite (h.copyBeat ..) (h.copyUnit ..)))

theorem Lands.execCopyLine (h : Sound s t) (th : Nat) : Lands s (Machine.execCopyLine th t) := by
  unfold Machine.execCopyLine
  refine Sound.lands ?_
  split
  · exact .ite (h.copyStep ..) h
  · exact h

theorem Sound.drainBlocked (h : Sound s t) (th : Nat) : Sound s (Machine.drainBlocked t th) :=
  h.mapTile ..

theorem Sound.slotPoison (h : Sound s t) (th k : Nat) (a : Active) (addr : Word) (es : List (Nat × DrainEvent × Bool)) :
    Sound s (Machine.slotPoison t th k a addr es).1 := by
  unfold Machine.slotPoison
  split
  · exact h.poisonOnce ..
  · exact h

theorem Sound.drainNan (h : Sound s t) (th k : Nat) (a : Active) (col : Nat) : Sound s (Machine.drainNan t th k a col) :=
  (Sound.ite h.draw h).engineTrap ..

theorem Sound.drainAccepted (h : Sound s t) (th k : Nat) (a : Active) (row col w m : Nat) (es : List (Nat × DrainEvent × Bool)) :
    Sound s (Machine.drainAccepted t th k a row col w m es) :=
  .ite (((((h.mapTile ..).setActive ..).complete ..).steady (moved_steady ..)).drainNan ..)
    ((((h.mapTile ..).setActive ..).complete ..).steady (moved_steady ..))

theorem Sound.drainBeat (h : Sound s t) (th k : Nat) (a : Active) (row m w : Nat) : Sound s (Machine.drainBeat t th k a row m w) := by
  unfold Machine.drainBeat
  dsimp only
  split
  · exact .ite ((h.accSense ..).drainBlocked ..) (((Sound.ite ((h.accSense ..).slotPoison ..)
      (((h.accSense ..).slotPoison ..).mapGraph ..)).mapTile ..).drainAccepted ..)
  · split
    · exact (h.accSense ..).drainBlocked ..
    · exact .ite ((h.accSense ..).drainBlocked ..) (((((h.accSense ..).slotPoison ..).mapTile ..).notePeer ..).drainAccepted ..)

theorem Sound.drainLine_ (h : Sound s t) (th k : Nat) (a : Active) (row m w : Nat) : Sound s (Machine.drainLine_ t th k a row m w) := by
  unfold Machine.drainLine_
  dsimp only
  refine .ite ((h.accSense ..).drainBlocked ..) ?_
  split
  all_goals
    rename_i e
    have h1 := (((h.accSense ..).slotPoison ..).steady (writePiece_steady ..)).eq e
  · exact (h1.foldl (fun _ _ hr => hr.poisonPiece ..) _).drainAccepted ..
  · exact (h1.holdOn ..).drainBlocked ..
  · exact h1.engineTrap ..

theorem Sound.drainStep (h : Sound s t) (th k : Nat) (a : Active) : Sound s (Machine.drainStep t th k a) :=
  .ite ((Sound.ite (h.mapTile ..) h).complete ..) (.ite ((Sound.ite (h.mapTile ..) h).finish ..)
    (.ite (((Sound.ite (h.mapTile ..) h).mapTile ..).setActive ..)
    (.ite ((Sound.ite (h.mapTile ..) h).drainBeat ..) ((Sound.ite (h.mapTile ..) h).drainLine_ ..))))

theorem Lands.execDrainDeliver (h : Sound s t) (th : Nat) : Lands s (Machine.execDrainDeliver th t) := by
  unfold Machine.execDrainDeliver
  dsimp only
  refine Sound.lands ?_
  split
  · split
    · exact .ite h (.ite (h.drainBlocked ..) (h.drainStep ..))
    · exact h
  · exact h

theorem Lands.execRowOpenTimeout (h : Sound s t) (tile bank : Nat) : Lands s (Machine.execRowOpenTimeout tile bank t) := by
  unfold Machine.execRowOpenTimeout
  refine Sound.lands ?_
  split
  · exact .ite (h.mapTile ..) h
  · exact h

theorem Lands.execRefreshDue (h : Sound s t) (tile bank : Nat) : Lands s (Machine.execRefreshDue tile bank t) :=
  (Sound.ite h (h.mapTile ..)).lands

theorem Lands.execOwedRefresh (h : Sound s t) (tile bank : Nat) : Lands s (Machine.execOwedRefresh tile bank t) :=
  (Sound.ite (.ite h (h.mapTile ..)) (.ite (h.mapTile ..) h)).lands

theorem Lands.execBackgroundActivate (h : Sound s t) (tile bank : Nat) : Lands s (Machine.execBackgroundActivate tile bank t) := by
  unfold Machine.execBackgroundActivate
  dsimp only
  refine Sound.lands ?_
  split
  · exact h
  · exact .ite (h.mapTile ..) h

theorem Lands.execDeadHomeAnswer (h : Sound s t) (n : Nat) : Lands s (Machine.execDeadHomeAnswer n t) := by
  unfold Machine.execDeadHomeAnswer
  refine Sound.lands ?_
  split
  · exact .ite ((h.beside (by rfl)).steady (performOp_steady ..)) h
  · exact h

theorem Sound.hostGot (h : Sound s t) (bs : List Byte) : Sound s (State.hostGot t bs) :=
  h.beside rfl

theorem Sound.serveHost (h : Sound s t) (dev : Option Nat) (part : Nat) (va : Word) (req : HostReq) :
    Sound s (Machine.serveHost t dev part va req) := by
  unfold Machine.serveHost
  dsimp only
  split
  · exact (h.steady (readPiece_steady ..)).hostGot ..
  · exact h.steady (writePiece_steady ..)
  · exact (h.steady (rmwPiece_steady ..)).hostGot ..
  · exact h.hostGot ..
  · exact (h.steady (hostPut_steady ..)).steady (signalLine_steady ..)
  · exact ((h.steady (hostPut_steady ..)).hostGot ..).steady (signalLine_steady ..)

theorem Sound.returnByFlit (h : Sound s t) (port field : Nat) : Sound s (Machine.returnByFlit t port field) :=
  h.foldl (fun _ _ hr => hr.mapTile ..) _

theorem Sound.takeFlit (h : Sound s t) (port : Nat) (flit : BitVec 2048) : Sound s (Machine.takeFlit t port flit) :=
  .ite ((h.returnByFlit ..).mapPort ..) ((h.returnByFlit ..).mapPort ..)

theorem Sound.takeEarly (h : Sound s t) (n port : Nat) : Sound s (Machine.takeEarly n port t) := by
  induction n generalizing t with
  | zero => exact h
  | succ n ih =>
    unfold Machine.takeEarly
    split
    · exact ih ((h.mapPort ..).takeFlit ..)
    · exact h

theorem Sound.warnZone (h : Sound s t) (z temp : Nat) : Sound s (Machine.warnZone t z temp) :=
  ((h.mapZone ..).moduleEvent ..).foldl (fun _ _ hr => hr.graphTrap ..) _

theorem Sound.stretchMore (h : Sound s t) (zone : Nat) : Sound s (Machine.stretchMore t zone) :=
  .ite h ((h.beside (by rfl)).moduleEvent ..)

theorem Lands.execThermalDeadline (h : Sound s t) (zone : Nat) : Lands s (Machine.execThermalDeadline zone t) := by
  unfold Machine.execThermalDeadline
  dsimp only
  refine Sound.lands ?_
  split
  · exact .ite h ((h.mapZone ..).stretchMore ..)
  · exact h

theorem Sound.releaseStep (h : Sound s t) : Sound s (Machine.releaseStep t) := by
  unfold Machine.releaseStep
  dsimp only
  refine .ite (h.beside rfl) ?_
  split
  · exact h.beside rfl
  · exact .ite h (h.beside (by rfl))

theorem Lands.execStretchStep (h : Sound s t) (zone : Nat) : Lands s (Machine.execStretchStep zone t) :=
  (Sound.ite (.ite h ((h.mapZone ..).stretchMore ..)) h.releaseStep).lands

end Sys2Proof.Machine
end

section
/-! PROOF. That every action keeps every memory: a fetch and the parts of one cycle of the device. -/

namespace Sys2Proof.Machine
open Sys2Proof.Safety
variable {s t : State}

theorem Sound.fetchWord (h : Sound s t) (tile : Nat) (pc : PC) : Sound s (Machine.fetchWord t tile pc).2.2 := by
  unfold Machine.fetchWord
  dsimp only
  split
  · split
    · exact h
    · split
      · exact .ite (h.steady (tmemSense_steady ..)).draw (h.draw.mapTile ..)
      · exact h.draw
  · exact .ite (h.steady (tmemSense_steady ..)) (h.mapTile ..)

theorem Sound.fetched (h : Sound s t) (i : Nat) : Sound s (Machine.fetched t i).2 := by
  have h1 := h.fetchWord (tileOf i) (t.thread i).pc
  unfold Machine.fetched
  dsimp only
  split
  all_goals
    rename_i e
    rw [e] at h1
    exact h1

theorem Sound.takeSlot (h : Sound s t) (i : Nat) : Sound s (Machine.takeSlot t i) :=
  h.beside rfl

theorem Sound.permitCycle (h : Sound s t) : Sound s (Machine.permitCycle t) :=
  h.takeAll (.map (fun _ _ hr => .execPermitReturn hr ..) _)

theorem Sound.mzeroPerform (h : Sound s t) (th k : Nat) (a : Active) : Sound s (Machine.mzeroPerform t th k a) :=
  (h.mapTile ..).finish ..

theorem Sound.mzeroTurn (h : Sound s t) (th : Nat) : Sound s (Machine.mzeroTurn t th) := by
  unfold Machine.mzeroTurn
  dsimp only
  split
  · split
    · exact .ite h (h.mzeroPerform ..)
    · exact h
  · exact h

theorem Sound.engineCycle (h : Sound s t) : Sound s (Machine.engineCycle t) := by
  refine ((h.takeAll ?_).foldl (fun _ _ hr => hr.mzeroTurn ..) _).takeAll (.map (fun _ _ hr => .execVectorWrite hr ..) _)
  exact (((((Tries.map (fun _ _ hr => .execVectorEntry hr ..) _).append
    (.flatMap (fun _ => .map (fun _ _ hr => .execEngineCommandStart hr ..) _) _)).append
    (.map (fun _ _ hr => .execCopyLine hr ..) _)).append (.map (fun _ _ hr => .execRegionTransfer hr ..) _)).append
    (.map (fun _ _ hr => .execPlaneFillApply hr ..) _)).append (.map (fun _ _ hr => .execDrainDeliver hr ..) _)

theorem Sound.streamRun (h : Sound s t) (n tile e : Nat) : Sound s (Machine.streamRun n tile e t) := by
  induction n generalizing t with
  | zero => exact h
  | succ n ih =>
    unfold Machine.streamRun
    have h1 := h.take (fun _ hr => Lands.execStreamElement hr tile e)
    exact .ite (ih h1) h1

theorem Sound.engineTurn (h : Sound s t) (tile e : Nat) : Sound s (Machine.engineTurn tile e t) :=
  ((h.takeAll (.cons (fun _ hr => .execCoalesceTimeout hr ..) (.cons (fun _ hr => .execOwnerTokenArrival hr ..) .nil))).streamRun ..).take
    (fun _ hr => .execOwnerTokenSend hr ..)

theorem Sound.arbitrate (h : Sound s t) : Sound s (Machine.arbitrate t) :=
  h.foldl (fun _ _ hr => hr.mapTile ..) _

theorem Sound.hangCount (h : Sound s t) (k : Nat) : Sound s (Machine.hangCount t k) :=
  .ite (h.mapGraph ..) h

theorem Sound.nextCycle (h : Sound s t) : Sound s (Machine.nextCycle t) :=
  (h.beside (by rfl)).foldl (fun _ _ hr => hr.hangCount ..) _

theorem Sound.endCycle (h : Sound s t) : Sound s (Machine.endCycle t) :=
  (h.takeAll (.map (fun _ _ hr => .execHangDetect hr ..) _)).takeAll
    (.flatMap (fun _ => .map (fun _ _ hr => .execEngineCommandRetire hr ..) _) _)

theorem Sound.fabricCycle (h : Sound s t) (tile : Nat) : Sound s (Machine.fabricCycle tile t) := by
  have nodes (n : Nat) : Tries s [Machine.execSteerNodeFire tile n, Machine.execMergeByArrivalFire tile n, Machine.execMergeByTagFire tile n,
      Machine.execMulticastFire tile n, Machine.execReplicateFire tile n] :=
    .cons (fun _ hr => .execSteerNodeFire hr ..) <| .cons (fun _ hr => .execMergeByArrivalFire hr ..) <|
      .cons (fun _ hr => .execMergeByTagFire hr ..) <| .cons (fun _ hr => .execMulticastFire hr ..) <|
      .cons (fun _ hr => .execReplicateFire hr ..) .nil
  exact h.takeAll (((Tries.flatMap nodes _).append (.map (fun _ _ hr => .execOutputEndpointFire hr ..) _)).append
    (.map (fun _ _ hr => .execClockGate hr ..) _))

theorem Sound.streamCycle (h : Sound s t) (tile : Nat) : Sound s (Machine.streamCycle tile t) :=
  h.foldl (fun _ _ hr => hr.engineTurn ..) _

theorem Sound.hostTurn (h : Sound s t) : Sound s (Machine.hostTurn t) := by
  unfold Machine.hostTurn
  dsimp only
  split
  · exact h
  · exact .ite h ((h.beside (by rfl)).serveHost ..)

theorem Sound.peerBeat (h : Sound s t) (port ep : Nat) (b : Beat) : Sound s (Machine.peerBeat t port ep b) := by
  unfold Machine.peerBeat
  dsimp only
  split
  · exact h.mapPort ..
  · split
    · exact h
    · rename_i came
      exact (((h.arriveBeat came).mapPort ..).mapTile ..).steady (returnPermits_steady ..)

theorem Sound.takeArrived (h : Sound s t) (port : Nat) : Sound s (Machine.takeArrived t port) := by
  unfold Machine.takeArrived
  split
  · exact h
  · refine .ite (h.mapPort ..) ?_
    split
    · exact h.peerBeat ..
    · split
      · rename_i e
        exact (Lands.execFarPortBeat h ..).sound _ e
      · exact h

theorem Sound.sendFlit (h : Sound s t) (port : Nat) : Sound s (Machine.sendFlit t port) :=
  .ite h (.ite (.ite h (h.mapPort ..)) (h.mapPort ..))

theorem Sound.portCycle (h : Sound s t) (port : Nat) : Sound s (Machine.portCycle t port) := by
  unfold Machine.portCycle
  dsimp only
  refine ((h.takeArrived port).foldl (fun r w hr => ?_) _).sendFlit port
  split
  · rename_i e
    exact (Lands.execFarPortBeat hr ..).sound _ e
  · exact hr

theorem Sound.restoresDue (h : Sound s t) : Sound s (Machine.restoresDue t) :=
  h.foldl (fun _ _ hr => hr.beside (by rfl)) _

theorem Sound.homeCycle (h : Sound s t) : Sound s (Machine.homeCycle t) :=
  ((h.takeAll (.map (fun _ _ hr => .execDeadHomeAnswer hr ..) _)).takeAll (.map (fun _ _ hr => .execHomePerform hr ..) _)).foldl
    (fun _ _ hr => hr.steady (undoThreshold_steady ..)) _

theorem Sound.noteFullQueue (h : Sound s t) (i : Nat) : Sound s (Machine.noteFullQueue t i) :=
  .ite (h.mapThread ..) h

theorem Sound.threadCycle (h : Sound s t) : Sound s (Machine.threadCycle t) := by
  refine (h.takeAll ?_).foldl (fun _ _ hr => hr.noteFullQueue ..) _
  exact (((Tries.map (fun _ _ hr => .execCommit hr ..) _).append (.map (fun _ _ hr => .execKnotRetire hr ..) _)).append
    (.map (fun _ _ hr => .execKnotRetire hr ..) _)).append (.map (fun _ _ hr => .execHeldFault hr ..) _)

theorem Sound.waveCycle (h : Sound s t) : Sound s (Machine.waveCycle t) := by
  have markers (ti k n : Nat) : Tries s ((List.range n).map (Machine.execMarkerArrival ti k)) :=
    .map (fun _ _ hr => .execMarkerArrival hr ..) _
  refine h.foldl (fun r g hr => .ite hr (hr.takeAll (.append (.flatMap (fun ti => ?_) _) ?_))) _
  · exact ((((markers _ _ _).append (markers _ _ _)).append (markers _ _ _)).append (markers _ _ _)).append
      (.cons (fun _ hr => .execSnapshotRowSave hr ..) .nil)
  · exact .cons (fun _ hr => .execWaveComplete hr ..) (.cons (fun _ hr => .execLatencyLimitExpiry hr ..) .nil)

theorem Sound.performNoted (h : Sound s t) (n : Noted) : Sound s (Machine.performNoted t n) :=
  (((h.foldl (fun _ _ hr => hr.steady (homeRow_steady ..)) _).foldl (fun _ _ hr => hr.setSector ..) _).steady (readEach_steady ..)).foldl
    (fun _ _ hr => .ite hr (hr.setSector ..)) _

theorem Sound.vaultCycle (h : Sound s t) : Sound s (Machine.vaultCycle t) := by
  refine ((h.beside (by rfl)).foldl (fun _ _ hr => hr.performNoted ..) _).takeAll (.flatMap (fun ti => .flatMap (fun b => ?_) _) _)
  exact .cons (fun _ hr => .execRowOpenTimeout hr ..) <| .cons (fun _ hr => .execRefreshDue hr ..) <|
    .cons (fun _ hr => .execOwedRefresh hr ..) <| .cons (fun _ hr => .execBackgroundActivate hr ..) .nil

theorem Sound.serveLink (h : Sound s t) (l : Nat × Nat) : Sound s (Machine.serveLink t l) := by
  unfold Machine.serveLink
  split
  · exact h.take (fun _ hr => Lands.execMeshHop hr ..)
  · exact h

theorem Sound.arrivals (h : Sound s t) (k n : Nat) : Sound s (Machine.arrivals k n t) := by
  induction k generalizing t n with
  | zero => exact h
  | succ k ih =>
    unfold Machine.arrivals
    have h1 := h.take (fun _ hr => Lands.execBeatArrival hr n)
    exact .ite (ih h1 n) (ih h1 (n + 1))

theorem Sound.linkCycle (h : Sound s t) : Sound s (Machine.linkCycle t) := by
  unfold Machine.linkCycle
  dsimp only
  exact ((((h.takeAll (.map (fun _ _ hr => .execMeshHop hr ..) _)).foldl (fun _ _ hr => hr.serveLink ..) _).arrivals ..).takeAll
    (.flatMap (fun _ => .map (fun _ _ hr => .execCoilRefill hr ..) _) _)).takeAll
    (.flatMap (fun _ => .map (fun _ _ hr => .execFeedBeatMove hr ..) _) _)

end Sys2Proof.Machine
end

section
/-! PROOF. O59: one step of the machine keeps every memory; the actions that set when the dispatcher next evaluates keep it too. -/

namespace Sys2Proof.Machine
open Sys2Proof.Safety

theorem memoryOk_next {s t : State} {o : Out} (m : MemoryOk s) (e : o = .next t) (h : Lands s o) : MemoryOk t := (h.sound t e).memory m

/-- Device steps each of which keeps every memory. -/
def Keeps (fs : List (State → Out)) : Prop := ∀ f ∈ fs, ∀ s t, MemoryOk s → f s = .next t → MemoryOk t

theorem Tries.keeps {fs : List (State → Out)} (h : ∀ s, Tries s fs) : Keeps fs :=
  fun f mem s _ m e => memoryOk_next m e (h s f mem s (.refl s))

theorem Keeps.append {fs gs : List (State → Out)} (h : Keeps fs) (k : Keeps gs) : Keeps (fs ++ gs) := List.forall_mem_append.mpr ⟨h, k⟩

theorem take_memory {f : State → Out} (h : ∀ s t, MemoryOk s → f s = .next t → MemoryOk t) {s : State} (m : MemoryOk s) :
    MemoryOk (take f s) := by
  unfold take
  split
  · rename_i e
    exact h s _ m e
  · exact m

theorem takeAll_memory {fs : List (State → Out)} (h : Keeps fs) {s : State} (m : MemoryOk s) : MemoryOk (takeAll fs s) := by
  unfold takeAll
  induction fs generalizing s with
  | nil => exact m
  | cons f fs ih =>
    obtain ⟨here, rest⟩ := List.forall_mem_cons.mp h
    exact ih rest (take_memory here m)

theorem execDispatchEvaluation_memory (part : Nat) {s t : State} (m : MemoryOk s) (e : execDispatchEvaluation part s = .next t) : MemoryOk t := by
  obtain rfl := Host.Outcome.next.inj e
  dsimp only
  split
  · exact m
  · exact ((Sound.refl (s.mapPart part _)).evaluate part).memory m

theorem execPowerUp_memory {s t : State} (m : MemoryOk s) (e : execPowerUp s = .next t) : MemoryOk t := by
  obtain rfl := Host.Outcome.next.inj e
  have blank : MemoryOk { State.reset with host := s.host } := ⟨rfl, rfl, m.2.2.1, rfl⟩
  dsimp only
  split
  · exact blank
  · refine (Sound.foldl (.refl _) (fun _ _ hr => ?_) _).memory blank
    exact (hr.mapPart _ (fun _ => by rfl)).moduleEvent ..

theorem execPartitionChange_memory (part x y w k : Nat) (bankmap : Word) (ports : BitVec 128) (queues : BitVec 256) {s t : State}
    (m : MemoryOk s) (e : execPartitionChange part x y w k bankmap ports queues s = .next t) : MemoryOk t := by
  obtain rfl := Host.Outcome.next.inj e
  dsimp only
  split
  · exact m
  · have m1 (c : Prop) [Decidable c] (f : Part → Part) (x : Module) :
        MemoryOk (if c then { s.mapPart part f with mod := x } else s.mapPart part f) := by
      split
      · exact m
      · exact m
    refine Sound.memory (.ite (.moduleEvent (.refl _) ..) (.refl _)) ?_
    exact m1 ..

theorem moduleCycle_memory {s : State} (m : MemoryOk s) : MemoryOk (moduleCycle s) := by
  have before (ks : List Nat) (ps : List Nat) : Keeps (ks.map execGraphRetire ++ ps.map execSliceEnd ++ ps.map execContextSwitch) :=
    Tries.keeps fun _ => ((Tries.map (fun _ _ hr => .execGraphRetire hr ..) _).append (.map (fun _ _ hr => .execSliceEnd hr ..) _)).append
      (.map (fun _ _ hr => .execContextSwitch hr ..) _)
  have evaluations (ps : List Nat) : Keeps (ps.map execDispatchEvaluation) :=
    List.forall_mem_map.mpr fun part _ _ _ m e => execDispatchEvaluation_memory part m e
  unfold moduleCycle
  dsimp only
  refine (((Sound.refl _).restoresDue.foldl (fun _ _ hr => hr.portCycle ..) _).hostTurn).memory (takeAll_memory ?_ m)
  exact ((((before _ _).append (evaluations _)).append (Tries.keeps fun _ => .map (fun _ _ hr => .execEgressThreshold hr ..) _)).append
    (Tries.keeps fun _ => .map (fun _ _ hr => .execThermalDeadline hr ..) _)).append
    (Tries.keeps fun _ => .map (fun _ _ hr => .execStretchStep hr ..) _)

theorem deviceTurn_memory {s t : State} (m : MemoryOk s) (e : deviceTurn s = .next t) : MemoryOk t := by
  obtain rfl := Host.Outcome.next.inj e
  have h1 := (Sound.refl s).endCycle.nextCycle.arbitrate.engineCycle.permitCycle
  exact moduleCycle_memory
    ((h1.foldl (fun _ ti hr => (hr.streamCycle ti).fabricCycle ti) _).linkCycle.vaultCycle.waveCycle.threadCycle.homeCycle.memory m)

theorem exec_memory {i : Instr} {s t : State} (e : exec i s = .next t) (m : MemoryOk s) : MemoryOk t := by
  cases i with
  | nop | yield | loop | lcsetImm | lcchain | lcchainNone => exact memoryOk_next m e ((Sound.refl s).mapMe ..).lands
  | halt => exact memoryOk_next m e (.execHalt (.refl s))
  | knot | knotW => exact memoryOk_next m e ((Sound.refl s).knotOp ..).lands
  | kwait => exact memoryOk_next m e ((Sound.refl s).inBight _ _ _ _ (fun _ hr => .ite ((Sound.refl s).waitAs ..) (hr.mapMe ..))).lands
  | time | tid | add | sub | and | or | xor | andn | shl | shr | sra | rotl | min | max | minu | maxu | sel | mul | mulh | mulhu | div | divu | rem
  | remu | clz | ctz | popc | sextb | sexth | sextw | pget | addi | andi | ori | xori | shli | shri | srai | li | lis | vext | lookup =>
    exact memoryOk_next m e ((Sound.refl s).scalarOp ..).lands
  | cmpeq | cmpne | cmplt | cmple | cmpltu | cmpleu | pand | por | pxor | pnot | pset => exact memoryOk_next m e ((Sound.refl s).predOp ..).lands
  | lcsetReg | j | call | jr | callr | tagread => exact memoryOk_next m e ((Sound.refl s).inBight _ _ _ _ (fun _ hr => hr.mapMe ..)).lands
  | mfs => exact memoryOk_next m e (Sound.ite ((Sound.refl s).raiseFree ..) ((Sound.refl s).scalarOp ..)).lands
  | mts =>
    exact memoryOk_next m e (Sound.ite ((Sound.refl s).raiseFree ..)
      (.ite ((Sound.refl s).raiseFree ..) ((Sound.refl s).irrevocable _ _ _ _
      (fun _ hr => .ite (hr.waitAs ..) ((hr.setSysreg ..).mapMe ..))))).lands
  | beq | bne | blt | bge | bltu | bgeu | bp | bpAny | bpAll | bnp | bnpAny | bnpAll => exact memoryOk_next m e ((Sound.refl s).branchIf ..).lands
  | ldb | ldbu | ldh | ldhu | ldw | ldwu | ldd | indexedLoad | ldacq => exact memoryOk_next m e ((Sound.refl s).loadScalar ..).lands
  | stb | sth | stw | std | indexedStore | strel => exact memoryOk_next m e ((Sound.refl s).storeScalar ..).lands
  | vadd | vsub | vmul | vmin | vmax => exact memoryOk_next m e ((Sound.refl s).arith2 ..).lands
  | vabs | vneg => exact memoryOk_next m e ((Sound.refl s).arith1 ..).lands
  | vfma | vfms | vfnma => exact memoryOk_next m e ((Sound.refl s).fused ..).lands
  | vand | vor | vxor | vshl | vshr | vsra => exact memoryOk_next m e ((Sound.refl s).bitwise ..).lands
  | vcmpEq | vcmpNe | vcmpLt | vcmpLe | vcmpUn => exact memoryOk_next m e ((Sound.refl s).compare ..).lands
  | vsel | vpack | vunpack => exact memoryOk_next m e ((Sound.refl s).wholeLanes ..).lands
  | vmov | vbcast | vdot | vdiv => exact memoryOk_next m e ((Sound.refl s).lanewise ..).lands
  | vins | vscan | vcvt | vqcvt | vdqcvt | vmask12 => exact memoryOk_next m e ((Sound.refl s).vectorOp ..).lands
  | vperm | vshufLo | vshufHi | vshufEven | vshufOdd | vslideUp | vslideDn => exact memoryOk_next m e ((Sound.refl s).permute ..).lands
  | vredsum | vredmax | vredmin => exact memoryOk_next m e ((Sound.refl s).reduce ..).lands
  | vsqrt | vrcp | vrsq | vexp2 | vlog2 => exact memoryOk_next m e ((Sound.refl s).unary ..).lands
  | vld | vlds | vgath => exact memoryOk_next m e ((Sound.refl s).vectorLoad ..).lands
  | vst | amo => exact memoryOk_next m e ((Sound.refl s).bufferOp ..).lands
  | vsts | vscat => exact memoryOk_next m e ((Sound.refl s).scatter ..).lands
  | amor | amocas => exact memoryOk_next m e ((Sound.refl s).returningAtomic ..).lands
  | fence => exact memoryOk_next m e ((Sound.refl s).irrevocableFenced _ _ _ _ _ _ (fun _ hr => (Sound.ite (hr.mapTile ..) hr).mapMe ..)).lands
  | cleatInit | cleatExp | cleatArv => exact memoryOk_next m e ((Sound.refl s).cleatUpdate ..).lands
  | cleatWait =>
    exact memoryOk_next m e (Sound.ite (Sound.refl s) ((Sound.refl s).cleatRead _ _ _ _ (fun _ _ hr => .ite (hr.mapMe ..) (hr.waitAs ..)))).lands
  | cleatTest => exact memoryOk_next m e ((Sound.refl s).cleatRead _ _ _ _ (fun _ _ hr => hr.mapMe ..)).lands
  | join =>
    exact memoryOk_next m e ((Sound.refl s).irrevocable _ _ _ _ (fun _ hr => hr.rmwOutside _ _ _ _ _
      (fun _ _ hr => .ite (hr.raiseOutside ..) (hr.mapMe ..)))).lands
  | leave =>
    exact memoryOk_next m e ((Sound.refl s).irrevocableFenced _ _ _ _ _ _
      (fun _ hr => hr.rmwOutside _ _ _ _ _ (fun _ _ hr => .ite (hr.raiseOutside ..) (hr.mapMe ..)))).lands
  | gbar => exact memoryOk_next m e (.execGbar (.refl s) ..)
  | tgive | ttake => exact memoryOk_next m e ((Sound.refl s).irrevocable _ _ _ _ (fun _ hr => .ite (hr.mapMe ..) (hr.waitAs ..))).lands
  | tagset | tagclr => exact memoryOk_next m e ((Sound.refl s).tagWrite ..).lands
  | copy | copym | rowstat | plane | planeld | planeldMk | planeinv | configure | unfuse | ctxload | ctxsel | ctxstat | tstdisc | mrun | mrunAcc |
  mzero | mdrain | mstat | sopen | sstart | sstop | sknot | coilset | coilsetNd | launch =>
    exact memoryOk_next m e ((Sound.refl s).issue ..).lands
  | copy2 => exact memoryOk_next m e (.execCopy2 (.refl s) ..)
  | rowact | rowtakePl | rowtakeMk | rowclose => exact memoryOk_next m e ((Sound.refl s).rowForm ..).lands
  | rowtakeTm | rowput => exact memoryOk_next m e ((Sound.refl s).rowWindowForm ..).lands
  | spush | spushC => exact memoryOk_next m e ((Sound.refl s).pushForm ..).lands
  | spop | spopC | speek | speekC => exact memoryOk_next m e ((Sound.refl s).popForm ..).lands
  | trap => exact memoryOk_next m e ((Sound.refl s).irrevocable _ _ _ _ (fun _ hr => hr.deliver ..)).lands
  | sysret | sysretRe => exact memoryOk_next m e ((Sound.refl s).sysret ..).lands
  | tlbinv | tlbinva => exact memoryOk_next m e ((Sound.refl s).systemOp _ _ _ _ (fun _ hr => (hr.dropTlb ..).mapMe ..)).lands
  | probe | graphctlStat | graphctlStall | graphctlSlot => exact memoryOk_next m e ((Sound.refl s).systemOp _ _ _ _ (fun _ hr => hr.mapMe ..)).lands
  | wavereq => exact memoryOk_next m e ((Sound.refl s).systemOp _ _ _ _ (fun _ hr => (hr.requestWave ..).mapMe ..)).lands
  | codecinv =>
    exact memoryOk_next m e ((Sound.refl s).systemOp _ _ _ _ (fun _ hr => .ite ((Sound.refl s).waitAs ..) ((hr.dropBlocks ..).mapMe ..))).lands
  | codecinvDesc =>
    exact memoryOk_next m e ((Sound.refl s).systemOp _ _ _ _ (fun _ hr => .ite ((Sound.refl s).waitAs ..)
      (((hr.dropBlocks ..).beside (by rfl)).mapMe ..))).lands
  | freeze | freezeOff => exact memoryOk_next m e ((Sound.refl s).freezeOp ..).lands
  | graphctlTerm => exact memoryOk_next m e (.execGraphctlTerm (.refl s) ..)
  | illegalWord => exact memoryOk_next m e ((Sound.refl s).raise ..).lands
  | poisonedFetch => exact memoryOk_next m e (((Sound.refl s).steady (poisonRecord_steady ..)).raise ..).lands
  | engineTrapPoint => exact memoryOk_next m e (.execEngineTrapPoint (.refl s) ..)
  | heldFault => exact memoryOk_next m e (.execHeldFault (.refl s) ..)
  | heldFaultRetry =>
    exact memoryOk_next m e ((Sound.refl s).foldl (fun _ _ hr => (hr.mapThread ..).foldl (fun _ _ hr => .ite (hr.post ..) hr) _) _).lands
  | spillQueueRetry => exact memoryOk_next m e ((Sound.refl s).retrySpills ..).lands
  | frameCapture => exact memoryOk_next m e (.execFrameCapture (.refl s) ..)
  | loadingComplete => exact memoryOk_next m e (.execLoadingComplete (.refl s) ..)
  | markerArrival => exact memoryOk_next m e (.execMarkerArrival (.refl s) ..)
  | rollback => exact memoryOk_next m e (.execRollback (.refl s) ..)
  | elementFault => exact memoryOk_next m e (.execElementFault (.refl s) ..)
  | dispatchEvaluation => exact execDispatchEvaluation_memory _ m e
  | graphRetire => exact memoryOk_next m e (.execGraphRetire (.refl s) ..)
  | contextSwitch => exact memoryOk_next m e (.execContextSwitch (.refl s) ..)
  | waveComplete => exact memoryOk_next m e (.execWaveComplete (.refl s) ..)
  | hangDetect => exact memoryOk_next m e (.execHangDetect (.refl s) ..)
  | beatArrival => exact memoryOk_next m e (.execBeatArrival (.refl s) ..)
  | flitReplay => exact memoryOk_next m e (.execFlitReplay (.refl s) ..)
  | portDown => exact memoryOk_next m e (Sound.ite (Sound.refl s) (((Sound.refl s).takeDown ..).moduleEvent ..)).lands
  | farPortBeat => exact memoryOk_next m e (.execFarPortBeat (.refl s) ..)
  | rowRemap => exact memoryOk_next m e ((Sound.refl s).steady (remapRow_steady ..)).lands
  | queueTailWrite => exact memoryOk_next m e (.execQueueTailWrite (.refl s) ..)
  | commit => exact memoryOk_next m e (.execCommit (.refl s) ..)
  | knotRetire => exact memoryOk_next m e (.execKnotRetire (.refl s) ..)
  | engineCommandStart => exact memoryOk_next m e (.execEngineCommandStart (.refl s) ..)
  | engineCommandRetire => exact memoryOk_next m e (.execEngineCommandRetire (.refl s) ..)
  | sliceEnd => exact memoryOk_next m e (.execSliceEnd (.refl s) ..)
  | latencyLimitExpiry => exact memoryOk_next m e (.execLatencyLimitExpiry (.refl s) ..)
  | snapshotRowSave => exact memoryOk_next m e (.execSnapshotRowSave (.refl s) ..)
  | egressThreshold => exact memoryOk_next m e (.execEgressThreshold (.refl s) ..)
  | homePerform => exact memoryOk_next m e (.execHomePerform (.refl s) ..)
  | outputEndpointFire => exact memoryOk_next m e (.execOutputEndpointFire (.refl s) ..)
  | meshHop => exact memoryOk_next m e (.execMeshHop (.refl s) ..)
  | permitReturn => exact memoryOk_next m e (.execPermitReturn (.refl s) ..)
  | coilRefill => exact memoryOk_next m e (.execCoilRefill (.refl s) ..)
  | steerNodeFire => exact memoryOk_next m e (.execSteerNodeFire (.refl s) ..)
  | mergeByArrivalFire => exact memoryOk_next m e (.execMergeByArrivalFire (.refl s) ..)
  | mergeByTagFire => exact memoryOk_next m e (.execMergeByTagFire (.refl s) ..)
  | multicastFire => exact memoryOk_next m e (.execMulticastFire (.refl s) ..)
  | replicateFire => exact memoryOk_next m e (.execReplicateFire (.refl s) ..)
  | clockGate => exact memoryOk_next m e (.execClockGate (.refl s) ..)
  | feedBeatMove => exact memoryOk_next m e (.execFeedBeatMove (.refl s) ..)
  | vectorEntry => exact memoryOk_next m e (.execVectorEntry (.refl s) ..)
  | vectorWrite => exact memoryOk_next m e (.execVectorWrite (.refl s) ..)
  | planeFillApply => exact memoryOk_next m e (.execPlaneFillApply (.refl s) ..)
  | regionTransfer => exact memoryOk_next m e (.execRegionTransfer (.refl s) ..)
  | streamElement => exact memoryOk_next m e (.execStreamElement (.refl s) ..)
  | ownerTokenArrival => exact memoryOk_next m e (.execOwnerTokenArrival (.refl s) ..)
  | ownerTokenSend => exact memoryOk_next m e (.execOwnerTokenSend (.refl s) ..)
  | coalesceTimeout => exact memoryOk_next m e (.execCoalesceTimeout (.refl s) ..)
  | copyLine => exact memoryOk_next m e (.execCopyLine (.refl s) ..)
  | drainDeliver => exact memoryOk_next m e (.execDrainDeliver (.refl s) ..)
  | rowOpenTimeout => exact memoryOk_next m e (.execRowOpenTimeout (.refl s) ..)
  | refreshDue => exact memoryOk_next m e (.execRefreshDue (.refl s) ..)
  | owedRefresh => exact memoryOk_next m e (.execOwedRefresh (.refl s) ..)
  | backgroundActivate => exact memoryOk_next m e (.execBackgroundActivate (.refl s) ..)
  | deadHomeAnswer => exact memoryOk_next m e (.execDeadHomeAnswer (.refl s) ..)
  | hostAccess => exact memoryOk_next m e (Sound.ite (Sound.refl s) (.ite ((Sound.refl s).serveHost ..) ((Sound.refl s).beside (by rfl)))).lands
  | flitReceive =>
    exact memoryOk_next m e (Sound.ite (Sound.refl s) (.ite ((Sound.refl s).mapPort ..)
      (.ite (((Sound.refl s).mapPort ..).post ..) (.ite (((Sound.refl s).mapPort ..).returnByFlit ..)
      (.ite ((((Sound.refl s).mapPort ..).takeFlit ..).takeEarly ..)
      (.ite (((Sound.refl s).mapPort ..).mapPort ..) ((Sound.refl s).mapPort ..))))))).lands
  | portUp =>
    exact memoryOk_next m e (Sound.ite (Sound.refl s) ((Sound.ite (((Sound.refl s).mapPort ..).retireLane ..) ((Sound.refl s).mapPort ..)).moduleEvent
      ..)).lands
  | powerUp => exact execPowerUp_memory m e
  | attestationRequest | firmwareUpdate | deviceFreeze => exact memoryOk_next m e ((Sound.refl s).beside (by rfl)).lands
  | pldmMonitorRead => exact memoryOk_next m e (Sound.refl s).lands
  | thermalSample =>
    exact memoryOk_next m e (Sound.ite (Sound.refl s) (.ite (((Sound.ite (((Sound.refl s).mapZone ..).warnZone ..)
      ((Sound.refl s).mapZone ..)).moduleEvent ..).beside (by rfl))
      (.ite (((Sound.refl s).mapZone ..).warnZone ..) (.ite (((Sound.refl s).mapZone ..).mapZone ..) ((Sound.refl s).mapZone ..))))).lands
  | thermalDeadline => exact memoryOk_next m e (.execThermalDeadline (.refl s) ..)
  | stretchStep => exact memoryOk_next m e (.execStretchStep (.refl s) ..)
  | powerLimitStep | deviceFreezeRelease =>
    exact memoryOk_next m e (Sound.ite (Sound.refl s) (((Sound.refl s).beside (by rfl)).moduleEvent ..)).lands
  | partitionChange => exact execPartitionChange_memory _ _ _ _ _ _ _ _ m e
  | tileRetirementByFirmware =>
    exact memoryOk_next m e (Sound.ite (Sound.refl s) ((((Sound.refl s).mapTile ..).steady (record_steady ..)).foldl (fun _ _ hr => hr.trigger ..)
      _)).lands
  | pairLosesAlignment => exact memoryOk_next m e (Sound.ite (Sound.refl s) ((Sound.refl s).retireLane ..)).lands

theorem threadTurn_memory (i : Nat) {s t : State} (m : MemoryOk s) (e : threadTurn s i = .next t) : MemoryOk t := by
  unfold threadTurn at e
  split at e
  · exact exec_memory e m
  · split at e
    · exact memoryOk_next m e ((Sound.refl s).raise ..).lands
    · exact exec_memory e (((Sound.refl s).fetched i).memory m)

theorem step_memory {s t : State} (m : MemoryOk s) (e : step s = .next t) : MemoryOk t := by
  unfold step at e
  split at e
  · split at e
    · exact exec_memory e m
    · split at e
      · cases e
      · obtain rfl := Host.Outcome.next.inj e
        exact m
  · split at e
    · exact exec_memory e m
    · split at e
      · exact threadTurn_memory _ (((Sound.refl s).takeSlot ..).memory m) e
      · exact deviceTurn_memory m e

end Sys2Proof.Machine

open Sys2Proof Sys2Proof.Machine

/-- Settles O59, by what each operation of the model does to the memories, and by cases on the instruction or the device step that runs. -/
theorem memoryKept : Obligations.MemoryKept := fun _ _ m e => step_memory m e
end

section
/-! PROOF. O60: the effect of the device's actions on one access, row, thread or drainer. -/

namespace Sys2Proof.Machine
open Sys2Proof.Safety Sys2Proof.Claims

/-! ### A write that its home performs (R118, R171, R413) -/

/-- What a home's bookkeeping leaves: the vaults, tile memory, the threads and the accesses that wait. -/
def State.core (s : State) : Memory × Memory × Assoc Thread × List HomeOp := (s.vault, s.tmem, s.threads, s.homeQ)

/-- A fold whose every step leaves something of the state leaves it. -/
theorem foldl_same {α β : Type} (p : State → β) {f : State → α → State} {l : List α} (h : ∀ s, ∀ a ∈ l, p (f s a) = p s) (s : State) :
    p (l.foldl f s) = p s := by
  induction l generalizing s with
  | nil => rfl
  | cons a l ih =>
    obtain ⟨here, rest⟩ : (∀ s, p (f s a) = p s) ∧ ∀ s, ∀ b ∈ l, p (f s b) = p s :=
      ⟨fun s => h s a List.mem_cons_self, fun s b mem => h s b (List.mem_cons_of_mem a mem)⟩
    exact (ih rest (f s a)).trans (here s)

theorem homeRow_core (s : State) (key : Nat) : (homeRow s key).core = s.core := by
  unfold homeRow
  dsimp only
  split
  · rfl
  · rfl

theorem touchSector_core (s : State) (k tag : Nat) (whole setTag : Bool) : (touchSector s k tag whole setTag).core = s.core := by
  unfold touchSector
  dsimp only
  split
  · rfl
  · split
    · rfl
    · split
      · rfl
      · rfl

theorem patchUndo_core (s : State) (a : Ag) (key n : Nat) (f : List Byte → List Byte) : (patchUndo s a key n f).core = s.core := by
  unfold patchUndo
  dsimp only
  split
  · rfl
  · refine (foldl_same State.core (fun _ _ _ => ?_) _).trans ?_
    · rfl
    · rfl

theorem signalLine_core (s : State) (line : Nat × Nat) : (signalLine s line).core = s.core := by
  refine foldl_same State.core (fun s p _ => ?_) _
  split
  · rfl
  · rfl

theorem signalQueue_core (s : State) (e : Nat) (large : Bool) (ea : Word) : (signalQueue s e large ea).core = s.core := by
  unfold signalQueue
  split
  · exact signalLine_core ..
  · exact signalLine_core ..
  · rfl

/-- R413: a graph that is not contained logs nothing. -/
theorem undoLog_loose {s : State} {a : Ag} {kind key : Nat} (loose : contained (s.graph a.graph) = false) : undoLog s a kind key = s := by
  unfold undoLog
  dsimp only
  rw [loose, Bool.not_false, Bool.or_true, Bool.true_or]
  exact if_pos rfl

/-- Where the leaf and the sectors let a write pass: the place, its home, and clean sectors with the address's tag. -/
structure Writable (s : State) (at_ : Nat) (e : Nat) (large : Bool) (ea : Word) (n : Nat) : Prop where
  global : isLocal ea = false
  pos : 0 < n
  line : ea.toNat % 64 + n ≤ 64
  leaf : leafCheck e true false = 0
  plain : Pte.ts e = false
  place : placeOf e large (vaOf ea) = .vault (2 ^ 28 * Pte.tile e + (Pte.off e + ea.toNat % 2 ^ 56 % (if large then 2 ^ 26 else 2 ^ 16)))
  alive : homeDead s at_ (Pte.tile e) = false
  free : accessHeld s e large ea = false
  clean : ∀ k ∈ sectorsOf (2 ^ 28 * Pte.tile e + (Pte.off e + ea.toNat % 2 ^ 56 % (if large then 2 ^ 26 else 2 ^ 16))) n,
    (s.sector k).cond = .clean ∧ (s.sector k).tag.toNat = tagOf ea

theorem GlobalSite.writable {s : State} {at_ n : Nat} {e : Word} {large : Bool} {ea : Word} (h : GlobalSite s at_ e large ea n) :
    Writable s at_ e.toNat large ea n := by
  obtain ⟨space, pos, line, writes, user, plain, notHost, notCodec, alive, free, clean⟩ := h
  refine ⟨?_, pos, line, ?_, plain, ?_, alive, free, fun k mem => ?_⟩
  · rw [isLocal, spaceOf, fld]
    simp
    omega
  · rw [leafCheck, writes, user, plain]
    rfl
  · rw [placeOf]
    simp only [notHost, notCodec, Bool.false_eq_true, if_false]
    rfl
  · obtain ⟨lo, hi⟩ := (mem_sectorsOf pos).1 mem
    exact clean k lo hi

/-- R118, R171: a write to clean sectors of its tag puts its bytes into the vault. -/
theorem homeWrite_clean {s : State} {a : Ag} {e : Nat} {large : Bool} {ea : Word} {bytes : List Byte}
    (h : Writable s a.tile e large ea bytes.length) (loose : contained (s.graph a.graph) = false) :
    ∃ t, homeWrite s a e large ea bytes 0 false = (t, 0) ∧
      t.core = (Memory.writeBytes s.vault (2 ^ 28 * Pte.tile e + (Pte.off e + ea.toNat % 2 ^ 56 % (if large then 2 ^ 26 else 2 ^ 16))) bytes,
        s.tmem, s.threads, s.homeQ) := by
  have place := h.place
  have clean := h.clean
  generalize 2 ^ 28 * Pte.tile e + (Pte.off e + ea.toNat % 2 ^ 56 % (if large then 2 ^ 26 else 2 ^ 16)) = key at place clean ⊢
  obtain ⟨-, -, sector⟩ := homeRow_frame s key
  have clean' (k : Nat) (mem : k ∈ sectorsOf key bytes.length) :
      ((homeRow s key).sector k).cond = .clean ∧ ((homeRow s key).sector k).tag.toNat = tagOf ea := by
    rw [sector]
    exact clean k mem
  have fits : tagRefuses (homeRow s key) (sectorsOf key bytes.length) (tagOf ea) = false := by
    refine List.any_eq_false.2 fun k mem => ?_
    rw [(clean' k mem).2, bne_self_eq_false, Bool.and_false]
    exact Bool.false_ne_true
  have loose' : contained ((homeRow s key).graph a.graph) = false := by
    unfold homeRow
    dsimp only
    split
    · exact loose
    · exact loose
  unfold homeWrite
  rw [place]
  dsimp only
  rw [h.alive, if_neg Bool.false_ne_true, h.plain]
  simp only [Bool.or_false]
  rw [readEach_clean _ (fun k mem => (clean' k ((List.mem_filter.1 mem).1)).1)]
  dsimp only
  rw [fits, undoLog_loose loose']
  refine ⟨_, rfl, (foldl_same State.core (fun r k mem => ?_) _).trans ?_⟩
  · rw [(clean' k mem).1]
    exact touchSector_core ..
  have core : (patchUndo (homeRow s key) a key bytes.length (fun _ => bytes)).core = s.core := (patchUndo_core ..).trans (homeRow_core ..)
  simp only [State.core, Prod.mk.injEq] at core ⊢
  obtain ⟨vault, tmem, threads, homeQ⟩ := core
  exact ⟨congrArg (fun m => Memory.writeBytes m key bytes) vault, tmem, threads, homeQ⟩

/-- R171: the one access that waits, a store whose home it may reach, is performed. -/
theorem homePerform_store {s : State} {o : HomeOp} {bs : List Byte} {pz : Bool} (queue : s.homeQ = [o]) (act : o.act = .store bs pz)
    (device : o.hw = false) (settled : o.settled s = false) (loose : contained (s.graph o.graph) = false)
    (h : Writable s (o.th / 4) o.leaf.toNat o.large o.ea bs.length) :
    ∃ t, exec (.homePerform 0) s = .next t ∧
      t.core = (Memory.writeBytes s.vault (2 ^ 28 * Pte.tile o.leaf.toNat +
        (Pte.off o.leaf.toNat + o.ea.toNat % 2 ^ 56 % (if o.large then 2 ^ 26 else 2 ^ 16))) bs, s.tmem, s.threads, []) := by
  have h0 : Writable { s with homeQ := [] } (o.th / 4) o.leaf.toNat o.large o.ea bs.length := { h with }
  obtain ⟨t, write, core⟩ := homeWrite_clean (s := { s with homeQ := [] }) (a := { o.agent with settled := false }) h0 loose
  have global : isLocal o.ea = false := h.global
  have perform : performOp { s with homeQ := [] } o = t := by
    have snaps : settleSnap { s with homeQ := [] } o = { s with homeQ := [] } := by
      unfold settleSnap
      dsimp only
      rw [global, device]
      rfl
    have unsettled : o.settled { s with homeQ := [] } = false := settled
    unfold performOp
    rw [snaps]
    dsimp only
    rw [unsettled, global, if_neg Bool.false_ne_true, device, if_neg Bool.false_ne_true, act]
    dsimp only
    rw [write]
    rfl
  refine ⟨signalQueue t o.leaf.toNat o.large o.ea, ?_, (signalQueue_core ..).trans core⟩
  have mine : s.homeQ.filter (fun x => lineOf x.leaf.toNat x.large x.ea == lineOf o.leaf.toNat o.large o.ea) = [o] := by
    rw [queue]
    simp
  have others : s.homeQ.filter (fun x => !(lineOf x.leaf.toNat x.large x.ea == lineOf o.leaf.toNat o.large o.ea)) = [] := by
    rw [queue]
    simp
  have run : exec (.homePerform 0) s = .next (match s.homeQ[0]? with
    | some o => drainLine s (lineOf o.leaf.toNat o.large o.ea)
    | none => s) := rfl
  have first : s.homeQ[0]? = some o := by rw [queue]; rfl
  rw [run, first]
  dsimp only
  unfold drainLine
  dsimp only
  rw [mine, others, List.any_cons, List.any_nil, h.free, Bool.or_false, if_neg Bool.false_ne_true, List.foldl_cons, List.foldl_nil, perform]

/-! ### A write through a cached page (R431, R466) -/

/-- R112: what holds a bank is its open row and the row it is forced to. -/
theorem bankHeld_mapTile {s : State} {i : Nat} {f : Tile → Tile} (banks : (f (s.tile i)).banks = (s.tile i).banks) (key : Nat) :
    bankHeld (s.mapTile i f) key = bankHeld s key := by
  have bank (k b : Nat) : ((s.mapTile i f).tile k).bank b = (s.tile k).bank b := by
    rw [State.tile_mapTile]
    split
    · rename_i here
      rw [← here, Tile.bank, banks]
      rfl
    · rfl
  unfold bankHeld
  dsimp only
  rw [bank]

theorem accessHeld_vault {s : State} {e : Nat} {large : Bool} {ea : Word} {key : Nat} (place : placeOf e large (vaOf ea) = .vault key) :
    accessHeld s e large ea = bankHeld s key := by
  unfold accessHeld
  rw [place]

/-- R431: a translation for a write that the agent's cache of its tile holds. -/
theorem translate_write {s : State} {a : Ag} {va : Nat} {x : TlbEntry} (sequencer : a.eng = none) (user : a.lvl = false)
    (hit : (s.tile a.tile).tlb.find? (tlbHit a.part va) = some x) (leaf : leafCheck x.entry.toNat true false = 0) :
    translate s a va true =
      (s.mapTile a.tile (fun t => { t with tlb := tlbUse Config.tlb1Entries x (s.tile a.tile).tlb }), 0, x.entry.toNat, x.large) := by
  have found : (tlb1 s a).find? (tlbHit a.part va) = some x := by
    rw [tlb1, sequencer]
    exact hit
  unfold translate
  dsimp only
  rw [found]
  dsimp only
  rw [user, leaf, setTlb1, tlb1, sequencer]

/-- R118, R431: a write of one line through a page that the agent's cache holds. -/
theorem writePiece_cached {s : State} {a : Ag} {ea : Word} {bs : List Byte} {x : TlbEntry} (sequencer : a.eng = none) (user : a.lvl = false)
    (hit : (s.tile a.tile).tlb.find? (tlbHit a.part (vaOf ea)) = some x) (quiet : s.homeQ = []) (loose : contained (s.graph a.graph) = false)
    (h : Writable s a.tile x.entry.toNat x.large ea bs.length) :
    (writePiece s a ea bs false).1.core = (Memory.writeBytes s.vault (2 ^ 28 * Pte.tile x.entry.toNat +
      (Pte.off x.entry.toNat + ea.toNat % 2 ^ 56 % (if x.large then 2 ^ 26 else 2 ^ 16))) bs, s.tmem, s.threads, s.homeQ) := by
  have h0 : Writable (s.mapTile a.tile (fun t => { t with tlb := tlbUse Config.tlb1Entries x (s.tile a.tile).tlb })) a.tile x.entry.toNat x.large ea
      bs.length := { h with
    alive := (homeDead_mapTile s _ _ rfl rfl _ _).trans h.alive
    free := (accessHeld_vault h.place).trans ((bankHeld_mapTile rfl _).trans ((accessHeld_vault h.place).symm.trans h.free)) }
  obtain ⟨t, write, core⟩ := homeWrite_clean h0 loose
  have piece : writePiece s a ea bs false = (signalQueue t x.entry.toNat x.large ea, 0) := by
    unfold writePiece
    rw [h.global, if_neg Bool.false_ne_true, translate_write sequencer user hit h.leaf]
    show (if Pte.ts x.entry.toNat && _ then _ else _) = _
    rw [h.plain, Bool.false_and, if_neg Bool.false_ne_true, drainLine_none _ (show (s.mapTile a.tile _).homeQ = [] from quiet), write]
  rw [piece]
  exact (signalQueue_core ..).trans core

/-- R466: a write of the host through a page that the cache of tile 0 holds. -/
theorem hostAccess_write {s : State} {port part : Nat} {va : Word} {bs : List Byte} {x : TlbEntry} (bridge : s.mod.bridge = true)
    (there : port < 128) (up : (s.port port).up = true) (faces : s.mod.hostPorts.getLsbD port = true) (first : s.mod.hostQ = [])
    (global : va.toNat < 2 ^ 60) (exists_ : (s.part part).exists_ = true) (quiet : s.homeQ = [])
    (loose : contained (s.graph (graphKey 16 0)) = false) (hit : (s.tile 0).tlb.find? (tlbHit part (va.toNat % 2 ^ 56)) = some x)
    (h : Writable s 0 x.entry.toNat x.large va bs.length) :
    ∃ t, exec (.hostAccess port none part va (.write bs)) s = .next t ∧
      t.core = (Memory.writeBytes s.vault (2 ^ 28 * Pte.tile x.entry.toNat +
        (Pte.off x.entry.toNat + va.toNat % 2 ^ 56 % (if x.large then 2 ^ 26 else 2 ^ 16))) bs, s.tmem, s.threads, s.homeQ) := by
  have fits : hostFits s none part va (.write bs) = true := hostFits_host exists_ global h.pos h.line (fun _ _ _ e => by cases e)
  have free : hostHeld s none part va (.write bs) = false := by
    have one : (va.toNat % 64 + bs.length + 63) / 64 = 1 := by
      have := h.pos
      have := h.line
      omega
    have cached : (tlb1 s (hostAg part)).any (tlbHit (hostAg part).part (vaOf va)) = true :=
      List.any_eq_true.2 ⟨x, List.mem_of_find?_eq_some hit, List.find?_some hit⟩
    have walks : walkHeld s (hostAg part) (vaOf va) = false := by
      unfold walkHeld
      rw [cached]
      rfl
    unfold hostHeld agentHeld
    rw [List.any_cons, List.any_nil, h.global, if_neg Bool.false_ne_true]
    dsimp only [hostSize]
    rw [one, List.range_one, List.any_cons, List.any_nil, if_pos rfl, walks, translate_write rfl rfl hit h.leaf]
    show (true && (false || accessHeld s _ _ _ || false || false)) = false
    rw [h.free]
    rfl
  exact ⟨_, execHostAccess_served (hostArrives_host bridge there up faces) fits first free, writePiece_cached rfl rfl hit quiet loose h⟩

/-- R393: an evaluation that is due leaves the next 16 cycles later. -/
theorem dispatchEvaluation_next {s : State} {part : Nat} (exists_ : (s.part part).exists_ = true) (due : (s.part part).evalDue = true)
    (now : (s.part part).evalAt ≤ s.cycle.toNat) (settled : (s.part part).incoming = none) :
    ∃ t, exec (.dispatchEvaluation part) s = .next t ∧ (t.part part).evalAt = s.cycle.toNat + 16 := by
  have run : exec (.dispatchEvaluation part) s = .next (if !(s.part part).exists_ || !(s.part part).evalDue ||
      decide (s.cycle.toNat < (s.part part).evalAt) || (s.part part).incoming.isSome then s else
      evaluate (s.mapPart part (fun p => { p with evalDue := false, evalAt := s.cycle.toNat + 16 })) part) := rfl
  rw [run, exists_, due, settled, decide_eq_false (Nat.not_lt.2 now)]
  refine ⟨_, rfl, ((Sound.refl _).evaluate part).evals part |>.trans ?_⟩
  rw [State.part_mapPart, if_pos rfl]

/-! ### A copy between two local lines (R101, R107, R312) -/

/-- n bytes at a local address that an agent may read and write now. -/
structure Reach (s : State) (a : Ag) (ea : Word) (n : Nat) : Prop where
  isLocal : isLocal ea = true
  pos : 0 < n
  line : ea.toNat % 64 + n ≤ 64
  passes : (!a.lvl && inWindow (s.graph a.graph).hwin (ea.toNat % 2 ^ 18) n) = false
  clean : tmemPoison s (tmemKey a.tile (ea.toNat % 2 ^ 18)) n = false

/-- R101: a local site is reached, and no bank of it is held against its agent. -/
theorem reach_of_site {s : State} {a : Ag} {ea : Word} {n : Nat} (h : LocalSite s a.tile a.port a.graph a.lvl ea n) :
    Reach s a ea n ∧ ∀ w, agentHeld s a w [(ea, n)] = false := by
  obtain ⟨grant, space, pos, line, window, clean, saved⟩ := h
  have loc : Machine.isLocal ea = true := by
    have lt := ea.isLt
    rw [Machine.isLocal, spaceOf, fld, beq_iff_eq]
    omega
  refine ⟨⟨loc, pos, line, ?_, clean⟩, fun w => ?_⟩
  · rw [Bool.and_eq_false_iff]
    exact window.imp (fun handler => by rw [handler]; rfl) id
  · unfold agentHeld
    rw [List.any_cons, if_pos loc]
    dsimp only
    rw [grant, saved, Bool.and_false]
    rfl

/-- R107: a read of the reached bytes takes the grant of their banks, and nothing else. -/
theorem readPiece_reach {s : State} {a : Ag} {ea : Word} {n : Nat} (h : Reach s a ea n) : ∃ ts,
    readPiece s a ea n = ({ s with tiles := ts }, 0, Memory.readBytes s.tmem (tmemKey a.tile (ea.toNat % 2 ^ 18)) n) := by
  obtain ⟨ts, granted⟩ := portUse_eq s a.tile a.port (ea.toNat % 2 ^ 18) n
  refine ⟨ts, ?_⟩
  unfold readPiece
  rw [if_pos h.isLocal]
  dsimp only
  rw [h.passes, if_neg Bool.false_ne_true, granted, tmemSense_clean (s := { s with tiles := ts }) (tmemPoison_false h.clean).2,
    show tmemPoison { s with tiles := ts } _ n = false from h.clean]
  rfl

/-- R170: a write of the reached bytes puts them there, and no other byte of any memory changes. -/
theorem writePiece_reach {s : State} {a : Ag} {ea : Word} {bs : List Byte} (h : Reach s a ea bs.length) :
    ∃ t, writePiece s a ea bs false = (t, 0) ∧ LocalWrite s t (tmemKey a.tile (ea.toNat % 2 ^ 18)) bs := by
  obtain ⟨ts, granted⟩ := portUse_eq s a.tile a.port (ea.toNat % 2 ^ 18) bs.length
  have clean : tmemPoison { s with tiles := ts } (tmemKey a.tile (ea.toNat % 2 ^ 18)) bs.length = false := h.clean
  refine ⟨tmemWriteBy { s with tiles := ts } a (tmemKey a.tile (ea.toNat % 2 ^ 18)) bs, ?_, (tmemWriteBy_clean clean).granted⟩
  unfold writePiece
  rw [if_pos h.isLocal]
  dsimp only
  rw [h.passes, if_neg Bool.false_ne_true, granted]
  rfl

/-- R312: a unit of a copy whose bytes are reached on both sides is copied, and the command goes on behind it. -/
theorem copyUnit_reach {s : State} {th k : Nat} {a : Active} {dst src : Word} {n : Nat} (goal : Reach s (agCmd s th a.cmd) dst n)
    (source : Reach s (agCmd s th a.cmd) src n) (free : ∀ w ea, ea = src ∨ ea = dst → agentHeld s (agCmd s th a.cmd) w [(ea, n)] = false)
    (noCleat : copyCleat a.cmd = 0) :
    ∃ t g, copyUnit s th k a dst src n = moved (setActive t th 1 k { a with pos := a.pos + n }) g ∧
      LocalWrite s t (tmemKey (th / 4) (dst.toNat % 2 ^ 18)) (Memory.readBytes s.tmem (tmemKey (th / 4) (src.toNat % 2 ^ 18)) n) := by
  obtain ⟨ts, read⟩ := readPiece_reach source
  have length : (Memory.readBytes s.tmem (tmemKey (th / 4) (src.toNat % 2 ^ 18)) n).length = n := by simp
  have unit : readUnit s (agCmd s th a.cmd) src n =
      ({ s with tiles := ts }, (0, 0), Memory.readBytes s.tmem (tmemKey (th / 4) (src.toNat % 2 ^ 18)) n, false) := by
    unfold readUnit
    rw [linePieces_one source.pos source.line, List.foldl_cons, List.foldl_nil]
    dsimp only
    rw [read]
    rfl
  have goal' : Reach { s with tiles := ts } (agCmd s th a.cmd) dst (Memory.readBytes s.tmem (tmemKey (th / 4) (src.toNat % 2 ^ 18)) n).length := by
    rw [length]
    exact { goal with }
  obtain ⟨t, write, wrote⟩ := writePiece_reach goal'
  refine ⟨t, (agCmd s th a.cmd).graph, ?_, wrote.granted⟩
  unfold copyUnit
  dsimp only
  rw [free false src (.inl rfl), free true dst (.inr rfl), Bool.or_false, if_neg Bool.false_ne_true,
    unit]
  split
  · rename_i e
    simp only [Prod.mk.injEq] at e
    obtain ⟨rfl, ⟨-, rfl⟩, rfl, rfl⟩ := e
    rw [if_neg Bool.false_ne_true, write]
    dsimp only
    rw [noCleat]
    rfl
  · rename_i e
    exact absurd (congrArg (fun x => x.2.1.1) e) (show (0 : Nat) ≠ 5 by decide)
  · rename_i nonzero _ e
    exact (nonzero (congrArg (fun x => x.2.1.1) e).symm).elim

/-- R312: what a step of a copy between two local lines does. -/
theorem copyLine_local {s : State} {th : Nat} {a : Active} {p q r : BitVec 5} {y z : BitVec 3} (here : activeAt s th 1 0 = some a)
    (begun : a.begun = true) (undone : a.done = false) (unheld : a.held = none) (unowed : a.owed = 0) (stands : slotStands s th = false)
    (form : a.cmd.i = .copy p q r false y z) (noCleat : a.cmd.vd = 0) (left : a.pos < a.cmd.vc.toNat)
    (goal : LocalSite s (th / 4) 9 (s.thread th).graph a.cmd.lvl (a.cmd.va + wd a.pos)
      (min (a.cmd.vc.toNat - a.pos) (64 - (a.cmd.va + wd a.pos).toNat % 64)))
    (source : LocalSite s (th / 4) 9 (s.thread th).graph a.cmd.lvl (a.cmd.vb + wd a.pos)
      (min (a.cmd.vc.toNat - a.pos) (64 - (a.cmd.va + wd a.pos).toNat % 64))) :
    ∃ t g, exec (.copyLine th) s = .next (moved (setActive t th 1 0
        { a with pos := a.pos + min (a.cmd.vc.toNat - a.pos) (64 - (a.cmd.va + wd a.pos).toNat % 64) }) g) ∧
      LocalWrite s t (tmemKey (th / 4) ((a.cmd.va + wd a.pos).toNat % 2 ^ 18))
        (Memory.readBytes s.tmem (tmemKey (th / 4) ((a.cmd.vb + wd a.pos).toNat % 2 ^ 18))
          (min (a.cmd.vc.toNat - a.pos) (64 - (a.cmd.va + wd a.pos).toNat % 64))) := by
  have port : (agCmd s th a.cmd).port = 9 := by
    show cmdPort a.cmd.i = 9
    rw [form]
    rfl
  have shape : copyShape a.cmd a.row = (a.cmd.vc.toNat, 1, a.cmd.va, a.cmd.vb) := by
    unfold copyShape
    rw [form]
  have plain : copyToStrand a.cmd = false := by
    unfold copyToStrand
    rw [form]
  have cleat : copyCleat a.cmd = 0 := by
    unfold copyCleat
    rw [form]
    exact noCleat
  obtain ⟨goal, freeTo⟩ := reach_of_site (a := agCmd s th a.cmd) (by rw [port]; exact goal)
  obtain ⟨source, freeSource⟩ := reach_of_site (a := agCmd s th a.cmd) (by rw [port]; exact source)
  obtain ⟨t, g, unit, wrote⟩ := copyUnit_reach (k := 0) goal source (fun w ea e => e.elim (· ▸ freeSource w) (· ▸ freeTo w)) cleat
  refine ⟨t, g, ?_, wrote⟩
  have run : exec (.copyLine th) s = .next (match activeAt s th 1 0 with
    | some a => if a.begun && !a.done && a.held.isNone && !slotStands s th then copyStep s th 0 a else s
    | none => s) := rfl
  rw [run, here]
  dsimp only
  rw [if_pos (by rw [begun, undone, unheld, stands]; rfl)]
  unfold copyStep
  rw [shape]
  dsimp only
  rw [if_neg (Decidable.not_not.2 unowed), if_neg (by omega), plain, ← unit]
  rfl

/-! ### A started ROWCLOSE (R110) -/

/-- R110: the one command of a row engine, a ROWCLOSE that meets no hazard, closes the row of its bank. -/
theorem engineCommandStart_rowclose {s : State} {th : Nat} {a : Active} {p : BitVec 5} {y z : BitVec 3} (run : (s.thread th).run ≠ .free)
    (st : (s.graph (s.thread th).graph).st = .running) (frozen : (s.graph (s.thread th).graph).frozen = false)
    (active : isActive s (s.thread th).graph = true) (waiting : ((s.thread th).queue 2).waiting = []) (only : ((s.thread th).queue 2).active = [a])
    (form : a.cmd.i = .rowclose p false y z) (begun : a.begun = true) (undone : a.done = false) (unheld : a.held = none) (fill : a.fill = [])
    (clear : rowHazard s.cycle.toNat (rowRow a.cmd.va) false (s.tile (th / 4)) ((s.tile (th / 4)).bank (rowBank a.cmd.va)) = .clear) :
    exec (.engineCommandStart th 2) s = .next (finish (closeBank s (th / 4) (rowBank a.cmd.va)) th 2 0 a s.cycle.toNat) := by
  have start : startHead s th 2 = s := by
    unfold startHead
    dsimp only
    rw [waiting]
  have tries : rowTry s th a .close false = finish (closeBank s (th / 4) (rowBank a.cmd.va)) th 2 0 a s.cycle.toNat := by
    have tiles : formTiles s th false = some [th / 4] := rfl
    unfold rowTry
    rw [tiles]
    dsimp only [List.map]
    rw [clear]
    rfl
  have perform : performActive s th 2 0 a = finish (closeBank s (th / 4) (rowBank a.cmd.va)) th 2 0 a s.cycle.toNat := by
    unfold performActive
    rw [if_neg (by rw [begun, undone, unheld]; decide), form]
    dsimp only [rowAct]
    rw [fill]
    exact tries
  have queue : performQueue s th 2 = finish (closeBank s (th / 4) (rowBank a.cmd.va)) th 2 0 a s.cycle.toNat := by
    unfold performQueue
    rw [only]
    show (match ((s.thread th).queue 2).active[0]? with | some a => performActive s th 2 0 a | none => s) = _
    rw [only]
    exact perform
  have go : exec (.engineCommandStart th 2) s = .next (if (s.thread th).run == .free || (s.graph (s.thread th).graph).st != .running ||
      (s.graph (s.thread th).graph).frozen || !isActive s (s.thread th).graph then s
      else performQueue (if (s.thread th).run == .cut then s else startHead s th 2) th 2) := rfl
  rw [go, beq_eq_false_iff_ne.2 run, st, frozen, active, start, ite_self, queue]
  rfl

/-! ### A vector that enters the array (R38, R341) -/

/-- What a record or a trigger leaves of the array: the vectors under way, and the cycle. -/
def State.array (s : State) : List VecFly × BitVec 64 := (s.vecs, s.cycle)

theorem Logged.array {s t : State} (h : Logged s t) : t.array = s.array := by
  obtain ⟨_, _, _, _, _, _, _, rfl⟩ := h
  rfl

theorem cellEvent_array (tile : Nat) (s : State) (cell : Nat) : (cellEvent tile s cell).array = s.array := by
  unfold cellEvent
  split
  · exact (record_logged (tallyDrop s tile 0 cell) _).array
  · rfl

theorem senseTile_array (g : Region) (s : State) (tile : Nat) : (senseTile g s tile).array = s.array := by
  have cells : (if (s.tile tile).cellBits.isEmpty then s else
      (s.tile tile).cellBits.foldl (cellEvent tile) (s.mapTile tile (fun t => { t with cellBits := [] }))).array = s.array := by
    split
    · rfl
    · exact foldl_same State.array (fun s c _ => cellEvent_array tile s c) _
  unfold senseTile
  dsimp only
  split
  · exact cells
  · exact (foldl_same State.array (fun s _ _ => (record_logged s _).array) _).trans cells

theorem tmemSense_array (s : State) (key n : Nat) : (tmemSense s key n).array = s.array := by
  unfold tmemSense
  split
  · rfl
  · exact foldl_same State.array (fun s _ _ => (record_logged s _).array) _

theorem portUse_array (s : State) (tile who off n : Nat) : (portUse s tile who off n).array = s.array := by
  obtain ⟨ts, granted⟩ := portUse_eq s tile who off n
  rw [granted]
  rfl

theorem takeRecords_array (s : State) (g : Region) (l : Latched) (a : Active) : (takeRecords s g l a).1.array = s.array := by
  unfold takeRecords
  dsimp only
  by_cases strand : a.cmd.vb = 0
  · rw [if_pos strand, if_pos strand]
    refine (foldl_same State.array (fun _ _ _ => ?_) _).trans rfl
    rfl
  · rw [if_neg strand, if_neg strand]
    refine (foldl_same State.array (fun _ _ _ => ?_) _).trans ?_
    · rfl
    · exact foldl_same State.array (fun s _ _ => (tmemSense_array ..).trans (portUse_array ..)) _

theorem poisonOnce_array (s : State) (th q k : Nat) (a : Active) (addr : Word) : (poisonOnce s th q k a addr).array = s.array := by
  unfold poisonOnce
  split
  · rfl
  · exact (record_logged s _).array

/-- R341: a vector of a thread whose vectors under way are all of one region leaves the array after the region's latency. -/
theorem writeTime_alone {s : State} {g : Region} {th : Nat} (one : ∀ o ∈ s.vecs, o.th = th → o.x = g.x ∧ o.y = g.y ∧ o.pctx = g.pctx) :
    writeTime s g th = s.cycle.toNat + g.lat := by
  have none_ : s.vecs.filter (fun v => v.th == th && (v.x != g.x || v.y != g.y || v.pctx != g.pctx)) = [] := by
    refine List.filter_eq_nil_iff.2 fun v mem => ?_
    by_cases mine : v.th = th
    · obtain ⟨x, y, ctx⟩ := one v mem mine
      simp [x, y, ctx]
    · simp [mine]
  unfold writeTime
  rw [none_]
  rfl

/-- R38: the vector that enters. -/
theorem enterVector_vector (s : State) (g : Region) (th k : Nat) (a : Active) (l : Latched) : ∃ v : VecFly,
    (enterVector s g th k a l).vecs = s.vecs ++ [v] ∧ v.x = g.x ∧ v.y = g.y ∧ v.pctx = g.pctx ∧ v.th = th ∧
      v.row = a.cmd.va.toNat % 2 ^ 9 + a.pos ∧
      ((∀ o ∈ s.vecs, o.th = th → o.x = g.x ∧ o.y = g.y ∧ o.pctx = g.pctx) → v.due = s.cycle.toNat + g.lat) := by
  have sensed : (g.tiles.foldl (senseTile g) s).array = s.array := foldl_same State.array (fun s ti _ => senseTile_array g s ti) _
  obtain ⟨-, cycle⟩ := Prod.mk.inj sensed
  have once (c : Bool) (x y : Active) {r : State} (h : r.array = s.array) :
      (if c = true then (poisonOnce r th 3 k a a.cmd.vb, x) else (r, y)).1.vecs = s.vecs := by
    split
    · exact (Prod.mk.inj ((poisonOnce_array ..).trans h)).1
    · exact (Prod.mk.inj h).1
  unfold enterVector
  dsimp only
  refine ⟨_, congrArg (· ++ [_]) (once _ _ _ ((takeRecords_array ..).trans sensed)), rfl, rfl, rfl, rfl, ?_, fun one => ?_⟩
  · exact congrArg (· % 2 ^ 9 + a.pos) (Nat.div_one _)
  · refine (writeTime_alone ?_).trans (congrArg (fun c => c.toNat + g.lat) cycle)
    rw [(Prod.mk.inj sensed).1]
    exact one

/-! ### A vector written at its drainer (R99, R108) -/

theorem Assoc.getD_erase {α : Type} (m : Assoc α) (k j : Nat) (d : α) : Assoc.getD (Assoc.erase m k) j d = if k = j then d else Assoc.getD m j d := by
  have found : Assoc.get? (Assoc.erase m k) j = if k = j then none else Assoc.get? m j := by
    induction m with
    | nil => exact (ite_self _).symm
    | cons e m ih =>
      obtain ⟨i, v⟩ := e
      by_cases gone : i = k
      · subst gone
        rw [Assoc.erase, List.filter_cons_of_neg (by simp), ← Assoc.erase, ih]
        split
        · rfl
        · rename_i other
          rw [Assoc.get?, if_neg other]
      · rw [Assoc.erase, List.filter_cons_of_pos (by simpa using gone), ← Assoc.erase, Assoc.get?, ih, Assoc.get?]
        split
        · rename_i here
          rw [if_neg (fun e => gone (here.trans e.symm))]
        · rfl
  unfold Assoc.getD
  rw [found]
  split
  · rfl
  · rfl

theorem slot_setSlot (t : Tile) (r m k j : Nat) (w : Word) : (t.setSlot r m w).slot k j = if 16 * r + m = 16 * k + j then w else t.slot k j := by
  unfold Tile.setSlot Tile.slot
  dsimp only
  split
  · rename_i zero
    rw [Assoc.getD_erase, zero]
  · exact Assoc.getD_set ..

/-- R108: the slots of a row written in order. -/
def Tile.setSlots (t : Tile) (r : Nat) (l : List (Word × Nat)) : Tile := l.foldl (fun t x => t.setSlot r x.2 x.1) t

theorem slot_setSlots_other {t : Tile} {r k j : Nat} {l : List (Word × Nat)} (h : ∀ x ∈ l, 16 * r + x.2 ≠ 16 * k + j) :
    (t.setSlots r l).slot k j = t.slot k j := by
  induction l generalizing t with
  | nil => rfl
  | cons x l ih =>
    obtain ⟨here, rest⟩ := List.forall_mem_cons.mp h
    exact (ih rest).trans ((slot_setSlot ..).trans (if_neg here))

theorem slot_setSlots_zipIdx {t : Tile} {r b m : Nat} {ws : List Word} {w : Word} (h : ws[m]? = some w) :
    (t.setSlots r (ws.zipIdx b)).slot r (b + m) = w := by
  induction ws generalizing t b m with
  | nil => exact absurd h (by simp)
  | cons x ws ih =>
    cases m with
    | zero =>
      obtain rfl : x = w := Option.some.inj h
      rw [List.zipIdx_cons]
      refine (slot_setSlots_other (t := t.setSlot r b x) fun y mem => ?_).trans ((slot_setSlot ..).trans (if_pos rfl))
      have := List.le_snd_of_mem_zipIdx mem
      omega
    | succ m =>
      rw [show b + (m + 1) = b + 1 + m by omega]
      exact ih h

/-- R108: where the run is not an accumulating one and no column is lost, the columns are written as they are. -/
theorem writeColumns_plain {s : State} {v : VecFly} {d : Nat} {ws : List Word} (cols : v.cols = [(d, ws)]) (plain : v.acc = false)
    (whole : v.lost = []) : writeColumns s v = s.mapTile d (fun t => t.setSlots v.row ws.zipIdx) := by
  unfold writeColumns
  rw [cols, plain, whole]
  simp only [List.contains_eq_mem, List.not_mem_nil, decide_false, Bool.false_eq_true, if_false, Bool.false_and, Bool.or_self, List.any_cons,
    List.any_nil, Bool.or_false, List.any_eq_true, List.mem_range, and_false, exists_const, List.foldl_cons, List.foldl_nil]
  rfl

/-- R99, R318: a vector of a run without a cleat is done with its thread alone. -/
theorem vectorDone_array {s : State} {v : VecFly} (free : v.cleat = 0) : (vectorDone s v).tiles = s.tiles ∧ (vectorDone s v).vecs = s.vecs := by
  unfold vectorDone
  split
  · exact ⟨rfl, rfl⟩
  · split
    · exact ⟨rfl, rfl⟩
    · unfold complete
      rw [if_pos (.inl free)]
      exact ⟨rfl, rfl⟩

/-! ### A drain to a strand (R340, R341) -/

theorem setSlots_eps {row : Nat} (col : Nat → Nat) (l : List Nat) (t : Tile) : (l.foldl (fun t i => t.setSlot row (col i) 0) t).eps = t.eps := by
  induction l generalizing t with
  | nil => rfl
  | cons i l ih => exact ih _

/-- A tile changed in no endpoint, and a command of a thread's queue. -/
theorem ep_setActive_mapTile {s : State} {i e : Nat} {f : Tile → Tile} (h : (f (s.tile i)).eps = (s.tile i).eps) (th q k : Nat) (a : Active) :
    ((setActive (s.mapTile i f) th q k a).tile i).ep e = (s.tile i).ep e :=
  ep_congr ((congrArg Tile.eps (State.tile_mapTile_same s i f)).trans h)

/-- R341: rows that a drain has accepted clear slots and count events; the endpoints of the tile stay. -/
theorem drainAccepted_ep {s : State} {th k : Nat} {a : Active} (row col w m : Nat) (es : List (Nat × DrainEvent × Bool)) (free : a.cmd.vc = 0)
    (nan : a.cmd.nan = false) (e : Nat) : ((drainAccepted s th k a row col w m es).tile (tileOf th)).ep e = (s.tile (tileOf th)).ep e := by
  unfold drainAccepted complete
  dsimp only
  rw [nan, if_neg (by simp), if_pos (.inl free), moved_tile]
  refine ep_setActive_mapTile ?_ _ _ _ _
  show Tile.eps (if _ then _ else _) = _
  split
  · exact setSlots_eps (fun i => col + i) _ _
  · rfl

theorem notePeer_tile (s : State) (th e i : Nat) : (notePeer s th e).tile i = s.tile i := by
  unfold notePeer
  split <;> rfl

/-- R341: the elements of a row of no poisoned slot that a drain which stops at no NaN hands over. -/
theorem drainElems_clean {t : Tile} {a : Active} {row col n : Nat} (poison : t.accPoison = []) (nan : a.cmd.nan = false) :
    drainElems t a row col n = (List.range n).map fun i =>
      ((drainSlot (fld a.cmd.va.toNat 20 18) (intFormat (a.mode % 16)) (Acc.ofWord (t.slot row (col + i))) (drainScale a) a.cmd.fz).1,
       (drainSlot (fld a.cmd.va.toNat 20 18) (intFormat (a.mode % 16)) (Acc.ofWord (t.slot row (col + i))) (drainScale a) a.cmd.fz).2, false) := by
  unfold drainElems
  rw [nan, poison]
  rfl

theorem accSense_none {s : State} {g tile row : Nat} {cols : List Nat} (none_ : (s.tile tile).accBad = []) : accSense s g tile row cols = s := by
  unfold accSense
  rw [none_]
  rfl

/-- R341: the bytes of n elements of a row from column `col` on, in a drain's format. -/
def drainBytes (t : Tile) (a : Active) (row col n : Nat) : List Byte :=
  (List.range n).flatMap fun i => leBytes (drainWidth a.cmd.va)
    (drainSlot (fld a.cmd.va.toNat 20 18) (intFormat (a.mode % 16)) (Acc.ofWord (t.slot row (col + i))) (drainScale a) a.cmd.fz).1

/-- R341: the next beat of a drain, at an empty drain endpoint. -/
theorem drainBeat_endpoint {s : State} {th k e m : Nat} {a : Active} (row : Nat) (free : a.cmd.vc = 0) (nan : a.cmd.nan = false)
    (bad : (s.tile (tileOf th)).accBad = []) (poison : (s.tile (tileOf th)).accPoison = [])
    (stream : drainStream (s.tile (tileOf th)) (s.thread th).pctx.toNat = none)
    (endpoint : drainEndpoint ((s.tile (tileOf th)).ctx (s.thread th).pctx.toNat) = some e) (empty : ((s.tile (tileOf th)).ep e).q = []) :
    ∃ b : Beat, (((drainBeat s th k a row m (drainWidth a.cmd.va)).tile (tileOf th)).ep e).q = [b] ∧ b.kind = 0 ∧
      b.data = .ofNat 256 (leNat (drainBytes (s.tile (tileOf th)) a row a.pos (min (m - a.pos) (32 / drainWidth a.cmd.va)))) := by
  unfold drainBeat
  dsimp only
  rw [accSense_none bad, drainElems_clean poison nan]
  rw [stream, endpoint]
  have clean (l : List Nat) (f : Nat → Nat) (g : Nat → DrainEvent) : (l.map fun i => (f i, g i, false)).any (fun e => e.2.2) = false := by
    simp [List.any_map]
  unfold slotPoison
  dsimp only
  rw [clean, if_neg Bool.false_ne_true, empty, if_neg (by simp)]
  dsimp only
  rw [if_neg Bool.false_ne_true, drainAccepted_ep _ _ _ _ _ free nan, notePeer_tile, ep_mapTile_mapEp, empty]
  refine ⟨_, rfl, rfl, ?_⟩
  dsimp only
  rw [List.flatMap_map]
  rfl

/-- R341: a drain starts to count the rows of a run again. -/
theorem drainStep_beat {s : State} {th k e : Nat} {a : Active} (owed : a.owed = 0) (more : a.row ≠ runCount a.cmd.va)
    (strand : drainToStrand a.cmd.va = true) (some_ : drainCols s (tileOf th) (s.thread th).pctx.toNat ≠ 0) (free : a.cmd.vc = 0) (nan : a.cmd.nan = false)
    (bad : (s.tile (tileOf th)).accBad = []) (poison : (s.tile (tileOf th)).accPoison = [])
    (stream : drainStream (s.tile (tileOf th)) (s.thread th).pctx.toNat = none)
    (endpoint : drainEndpoint ((s.tile (tileOf th)).ctx (s.thread th).pctx.toNat) = some e) (empty : ((s.tile (tileOf th)).ep e).q = []) :
    ∃ b : Beat, (((drainStep s th k a).tile (tileOf th)).ep e).q = [b] ∧ b.kind = 0 ∧
      b.data = .ofNat 256 (leNat (drainBytes (s.tile (tileOf th)) a (fld a.cmd.va.toNat 8 0 + a.row) a.pos
        (min (drainCols s (tileOf th) (s.thread th).pctx.toNat - a.pos) (32 / drainWidth a.cmd.va)))) := by
  unfold drainStep
  dsimp only
  rw [if_neg (by simp [owed]), if_neg more]
  split
  · have one := State.tile_mapTile_same s (tileOf th) fun t => t.mapCtx (s.thread th).pctx.toNat fun c => { c with drained := 0 }
    have two := ctx_mapCtx_same (s.tile (tileOf th)) (s.thread th).pctx.toNat fun c => { c with drained := 0 }
    generalize s0 : (s.mapTile (tileOf th) fun t => t.mapCtx (s.thread th).pctx.toNat fun c => { c with drained := 0 }) = u at *
    have same : u.thread th = s.thread th := by rw [← s0]; rfl
    have cols : drainCols u (tileOf th) (s.thread th).pctx.toNat = drainCols s (tileOf th) (s.thread th).pctx.toNat := by rw [← s0]; rfl
    rw [same, cols, if_neg some_]
    have beat := drainBeat_endpoint (s := u) (th := th) (k := k) (e := e) (m := drainCols s (tileOf th) (s.thread th).pctx.toNat)
      (fld a.cmd.va.toNat 8 0 + a.row) free nan (one ▸ bad) (one ▸ poison)
      (by rw [one, same]; unfold drainStream at stream ⊢; rw [two]; exact stream)
      (by rw [one, same, two]; exact endpoint) (one ▸ empty)
    rw [one] at beat
    exact beat
  · exact drainBeat_endpoint _ free nan bad poison stream endpoint empty

/-! ### A commit that has room (R44) -/

/-- R44, R299: a commit with no store checks nothing again. -/
theorem commitBlock_stores_nil {s t : State} {i : Nat} (none_ : (s.thread i).bight.stores = []) (ok : commitBlock s i = (t, none)) : t = s := by
  have again : recheck s i [] = (s, none, 0) := rfl
  unfold commitBlock at ok
  dsimp only at ok
  rw [none_, again] at ok
  split at ok
  · cases ok
  · split at ok
    · cases ok
    · rw [if_neg (by simp), if_neg (by simp)] at ok
      dsimp only at ok
      rw [if_neg (by simp)] at ok
      exact (congrArg Prod.fst ok).symm

theorem epochMetBy_plain {s : State} {i : Nat} {els : List (Word × Nat)} (plain : contained (s.graph (s.thread i).graph) = false) :
    epochMetBy s i els = none := by
  unfold epochMetBy
  dsimp only
  rw [plain]
  split <;> rfl

/-- R44: a bight of one push is released. -/
theorem release_push {s : State} {i : Nat} {p : Push} (npc : PC) (stores : (s.thread i).bight.stores = []) (pops : (s.thread i).bight.pops = [])
    (push : (s.thread i).bight.pushes = [p]) :
    ((release s i none npc).thread i).bight.pushes = [] ∧
      (((release s i none npc).tile (tileOf i)).ep p.ep).q = ((s.tile (tileOf i)).ep p.ep).q ++ [p.beat] := by
  unfold release
  dsimp only
  rw [stores, pops, push]
  constructor
  · exact congrArg (fun t : Thread => t.bight.pushes) (State.thread_mapThread_same _ _ _)
  · exact congrArg Endpoint.q (ep_mapTile_mapEp s (tileOf i) p.ep fun x => { x with q := x.q ++ [p.beat] })

/-! ### The expiry of a wave's limit (R55) -/

/-- R52: a slot that checkpoints advances its wave number, and stops where its graph is cut. -/
theorem checkpoint_thread (s : State) (i : Nat) (n : BitVec 16) (pc : PC) : ∃ run, (checkpoint s i n pc).thread i = { s.thread i with wave := n, run := run } := by
  unfold checkpoint
  obtain ⟨threads, -, -⟩ := markersOut_waveKept ((s.mapGraph (s.thread i).graph (fun g => { g with
    pending := g.pending.map (fun p =>
    { p with ckpts := Assoc.set p.ckpts i (Ckpt.take (s.thread i) pc n),
             regions := p.regions ++ ledBy s i,
             planes := (planeTiles s i).foldl (fun m ti => Assoc.set m (4 * ti + slotOf i) ((s.tile ti).plane (slotOf i))) p.planes }) })).mapThread i
      (fun t => { t with wave := n, run := if ((s.graph (s.thread i).graph).cutting && t.run == .running) = true then .cut else t.run })) i n
  exact ⟨_, (congrFun threads i).trans (State.thread_mapThread_same _ _ _)⟩

/-- R50, R55: a thread at U that has not checkpointed when the limit expires, its re-entry counter below its limit. -/
theorem expireAtU_inside {s : State} {cause : Nat} {n : BitVec 16} {i : Nat} (inside : (s.thread i).outside = false)
    (below : (s.thread i).rcnt.toNat + 1 < (s.thread i).rlim.toNat) :
    expireAtU cause n s i = checkpoint (s.setThread i { (s.thread i).dropBight with rcnt := (s.thread i).rcnt + 1 }) i n (s.thread i).bight.start := by
  have small := (s.thread i).rlim.isLt
  have count : BitVec.ofNat 8 (min ((s.thread i).rcnt.toNat + 1) 255) = (s.thread i).rcnt + 1 := by
    rw [Nat.min_eq_left (by omega)]
    apply BitVec.eq_of_toNat_eq
    simp [BitVec.toNat_add]
  unfold expireAtU
  dsimp only
  rw [inside, if_neg Bool.false_ne_true]
  show (if (s.thread i).rcnt.toNat + 1 < (s.thread i).rlim.toNat then _ else _) = _
  rw [if_pos below, ← count]
  rfl

/-- R55: the expiry discards the bight of a thread that has not checkpointed. -/
theorem expire_inside {s : State} {n : BitVec 16} {i : Nat} (running : (s.thread i).run = .running) (wave : (s.thread i).wave ≠ n)
    (holds : startedHolds (s.thread i) = false) (gbar : (s.thread i).gbar = none) (home : s.homeQ = []) (user : (s.thread i).lvl = false)
    (inside : (s.thread i).outside = false) (below : (s.thread i).rcnt.toNat + 1 < (s.thread i).rlim.toNat) :
    expire n s i = checkpoint (s.setThread i { (s.thread i).dropBight with rcnt := (s.thread i).rcnt + 1 }) i n (s.thread i).bight.start := by
  unfold expire
  dsimp only
  rw [running, holds, withdraw_none gbar, performed_none (by rw [home]; rfl), if_neg (by simp [wave])]
  dsimp only
  rw [arrivalHeld, gbar, user]
  exact expireAtU_inside inside below

theorem execLatencyLimitExpiry_single {s : State} {g d th : Nat} {n : BitVec 16} (wave : (s.graph g).openWave = some n) (deadline : (s.graph g).deadline = some d)
    (frozen : (s.graph g).frozen = false) (past : d ≤ s.mod.ref) (one : graphThreads s g = [th]) :
    exec (.latencyLimitExpiry g) s = .next (expire n s th) := by
  show Host.Outcome.next (match (s.graph g).openWave, (s.graph g).deadline with | some n, some d => _ | _, _ => s) = _
  rw [wave, deadline]
  dsimp only
  rw [frozen, one, if_neg (by simp [past])]
  rfl

/-! ### What an action leaves, as the statement says it -/

theorem activeAt_setActive {s : State} {th q : Nat} {a b : Active} (here : activeAt s th q 0 = some a) : activeAt (setActive s th q 0 b) th q 0 = some b := by
  unfold activeAt setActive at *
  rw [State.thread_mapThread_same, queue_mapQueue_same]
  exact List.getElem?_set_self (List.getElem?_eq_some_iff.1 here).1

/-- R312: what stands in tile memory after a copy of n bytes. -/
theorem LocalWrite.copied {s t : State} {key src n : Nat} (h : LocalWrite s t key (Memory.readBytes s.tmem src n)) :
    t.threads = s.threads ∧ (∀ k, k < n → Memory.read t.tmem (key + k) = Memory.read s.tmem (src + k)) ∧
      ∀ k, k < key ∨ key + n ≤ k → Memory.read t.tmem k = Memory.read s.tmem k := by
  obtain ⟨ts, gs, ps, bs, rfl, -⟩ := h
  refine ⟨rfl, fun k small => ?_, fun k out => Memory.read_writeBytes_other _ _ _ _ (by rwa [Memory.readBytes_length])⟩
  refine (Memory.read_writeBytes _ _ _ _).trans ?_
  rw [Memory.readBytes_length, if_pos (by omega), Nat.add_sub_cancel_left, List.getD_eq_getElem?_getD, Memory.readBytes_getElem? _ _ _ _ small]
  rfl

/-- R110: a row closed by a command that retires. -/
theorem bank_finish_closeBank (s : State) (tile b th q k due : Nat) (a : Active) :
    (((finish (closeBank s tile b) th q k a due).tile tile).bank b).row = none ∧
      (((finish (closeBank s tile b) th q k a due).tile tile).bank b).closed = some s.cycle.toNat := by
  have closed : ((finish (closeBank s tile b) th q k a due).tile tile).bank b = { (s.tile tile).bank b with row := none, closed := some s.cycle.toNat } := by
    refine (congrArg (Tile.bank · b) (State.tile_mapTile_same s tile fun t => t.mapBank b fun x =>
      { x with row := none, closed := some s.cycle.toNat })).trans ?_
    exact bank_mapBank_same _ _ _
  rw [closed]
  exact ⟨rfl, rfl⟩

/-- R38: the only vector of the array, written at its one drainer and gone. -/
theorem vectorWritten {s : State} {v : VecFly} {d : Nat} {ws : List Word} (g : Nat) (cols : v.cols = [(d, ws)]) (plain : v.acc = false)
    (whole : v.lost = []) (free : v.cleat = 0) (few : ws.length ≤ 16) :
    let t := moved (vectorDone (writeColumns { s with vecs := [] } v) v) g
    t.vecs = [] ∧ (∀ m w, ws[m]? = some w → (t.tile d).slot v.row m = w) ∧
      ∀ k m, k ≠ v.row → m < 16 → (t.tile d).slot k m = (s.tile d).slot k m := by
  obtain ⟨tiles, vecs⟩ := vectorDone_array (s := writeColumns { s with vecs := [] } v) free
  have tile : (moved (vectorDone (writeColumns { s with vecs := [] } v) v) g).tile d = (s.tile d).setSlots v.row ws.zipIdx := by
    refine (congrArg (Assoc.getD · d Tile.reset) tiles).trans ?_
    rw [writeColumns_plain cols plain whole]
    exact State.tile_mapTile_same _ _ _
  intro t
  refine ⟨vecs.trans (by rw [writeColumns_plain cols plain whole]; rfl), fun m w at_ => ?_, fun k m other small => ?_⟩
  · refine (congrArg (fun t : Tile => t.slot v.row m) tile).trans ?_
    have written := slot_setSlots_zipIdx (t := s.tile d) (r := v.row) (b := 0) at_
    rwa [Nat.zero_add] at written
  · refine (congrArg (fun t : Tile => t.slot k m) tile).trans (slot_setSlots_other fun x mem => ?_)
    have bound := List.snd_lt_of_mem_zipIdx mem
    omega

end Sys2Proof.Machine

open Sys2Proof Sys2Proof.Machine Sys2Proof.Safety Sys2Proof.Claims

/-- Settles O60, action by action. -/
theorem deviceEffects : Obligations.DeviceEffects := by
  intro s th a tile t0 loc under
  refine ⟨fun o bs pz queue act device settled loose site => ?_,
    fun port part va bs x bridge there up faces first global exists_ quiet loose hit site => ?_,
    fun p q r x y here begun undone unheld unowed stands form noCleat left goal source => ?_,
    fun p y z under_ waiting only form begun undone unheld fill clear => ?_,
    fun n rect r r0 j l found first cand latch => ?_,
    fun n rect v r d ws found only cols free x y due mem on ctx runs plain whole noCleat few => ?_,
    fun x y z p q e only form begun undone unheld owed stopped strand noCleat nan more some_ stream endpoint empty bad poison => ?_,
    fun s1 p running waits fires plain stores pops push commits => ?_,
    fun g n d wave deadline frozen past one graph running behind holds gbar home user inside below => ?_,
    fun part exists_ due now settled => dispatchEvaluation_next exists_ due now settled⟩
  · obtain ⟨t, step, core⟩ := homePerform_store queue act device settled loose (GlobalSite.writable site)
    obtain ⟨vault, tmem, threads, waiting⟩ : t.vault = _ ∧ t.tmem = _ ∧ t.threads = _ ∧ t.homeQ = _ := by
      simpa only [State.core, Prod.mk.injEq] using core
    exact ⟨t, step, waiting, vault, tmem, threads⟩
  · obtain ⟨t, step, core⟩ := hostAccess_write bridge there up faces first global exists_ quiet loose hit (GlobalSite.writable site)
    obtain ⟨vault, tmem, threads, -⟩ : t.vault = _ ∧ t.tmem = _ ∧ t.threads = _ ∧ t.homeQ = _ := by
      simpa only [State.core, Prod.mk.injEq] using core
    exact ⟨t, step, vault, tmem, threads⟩
  · obtain ⟨t, g, step, write⟩ := copyLine_local here begun undone unheld unowed stands form noCleat left goal source
    obtain ⟨threads, copied, kept⟩ := write.copied
    have still : activeAt t th 1 0 = some a := by
      rw [← here]
      unfold activeAt State.thread
      rw [threads]
    exact ⟨_, step, copied, kept, congrArg (Option.map fun b => b.pos) (activeAt_setActive still)⟩
  · obtain ⟨run, st, frozen, active⟩ := under_
    rw [← rowRow_eq] at clear
    exact ⟨_, engineCommandStart_rowclose run st frozen active waiting only form begun undone unheld fill clear, bank_finish_closeBank ..⟩
  · obtain ⟨v, entered⟩ := enterVector_vector s r th j a l
    refine ⟨_, v, ?_, entered⟩
    show Host.Outcome.next (match s.rects[n]? with | none => s | some q => _) = _
    rw [found]
    dsimp only
    rw [first]
    dsimp only
    rw [findSome?_congr (l := counterOrder s rect (graphPart r0.graph)) (fun k => ?_) cand]
    · dsimp only
      rw [latch]
    · cases (s.regions.filter (fun r => r.onRect rect)).find? (fun r => r.pctx == k) with
      | none => rfl
      | some r => rfl
  · refine ⟨_, ?_, vectorWritten (s.thread v.th).graph cols plain whole noCleat few⟩
    show Host.Outcome.next (match s.rects[n]? with | none => s | some q => writeVectors q s.vecs.length s) = _
    rw [found]
    refine congrArg _ (writeVectors_single only (vectorReady_due only (fun c mem => ?_) x y due mem on ctx runs))
    rw [cols, List.mem_singleton] at mem
    rw [mem]
    exact free
  · obtain ⟨b, queue, kind, data⟩ := drainStep_beat (k := 0) owed more (bit_eq _ _ strand) some_ noCleat nan bad poison stream endpoint empty
    refine ⟨_, b, execDrainDeliver_single only form begun undone unheld stopped, queue, kind, ?_⟩
    rw [data, BitVec.toNat_ofNat, littleEndian_eq, show fld a.cmd.va.toNat 8 0 = _ from congrArg (· % 2 ^ 9) (Nat.div_one _)]
    rfl
  · obtain rfl := commitBlock_stores_nil stores commits
    exact ⟨_, execCommit_free running waits fires plain (epochMetBy_plain plain) commits, release_push _ stores pops push⟩
  · obtain ⟨run, thread⟩ := checkpoint_thread (s.setThread th { t0.dropBight with rcnt := t0.rcnt + 1 }) th n t0.bight.start
    refine ⟨_, (execLatencyLimitExpiry_single wave deadline frozen past one).trans
      (congrArg _ (expire_inside running behind holds gbar home user inside below)), ?_⟩
    rw [thread, State.thread_setThread_same]
    exact ⟨rfl, rfl, rfl, rfl, rfl, rfl⟩
end
